-- ==== Sys2Proof/Word.lean ====
section
/-! DEFINITION. The word types of the device: what the manual treats as bits (R4, R20, R64). -/

namespace Sys2Proof

/-- A 64-bit word: a register of the control address space (R20), a scalar register (R64). -/
abbrev Word := BitVec 64

/-- One byte of a memory. -/
abbrev Byte := BitVec 8

/-- A 32-bit word: a completion counter (R64), an FP32 value (R106). -/
abbrev W32 := BitVec 32

end Sys2Proof
end

