-- ==== Sys2Proof/Machine/Bits.lean ====
section
/-! DEFINITION. Bit fields, byte order and tables: the plain helpers every block of the device uses (R4: multi-byte
fields are little-endian; R9: reserved bits read as 0). -/

namespace Sys2Proof.Machine

/-- Field [hi:lo] of a number, as a number. -/
def field (w hi lo : Nat) : Nat := (w >>> lo) % 2 ^ (hi + 1 - lo)

/-- Field [hi:lo] of a 64-bit word, as a number (R4). -/
def wfield (w : Word) (hi lo : Nat) : Nat := field w.toNat hi lo

/-- Bit `i` of a 64-bit word. -/
def wbit (w : Word) (i : Nat) : Bool := w.getLsbD i

/-- A word with `v`, cut to the field's width, placed at [hi:lo] and zeros elsewhere. -/
def place (v hi lo : Nat) : Nat := (v % 2 ^ (hi + 1 - lo)) <<< lo

/-- A flag as a number. -/
def b2n (b : Bool) : Nat := if b then 1 else 0

/-- A word from the sum of its disjoint fields. -/
def word (n : Nat) : Word := BitVec.ofNat 64 n

/-- A 32-bit immediate sign-extended to 64 bits (R76). -/
def sext32 (v : W32) : Word := v.signExtend 64

/-- The little-endian number that a list of bytes stands for (R4). -/
def leNat : List Byte → Nat
  | [] => 0
  | b :: bs => b.toNat + 256 * leNat bs

/-- `n` little-endian bytes of a number (R4). -/
def leBytes : Nat → Nat → List Byte
  | 0, _ => []
  | n + 1, v => BitVec.ofNat 8 v :: leBytes n (v / 256)

/-- Little-endian field of a byte string. -/
def fieldAt (bs : List Byte) (off n : Nat) : Nat := leNat ((bs.drop off).take n)

/-- Round `a` up to a multiple of `k`. -/
def roundUp (a k : Nat) : Nat := (a + k - 1) / k * k

/-- Ceiling division. -/
def ceilDiv (a k : Nat) : Nat := (a + k - 1) / k

/-- Add with saturation at `top`. -/
def satAdd (a b top : Nat) : Nat := min (a + b) top

/-- Insert into a list of numbers without repeating an entry. -/
def addOnce {α : Type} [DecidableEq α] (a : α) (l : List α) : List α := if a ∈ l then l else l ++ [a]

/-! ### Tables: sparse data by key, in one canonical form -/

end Sys2Proof.Machine

namespace Sys2Proof

/-- A sparse table: keys strictly rising, and in a table with a default no entry equal to that default. -/
abbrev Tbl (α : Type) := List (Nat × α)

end Sys2Proof

namespace Sys2Proof.Machine

/-- The entry listed at a key. -/
def tfind {α : Type} : Tbl α → Nat → Option α
  | [], _ => none
  | (k, v) :: t, i => if k = i then some v else tfind t i

/-- What a table with default `d` reads at a key. -/
def tget {α : Type} (d : α) (t : Tbl α) (i : Nat) : α := (tfind t i).getD d

/-- The table without its entry at a key. -/
def terase {α : Type} : Tbl α → Nat → Tbl α
  | [], _ => []
  | (k, v) :: t, i => if k = i then terase t i else (k, v) :: terase t i

/-- The table with an entry put at a key, keys kept rising. -/
def tput {α : Type} : Tbl α → Nat → α → Tbl α
  | [], i, a => [(i, a)]
  | (k, v) :: t, i, a => if k < i then (k, v) :: tput t i a else if k = i then (i, a) :: t else (i, a) :: (k, v) :: t

/-- Write a value into a table with default `d`: writing the default removes the entry. -/
def tset {α : Type} [DecidableEq α] (d : α) (t : Tbl α) (i : Nat) (a : α) : Tbl α :=
  if a = d then terase t i else tput t i a

/-- The keys of a table rise strictly. -/
def tsorted {α : Type} : Tbl α → Bool
  | [] => true
  | [_] => true
  | (k, _) :: (j, w) :: t => decide (k < j) && tsorted ((j, w) :: t)

/-- The canonical form of a table with default `d`. -/
def twf {α : Type} [DecidableEq α] (d : α) (t : Tbl α) : Bool := tsorted t && t.all (fun e => decide (e.2 ≠ d))

/-- Write a run of values from a key upward. -/
def tsetMany {α : Type} [DecidableEq α] (d : α) (t : Tbl α) (i : Nat) : List α → Tbl α
  | [] => t
  | a :: as => tsetMany d (tset d t i a) (i + 1) as

/-- Read `n` values from a key upward. -/
def tgetMany {α : Type} (d : α) (t : Tbl α) (i : Nat) : Nat → List α
  | 0 => []
  | n + 1 => tget d t i :: tgetMany d t (i + 1) n

/-- Drop every entry whose key lies in `[lo, hi)`. -/
def tclear {α : Type} (t : Tbl α) (lo hi : Nat) : Tbl α := t.filter (fun e => decide (e.1 < lo ∨ hi ≤ e.1))

end Sys2Proof.Machine
end

