-- ==== Sys2Proof/Machine/Num.lean ====
section
/-! DEFINITION. Number formats, conversion, stochastic rounding and FP32 arithmetic (R105 to R116, R122, R124). Every
operation computes on exact values and rounds once. -/

namespace Sys2Proof

/-- The formats of table NF-1 (R105). -/
inductive Fmt where
  | fp32 | bf16 | int8 | e4m3 | e5m2 | e3m2 | e2m3 | e2m1 | bit
  deriving DecidableEq, Repr

end Sys2Proof

namespace Sys2Proof.Machine

/-- Code of a format, table NF-1. -/
def fmtCode : Fmt → Nat
  | .fp32 => 0 | .bf16 => 1 | .int8 => 2 | .e4m3 => 3 | .e5m2 => 4 | .e3m2 => 5 | .e2m3 => 6 | .e2m1 => 7 | .bit => 8

/-- Format of a code; codes 0x9 to 0xF are unknown (R105). -/
def fmtOf : Nat → Option Fmt
  | 0 => some .fp32 | 1 => some .bf16 | 2 => some .int8 | 3 => some .e4m3 | 4 => some .e5m2 | 5 => some .e3m2
  | 6 => some .e2m3 | 7 => some .e2m1 | 8 => some .bit | _ => none

/-- Bits of one element, table NF-1. -/
def fmtBits : Fmt → Nat
  | .fp32 => 32 | .bf16 => 16 | .int8 => 8 | .e4m3 => 8 | .e5m2 => 8 | .e3m2 => 6 | .e2m3 => 6 | .e2m1 => 4 | .bit => 1

/-- Mantissa width of a floating-point format, table NF-2. -/
def fmtMant : Fmt → Nat
  | .fp32 => 23 | .bf16 => 7 | .int8 => 0 | .e4m3 => 3 | .e5m2 => 2 | .e3m2 => 2 | .e2m3 => 3 | .e2m1 => 1 | .bit => 0

/-- Exponent bias, table NF-1. -/
def fmtBias : Fmt → Int
  | .fp32 => 127 | .bf16 => 127 | .int8 => 0 | .e4m3 => 7 | .e5m2 => 15 | .e3m2 => 3 | .e2m3 => 1 | .e2m1 => 1 | .bit => 0

/-- *P* of table NF-1, used by the scaling rules; 0 where the table has none. -/
def fmtP : Fmt → Int
  | .int8 => 6 | .e4m3 => 8 | .e5m2 => 15 | .e3m2 => 4 | .e2m3 => 2 | .e2m1 => 2 | _ => 0

/-- The encoding of the largest finite magnitude, sign clear (table NF-1). -/
def fmtMaxEnc : Fmt → Nat
  | .fp32 => 0x7F7FFFFF | .bf16 => 0x7F7F | .int8 => 127 | .e4m3 => 0x7E | .e5m2 => 0x7B | .e3m2 => 0x1F | .e2m3 => 0x1F
  | .e2m1 => 0x7 | .bit => 1

/-- The weight of the least significant mantissa bit of a subnormal: 1 − bias − m (R106). -/
def fmtQ (f : Fmt) : Int := 1 - fmtBias f - (fmtMant f : Int)

/-- An exact value: NaN, an infinity, or (−1)^neg · m · 2^e. A zero keeps its sign. -/
inductive Fval where
  | nan
  | inf (neg : Bool)
  | fin (neg : Bool) (m : Nat) (e : Int)
  deriving DecidableEq, Repr

/-- Decode a floating-point encoding with the fields of table NF-2 (R106). -/
def decodeFp (f : Fmt) (raw : Nat) : Fval :=
  let mw := fmtMant f
  let tot := fmtBits f
  let neg := (raw >>> (tot - 1)) % 2 = 1
  let mag := raw % 2 ^ (tot - 1)
  let ex := mag >>> mw
  let mt := mag % 2 ^ mw
  let special : Option Fval :=
    match f with
    | .fp32 => if ex = 255 then some (if mt = 0 then .inf neg else .nan) else none
    | .bf16 => if ex = 255 then some (if mt = 0 then .inf neg else .nan) else none
    | .e4m3 => if mag = 0x7F then some .nan else none
    | .e5m2 => if ex = 31 then some (if mt = 0 then .inf neg else .nan) else none
    | _ => none
  match special with
  | some v => v
  | none => if ex = 0 then .fin neg mt (fmtQ f) else .fin neg (2 ^ mw + mt) (fmtQ f + ((ex : Int) - 1))

/-- The value that a stored element stands for, before any scale (R106, R112). -/
def decodeElem (f : Fmt) (raw : Nat) : Fval :=
  match f with
  | .int8 => if raw % 256 < 128 then .fin false (raw % 256) 0 else .fin true (256 - raw % 256) 0
  | .bit => .fin false (raw % 2) 0
  | _ => decodeFp f (raw % 2 ^ fmtBits f)

/-- The weight of the last mantissa bit that a magnitude m·2^e keeps in a format of `p` mantissa bits (implicit bit
included) whose subnormal weight is `q0`. -/
def quantum (p : Nat) (q0 : Int) (m : Nat) (e : Int) : Int := max (e + (Nat.log2 m : Int) + 1 - (p : Int)) q0

/-- m·2^e as a multiple of 2^q, rounded to nearest, ties to even (R111). -/
def rneAt (m : Nat) (e q : Int) : Nat :=
  if q ≤ e then m <<< (e - q).toNat
  else
    let sh := (q - e).toNat
    let lo := m >>> sh
    let rem := m % 2 ^ sh
    let half := 2 ^ (sh - 1)
    if rem > half ∨ (rem = half ∧ lo % 2 = 1) then lo + 1 else lo

/-- m·2^e as a multiple of 2^q, stochastically rounded with the 24 random bits `r` (R114). -/
def srAt (r : Nat) (m : Nat) (e q : Int) : Nat :=
  if q ≤ e then m <<< (e - q).toNat
  else
    let sh := (q - e).toNat
    let lo := m >>> sh
    let rem := m % 2 ^ sh
    let d := 2 ^ 24 * rem / 2 ^ sh
    if d + r ≥ 2 ^ 24 then lo + 1 else lo

/-- The sign-less encoding of a rounded magnitude k·2^q (R106): subnormals, normals and the carry into the next binade
share one formula. -/
def encMag (f : Fmt) (k : Nat) (q : Int) : Nat := (q - fmtQ f).toNat * 2 ^ fmtMant f + k

/-- The sign-less FP32 encoding nearest to m·2^e; an overflow gives infinity (R111). -/
def fp32Mag (m : Nat) (e : Int) : Nat :=
  if m = 0 then 0
  else
    let q := quantum 24 (-149) m e
    min (encMag .fp32 (rneAt m e q) q) 0x7F800000

/-- The canonical NaN of FP32 (R82, R124). -/
def qnan : W32 := 0x7FC00000#32

/-- FP32 nearest to an exact value (R82: ties to even; R112: NaN gives 0x7FC0_0000). -/
def toFp32 : Fval → W32
  | .nan => qnan
  | .inf neg => if neg then 0xFF800000#32 else 0x7F800000#32
  | .fin neg m e => BitVec.ofNat 32 ((if neg then 0x80000000 else 0) + fp32Mag m e)

/-- The exact value of an FP32 word. -/
def fp32 (x : W32) : Fval := decodeFp .fp32 x.toNat

/-- A finite value as an integer multiple of 2^e, for `e` at most its own exponent. -/
def alignTo (neg : Bool) (m : Nat) (e0 e : Int) : Int :=
  let v : Int := ((m <<< (e0 - e).toNat : Nat) : Int)
  if neg then -v else v

/-- Exact sum; an exact zero is +0 unless both terms are −0 (R124: IEEE 754 rules for signed zeros). -/
def fvAdd : Fval → Fval → Fval
  | .nan, _ => .nan
  | _, .nan => .nan
  | .inf a, .inf b => if a = b then .inf a else .nan
  | .inf a, _ => .inf a
  | _, .inf b => .inf b
  | .fin n1 m1 e1, .fin n2 m2 e2 =>
    let e := min e1 e2
    let v := alignTo n1 m1 e1 e + alignTo n2 m2 e2 e
    if v = 0 then .fin (n1 && n2 && decide (m1 = 0) && decide (m2 = 0)) 0 0 else .fin (decide (v < 0)) v.natAbs e

/-- Exact product. -/
def fvMul : Fval → Fval → Fval
  | .nan, _ => .nan
  | _, .nan => .nan
  | .inf a, .inf b => .inf (a != b)
  | .inf a, .fin b m _ => if m = 0 then .nan else .inf (a != b)
  | .fin a m _, .inf b => if m = 0 then .nan else .inf (a != b)
  | .fin n1 m1 e1, .fin n2 m2 e2 => .fin (n1 != n2) (m1 * m2) (e1 + e2)

/-- Negation. -/
def fvNeg : Fval → Fval
  | .nan => .nan
  | .inf a => .inf (!a)
  | .fin n m e => .fin (!n) m e

/-- FP32 addition, round to nearest even (R82). -/
def fadd (a b : W32) : W32 := toFp32 (fvAdd (fp32 a) (fp32 b))

/-- FP32 subtraction. -/
def fsub (a b : W32) : W32 := toFp32 (fvAdd (fp32 a) (fvNeg (fp32 b)))

/-- FP32 multiplication. -/
def fmul (a b : W32) : W32 := toFp32 (fvMul (fp32 a) (fp32 b))

/-- FP32 fused multiply-add with one rounding. -/
def ffma (a b c : W32) : W32 := toFp32 (fvAdd (fvMul (fp32 a) (fp32 b)) (fp32 c))

/-- Is an FP32 word a NaN? -/
def fisNan (a : W32) : Bool := decide (0x7F800000 < a.toNat % 2 ^ 31)

/-- A place of an FP32 number in the order with −0 below +0 (table CC-8). -/
def fkeyZ (a : W32) : Int :=
  let mag : Int := ((a.toNat % 2 ^ 31 : Nat) : Int)
  if a.getLsbD 31 then -mag - 1 else mag

/-- A place of an FP32 number in the numeric order, where −0 = +0 (table CC-9). -/
def fkey (a : W32) : Int :=
  let mag : Int := ((a.toNat % 2 ^ 31 : Nat) : Int)
  if a.getLsbD 31 then -mag else mag

/-- FMIN of table CC-8: a NaN operand loses to a number; −0 below +0; two NaNs give 0x7FC0_0000 (R82). -/
def fmin (a b : W32) : W32 :=
  if fisNan a then (if fisNan b then qnan else b)
  else if fisNan b then a
  else if fkeyZ a ≤ fkeyZ b then a else b

/-- FMAX of table CC-8. -/
def fmax (a b : W32) : W32 :=
  if fisNan a then (if fisNan b then qnan else b)
  else if fisNan b then a
  else if fkeyZ b ≤ fkeyZ a then a else b

/-- The maximum of R187: any NaN gives 0x7FC0_0000, +0 above −0. -/
def fmaxN (a b : W32) : W32 := if fisNan a || fisNan b then qnan else if fkeyZ b ≤ fkeyZ a then a else b

/-- The minimum under the comparison of R187. -/
def fminN (a b : W32) : W32 := if fisNan a || fisNan b then qnan else if fkeyZ a ≤ fkeyZ b then a else b

/-- FLT of R83. -/
def flt (a b : W32) : Bool := !fisNan a && !fisNan b && decide (fkey a < fkey b)

/-- FEQ of R83. -/
def feq (a b : W32) : Bool := !fisNan a && !fisNan b && decide (fkey a = fkey b)

/-- FP32 from an exact integer. -/
def fofInt (v : Int) : W32 := toFp32 (.fin (decide (v < 0)) v.natAbs 0)

/-- An exact value rounded to the nearest integer, ties to even. -/
def fvToInt (neg : Bool) (m : Nat) (e : Int) : Int :=
  let v : Int := (rneAt m e 0 : Nat)
  if neg then -v else v

/-- FCVTFI of table CC-8: nearest even, saturating, NaN gives 0. -/
def fcvtfi (a : W32) : Word :=
  match fp32 a with
  | .nan => 0#64
  | .inf neg => if neg then BitVec.ofInt 64 (-(2 ^ 63)) else BitVec.ofInt 64 (2 ^ 63 - 1)
  | .fin neg m e => BitVec.ofInt 64 (max (-(2 ^ 63)) (min (2 ^ 63 - 1) (fvToInt neg m e)))

/-- x × 2^e as an FP32 multiply rounded to nearest even (R127). -/
def fscale (x : W32) (e : Int) : W32 := toFp32 (fvMul (fp32 x) (.fin false 1 e))

/-- The outcome of one conversion: the raw element, and whether R113 counts it as saturated. -/
structure Conv where
  raw : Nat
  sat : Bool
  deriving DecidableEq, Repr

/-- The sign bit of a format, placed. -/
def signBit (f : Fmt) (neg : Bool) : Nat := if neg then 2 ^ (fmtBits f - 1) else 0

/-- Round a magnitude to a grid: to nearest even, or stochastically with the given 24 bits (R111, R114). -/
def roundAt (sr : Option Nat) (m : Nat) (e q : Int) : Nat :=
  match sr with
  | none => rneAt m e q
  | some r => srAt r m e q

/-- Conversion of an exact value to a format (R111, R114, table NF-3). `sr` holds bits [23:0] of the generator word when
the instruction selects stochastic rounding. -/
def convert (f : Fmt) (sr : Option Nat) (v : Fval) : Conv :=
  match f, v with
  | .fp32, v => ⟨(toFp32 v).toNat, false⟩
  | .bit, .nan => ⟨0, false⟩
  | .bit, .inf _ => ⟨1, false⟩
  | .bit, .fin _ m _ => ⟨if m = 0 then 0 else 1, false⟩
  | .int8, .nan => ⟨0, false⟩
  | .int8, .inf neg => ⟨if neg then 0x80 else 0x7F, true⟩
  | .int8, .fin neg m e =>
    let k := roundAt sr m e 0
    if neg then (if k > 128 then ⟨0x80, true⟩ else ⟨(256 - k) % 256, false⟩)
    else if k > 127 then ⟨0x7F, true⟩ else ⟨k, false⟩
  | .bf16, .nan => ⟨0x7FC0, false⟩
  | .bf16, .inf neg => ⟨signBit .bf16 neg + 0x7F80, false⟩
  | .bf16, .fin neg m e =>
    if m = 0 then ⟨signBit .bf16 neg, false⟩
    else
      let q := quantum 8 (fmtQ .bf16) m e
      ⟨signBit .bf16 neg + min (encMag .bf16 (roundAt sr m e q) q) 0x7F80, false⟩
  | .e4m3, .nan => ⟨0x7F, false⟩
  | .e4m3, .inf _ => ⟨0x7F, false⟩
  | .e5m2, .nan => ⟨0x7E, false⟩
  | .e5m2, .inf neg => ⟨signBit .e5m2 neg + 0x7C, false⟩
  | f, .nan => ⟨if f = .e4m3 then 0x7F else 0, false⟩
  | f, .inf neg => ⟨signBit f neg + fmtMaxEnc f, true⟩
  | f, .fin neg m e =>
    if m = 0 then ⟨signBit f neg, false⟩
    else
      let q := quantum (fmtMant f + 1) (fmtQ f) m e
      let enc := encMag f (roundAt sr m e q) q
      if enc > fmtMaxEnc f then ⟨signBit f neg + fmtMaxEnc f, true⟩ else ⟨signBit f neg + enc, false⟩

/-- ⌈log₂ (m·2^e)⌉ of a positive magnitude, exact (R132). -/
def ceilLog2 (m : Nat) (e : Int) : Int :=
  let l := Nat.log2 m
  if m = 2 ^ l then e + (l : Int) else e + (l : Int) + 1

/-- The magnitude of an exact value in units of 2^(−200), infinities as none; for comparing magnitudes. -/
def magKey : Fval → Option Nat
  | .nan => none
  | .inf _ => none
  | .fin _ m e => some (m <<< (e + 200).toNat)

/-- The finite nonzero value of largest magnitude of a list, if there is one. -/
def largest : List Fval → Option (Nat × Int)
  | [] => none
  | .fin _ m e :: vs =>
    match largest vs with
    | none => if m = 0 then none else some (m, e)
    | some (m2, e2) => if m2 <<< (e2 + 200).toNat < m <<< (e + 200).toNat then some (m, e) else some (m2, e2)
  | _ :: vs => largest vs

/-- The exponent byte B of an FP4 block of scaled values (R110). -/
def blockExp (ys : List Fval) : Nat :=
  if ys.any (fun y => decide (y = .nan)) then 0xFF
  else if ys.any (fun y => decide (y = .inf true) || decide (y = .inf false)) then 0x87
  else
    match largest ys with
    | none => 127
    | some (m, e) => (127 + max (-8) (min 8 (ceilLog2 m e - 2))).toNat

/-- The reader's view of a stored exponent byte: any value outside 0x77 to 0x87 reads as 0xFF (R108). -/
def readBlockExp (b : Nat) : Option Int := if 0x77 ≤ b ∧ b ≤ 0x87 then some ((b : Int) - 127) else none

/-- An FP4 element of a block with exponent byte `b` (R108); a NaN block gives NaN. -/
def decodeBlockElem (b raw : Nat) : Fval :=
  match readBlockExp b with
  | none => .nan
  | some x => fvMul (decodeElem .e2m1 raw) (.fin false 1 x)

/-- Encode one FP4 block: its exponent byte, its elements and, per element, whether it counts as saturated (R110, R113).
`srs` gives each element's random bits when stochastic rounding is selected. -/
def encodeBlock (srs : List (Option Nat)) (ys : List Fval) : Nat × List Conv :=
  let b := blockExp ys
  if b = 0xFF then (b, ys.map (fun _ => ⟨0, false⟩))
  else
    let cs := (srs.zip ys).map (fun (r, y) => convert .e2m1 r (fvMul y (.fin false 1 (127 - (b : Int)))))
    let allZero := cs.all (fun c => decide (c.raw % 8 = 0))
    (b, (cs.zip ys).map (fun (c, y) =>
      match y with
      | .fin _ m _ => ⟨c.raw, c.sat || (allZero && decide (m ≠ 0))⟩
      | _ => c))

/-! ### The generator word (R115) -/

/-- The function mix of R115. -/
def mix (z : Word) : Word :=
  let z := (z ^^^ (z >>> 33)) * 0xB4C35E790D8A26F1#64
  let z := (z ^^^ (z >>> 29)) * 0x8F2D61A7C9345E0B#64
  z ^^^ (z >>> 32)

/-- The function sr_word of R115. -/
def srWord (seed tensor step index : Word) : Word :=
  mix (mix (mix (mix (seed ^^^ 0x6A3D12F59E04B7C1#64) ^^^ tensor) ^^^ step) ^^^ index)

/-- Bits [23:0] of the generator word (R114). -/
def srBits (seed tensor step index : Word) : Nat := (srWord seed tensor step index).toNat % 2 ^ 24

end Sys2Proof.Machine
end

