-- ==== Sys2Proof/Types.lean ====
section
/-! DEFINITION. The operands of the commands: register names, instruction fields in the manual's terms, and the plan
image (R33 to R37, R74 to R78, R100 to R104, R138, R198, R209, R213, R268, R276, R369, R508). -/

namespace Sys2Proof

/-- A physical core, 0–39 (R12). -/
abbrev CoreIx := Fin 40

/-- A partition, 0–7 (R33). -/
abbrev PartIx := Fin 8

/-- A compute die, 0–1 (R12). -/
abbrev DieIx := Fin 2

/-- A cellar die and its stack, 0–11 (R12). -/
abbrev CellarIx := Fin 12

/-- A port die, 0–2 (R12). -/
abbrev PortDieIx := Fin 3

/-- A fabric port, 0–17 (R13). -/
abbrev PortIx := Fin 18

/-- A scalar register s0–s63 (R64). -/
abbrev Reg := Fin 64

/-- A predicate p0–p15 (R64). -/
abbrev Pred := Fin 16

/-- A hardware task context of a core (R64). -/
abbrev CtxIx := Fin 4

/-- A completion counter c0–c7 (R64). -/
abbrev Cnt := Fin 8

/-- The guard of an instruction: GUARD and GNEG of table CC-3 (R75). -/
structure Guard where
  p : Pred
  neg : Bool
  deriving DecidableEq, Repr

/-- The second operand of an ALU or comparison instruction: SB, or IMM32 (R80, R83). -/
inductive Op2 where
  | reg (r : Reg)
  | imm (v : W32)
  deriving DecidableEq, Repr

/-- A space of table CC-10; SPACE 3 is an invalid encoding (R85). -/
inductive Space where
  | store | hall | hbm
  deriving DecidableEq, Repr

/-- The field DRAIN of table MA-2. -/
inductive DrainMode where
  | keep | direct | flume | raw
  deriving DecidableEq, Repr

/-- The field DF of table MA-4. -/
inductive Dataflow where
  | forward | dataGrad | weightGrad
  deriving DecidableEq, Repr

/-- The field MASK_MODE of R145; the value 3 is an invalid encoding. -/
inductive MaskMode where
  | none | upTo | bitmap
  deriving DecidableEq, Repr

/-- The fields of MMA, table MA-2 (R138). -/
structure MmaF where
  saA : Reg
  saW : Reg
  saMask : Reg
  saOut : Reg
  df : Dataflow
  fmtA : Fmt
  fmtW : Fmt
  accIn : Bool
  drain : DrainMode
  chain : Fin 32
  mask : MaskMode
  bxa : Bool
  m : Nat
  n : Nat
  k : Nat
  cnt : Option Cnt
  relA : Bool
  relW : Bool
  bxw : Bool
  deriving DecidableEq, Repr

/-- The fields of WPRE (R138). -/
structure WpreF where
  saW : Reg
  df : Dataflow
  fmtW : Fmt
  bxw : Bool
  n : Nat
  k : Nat
  cnt : Option Cnt
  deriving DecidableEq, Repr

/-- The fields of VRUN, table VE-8 (R198). -/
structure VrunF where
  saSrc : Reg
  saOut : Reg
  fmt : Fmt
  srck : Bool
  treg : Fin 16
  chain : Fin 32
  rows : Nat
  cols : Nat
  cnt : Option Cnt
  rel : Bool
  deriving DecidableEq, Repr

/-- An engine of a core, with the code that OPERAND_RANGE and ENGINE_FAULT carry (R101). -/
inductive Engine where
  | matrix | vector | stream
  deriving DecidableEq, Repr

/-- A hardware fault that an engine meets while it runs: the unit number that stands in [59:56], the cause in [55:48]
and the detail in [47:0] of CC_EXC_ADDR (R168, R204, R231). -/
structure EngFault where
  unit : Nat
  cause : Nat
  detail : Nat
  deriving DecidableEq, Repr

/-- A link inside the package (table PK-9). -/
inductive LinkName where
  | ucie (d : DieIx)
  | bridge
  | port (d : PortDieIx)
  | cellar (c : CellarIx)
  deriving DecidableEq, Repr

/-- What makes a boot stage fail, but for what stage 3 finds in the image itself (table BS-3). -/
inductive StartFail where
  | fuseEcc (word : Nat)
  | recordRead (status : Byte)
  | ucieLink (d : DieIx)
  | bridgeLink
  | cellarLink (c : CellarIx)
  | hbmConfig (c : CellarIx)
  | hbmTraining (c : CellarIx)
  | portLink (d : PortDieIx)
  | wipe (c : CellarIx)
  | identity
  | absukoFault (core : Fin 12)
  deriving DecidableEq, Repr

/-- What the key engine finds of an image's signatures, in the order of R420. -/
structure ImageProof where
  rsa : Bool
  slh : Bool
  deriving DecidableEq, Repr

/-- What SEC_PROVISION finds in the transfer area: the verdict on the authorisation, and the certificates that it carries (R428). -/
structure Provision where
  ok : Bool
  certs : List Byte
  deriving DecidableEq, Repr

/-- What SEC_RELEASE_OWNERSHIP and SEC_SCRAP find: the verdict on the authorisation, and whether the flash erases (R428, R440). -/
structure Erasing where
  ok : Bool
  erased : Bool
  deriving DecidableEq, Repr

/-- What opens of a blob with a shared secret: kind, identifier, the request nonce that it carries, and the secret of 256 bits (R432). -/
structure SharedBlob where
  kind : Nat
  ident : Nat
  nonce : Vector Word 4
  secret : Vector Word 4
  deriving DecidableEq, Repr

/-- The address that a network packet names (R384). -/
inductive NetAddr where
  | v4 (a : W32)
  | v6 (a : BitVec 128)
  deriving DecidableEq, Repr

/-- A packet on the management port: its 802.1Q identifier if it is tagged, and what it names (R384). -/
structure NetIn (α : Type) where
  tag : Option Nat
  what : α
  deriving DecidableEq, Repr

/-- How a message of the fault manager reaches the management port: the packet's tag, its source address and UDP port, the header fields of
table FB-11, and the verdict of the session key on it (R385). -/
structure MsgIn where
  tag : Option Nat
  source : BitVec 128
  port : Nat
  magic : W32
  version : Byte
  kind : Byte
  bodyLen : Nat
  serial : Word
  auth : Bool
  deriving DecidableEq, Repr

/-- The attestation report that a peer gives (R360, R430, R431): whether its signatures verify under keys that its certificates tie to the Krovsis
device CA or to a store-node CA, LC, OWNER_DIGEST and NONCE of the report, the digest of the store-node CA for a store node, which gives a certificate in
the report's place, and the nonce with which the peer asks for this device's own report. -/
structure PeerReport where
  sigs : Bool
  lc : Nat
  owner : List Byte
  nonce : Vector Word 4
  store : Option (List Byte)
  asks : Vector Word 4
  deriving DecidableEq, Repr

/-- What the twin handshake finds of the partner (R315, R316, R376): its report, its group if it is in one, its rank, and the bytes of its shard
and vestibule. -/
structure TwinProof where
  report : PeerReport
  group : Option W32
  rank : Nat
  shard : Nat
  vest : Nat
  deriving DecidableEq, Repr

/-- Who makes a register access: a management core, or the host through BAR0 (R19, R25, R52). -/
inductive Master where
  | mgmt (i : Fin 12)
  | host
  deriving DecidableEq, Repr

/-- A read of a register, or a write of a value to it. -/
inductive Access where
  | read
  | write (v : Word)
  deriving DecidableEq, Repr

/-- What the key engine finds of one authorisation record (R445): whether its public keys are those of its signer, whether both signatures
verify. -/
structure AuthProof where
  keys : Bool
  sigs : Bool
  deriving DecidableEq, Repr

/-! ### The plan image (R33 to R38, R57) -/

/-- Kinds of tensor (R36). -/
inductive TKind where
  | parameter | moment | activation | gradient | input | scratch
  deriving DecidableEq, Repr

/-- An entry of the tensor table (R36, R127). -/
structure TensorE where
  id : Nat
  kind : TKind
  fmt : Nat
  bx : Bool
  shape : List Nat
  base : Nat
  size : Nat
  scale : Word
  deriving DecidableEq, Repr

/-- An entry of the layer table: what load checks 0x06, 0x0A and 0x0B read. -/
structure LayerE where
  layer : Nat
  positions : Nat
  first : Nat
  activation : Nat
  gradient : Nat
  deriving DecidableEq, Repr

/-- A source of a barrier: a logical core of this device, or a rank and a logical core of another (R508). -/
inductive BSource where
  | here (lcore : Nat)
  | remote (rank : Nat) (lcore : Nat)
  deriving DecidableEq, Repr

/-- An entry of the barrier table (R508). -/
structure BarrierE where
  id : Nat
  sources : List BSource
  waiters : List Nat
  deriving DecidableEq, Repr

/-- An update program of the image (R278). -/
structure ProgramE where
  number : Nat
  ops : List W32
  deriving DecidableEq, Repr

/-- An update binding, table UP-2. -/
structure BindingE where
  const : Nat
  program : Nat
  trigger : Nat
  redId : Nat
  barrier : Nat
  slots : List Nat
  t0 : Word
  elements : Nat
  deriving DecidableEq, Repr

/-- A reduction entry, table UP-1, with its ordered rank list. -/
structure ReductionE where
  id : Nat
  target : Nat
  loc : Nat
  locPos : Nat
  locBarrier : Nat
  ranks : List Nat
  deriving DecidableEq, Repr

/-- A channel entry, table FB-5, as its fields (R369). -/
structure ChannelE where
  channel : Nat
  kind : Nat
  dcount : Nat
  ring : Nat
  ringPages : Nat
  dests : List (Nat × Nat)
  rank : Nat
  redId : Nat
  reserved : Nat
  deriving DecidableEq, Repr

/-- A K-split across cores: its result, whether it combines FP32 partials, and the declared order if there is one
(R126). -/
structure KSplitE where
  result : Nat
  fp32 : Bool
  order : Option (List Nat)
  deriving DecidableEq, Repr

/-- What the image holds for one logical core (R35, R63, R193, R206, R213). `codeLen` is the length in bytes, which may
leave a partial word behind the listed words (R78). -/
structure LCoreE where
  contexts : Nat
  footprint : Nat
  entries : List Nat
  code : List Word
  codeLen : Nat
  nStreams : Nat
  descOffset : Nat
  descs : List (List Word)
  flumeDepth : Nat
  flumeOffset : Nat
  deriving DecidableEq, Repr

/-- What the hardware does to a checked read of HBM3 (R238, R250, R252): nothing; a burst of it is reported uncorrected, or a parity error
persists; a CRC or FOLD mismatch arises that the re-read does not repeat; a mismatch persists, of the CRC, of the FOLD or of both. -/
inductive ReadErr where
  | ok | uncorr | cured
  | bad (crc fold : Bool)
  deriving DecidableEq, Repr, Inhabited

/-- A plan image in the manual's terms. `magicOk` and `digestOk` are what the header's magic and the SHA-384 of the bytes
show; `contract` and `length` are the header's, `digest` the image's SHA-384 digest; `reads` is what the hardware does to the reads of its blocks, in their order (R250). -/
structure Image where
  magicOk : Bool
  contract : Nat
  length : Nat
  digestOk : Bool
  digest : List Byte
  reads : List ReadErr
  seed : Word
  lcores : List LCoreE
  tensors : List TensorE
  layers : List LayerE
  barriers : List BarrierE
  programs : List ProgramE
  bindings : List BindingE
  reductions : List ReductionE
  channels : List ChannelE
  ksplits : List KSplitE
  deriving DecidableEq, Repr

/-! ### Tokens, vestibule records and frames (R302, R306, R362 to R364) -/

/-- A token of table SP-3: its words 0–3 as fields, and words 4–5, the MAC. -/
structure Token where
  group : W32
  epoch : W32
  step : Word
  version : Word
  kind : Nat
  attempt : Nat
  coord : Nat
  mac0 : Word
  mac1 : Word
  deriving DecidableEq, Repr

/-- What a vestibule record captures (R302). -/
inductive VRec where
  | input (lcore inst desc pos : Nat) (bytes : List Byte)
  | contrib (red granule rank fmt : Nat) (e : Int) (raws : List Nat)
  | tok (barrier rank lcore : Nat)
  | step (t : Token)
  deriving DecidableEq, Repr

/-- A vestibule record with the step and attempt it belongs to. -/
structure VestRec where
  step : Word
  attempt : Nat
  r : VRec
  deriving DecidableEq, Repr

/-- An amax history entry, table NF-6. -/
structure HistE where
  stepLow : Nat
  valid : Bool
  inf : Bool
  nan : Bool
  sat : Nat
  amax : W32
  deriving DecidableEq, Repr

/-- The mirror that a device keeps for its partner (R313, R316, R317): complete version, its pages, the pages of the next
version so far, the newest COMMIT token, vestibule records, image and histories; `nextImage` are those of the next version, which
count once it is complete (R133, R322). -/
structure Mirror where
  version : Word
  pages : Tbl (List Byte)
  next : Tbl (List Byte)
  token : Option Token
  recs : List VestRec
  image : Option Image
  hist : Tbl (Tbl HistE)
  nextImage : Option (Image × Tbl (Tbl HistE))
  deriving DecidableEq, Repr

/-- A manifest of table CK-3 as its fields; `valid` is what MAGIC, FORMAT, CRC and MAC show (R404), `image` the bytes 0 to 15 of the plan image's digest. -/
structure Manifest where
  valid : Bool
  kind : Nat
  depth : Nat
  run : Nat
  shard : Nat
  shards : Nat
  writer : Nat
  group : W32
  epoch : W32
  cut : Word
  step : Word
  prev : Word
  base : Word
  pages : Nat
  shardPages : Nat
  dataBytes : Nat
  image : List Byte
  digest : BitVec 256
  content : BitVec 256
  deriving DecidableEq, Repr

/-- What the store, or the host window, holds for a restore: the bytes of the manifests by shard and cut, and of this shard's data objects by cut;
`silent` when it does not answer within TIMEOUT_S (R401, R408). -/
structure StoreAnswer where
  silent : Bool
  manifests : List (Nat × Word × List Byte)
  objects : List (Word × List Byte)
  deriving DecidableEq, Repr

/-- A step message of table SP-2 with its payload of table FB-4. -/
inductive StepMsg where
  | start (t : Token)
  | ready (step : Word) (attempt : Nat) (unpaired : Bool)
  | fail (step : Word) (attempt : Nat) (classH : Bool) (cause : Nat)
  | commit (t : Token)
  | abort (t : Token)
  | discarded (step : Word) (attempt : Nat)
  | mirrorAck (kind : Nat) (value : Word)
  deriving DecidableEq, Repr

/-- What a MIRROR frame carries (table FB-3; R316, R317). The image and the histories are sent in pieces of at most 4,096 bytes, `len` from `offset` on
(R362); what they hold stands in every piece and is taken with the last. -/
inductive MirrorMsg where
  | page (offset : Nat) (version : Word) (bytes : List Byte) (last : Bool)
  | vest (step : Word) (r : Option VestRec) (last : Bool)
  | image (offset len : Nat) (version : Word) (i : Image) (hist : Tbl (Tbl HistE)) (last : Bool)
  | release
  deriving DecidableEq, Repr

/-- Types of frame and what their words A, B and payload hold (table FB-3). `step` is the 56-bit step of STEPATT. -/
inductive FBody where
  | put (chan pos attempt : Nat) (step : Nat) (bytes : List Byte)
  | credit (chan limit attempt : Nat) (step : Nat)
  | contrib (red fmt : Nat) (e : Int) (rank granule attempt : Nat) (step : Nat) (raws : List Nat)
  | retry (ab w01 : Word × Word)
  | token (rank lcore barrier attempt : Nat) (step : Nat)
  | step (sender : Nat) (group epoch : W32) (m : StepMsg)
  | mirror (m : MirrorMsg)
  | digest (group : W32) (sender : Nat) (version : Word) (d : BitVec 256)
  | storePut (off : Nat) (obj : Word) (bytes : List Byte)
  | storeGet (off len : Nat) (obj : Word)
  | storeData (off len : Nat) (obj : Word) (bytes : List Byte)
  | dack (seqs : List (Nat × Nat))
  | other (type : Nat)
  deriving DecidableEq, Repr

/-- A frame of table FB-2. -/
structure Frame where
  vl : Nat
  hops : Nat
  spart : Nat
  dpart : Nat
  dest : Nat
  src : Nat
  spd : Nat
  seq : Nat
  body : FBody
  deriving DecidableEq, Repr

/-- How a frame reached the device: the port it came in on (none for a frame that the device addressed to its own node,
R368), its header fields, and the key generation under which it was encrypted (R361). -/
structure Arrival where
  port : Option PortIx
  gen : Nat
  vl : Nat
  hops : Nat
  src : Nat
  spart : Nat
  dpart : PartIx
  spd : Nat
  seq : Nat
  deriving DecidableEq, Repr

/-- Where a frame that is forwarded came in: its port, and the key generation under which it was encrypted (R361, R365). -/
structure LinkIn where
  port : PortIx
  gen : Nat
  deriving DecidableEq, Repr

/-- What has been silent for PEER_TIMEOUT_MS, or is reported failed: a link (R320), a rank of a partition's group that does not answer (R374), the
twin of a partition (table SP-5). -/
inductive Silent where
  | link (port : PortIx)
  | rank (p : PartIx) (rank : Nat)
  | twin (p : PartIx)
  deriving DecidableEq, Repr

/-- Where the localisation finds the first difference (R340): K-block and entry (m, n) of the tile for a matrix item, element (m, n) for a
vector item; for an update item `kb` is the number of the store and `n` the element, for a reduction item `n` is the element. -/
structure DiffAt where
  kb : Nat
  m : Nat
  n : Nat
  deriving DecidableEq, Repr

/-- What the staging memory and the lanes of a cellar engine do (R296): an uncorrectable staging error (0) or a lane parity error (1), a corrected
staging error. -/
structure Staging where
  fault : Option Nat
  corr : Bool
  deriving DecidableEq, Repr

/-- What goes wrong while a cellar engine works on one granule (R296): of staging and lanes, and of its reads in their order. -/
structure CelErr where
  staging : Staging
  reads : List ReadErr
  deriving DecidableEq, Repr

/-- Nothing goes wrong. -/
def CelErr.none : CelErr := ⟨⟨Option.none, false⟩, []⟩

/-- What the re-read after a mismatch comes to: `reread` says that it matches (R252). -/
def ReadErr.after (err : ReadErr) (reread : Bool) : ReadErr :=
  match err with
  | .bad c f => if reread then .cured else .bad c f
  | e => e

/-- A block that a die reads, with what the hardware does to the read. -/
structure BlockRead where
  block : Nat
  err : ReadErr
  deriving DecidableEq, Repr

/-- A stack of which a block is read, with what the hardware does to the read. -/
structure StackRead where
  c : CellarIx
  err : ReadErr
  deriving DecidableEq, Repr

/-- A granule that an engine works on, with what goes wrong. -/
structure GranuleRead where
  granule : Nat
  err : CelErr
  deriving DecidableEq, Repr

/-- A page that the snapshot engines read, with what the hardware does to its sixteen blocks. -/
structure PageRead where
  page : Nat
  errs : List ReadErr
  deriving DecidableEq, Repr

/-- A partition whose next page the snapshot engines read, with what the hardware does to its sixteen blocks. -/
structure SnapRead where
  p : PartIx
  errs : List ReadErr
  deriving DecidableEq, Repr

/-- What silently goes wrong around a comparison (R335): the number of a trio one of whose units has made its result differ; the two compare copies
disagree. -/
structure CompareFault where
  diff : Option Nat
  copies : Bool
  deriving DecidableEq, Repr

/-- The voter's result (R336): 0 when it equals the original's, 1 when it equals the checker's, 2 when all differ; and whether the vote settles in the
management cycle of the one before (R356). -/
structure VoteResult where
  third : Fin 3
  same : Bool
  deriving DecidableEq, Repr

/-- A fabric lane, with the uncorrectable codewords that it has shown within one second of reference time (R359). -/
structure LaneErrors where
  lane : Fin 8
  codewords : Nat
  deriving DecidableEq, Repr

/-- The raw elements of a contribution, with what the staging and lanes of the engine that takes it do. -/
structure ContribData where
  raws : List Nat
  staging : Staging
  deriving DecidableEq, Repr

end Sys2Proof
end

