-- ==== Sys2Proof/Syntax.lean ====
section
/-! DEFINITION. The commands of the device, one constructor per row of the operation table: the instructions that a control
core issues, and the events, frames, commands and register accesses that reach the device. -/

namespace Sys2Proof

/-- The commands: in the order of the operation table those with operands, then those without. `n` names the core whose RUN context issues an instruction, `g` its guard (R75);
the operands of other rows are what comes from outside the device (a temperature, the verdict of a check that the manual leaves to
cryptography, an analog outcome), or name which waiting item an event concerns. -/
inductive Instr where
  | add (n : CoreIx) (g : Guard) (sd sa : Reg) (op : Op2)
  | sub (n : CoreIx) (g : Guard) (sd sa : Reg) (op : Op2)
  | and (n : CoreIx) (g : Guard) (sd sa : Reg) (op : Op2)
  | or (n : CoreIx) (g : Guard) (sd sa : Reg) (op : Op2)
  | xor (n : CoreIx) (g : Guard) (sd sa : Reg) (op : Op2)
  | shl (n : CoreIx) (g : Guard) (sd sa : Reg) (op : Op2)
  | shr (n : CoreIx) (g : Guard) (sd sa : Reg) (op : Op2)
  | sar (n : CoreIx) (g : Guard) (sd sa : Reg) (op : Op2)
  | min (n : CoreIx) (g : Guard) (sd sa : Reg) (op : Op2)
  | max (n : CoreIx) (g : Guard) (sd sa : Reg) (op : Op2)
  | minu (n : CoreIx) (g : Guard) (sd sa : Reg) (op : Op2)
  | maxu (n : CoreIx) (g : Guard) (sd sa : Reg) (op : Op2)
  | sel (n : CoreIx) (g : Guard) (sd sa sb : Reg) (q : Pred)
  | clz (n : CoreIx) (g : Guard) (sd sa : Reg)
  | popc (n : CoreIx) (g : Guard) (sd sa : Reg)
  | mul (n : CoreIx) (g : Guard) (sd sa sb : Reg)
  | mulhu (n : CoreIx) (g : Guard) (sd sa sb : Reg)
  | mulh (n : CoreIx) (g : Guard) (sd sa sb : Reg)
  | madd (n : CoreIx) (g : Guard) (sd sa sb sc : Reg)
  | divu (n : CoreIx) (g : Guard) (sd sa sb : Reg)
  | div (n : CoreIx) (g : Guard) (sd sa sb : Reg)
  | remu (n : CoreIx) (g : Guard) (sd sa sb : Reg)
  | rem (n : CoreIx) (g : Guard) (sd sa sb : Reg)
  | fadd (n : CoreIx) (g : Guard) (sd sa sb : Reg)
  | fsub (n : CoreIx) (g : Guard) (sd sa sb : Reg)
  | fmul (n : CoreIx) (g : Guard) (sd sa sb : Reg)
  | ffma (n : CoreIx) (g : Guard) (sd sa sb sc : Reg)
  | fmin (n : CoreIx) (g : Guard) (sd sa sb : Reg)
  | fmax (n : CoreIx) (g : Guard) (sd sa sb : Reg)
  | fcvtif (n : CoreIx) (g : Guard) (sd sa : Reg)
  | fcvtfi (n : CoreIx) (g : Guard) (sd sa : Reg)
  | eq (n : CoreIx) (g : Guard) (pd : Pred) (sa : Reg) (op : Op2)
  | ne (n : CoreIx) (g : Guard) (pd : Pred) (sa : Reg) (op : Op2)
  | lt (n : CoreIx) (g : Guard) (pd : Pred) (sa : Reg) (op : Op2)
  | ge (n : CoreIx) (g : Guard) (pd : Pred) (sa : Reg) (op : Op2)
  | ltu (n : CoreIx) (g : Guard) (pd : Pred) (sa : Reg) (op : Op2)
  | geu (n : CoreIx) (g : Guard) (pd : Pred) (sa : Reg) (op : Op2)
  | flt (n : CoreIx) (g : Guard) (pd : Pred) (sa sb : Reg)
  | feq (n : CoreIx) (g : Guard) (pd : Pred) (sa sb : Reg)
  | pand (n : CoreIx) (g : Guard) (pd pa pb : Pred)
  | por (n : CoreIx) (g : Guard) (pd pa pb : Pred)
  | pxor (n : CoreIx) (g : Guard) (pd pa pb : Pred)
  | pnot (n : CoreIx) (g : Guard) (pd pa : Pred)
  | br (n : CoreIx) (g : Guard) (sd : Reg) (off : W32)
  | bri (n : CoreIx) (g : Guard) (sd sa : Reg) (off : W32)
  | load (n : CoreIx) (g : Guard) (r sa : Reg) (sp : Space) (size : Fin 4) (signed : Bool) (off : BitVec 28) (bad : Bool)
  | store (n : CoreIx) (g : Guard) (r sa : Reg) (sp : Space) (size : Fin 4) (off : BitVec 28)
  | nop (n : CoreIx) (g : Guard)
  | yield (n : CoreIx) (g : Guard)
  | stepend (n : CoreIx) (g : Guard)
  | fence (n : CoreIx) (g : Guard) (scope : Fin 8)
  | trap (n : CoreIx) (g : Guard) (code : BitVec 16)
  | waitb (n : CoreIx) (g : Guard) (b : BitVec 16)
  | sigb (n : CoreIx) (g : Guard) (b : BitVec 16)
  | waitc (n : CoreIx) (g : Guard) (c : Cnt) (v : W32)
  | setc (n : CoreIx) (g : Guard) (c : Cnt) (v : W32)
  | rdsr (n : CoreIx) (g : Guard) (sd : Reg) (sel : Fin 8)
  | qshape (n : CoreIx) (g : Guard) (sd sa : Reg) (w : Fin 8)
  | bcast (n : CoreIx) (g : Guard) (sa : Reg) (slot : Fin 8)
  | trd (n : CoreIx) (g : Guard) (sd : Reg) (treg : Fin 16) (row : Fin 32) (lane : Fin 256)
  | li64 (n : CoreIx) (g : Guard) (sd : Reg) (v : Word)
  | mma (n : CoreIx) (g : Guard) (f : MmaF)
  | mrelease (n : CoreIx) (g : Guard) (cnt : Option Cnt)
  | wpre (n : CoreIx) (g : Guard) (f : WpreF)
  | vrun (n : CoreIx) (g : Guard) (f : VrunF)
  | vpop (n : CoreIx) (g : Guard) (count : Nat) (cnt : Option Cnt)
  | vchdef (n : CoreIx) (g : Guard) (saDef : Reg) (entry : Fin 32) (cnt : Option Cnt)
  | sstart (n : CoreIx) (g : Guard) (saSrc saDst : Reg) (sctx : Fin 64) (desc : BitVec 16) (cnt : Option Cnt)
  | srelease (n : CoreIx) (g : Guard) (saOff : Reg) (lines : Nat) (cnt : Option Cnt)
  | loadData (n : CoreIx) (i : CtxIx) (sp : Space)
  | storeComplete (n : CoreIx) (i : CtxIx) (sp : Space)
  | quantum (n : CoreIx)
  | waitTimeout (n : CoreIx) (i : CtxIx)
  | matrixPass (n : CoreIx) (fault : Option EngFault) (corr : Option (Fin 4))
  | matrixDrain (n : CoreIx) (fault : Option (Engine × EngFault)) (corr : Option (Fin 4))
  | wpreComplete (n : CoreIx)
  | arrayIdle (n : CoreIx) (a : Fin 4)
  | flumeTileWrite (n : CoreIx) (bank : Fin 2)
  | vectorComplete (n : CoreIx) (fault : Option EngFault) (corr : Bool)
  | sluiceGrant (d : DieIx)
  | ageLimit (d : DieIx) (phys : Fin 8192)
  | chunkWritten (d : DieIx) (phys : Fin 8192) (fault : Option EngFault)
  | streamComplete (d : DieIx) (phys : Fin 8192)
  | sreleaseRecord (n : CoreIx)
  | localToken (d : DieIx) (ix : Nat)
  | cellarRequest (c : CellarIx) (req : Nat)
  | burstIssue (c : CellarIx) (pc : Fin 32) (err : ReadErr) (reread : Bool)
  | gatherAge (c : CellarIx) (pc : Fin 32)
  | runHold (c : CellarIx) (pc : Fin 32)
  | trackerExpiry (c : CellarIx) (ix : Nat)
  | scrubBlock (c : CellarIx) (err : ReadErr)
  | scrubRetry (c : CellarIx) (x : BlockRead)
  | tempReading (c : CellarIx) (temp : Byte)
  | remapCopy (x : StackRead)
  | wipeEnd (c : CellarIx)
  | updGranule (c : CellarIx) (staging : Staging) (reads : List ReadErr)
  | poolReportMs (c : CellarIx)
  | sweepEntry (c : CellarIx)
  | localContribution (c : CellarIx) (p : PartIx) (red : Nat) (x : GranuleRead)
  | ready (p : PartIx)
  | coordReady (h : Arrival) (group epoch : W32) (sender : Nat) (step : Word) (attempt : Nat) (unpaired : Bool)
  | fail (h : Arrival) (group epoch : W32) (sender : Nat) (step : Word) (attempt : Nat) (classH : Bool) (cause : Nat)
  | discarded (h : Arrival) (group epoch : W32) (sender : Nat) (step : Word) (attempt : Nat)
  | start (h : Arrival) (group epoch : W32) (sender : Nat) (t : Token) (macOk : Bool)
  | commit (h : Arrival) (group epoch : W32) (sender : Nat) (t : Token) (macOk : Bool)
  | abort (h : Arrival) (group epoch : W32) (sender : Nat) (t : Token) (macOk : Bool)
  | discardComplete (p : PartIx)
  | mirrorPage (p : PartIx) (x : PageRead)
  | mirror (h : Arrival) (m : MirrorMsg)
  | mirrorAck (h : Arrival) (group epoch : W32) (sender : Nat) (kind : Nat) (value : Word)
  | twinSyncDone (p : PartIx)
  | soloCommit (p : PartIx)
  | readyTimeout (p : PartIx)
  | commitTimeout (p : PartIx)
  | peerLost (x : Silent)
  | heartbeat (p : PartIx)
  | compare (ix : Nat) (fault : CompareFault) (same : Bool)
  | vote (ix : Nat) (res : VoteResult) (at0 : Option DiffAt)
  | selftestRecord (unit record : Nat) (fault : Bool)
  | sectionWrite (first second : Bool)
  | holdupSense (mv : Nat)
  | powerUp (testEn : Bool)
  | resetN (testEn : Bool)
  | pwrGoodFall (resetHigh : Bool)
  | bootStageFuses (fail : Option StartFail)
  | bootStageConfig (fail : Option StartFail)
  | bootStageRecord (fail : Option StartFail)
  | bootStageImage (x : ImageProof)
  | bootStageLinks (fail : Option StartFail)
  | bootStageWipe (fail : Option StartFail)
  | bootStageState (fail : Option StartFail)
  | bootStageReady (fail : Option StartFail)
  | linkDown (l : LinkName)
  | ucieTrainerror (d : DieIx)
  | vrSetPointReached (d : DieIx) (mv : Nat)
  | vrTimeout (d : DieIx)
  | droop (r : Fin 8) (mv : Nat)
  | stretchHoldNs (r : Fin 8) (clear : Bool)
  | limiterSample (watts amps0 amps1 : Nat)
  | junctionReading (die0 die1 : Vector Byte 32) (port0 port1 port2 : Vector Byte 4) (mpd : Vector Byte 2)
  | throttleStep (die : Option DieIx)
  | counterSample (coin : Bool)
  | domainStop (dom : Nat)
  | put (h : Arrival) (chan pos attempt step : Nat) (bytes : List Byte)
  | credit (h : Arrival) (chan limit attempt step : Nat)
  | contrib (h : Arrival) (red fmt : Nat) (e : Int) (rank granule attempt step : Nat) (x : ContribData)
  | retry (h : Arrival) (ab w01 : Word × Word)
  | retryUs (die : PortDieIx) (seq : Nat)
  | token (h : Arrival) (rank lcore barrier attempt step : Nat)
  | digest (h : Arrival) (group : W32) (sender : Nat) (version : Word) (d : BitVec 256)
  | storeData (h : Arrival) (off len : Nat) (obj : Word) (bytes : List Byte) (nothing : Unit)
  | dack (h : Arrival) (seqs : List (Nat × Nat))
  | ckpPageSend (x : SnapRead)
  | ckpTimeout (p : PartIx)
  | unknownType (h : Arrival) (type : Nat)
  | frameForward (l : LinkIn) (f : Frame)
  | ack (port : PortIx) (named : Nat)
  | nack (port : PortIx) (named : Nat) (sent : Option Bool)
  | idle (port : PortIx) (corrected : Nat)
  | idleUs (port : PortIx)
  | vlcredit (port : PortIx) (vl hop space : Nat)
  | rekey (port : PortIx) (gen fromSeq : Nat)
  | laneFence (port : PortIx) (x : LaneErrors)
  | detect (port : PortIx) (lanes : BitVec 8)
  | detectRetry (port : PortIx)
  | equalize (port : PortIx) (lanes : BitVec 8)
  | align (port : PortIx)
  | auth (port : PortIx) (peer : PeerReport) (node : Nat) (serial : Word)
  | portTrainingTimeout (port : PortIx)
  | hostReadData (p : PartIx) (off : Nat) (bytes : List Byte)
  | command (m : MsgIn) (seq : W32) (w : Word) (args : Vector Word 8)
  | mgmtAck (m : MsgIn) (acked : W32)
  | arpRequest (x : NetIn W32)
  | ndpRequest (x : NetIn NetAddr)
  | icmpEcho (x : NetIn NetAddr) (bytes : List Byte)
  | entdaa (addr : BitVec 7)
  | setdasa (static addr : BitVec 7)
  | setEndpointId (eid : Byte)
  | settid (tid : Byte)
  | getpldmcommands (type : Byte)
  | getpldmversion (type : Byte)
  | getsensorreading (id : BitVec 16)
  | pldmFirmwareUpdate (image : List Byte) (x : ImageProof) (ok : Bool)
  | spdmRequest (doe : Bool) (nonce : Vector Word 4)
  | loadPlan (im : Image)
  | partWrite (host : List Byte)
  | twinAttach (answer : Option TwinProof)
  | flip (macOk : Bool)
  | assumeIdentity (x : TwinProof)
  | restore (got : Option Mirror)
  | repair (got : Option (List (Nat × Nat × List Byte)))
  | ckpRestore (answer : Option StoreAnswer)
  | ckpFind (a : StoreAnswer)
  | bootImageBegin (ok : Bool)
  | bootImageChunk (ok : Bool)
  | bootImageEnd (x : ImageProof)
  | secTakeOwnership (ok : Bool)
  | secReleaseOwnership (x : Erasing)
  | secScrap (x : Erasing)
  | secProvision (x : Provision)
  | secSharedExport (accepted : Bool)
  | secSharedImport (blob : Option SharedBlob)
  | dbgUnlock (x y : AuthProof)
  | cntRead (coin : Bool)
  | cntSnapshot (coin : Bool)
  | extest (bits : List Bool)
  | samplePreload (bits : List Bool)
  | dbgAuth (bytes : List Byte) (x y : AuthProof)
  | halt (v : Bool)
  | resume (v : Bool)
  | scanSel (k : BitVec 16)
  | scanData (n : Nat)
  | sel1500 (n : Nat)
  | registerWrite (m : Master) (addr : Nat) (bytes : List Byte)
  | pkgStatus (m : Master) (x : Access)
  | pkgMboxStatus (m : Master)
  | secMboxOwner (m : Master) (v : Word)
  | slcCtxSel (d : DieIx) (v : Word)
  | fabRouteSel (d : PortDieIx) (v : Word)
  | dbgStopSel (v : Word)
  | celTemp (c : CellarIx) (v : Word)
  | pwrPower (v : Word)
  | dbgDumpCfg (i : Fin 4) (v : Word)
  | maErr (n : CoreIx) (k : Fin 4) (x : Access)
  | veErr (n : CoreIx) (x : Access)
  | slcTokens (d : DieIx)
  | celErr (c : CellarIx) (x : Access)
  | updErr (c : CellarIx) (x : Access)
  | updDiscards (c : CellarIx)
  | stpErr (p : PartIx) (x : Access)
  | sedCount (p : PartIx)
  | fabDiscards (d : PortDieIx)
  | fabFec (f : PortIx)
  | ckpErr (p : PartIx) (x : Access)
  | pwrErr (x : Access)
  | pcieLinkUp (speed : Fin 6) (width : Nat)
  | failingRead (addr len : Nat)
  | dhcpv4 (x : NetIn W32)
  | holdupWait
  | pwrGoodRise
  | coreUndervoltage
  | pciePerstN
  | trstN
  | bootWatchdog
  | minimalMode
  | controlTick
  | limiterRaise
  | boostLimit
  | cooldownEnd
  | wearSecond
  | wearWrite
  | pstateChange
  | sync
  | reportResend
  | getEndpointId
  | getMctpVersionSupport
  | getMessageTypeSupport
  | gettid
  | getpldmtypes
  | ideKm
  | queryShape
  | arm
  | haltPlan
  | releasePlan
  | queryPlan
  | partRead
  | unknownCode
  | mboxCompletion
  | twinRelease
  | groupJoin
  | groupLeave
  | reconfigure
  | queryStep
  | readToken
  | discard
  | go
  | becomeSpare
  | fmHalt
  | ckpQuery
  | ckpAbandon
  | sedQueryUnit
  | sedFence
  | sedSelftest
  | sedPantryRead
  | sedPantryLoad
  | sedReplicas
  | sedDigest
  | bootQuery
  | bootReset
  | bootSvnCommit
  | secXferWrite
  | secXferRead
  | secAttest
  | secKeyRequest
  | secSharedCreate
  | partCreate
  | partDestroy
  | bootCauses
  | dbgChallenge
  | dbgLock
  | dbgHalt
  | dbgResume
  | dbgScan
  | trcMark
  | cntClear
  | pwrSetState
  | pwrQuery
  | fabSetNode
  | fabRouteSet
  | fabRankmapSet
  | fabPort
  | fabQueryPort
  | hostwinSet
  | idcode
  | clamp
  | highz
  | tapDbgStatus
  | bypass
  | trcLost
  | powerRemoval
  | pdrRepository
  deriving DecidableEq, Repr

end Sys2Proof
end

