-- ==== Sys2Proof/Decode.lean ====
section
/-! DEFINITION. Reading words. `decodeTableWord` answers for the operation table, which gives no row any bits (the device is
modelled as a block that takes commands). The rest reads the instruction words of a plan's code: which word starts an
instruction, whether it is a valid encoding, and the fields that load checks 0x0C and 0x11 read (R57, R74 to R78). -/

namespace Sys2Proof

/-- The operation table gives no row bits, so no word spells a command. -/
def decodeTableWord (_nbits _w : Nat) : Option Instr := none

namespace Machine

/-- One instruction of a code: its byte offset, word 0, and word 1 when LEN says so and the code still holds it (R57). -/
structure Ins where
  off : Nat
  w0 : Word
  w1 : Option Word
  deriving DecidableEq, Repr

/-- LEN of word 0 (table CC-3). -/
def insLen (w : Word) : Bool := wbit w 63

/-- MAJOR of word 0. -/
def insMajor (w : Word) : Nat := wfield w 62 58

/-- MINOR of word 0. -/
def insMinor (w : Word) : Nat := wfield w 52 45

/-- The instructions of a code from a byte offset on: LEN gives each one's length, whatever the rest of the word holds
(R57). -/
def scanFrom : List Word → Nat → List Ins
  | [], _ => []
  | [w], off => [⟨off, w, none⟩]
  | w :: v :: rest, off =>
    if insLen w then ⟨off, w, some v⟩ :: scanFrom rest (off + 16) else ⟨off, w, none⟩ :: scanFrom (v :: rest) (off + 8)

/-- The instructions of a logical core's code. -/
def scan (l : LCoreE) : List Ins := scanFrom l.code 0

/-- Are bits [hi:lo] of a word zero? -/
def zeroBits (w : Word) (hi lo : Nat) : Bool := decide (wfield w hi lo = 0)

/-- The format pairs of table MA-3 (R139). -/
def fmtPairOk (a w : Nat) : Bool :=
  let fp8 := fun x => decide (x = 3 ∨ x = 4)
  let narrow := fun x => decide (3 ≤ x ∧ x ≤ 7)
  decide (a = 2 ∧ w = 2) || decide (a = 1 ∧ w = 1) || (fp8 a && narrow w) || (narrow a && fp8 w) || (narrow a && narrow w)

/-- Validity of a 64-bit instruction word by its class (R76, R77, R80 to R85, R89, R93, R94; tables CC-4, CC-6 to
CC-12). -/
def validShort (w : Word) : Bool :=
  let mn := insMinor w
  match insMajor w with
  | 0x00 =>
    zeroBits w 44 33 && zeroBits w 32 32
      && (match mn with
          | 0 | 1 | 2 => zeroBits w 31 0
          | 3 => zeroBits w 31 3
          | 4 => zeroBits w 31 16
          | _ => false)
  | 0x01 =>
    zeroBits w 20 0
      && (if mn ≤ 0x0B then zeroBits w 26 21
          else if mn = 0x0C then zeroBits w 26 25
          else if mn ≤ 0x0E then zeroBits w 32 21
          else false)
  | 0x02 => zeroBits w 32 32 && decide (mn ≤ 0x0B) && (!(decide (5 ≤ mn ∧ mn ≤ 7)) || zeroBits w 31 6)
  | 0x03 => zeroBits w 20 0 && decide (mn ≤ 7) && (mn == 3 || zeroBits w 26 21)
  | 0x04 => zeroBits w 20 0 && decide (mn ≤ 7) && (mn == 3 || zeroBits w 26 21) && (decide (mn ≤ 5) || zeroBits w 32 27)
  | 0x05 =>
    zeroBits w 40 39
      && (if mn ≤ 7 then (if wbit w 32 then decide (mn ≤ 5) else zeroBits w 25 0)
          else if mn ≤ 0x0A then zeroBits w 30 0
          else if mn = 0x0B then zeroBits w 34 0
          else false)
  | 0x06 =>
    zeroBits w 32 32 && zeroBits w 2 0 && (match mn with | 0 => zeroBits w 38 33 | 1 => true | _ => false)
  | 0x07 => mn == 0 && decide (wfield w 32 31 ≠ 3)
  | 0x08 => mn == 0 && decide (wfield w 32 31 ≠ 3) && zeroBits w 28 28
  | 0x09 =>
    zeroBits w 44 42 && zeroBits w 38 32
      && (match mn with
          | 0 | 1 => zeroBits w 41 39 && zeroBits w 31 16
          | 2 | 3 => true
          | _ => false)
  | 0x0A =>
    zeroBits w 32 32
      && (match mn with
          | 0 => zeroBits w 38 33 && zeroBits w 31 3
          | 1 => zeroBits w 31 3
          | 2 => zeroBits w 44 39 && zeroBits w 31 3
          | 3 => zeroBits w 38 33 && zeroBits w 31 17 && decide (wfield w 8 4 < 32) && decide (wfield w 16 9 < 256)
          | _ => false)
  | _ => false

/-- Validity of a 128-bit instruction by its class (R137 to R139, R145, R198, R209; tables MA-1, MA-2, VE-8, ST-1). -/
def validLong (w v : Word) : Bool :=
  let mn := insMinor w
  match insMajor w with
  | 0x0B => mn == 0 && zeroBits w 38 0
  | 0x10 =>
    match mn with
    | 0 =>
      decide (wfield w 20 19 ≠ 3) && fmtPairOk (wfield w 18 15) (wfield w 14 11)
        && (!(wbit w 0) || wfield w 18 15 == 7) && (!(wbit v 15) || wfield w 14 11 == 7)
        && decide (wfield w 2 1 ≠ 3) && zeroBits v 14 0
        && ((wfield w 9 8 == 1 || wfield w 9 8 == 2) || zeroBits w 7 3)
    | 1 => zeroBits w 44 0 && zeroBits v 63 22 && zeroBits v 17 0
    | _ => false
  | 0x11 =>
    mn == 0 && zeroBits w 44 39 && zeroBits w 32 21 && decide (wfield w 20 19 ≠ 3) && zeroBits w 18 15 && zeroBits w 10 0
      && decide (1 ≤ wfield w 14 11 ∧ wfield w 14 11 ≤ 7) && (!(wbit v 15) || wfield w 14 11 == 7)
      && zeroBits v 63 50 && zeroBits v 17 16 && zeroBits v 14 0
  | 0x14 =>
    match mn with
    | 0 =>
      zeroBits w 18 0 && decide (wfield w 32 29 ≤ 8) && (!(wbit w 28) || wfield w 32 29 == 0)
        && decide (1 ≤ wfield v 63 50 ∧ wfield v 63 50 ≤ 8192) && decide (1 ≤ wfield v 49 36 ∧ wfield v 49 36 ≤ 8192)
        && zeroBits v 35 22 && zeroBits v 16 0
    | 1 => decide (1 ≤ wfield w 44 39 ∧ wfield w 44 39 ≤ 32) && zeroBits w 38 0 && zeroBits v 63 22 && zeroBits v 17 0
    | _ => false
  | 0x15 => mn == 0 && decide (1 ≤ wfield w 38 34) && zeroBits w 33 0 && zeroBits v 63 22 && zeroBits v 17 0
  | 0x18 =>
    match mn with
    | 0 => zeroBits w 26 0 && zeroBits v 47 22 && zeroBits v 17 0
    | 1 => zeroBits w 38 0 && decide (1 ≤ wfield v 63 50 ∧ wfield v 63 50 ≤ 6144) && zeroBits v 49 22 && zeroBits v 17 0
    | _ => false
  | _ => false

/-- Is an instruction a valid encoding (R77)? A 128-bit instruction whose word 1 lies beyond the code is not (R78). -/
def validIns (i : Ins) : Bool :=
  if insLen i.w0 then (match i.w1 with | some v => validLong i.w0 v | none => false) else validShort i.w0

/-- The target of a BR: its own address plus OFF32 (R84). -/
def brTarget (i : Ins) : Int := (i.off : Int) + ((i.w0.setWidth 32).toInt)

/-- Is an instruction a BR whose target is not the start of an instruction of the code (R78)? -/
def badBr (starts : List Nat) (i : Ins) : Bool :=
  insMajor i.w0 == 6 && insMinor i.w0 == 0 && !(insLen i.w0) && !(starts.any (fun o => decide ((o : Int) = brTarget i)))

/-- Is an offset the start of an instruction of a code (R84)? -/
def isStart (l : LCoreE) (o : Nat) : Bool := (scan l).any (fun i => i.off == o)

/-- The first offset at which a code fails load check 0x12, if it does: that of the instruction, or of a partial word at the end, be it
word 1 of a 128-bit instruction (R78). -/
def codeFault (l : LCoreE) : Option Nat :=
  let is := scan l
  let starts := is.map (·.off)
  let tail := l.codeLen / 8 * 8
  match is.find? (fun i => !validIns i || badBr starts i) with
  | some i => some (if l.codeLen % 8 ≠ 0 ∧ insLen i.w0 ∧ i.w1 = none ∧ i.off + 8 = tail then tail else i.off)
  | none => if l.codeLen % 8 ≠ 0 then some tail else none

/-- Is an instruction whole: a 128-bit one holds its word 1 within the code? One that is not is left to check 0x12 (R57). -/
def insWhole (i : Ins) : Bool := !(insLen i.w0) || i.w1.isSome

/-- Is an instruction a WAITB, by MAJOR and MINOR alone (R57)? -/
def isWaitb (i : Ins) : Bool := insWhole i && insMajor i.w0 == 9 && insMinor i.w0 == 0

/-- Is an instruction a SIGB, by MAJOR and MINOR alone (R57)? -/
def isSigb (i : Ins) : Bool := insWhole i && insMajor i.w0 == 9 && insMinor i.w0 == 1

/-- Is an instruction an SSTART, by MAJOR and MINOR alone (R57)? -/
def isSstart (i : Ins) : Bool := insWhole i && insMajor i.w0 == 0x18 && insMinor i.w0 == 0

/-- Is an instruction an MMA or a WPRE (R57)? -/
def isMmaWpre (i : Ins) : Bool := (insMajor i.w0 == 0x10 || insMajor i.w0 == 0x11) && insMinor i.w0 == 0

/-- The barrier identifier of a WAITB or SIGB. -/
def insBarrier (i : Ins) : Nat := wfield i.w0 15 0

/-- Does the code of a logical core wait on a barrier? -/
def codeWaits (l : LCoreE) (b : Nat) : Bool := (scan l).any (fun i => isWaitb i && insBarrier i == b)

end Machine
end Sys2Proof
end

