-- ==== Sys2Proof/Config.lean ====
section
/-! DEFINITION. The free values: what the manual leaves open and no reset, command or operand fixes. Each is an opaque
constant without a body, applied to the state's counter of free values or to the operands it depends on, so that no proof
can see what it is (log entries 1 to 3). -/

namespace Sys2Proof

/-- The byte that an HBM3 address which nothing has written since its key was loaded decrypts to (R248: unspecified). -/
opaque Config.unwrittenByte : Nat → Byte

/-- The nanoseconds of reference time that pass before the `i`-th look at the clock (R6, R94 selector 5). -/
opaque Config.elapsedNs : Nat → Nat

/-- The core cycles that pass before the `i`-th look at a cycle count (R94 selector 6, R457). -/
opaque Config.elapsedCycles : Nat → Nat

/-- What a counter of cycles or energy has grown by at the `i`-th sample (table DB-11; log entry 99). -/
opaque Config.counted : Nat → Nat

/-- Does the `i`-th sample of a counter through its register fall in the management cycle of the clear before it (R467)? -/
opaque Config.coincident : Nat → Bool

/-- Is the trace queue or the dump path full for the `i`-th packet, or can the packet not leave in time (R453, R454, R465)? -/
opaque Config.traceFull : Nat → Bool

/-- What the hardware does to the `i`-th read or write of HBM3 of which no operand says it: a burst that the stack reports uncorrected, a parity
error that persists, a mismatch (R238, R250, R252). -/
opaque Config.readErr : Nat → ReadErr

/-- A byte of the boot ROM, whose contents the manual does not give (table PK-5). -/
opaque Config.romByte : Nat → Byte

/-- The 256-bit UDS that the fuses hold (R429; table BS-9). -/
opaque Config.uds : List Byte

/-- The IV of the GMAC over section OWNER (table BS-6), which no rule gives. -/
opaque Config.ownerIv : List Byte

/-- The public key that belongs to wrapped private keys of section IDENTITY: 0 RSA-3072, 1 SLH-DSA, 2 the ML-KEM-1024 encapsulation key. -/
opaque Config.publicKey : Nat → List Byte → List Byte

/-- The secret that opens under wrapped private keys, from an ML-KEM-1024 ciphertext and the secret wrapped in AES-256-GCM (R428, R432). -/
opaque Config.decapsulate : List Byte → List Byte → List Byte

/-- The `i`-th fresh 64-bit value that the device draws or computes where the manual gives no function for it: random
nonces and keys, MAC words, digests and signatures. -/
opaque Config.freeWord : Nat → Word

/-- The cause number of a FAIL whose numbering the manual does not give (table FB-4): 0 VEST_FULL (R304), 1 vote failure
(R336), 2 a failure of the update unit or reduction engine (R296), 3 a failure of the snapshot engine. -/
opaque Config.causeCode : Nat → BitVec 16

/-- Shape word 5 of a logical core that shares its physical core, by its own footprint and the other's (table PC-1: the bytes
available to it, for which the manual gives no formula). -/
opaque Config.sharedStore : Nat → Nat → Nat

/-- The rank to which a partition sends the CREDIT frames of one of its RECEIVE channels (R371: the channel entry of table
FB-5 names no peer). -/
opaque Config.creditRank : Nat → Nat → Nat

/-- The bytes of a scan chain beyond those whose layout table DB-9 gives, at the `i`-th scan: their number and order are open. -/
opaque Config.chainRest : Nat → Nat → List Byte

/-- The bits of a byte of a chain, by chain and offset, that hold a key or a secret (R447). -/
opaque Config.secretBits : Nat → Nat → Byte

/-- The manufacturer identity that the fuses hold (R449: IDCODE [11:1], without a value). -/
opaque Config.manufacturer : BitVec 11

/-- The buffer bytes that a fabric port keeps for a virtual lane and a HOPS value, by 8 × lane + HOPS: R365 gives no size (log entry 206). -/
opaque Config.ingressSpace : Nat → Nat

end Sys2Proof
end

