-- ==== Sys2Proof/Machine/Parts/Core.lean ====
section
/-! DEFINITION. State of one core: task contexts, engine queues, matrix arrays, vector banks, core store (R64 to R72, R96,
R97, R103, R117, R134, R135, R154, R160, R172, R177, R193, R217; tables CC-15 to CC-20, MA-9 to MA-12, VE-13 to VE-16). -/

namespace Sys2Proof.Machine

/-- The states of table CC-1 (R68). -/
inductive CtxSt where
  | none | run | ready | blocked | parked | stopped | faulted
  deriving DecidableEq, Repr

/-- A condition that a blocked instruction waits for (table CC-2, R161, R201, R210, R225). -/
inductive Cond where
  /-- a load or TRD that a register awaits has arrived -/
  | regs (rs : List Reg)
  /-- the engine's instruction queue has a free entry -/
  | queue (e : Engine)
  /-- the core store lines [lo, hi) are present -/
  | lines (lo hi : Nat)
  /-- no other context holds the kept output -/
  | keptFree
  /-- the flume of the logical core's bank holds that many filled slots -/
  | flume (count : Nat)
  /-- no queued instruction and no flume slot names the chain entry -/
  | entryFree (e : Nat)
  /-- the local stream context is idle -/
  | sctxIdle (i : Nat)
  /-- the barrier is complete for the current step -/
  | barrier (b : Nat)
  /-- the completion counter has reached the value -/
  | counter (c : Cnt) (v : W32)
  /-- earlier accesses in the scoped spaces are complete -/
  | memDone (scope : Nat)
  /-- earlier engine instructions of the context are complete -/
  | engineDone
  /-- earlier vector instructions of the context are complete -/
  | vectorDone
  deriving DecidableEq, Repr

/-- One outstanding scalar access to the hall buffer or HBM3 with its instruction's address (R87, R97). -/
structure Acc where
  space : Space
  store : Bool
  addr : Nat
  size : Nat
  signed : Bool
  rd : Reg
  data : Nat
  pc : BitVec 40
  deriving DecidableEq, Repr

/-- A TRD whose element is read once `after` earlier vector instructions of the context have completed (R93). -/
structure Trd where
  rd : Reg
  treg : Nat
  entry : Nat
  after : Nat
  deriving DecidableEq, Repr

/-- An exception record, CC_EXC*i* and CC_EXC_ADDR*i* (tables CC-19 and CC-20). -/
structure ExcRec where
  code : Nat
  cls : Nat
  secondary : Bool
  valid : Bool
  pc : BitVec 40
  info : Word
  deriving DecidableEq, Repr

/-- A hardware task context (R64). -/
structure Ctx where
  st : CtxSt
  pc : BitVec 40
  s : Vector Word 64
  p : Vector Bool 16
  b : Vector Word 8
  c : Vector W32 8
  waits : List Cond
  accs : List Acc
  trds : List Trd
  exc : ExcRec
  deriving DecidableEq, Repr

/-- A logical core bound to the core (R41, R67; CC_BIND): its contexts are `ctxLo` to `ctxLo + ctxN − 1`, and its
footprint begins at core store offset `base`. -/
structure Bound where
  part : PartIx
  lcore : Nat
  ctxLo : Nat
  ctxN : Nat
  base : Nat
  deriving DecidableEq, Repr

/-- A step of a fold plan (R149), with the duplicate passes of a sampled output group (R332). -/
inductive FoldStep where
  | pass (mg kb : Nat) (blocks : List Nat)
  | drain (mg : Nat) (blocks : List Nat)
  | dup (mg kb : Nat) (blocks : List Nat) (last : Bool)
  deriving DecidableEq, Repr

/-- A stage word of table VE-2. -/
structure Stage where
  op : Nat
  fmt : Nat
  src : Nat
  slot : Nat
  treg : Nat
  param : Nat
  imm : W32
  deriving DecidableEq, Repr

/-- A chain definition (R178): PACK, RMODE and the stages. -/
structure Chain where
  pack : Bool
  rmode : Bool
  stages : List Stage
  deriving DecidableEq, Repr

/-- An element that a RED stage has taken: the stage number, the tile of the element stream that it came in with, the row, the column and
the value (R186). -/
structure RedEl where
  stage : Nat
  tile : Nat
  m : Nat
  n : Nat
  x : W32
  deriving DecidableEq, Repr

/-- An open output tile: its row group and N-block, the array and half that hold it (R149, R151). -/
structure Tile where
  mg : Nat
  nb : Nat
  arr : Nat
  half : Nat
  deriving DecidableEq, Repr

/-- What the matrix queue holds for an MMA: the fields, the latched operand words, the live stored rows of A, destination and broadcast slots,
the chain, the fold plan with the arrays it was made for, and its progress (R149, R152, R179): `pIx` and `dIx` are the places in the plan of the next pass and the next drain, `tIx` the tile of that
drain, `placed` the tiles placed and not yet drained, `held` those drained whose comparison is not yet queued, `dups` those of duplicates,
`halves` the half that each array used last; `pre`: the first pass finds its blocks preloaded (R159), `ahead`: the shadow registers hold
the blocks of the next pass (R134), `wPin`: the lines of W are still pinned (R163), `counted`: the counter has been incremented while duplicate
passes are left (R153). -/
structure MmaJob where
  f : MmaF
  a : Word
  w : Word
  live : List Bool
  out : Word
  slots : Vector Word 8
  chain : Chain
  arrays : List Nat
  plan : List FoldStep
  pIx : Nat
  dIx : Nat
  tIx : Nat
  reds : List RedEl
  tiles : Nat
  placed : List Tile
  held : List Tile
  dups : List Tile
  halves : Tbl Nat
  ord : Nat
  pre : Bool
  ahead : Bool
  wPin : Bool
  counted : Bool
  deriving DecidableEq, Repr

/-- An entry of the matrix queue (R96, R152); `holds` of an MRELEASE: its context held the kept output at issue. -/
inductive MKind where
  | mma (j : MmaJob)
  | wpre (f : WpreF) (w : Word) (done : Bool)
  | release (cnt : Option Cnt) (holds : Bool)
  deriving DecidableEq, Repr

/-- A matrix queue entry with its issuing context and its instruction's address. -/
structure MEntry where
  ctx : CtxIx
  pc : BitVec 40
  kind : MKind
  deriving DecidableEq, Repr

/-- A vector queue entry's work (R198); that of a VPOP with the line ranges it pins. -/
inductive VKind where
  | run (f : VrunF) (src out : Word) (chain : Chain)
  | pop (pins : List (Nat × Nat)) (count : Nat) (chains : List Chain)
  | chdef (entry : Nat) (chain : Chain)
  deriving DecidableEq, Repr

/-- A vector queue entry with its issuing context, its instruction's address, bank, counter and latched broadcast slots (R92). -/
structure VEntry where
  ctx : CtxIx
  pc : BitVec 40
  bank : Fin 2
  cnt : Option Cnt
  slots : Vector Word 8
  kind : VKind
  deriving DecidableEq, Repr

/-- A stream queue entry (R96, R212): an SSTART whose stream context is already active, or an SRELEASE. -/
inductive SKind where
  | start (phys : Nat)
  | release (line lines : Nat) (cnt : Option Cnt)
  deriving DecidableEq, Repr

/-- A stream queue entry with its issuing context. -/
structure SEntry where
  ctx : CtxIx
  kind : SKind
  deriving DecidableEq, Repr

/-- An accumulator bank entry (R117). -/
structure AccE where
  value : BitVec 96
  nan : Bool
  pinf : Bool
  ninf : Bool
  ovr : Bool
  mode : Bool
  used : Bool
  deriving DecidableEq, Repr

/-- States of an accumulator half, codes of MA_STATUS.HALF0 (table MA-10). -/
inductive HalfSt where
  | free | acc | draining | kept
  deriving DecidableEq, Repr

/-- One half of an accumulator bank: its state, its entries by 128 × row + column, its term count (R121, R135), the comparisons that still
hold it, and whether nothing else does: its drain has ended, or it has none (R332, R333); `owner` is the context of the kept output in it
(table MA-10). -/
structure Half where
  st : HalfSt
  acc : Tbl AccE
  terms : Nat
  hold : Nat
  idle : Bool
  owner : Option CtxIx
  deriving DecidableEq, Repr

/-- A stationary block held in the weight or shadow registers: the raw elements by row, with each row's block exponents
(R134). -/
structure WBlock where
  rows : List (List Nat)
  exps : List (List Nat)
  deriving DecidableEq, Repr

/-- The SW-visible error bits of one array and its configuration (tables MA-9 to MA-11). -/
structure MaRegs where
  ramp : Nat
  rampHeld : Option Nat
  parity : Bool
  refused : Bool
  corrCount : Nat
  uncorr : Bool
  corr : Bool
  parityErr : Bool
  deriving DecidableEq, Repr

/-- One matrix array (R134, R135). -/
structure Arr where
  wreg : WBlock
  shadow : WBlock
  half0 : Half
  half1 : Half
  fenced : Bool
  fencePending : Bool
  idle : Bool
  regs : MaRegs
  deriving DecidableEq, Repr

/-- The fields of a WPRE whose next MMA has not been issued yet, with its logical core, whose footprint they refer to (R141, R159). -/
structure WKey where
  part : PartIx
  lcore : Nat
  w : Word
  df : Dataflow
  fmtW : Fmt
  bxw : Bool
  n : Nat
  k : Nat
  deriving DecidableEq, Repr

/-- A kept output: its context and its extents (R154, R155). -/
structure Kept where
  ctx : CtxIx
  m : Nat
  n : Nat
  deriving DecidableEq, Repr

/-- What the engine records with a flume slot (R193). -/
structure FSlot where
  slot : Nat
  m : Nat
  n : Nat
  i : Nat
  j : Nat
  rows : List Nat
  chain : Nat
  out : Word
  ctx : CtxIx
  deriving DecidableEq, Repr

/-- A bank of the vector engine: tile registers t0–t15 by 8,192 × register + entry, chain entries, flume (R172). -/
structure VBank where
  treg : Tbl W32
  chains : Tbl Chain
  flume : List FSlot
  claimed : Nat
  next : Nat
  waiting : List (FSlot × List (Nat × W32))
  deriving DecidableEq, Repr

/-- The VE_ registers of a core (tables VE-13 to VE-15). -/
structure VeRegs where
  share : Nat
  shareHeld : Option Nat
  parity : Bool
  refused : Bool
  fencePending : BitVec 8
  fenced : BitVec 8
  corrCount : Nat
  chainPar : Bool
  uncorr : Bool
  corr : Bool
  lanePar : Bool
  deriving DecidableEq, Repr

/-- State of a consumer buffer line (R217); a line in no consumer buffer is listed nowhere and counts as present. -/
inductive LineSt where
  | free
  | filling (phys : Nat)
  | present (rel : Bool)
  deriving DecidableEq, Repr

/-- One core. `stopping`: a partition stop is on its way to it and takes effect at its next instruction boundary (R97). `sqTaken`: the sluice has
taken an entry of the stream queue in this sluice cycle (R212). -/
structure Core where
  ctx : Vector Ctx 4
  current : CtxIx
  stopped : Bool
  stopping : Bool
  issued : Nat
  cycles : Nat
  waitLimit : Nat
  waitHeld : Option Nat
  quantum : Nat
  quantumHeld : Option Nat
  bound : List Bound
  fenced : Bool
  fencePending : Bool
  mq : List MEntry
  vq : List VEntry
  sq : List SEntry
  sqTaken : Bool
  kept : Option Kept
  preload : Option WKey
  arrays : Vector Arr 4
  banks : Vector VBank 2
  ve : VeRegs
  store : Tbl Byte
  lines : Tbl LineSt
  pins : Tbl Nat
  deriving DecidableEq, Repr

/-! ### Values after reset -/

/-- An empty exception record (tables CC-19 and CC-20: reset 0). -/
def ExcRec.reset : ExcRec := ⟨0, 0, false, false, 0, 0⟩

/-- A context after reset: state NONE (table CC-16); DESIGN CHOICE (log entry 8): the registers, whose reset the manual does not give,
hold 0 (safe only until ARM, which writes 0: unsafe). -/
def Ctx.reset : Ctx :=
  ⟨.none, 0, Vector.replicate 64 0, Vector.replicate 16 false, Vector.replicate 8 0, Vector.replicate 8 0, [], [], [], ExcRec.reset⟩

/-- A clear accumulator entry (R117). -/
def AccE.clear : AccE := ⟨0, false, false, false, false, false, false⟩

/-- A free half, its entries clear. DESIGN CHOICE (log entry 220): the manual gives accumulators no reset value. -/
def Half.reset : Half := ⟨.free, [], 0, 0, false, none⟩

/-- Table MA-9 and MA-11 at reset. -/
def MaRegs.reset : MaRegs := ⟨0x20, none, true, false, 0, false, false, false⟩

/-- An array after reset. DESIGN CHOICE (log entry 220): both sets of weight registers are empty. -/
def Arr.reset : Arr := ⟨⟨[], []⟩, ⟨[], []⟩, Half.reset, Half.reset, false, false, true, MaRegs.reset⟩

/-- A vector bank after reset: the flume is empty. DESIGN CHOICE (log entry 220): tile registers hold +0 and chain entries 1 to 31
are empty, as ARM leaves them (R173, R177). -/
def VBank.reset : VBank := ⟨[], [], [], 0, 0, []⟩

/-- Tables VE-13 to VE-15 at reset. -/
def VeRegs.reset : VeRegs := ⟨0, none, true, false, 0, 0, 0, false, false, false, false⟩

/-- A core after reset (tables CC-15 to CC-20). -/
def Core.reset : Core :=
  { ctx := Vector.replicate 4 Ctx.reset, current := 0, stopped := false, stopping := false, issued := 0, cycles := 0
    waitLimit := 0x03E8, waitHeld := none, quantum := 0x0100, quantumHeld := none, bound := [], fenced := false
    fencePending := false, mq := [], vq := [], sq := [], sqTaken := false, kept := none, preload := none
    arrays := Vector.replicate 4 Arr.reset, banks := Vector.replicate 2 VBank.reset, ve := VeRegs.reset
    store := [], lines := [], pins := [] }

end Sys2Proof.Machine
end

