-- ==== Sys2Proof/Machine/Parts/Sed.lean ====
section
/-! DEFINITION. State of the defence against silent errors: unit states, sampled items under comparison, pantry records,
digests (R329 to R356; tables SE-3, SE-4, SE-8, SE-13 to SE-19). -/

namespace Sys2Proof.Machine

/-- States of a fenceable unit, table SE-3 in its order. -/
inductive UnitSt where
  | inService | suspect | fenceOrdered | fenced
  deriving DecidableEq, Repr

/-- What the device keeps of a fenceable unit (R337, R338, table SE-8): state, blame count, clean count, the step of the last blame. `cause` is
what ordered the fence (table SE-12, code 0x21); `listed` says that the fence map has an entry for the suspect (R348); `seen` gives for each
partition the step and attempt in which the unit was last blamed (R337). -/
structure UnitE where
  st : UnitSt
  blames : Nat
  clean : Nat
  lastStep : Word
  cause : Nat
  listed : Bool
  seen : List (PartIx × Word × Nat)
  deriving DecidableEq, Repr

/-- The three units that execute one share of a sampled item: original, checker, and voter if there is one (table SE-1). -/
structure Trio where
  orig : Nat
  check : Nat
  vote : Option Nat
  deriving DecidableEq, Repr

/-- A bound slot of an update granule (R334, R341): the tensor, its format code and exponent, the index of its first element (R116), the raw bytes
that the original die has read. -/
structure UpdSlot where
  id : Nat
  fmt : Nat
  exp : Int
  first : Word
  bytes : List Byte
  deriving DecidableEq, Repr

/-- What a second run of an update granule takes: base step, step, seed, program, constants, the granule registers as the program finds them, and the
slots 0 to 7 (R275, R276, R334). -/
structure UpdWork where
  t0 : Word
  step : Word
  seed : Word
  ops : List W32
  consts : List W32
  regs : List (List W32)
  slots : List (Option UpdSlot)
  deriving DecidableEq, Repr

/-- What a sampled item was computed from, as its second run takes it (R332 to R334, R341): an output group of an MMA with its operands in
the core store and the bytes of the operand rows that it reads, by their place there; a tile of an element stream with its present elements as
(row, column, value), the values that each stage with an element operand takes there, and those that enter each write and RED stage; a granule of a binding, with the bytes of each ST and STSR output as the original stored them; a granule of a
reduction, with the LOCAL granule and the sum as written. -/
inductive Work where
  | matrix (f : MmaF) (a w : Word) (base : Nat) (live : List Bool) (mg : Nat) (blocks : List Nat) (held : List (Nat × List Byte))
  | vector (chain : Chain) (slots : Vector Word 8) (els : List (Nat × Nat × W32)) (srcs seen : List (List (Nat × Nat × W32)))
  | update (binding granule : Nat) (w : UpdWork) (outs : List (List Byte))
  | reduction (red granule : Nat) (loc sum : List W32)
  deriving DecidableEq, Repr

/-- A sampled item whose comparison or vote has not settled (R329, R332, R336): kind of table SE-4, partition, place and
ordinal, its trios, the matrix halves it holds as (array, half) — of an output group the originals' in the order of its blocks, then the
duplicates' —, the core store lines it pins as ranges, what it was computed from, and the number of the trio whose results differed once the
comparison has found one. -/
structure SedItem where
  kind : Nat
  part : PartIx
  place : Nat
  ordinal : Nat
  step : Word
  attempt : Nat
  trios : List Trio
  halves : List (Nat × Nat)
  pins : List (Nat × Nat)
  work : Work
  differ : Option Nat
  deriving DecidableEq, Repr

/-- A pantry record, table SE-4, without its constant and derived fields. -/
structure PanRec where
  kind : Nat
  imported : Bool
  hits : Nat
  unit : Nat
  step : Word
  serial : Word
  place : Word
  operands : List Byte
  expect : List Byte
  deriving DecidableEq, Repr

/-- A running self-test (R343): unit and pantry record still to be replayed, in order; `cmd` says that SED_SELFTEST started
it, with the counts of its results. -/
structure SelfTest where
  todo : List (Nat × Nat)
  cmd : Bool
  run : Nat
  failed : Nat
  deriving DecidableEq, Repr

/-- SED_RATE of a partition with the B fields that wait for its next step (table SE-17). -/
structure SedRate where
  every : Nat
  shift : Nat
  everyHeld : Option Nat
  shiftHeld : Option Nat
  deriving DecidableEq, Repr

/-- SED_COUNT of a partition (table SE-18). -/
structure SedCount where
  compared : Nat
  ineligible : Nat
  disagreed : Nat
  deriving DecidableEq, Repr

/-- The record of SED_LAST_VOTE (table SE-19); `fresh`: it was loaded in the management cycle of the newest verdict (R356). -/
structure LastVote where
  valid : Bool
  fresh : Bool
  verdict : Nat
  part : Nat
  voter : Nat
  checker : Nat
  original : Nat
  deriving DecidableEq, Repr

/-- The digest exchange of a partition (R350, R351): replica ranks, the digest of each page as it was last read, the page digests of the last four
exchanged versions, and the peers' digests held as (rank, version, digest), the matches counted. -/
structure Digests where
  replicas : List Nat
  pages : Tbl (BitVec 256)
  own : List (Word × List (BitVec 256))
  peers : List (Nat × Word × BitVec 256)
  agreed : Nat
  deriving DecidableEq, Repr

/-- The SED block. -/
structure Sed where
  clearCount : Nat
  fenceAfter : Nat
  pcErrLimit : Nat
  degraded : Bool
  refused : Bool
  overflow : Bool
  digestErr : Bool
  comparator : Bool
  novote : Bool
  split : Bool
  blameErr : Bool
  seed : Word
  rates : Vector SedRate 8
  counts : Vector SedCount 8
  last : LastVote
  units : Tbl UnitE
  items : List SedItem
  test : Option SelfTest
  digests : Vector Digests 8
  pcEvents : List (Nat × Nat)
  matOrd : Tbl Nat
  vecOrd : Tbl Nat
  updOrd : Tbl Nat
  deriving DecidableEq, Repr

/-- A unit in service without a blame. -/
def UnitE.fresh : UnitE := ⟨.inService, 0, 0, 0, 0, false, []⟩

/-- Tables SE-13 to SE-19 at reset. -/
def Sed.reset : Sed :=
  { clearCount := 0xF4240, fenceAfter := 2, pcErrLimit := 4, degraded := false, refused := false, overflow := false
    digestErr := false, comparator := false, novote := false, split := false, blameErr := false, seed := 0
    rates := Vector.replicate 8 ⟨16, 6, none, none⟩, counts := Vector.replicate 8 ⟨0, 0, 0⟩
    last := ⟨false, false, 0, 0, 0, 0, 0⟩, units := [], items := [], test := none
    digests := Vector.replicate 8 ⟨[], [], [], [], 0⟩, pcEvents := [], matOrd := [], vecOrd := [], updOrd := [] }

end Sys2Proof.Machine
end

