-- ==== Sys2Proof/Machine/Parts/Boot.lean ====
section
/-! DEFINITION. State of boot, the flash and the persistent record (R415 to R426; tables BS-1 to BS-7). -/

namespace Sys2Proof.Machine

/-- What a fence map says (table SE-8). -/
structure FenceMap where
  gen : Nat
  arrays : BitVec 160
  groups : BitVec 320
  cores : BitVec 40
  upd : BitVec 12
  pcs : List (Option Nat)
  lanes : BitVec 144
  suspects : List (Nat × UnitE)
  deriving DecidableEq, Repr

/-- A cause record (table BS-6): BOOT_COUNT, stage, cause, detail. -/
structure CauseRec where
  count : Nat
  stage : Nat
  cause : Nat
  detail : Nat
  deriving DecidableEq, Repr

/-- The board configuration block, table BS-5. -/
structure Cfg where
  ipv4 : W32
  prefixLen : Nat
  slaac : Bool
  vlanOn : Bool
  vlan : Nat
  gateway : W32
  ipv6 : BitVec 128
  fmAddr : BitVec 128
  fmPort : Nat
  i3cSa : Nat
  xspiMhz : Nat
  huCap : Nat
  huVmin : Nat
  huRatio : Nat
  huPower : Nat
  tpp : Nat
  page : Nat
  deriving DecidableEq, Repr

/-- Life-cycle fuses (R427). -/
inductive LcFuse where
  | factory | provisioned | scrapped
  deriving DecidableEq, Repr

/-- A fuse slot of the image keys: the SHA-384 of RSA_PUB ‖ SLH_PUB, and whether the slot is revoked (R420). -/
structure KeySlot where
  hash : List Byte
  revoked : Bool
  deriving DecidableEq, Repr

/-- The fuses of boot and security (R420, R421, R427, R428): life cycle, SVN, the two image key slots, the fuse that locks the UDS. -/
structure SecFuse where
  lc : LcFuse
  svn : Nat
  keys : List KeySlot
  udsLock : Bool
  deriving DecidableEq, Repr

/-- The running image (tables BS-10, BS-17): VERSION, KEY_INDEX, SVN, digest. -/
structure RunImage where
  version : Nat
  keyIndex : Nat
  svn : Nat
  digest : List Byte
  deriving DecidableEq, Repr

/-- A shared key: partition, kind (1 GROUP, 2 RUN), identifier, secret of 256 bits (R432). -/
structure SharedKey where
  part : PartIx
  kind : Nat
  ident : Nat
  secret : Vector Word 4
  deriving DecidableEq, Repr

/-- What a boot stage does once its section writes have ended (R416 to R418): stage 2 enters minimal mode or ends, stage 7 ends, a failed
start resets the device. -/
inductive Await where
  | record (low : Bool)
  | ready
  | fail
  deriving DecidableEq, Repr

/-- The BOOT and SEC blocks, the always-on watchdog and hold-up sampling, the flash. `stage` is the stage of table BS-2 that runs, 8 once stage 7
has completed; `vbank` is the bank voltage in hundredths of a millivolt; `lastStage` is the last stage that the start before the last reset
reached (log entry 246); `wants` are the sections with a change to write, in the order requested, `staged` the payloads of those that a command writes,
`failed` those whose last write has failed (R425); `awaits` is what a stage does after its writes; `recordRead` says that stage 2 has read the
record, `repair` is the payload of section REPAIR that the links run with, `owner` the accepted owner blob (R428), `seqBase` the SEQ_BASE to be
written and `seqLimit` that of the last write (R433); `keyNonce` is the nonce of the last key request (R432). -/
structure Boot where
  stage : Nat
  minimal : Bool
  attempts : Nat
  bootCount : Nat
  causes : List CauseRec
  cfg : Cfg
  cfgDefaults : Bool
  recordLost : Bool
  holdupSent : Bool
  writeErr : Bool
  vbank : Nat
  wants : List Nat
  staged : Tbl (List Byte)
  failed : List Nat
  awaits : Option Await
  recordRead : Bool
  repair : List Byte
  owner : Option (List Byte)
  wdRun : Bool
  wdFlag : Bool
  lastStage : Nat
  image : RunImage
  seqBase : Nat
  seqLimit : Nat
  fmFloor : Nat
  fenceGen : Nat
  keys : List SharedKey
  keyNonce : Option (Vector Word 4)
  flash : Tbl Byte
  fuses : SecFuse
  sram : Tbl Byte
  deriving DecidableEq, Repr

/-- The defaults of table BS-5. -/
def Cfg.default : Cfg :=
  { ipv4 := 0, prefixLen := 0, slaac := true, vlanOn := false, vlan := 0, gateway := 0, ipv6 := 0, fmAddr := 0, fmPort := 47162
    i3cSa := 0, xspiMhz := 100, huCap := 15000, huVmin := 7000, huRatio := 400, huPower := 6000, tpp := 800, page := 256 }

/-- The BOOT and SEC blocks of a device that has not yet been powered. DESIGN CHOICE (log entry 7): the flash is blank, the fuses are those of
a device in FACTORY with both image key slots live, key hashes 0 and SVN 0; the manual gives no device's own contents. -/
def Boot.reset : Boot :=
  { stage := 0, minimal := false, attempts := 0, bootCount := 0, causes := [], cfg := Cfg.default, cfgDefaults := false
    recordLost := false, holdupSent := false, writeErr := false, vbank := 0, wants := [], staged := [], failed := [], awaits := none
    recordRead := false, repair := [], owner := none
    wdRun := false, wdFlag := false, lastStage := 0, image := ⟨0, 0, 0, List.replicate 48 0⟩, seqBase := 0, seqLimit := 0, fmFloor := 0
    fenceGen := 0, keys := [], keyNonce := none, flash := []
    fuses := ⟨.factory, 0, List.replicate 2 ⟨List.replicate 48 0, false⟩, false⟩, sram := [] }

end Sys2Proof.Machine
end

