-- ==== Sys2Proof/Machine/Parts/Cellar.lean ====
section
/-! DEFINITION. State of a cellar die: scheduler, block trackers, tag log, scrub, remap, temperature, update unit and
reduction engine (R236 to R297; tables CM-9 to CM-15, UP-4 to UP-9). -/

namespace Sys2Proof.Machine

/-- Who made a request at a cellar die (R251, R256). -/
inductive Requester where
  | stream (die : DieIx) (phys : Nat) (chunk : Nat)
  | scalar (core : CoreIx) (ctx : CtxIx)
  deriving DecidableEq, Repr

/-- A read or write of HBM3 on its way. `addrs` gives for each byte its offset in the partition's HBM3 and the data-space
offset that the version map yields, `data` the bytes of a write, `got` the bytes that a read has collected by position,
`atDie` the cellar dies that have taken their share. -/
structure Req where
  id : Nat
  who : Requester
  part : PartIx
  tensor : Nat
  write : Bool
  addrs : List (Nat × Nat)
  data : List Byte
  got : Tbl Byte
  atDie : List CellarIx
  failed : Bool
  deriving DecidableEq, Repr

/-- A pending sector (variant G) or run (variant S) of one pseudo-channel, as one request asks for it (R254, R255): the
data-space address of its first byte, and its age marks. Pieces of several requests with one base form one run. -/
structure Piece where
  req : Nat
  pc : Nat
  bank : Nat
  row : Nat
  base : Nat
  aged : Bool
  held : Bool
  deriving DecidableEq, Repr

/-- A block tracker (R251): the block, the requester, the bytes of the block that it has requested and those that have
passed, and whether it may still yield a check. -/
structure Tracker where
  block : Nat
  die : DieIx
  phys : Nat
  write : Bool
  asked : BitVec 4096
  passed : BitVec 4096
  good : Bool
  deriving DecidableEq, Repr

/-- The record of CEL_TAG_LOG (table CM-12). -/
structure TagLog where
  valid : Bool
  cause : Nat
  source : Nat
  offset : Nat
  deriving DecidableEq, Repr

/-- A pseudo-channel fence in progress (R243): the pseudo-channel, the next local block to copy, and once the copy has
ended the partitions whose step boundary it still waits for. -/
structure Remap where
  pc : Nat
  next : Nat
  copied : Bool
  waits : List PartIx
  deriving DecidableEq, Repr

/-- An open running sum of the reduction engine (R271): NEXT and S. -/
structure RSum where
  part : PartIx
  red : Nat
  granule : Nat
  next : Nat
  sum : List W32
  deriving DecidableEq, Repr

/-- A parked contribution with the rank that sent it (R271, R274). -/
structure Parked where
  part : PartIx
  red : Nat
  granule : Nat
  rank : Nat
  step : Word
  vals : List W32
  deriving DecidableEq, Repr

/-- Progress of one update binding on one die (R277, R280): whether it is active, its constants, the granules it has run in the step, those that
it has reported done (R334), whether it waits for a free block that a retention or a sweep can still free, and whether it has been reported for want
of one (R292). -/
structure BindSt where
  part : PartIx
  binding : Nat
  active : Bool
  consts : List W32
  ran : List Nat
  done : List Nat
  waiting : Bool
  dry : Bool
  deriving DecidableEq, Repr

/-- The UPD_ block (tables UP-4 to UP-9): configuration, errors, engines. `written` lists the target granules that the
reduction engine has written in the step, by partition and reduction; `granules` counts those updated in the current step of each partition. -/
structure Upd where
  reportMs : Nat
  reportHeld : Option Nat
  reserve : Nat
  reserveHeld : Option Nat
  fenced : Bool
  fencePending : Bool
  poolExhausted : Bool
  lanePar : Bool
  stagingUnc : Bool
  stagingCorr : Bool
  corrCount : Nat
  refused : Nat
  unlisted : Nat
  stale : Nat
  dup : Nat
  granules : Vector Nat 8
  sums : List RSum
  parked : List Parked
  written : List (PartIx × Nat × Nat)
  localRead : List (PartIx × Nat × Nat)
  binds : List BindSt
  u : Tbl W32
  k : List W32
  poolWait : Bool
  deriving DecidableEq, Repr

/-- One cellar die with its stack. -/
structure Cellar where
  scrubHours : Nat
  scrubHeld : Option Nat
  runHold : Nat
  runHeld : Option Nat
  writeBatch : Nat
  batchHeld : Option Nat
  gatherAge : Nat
  gatherHeld : Option Nat
  band : Nat
  temp : Nat
  peak : Nat
  wipeBusy : Bool
  scrubbing : Bool
  scrubNext : Nat
  scrubSkipped : List Nat
  retryOk : Nat
  pcExhausted : Bool
  scrubCrc : Bool
  hbmUncorr : Bool
  unwritten : Bool
  versionErr : Bool
  foldErr : Bool
  crcErr : Bool
  lost : Bool
  lostBlocks : List Nat
  tagLog : TagLog
  pcFenced : Option Nat
  remap : Option Remap
  winVersion : Nat
  pieces : List Piece
  openRows : Tbl Nat
  batch : Tbl Nat
  trackers : List Tracker
  sram : Tbl Byte
  upd : Upd
  deriving DecidableEq, Repr

/-- A version map entry (R282): physical block and block version of CURRENT, SHADOW and RETAINED. -/
structure MapE where
  cur : Nat × Nat
  shadow : Option (Nat × Nat)
  retained : Option (Nat × Nat)
  deriving DecidableEq, Repr

/-- Tables UP-4 to UP-9 at reset. DESIGN CHOICE (log entry 220): no granule register holds a value. -/
def Upd.reset : Upd :=
  { reportMs := 0x03E8, reportHeld := none, reserve := 0x200, reserveHeld := none, fenced := false, fencePending := false
    poolExhausted := false, lanePar := false, stagingUnc := false, stagingCorr := false, corrCount := 0, refused := 0
    unlisted := 0, stale := 0, dup := 0, granules := Vector.replicate 8 0, sums := [], parked := [], written := [], localRead := []
    binds := [], u := [], k := List.replicate 16 0, poolWait := false }

/-- Tables CM-9 to CM-15 at reset. -/
def Cellar.reset : Cellar :=
  { scrubHours := 0x18, scrubHeld := none, runHold := 0x20, runHeld := none, writeBatch := 0x20, batchHeld := none
    gatherAge := 0x19, gatherHeld := none, band := 0, temp := 0, peak := 0, wipeBusy := false, scrubbing := false
    scrubNext := 0, scrubSkipped := [], retryOk := 0, pcExhausted := false, scrubCrc := false, hbmUncorr := false
    unwritten := false, versionErr := false, foldErr := false, crcErr := false, lost := false, lostBlocks := []
    tagLog := ⟨false, 0, 0, 0⟩, pcFenced := none, remap := none, winVersion := 0, pieces := [], openRows := [], batch := []
    trackers := [], sram := [], upd := Upd.reset }

end Sys2Proof.Machine
end

