-- ==== Sys2Proof/Machine/Parts/Dbg.lean ====
section
/-! DEFINITION. State of debug, trace and counters (R443 to R471; tables DB-1 to DB-22). -/

namespace Sys2Proof.Machine

/-- A writer that a dump trigger counts (R464). -/
inductive Writer where
  | stream (lcore sctx desc inst : Nat)
  | binding (k : Nat)
  | reduction (id : Nat)
  deriving DecidableEq, Repr

/-- A dump trigger (tables DB-10, DB-17, DB-18): its configuration, its STATE by code, the writers numbered so far, the bounds of
what has been captured. -/
structure Dump where
  tensor : Nat
  partition : Nat
  lcore : Nat
  attempt : Nat
  halt : Bool
  mode : Bool
  target : Bool
  enable : Bool
  step : Word
  occurrence : Nat
  host : Nat
  state : Nat
  seen : List Writer
  first : Nat
  last : Nat
  lost : Nat
  source : Nat
  caught : Nat
  deriving DecidableEq, Repr

/-- A stopped domain's entry of the stop table: its cause of table DB-6, stop count and stop time (R458, R459). -/
structure Stop where
  cause : Nat
  count : Nat
  time : Nat
  deriving DecidableEq, Repr

/-- The DBG block (tables DB-14 to DB-18). Domains are named by the SOURCE codes of table DB-5; `stops` are those that stand still,
which are the stop table of chain 0x0000, `counts` the cycle counters (R457). `fresh` are the domains that were powered off since they
last ran (R458), `boundary` the boundary-scan register (R449), `levelOwed` the level before a reset whose change is not reported yet (R444). -/
structure Dbg where
  haltOnExc : Bool
  haltMgmt : Bool
  level : Nat
  unlockSrc : Nat
  halted : Bool
  halting : Bool
  haltCause : Nat
  tapDenied : Bool
  refused : Bool
  nonce : Option (List Word)
  stopSel : Nat
  stopCount : Nat
  stopTime : Nat
  stops : Tbl Stop
  fresh : List Nat
  counts : Tbl Nat
  dumps : Vector Dump 4
  tapIr : Nat
  tapScan : Nat
  boundary : List Bool
  levelOwed : Option Nat
  deriving DecidableEq, Repr

/-- The class B fields of TRC_CTRL and TRC_FLOW. -/
structure TrcCfg where
  cntPeriod : Nat
  events : Nat
  syncUs : Nat
  cores : BitVec 40
  deriving DecidableEq, Repr

/-- The TRC block (tables DB-19, DB-20): `first` until the first SYNC after reset or enable, the drops of TRC_LOST and those since the
last LOST packet, the cores whose flow is to be synchronised anew, `bits` the branch outcomes of a core not yet sent with their context,
oldest first, `queue` the DUMP packets that wait while the port sends nothing. -/
structure Trc where
  cfg : TrcCfg
  held : Option TrcCfg
  enable : Bool
  first : Bool
  lostFlow : Nat
  lostEvent : Nat
  lostCounter : Nat
  owedFlow : Nat
  owedEvent : Nat
  owedCounter : Nat
  resync : List Nat
  bits : Tbl (CtxIx × List Bool)
  queue : List (Nat × List Nat)
  deriving DecidableEq, Repr

/-- The CNT block (tables DB-11, DB-21, DB-22): raw counts in base units of the running window, of the completed one, and as they stood at the
last entry to P3 (R450); whether the running window has not been sampled yet (R467); since when G11 and G12 count (R478, R480). -/
structure CntBlk where
  win : Vector Nat 8
  winHeld : Vector (Option Nat) 8
  gwin : Nat
  gwinHeld : Option Nat
  p : Vector (Tbl Nat) 8
  g : Tbl Nat
  pDone : Vector (Tbl Nat) 8
  gDone : Tbl Nat
  pSlept : Vector (Tbl Nat) 8
  gSlept : Tbl Nat
  pFresh : Vector Bool 8
  gFresh : Bool
  stretchSince : Option Nat
  boostSince : Option Nat
  deriving DecidableEq, Repr

/-- A trigger at reset (tables DB-17, DB-18). -/
def Dump.reset : Dump :=
  { tensor := 0, partition := 0, lcore := 0x3F, attempt := 0xFF, halt := false, mode := false, target := false, enable := false
    step := 0, occurrence := 1, host := 0, state := 0, seen := [], first := 0, last := 0, lost := 0, source := 0, caught := 0 }

/-- The DBG block at reset; the level is that of FACTORY (R444; Boot.reset describes a device in FACTORY). IDCODE is selected at
test-logic reset (R449). DESIGN CHOICE (log entry 220): SCAN_SEL is 0. -/
def Dbg.reset : Dbg :=
  { haltOnExc := false, haltMgmt := false, level := 4, unlockSrc := 0, halted := false, halting := false, haltCause := 0
    tapDenied := false, refused := false, nonce := none, stopSel := 0, stopCount := 0, stopTime := 0, stops := [], fresh := []
    counts := [], dumps := Vector.replicate 4 Dump.reset, tapIr := 1, tapScan := 0, boundary := [], levelOwed := none }

/-- The TRC block at reset. -/
def Trc.reset : Trc := ⟨⟨0, 0xFFFE, 0x64, 0⟩, none, false, true, 0, 0, 0, 0, 0, 0, [], [], []⟩

/-- The CNT block at reset. -/
def CntBlk.reset : CntBlk :=
  ⟨Vector.replicate 8 0, Vector.replicate 8 none, 0, none, Vector.replicate 8 [], [], Vector.replicate 8 [], [], Vector.replicate 8 [], [], Vector.replicate 8 false, false, none, none⟩

end Sys2Proof.Machine
end

