-- ==== Sys2Proof/Machine/Parts/Fab.lean ====
section
/-! DEFINITION. State of the fabric, the PCIe endpoint, the management port and the I3C target (R357 to R392; tables FB-1,
FB-17 to FB-25). -/

namespace Sys2Proof.Machine

/-- Port states of table FB-1, in its order. -/
inductive PortSt where
  | down | detect | equalize | align | auth | active | retrain
  deriving DecidableEq, Repr

/-- A rekey in progress (R361): the new generation, and the LINK_SEQ from which it applies. -/
structure Rekey where
  gen : Nat
  fromSeq : Nat
  deriving DecidableEq, Repr

/-- A frame that waits at the egress of a port; one that is being forwarded still holds its buffer of the port it came in on, by that port and
8 × virtual lane + HOPS (R365). -/
structure Egress where
  frame : Frame
  origin : Option (PortIx × Nat)
  deriving DecidableEq, Repr

/-- One fabric port. `keyGen` and `rekey` are the key generation of the sending direction and a REKEY sent that the peer has not acknowledged,
`rxGen` and `rxRekey` those of the receiving direction and a REKEY of the peer (R361); `held` the bytes of each ingress buffer that frames still
occupy, `grants` the space granted by the peer (R365). `replay` is the link replay buffer by LINK_SEQ, `waiting` the frames that wait for the port to train or for
buffer space at the peer (R360, R365), `nonce` the nonce with which the port has asked its peer for an attestation report, until the answer (R431), `grants` the space granted by 8 × virtual lane + hop class, `slot` the place in the 16 frame
slots that VL1 and VL2 share (R365). `nackOf` and `retries` count the failed retries of one frame, `locked` holds a port DOWN after
a second lane failed (R359), `redetect` is the retry timer of DETECT (table FB-1). -/
structure Port where
  st : PortSt
  lanes : BitVec 8
  peerNode : Nat
  peerSerial : Word
  nonce : Option (Vector Word 4)
  keyGen : Nat
  nackOf : Option Nat
  retries : Nat
  slot : Nat
  locked : Bool
  redetect : Bool
  rekey : Option Rekey
  rxGen : Nat
  rxRekey : Option Rekey
  txSeq : Nat
  rxSeq : Nat
  replay : List (Nat × Frame)
  waiting : List Egress
  grants : Tbl Nat
  held : Tbl Nat
  corrected : Nat
  uncorr : Nat
  nacks : Nat
  deriving DecidableEq, Repr

/-- A frame in the retransmit store (R374): its number, the frame, and whether a RETRY has scheduled a resend. -/
structure Stored where
  seq : Nat
  frame : Frame
  again : Bool
  deriving DecidableEq, Repr

/-- One port die: FAB_CTRL, FAB_ERR, FAB_DISCARDS, the retransmit store and the routing selection. -/
structure PortDie where
  retryUs : Nat
  uncorrLimit : Nat
  vl1Share : Nat
  idleUs : Nat
  store : List Stored
  nextSeq : Nat
  reportsLost : Bool
  hopLimit : Bool
  authFail : Bool
  portDown : Bool
  laneFenced : Bool
  stale : Nat
  noRoute : Nat
  hopCount : Nat
  hopAt : Option Nat
  noTarget : Nat
  routeSel : Nat
  routeData : Nat
  deriving DecidableEq, Repr

/-- The host window of a partition: base and size, and the pair held until the step boundary (R389). -/
structure HostWin where
  base : Word
  size : Word
  held : Option (Word × Word)
  deriving DecidableEq, Repr

/-- A host read that has left (R381): the stream it serves with the stream position of its first byte, or with none the
zero-length read after the stream's last posted write or a PART_WRITE's source read; partition, offset in the host window,
length. -/
structure HostRead where
  die : Nat
  phys : Nat
  pos : Option Nat
  part : PartIx
  off : Nat
  len : Nat
  deriving DecidableEq, Repr

/-- An entry of the MSI-X table: message address, message data, the mask bit (table FB-9). -/
structure MsixEntry where
  addr : Word
  data : W32
  masked : Bool
  deriving DecidableEq, Repr

/-- The PCIe endpoint (table FB-24), with the MSI-X table and the pending-bit array of BAR2/3, its power state, D0 or D3hot, and its AER error status
(table FB-9): both change only through configuration requests and link errors, for which the manual names no command (log entry 249). -/
structure Pcie where
  up : Bool
  speed : Nat
  width : Nat
  ide : Bool
  wins : Vector HostWin 8
  reads : List HostRead
  table : Vector MsixEntry 16
  pba : BitVec 16
  d3hot : Bool
  aer : W32
  deriving DecidableEq, Repr

/-- A report to the fault manager (R327, R387). -/
structure Report where
  seq : Nat
  code : Nat
  part : Nat
  epoch : W32
  step : Word
  detail : List Nat
  deriving DecidableEq, Repr

/-- The management session and port (R384 to R387, R433): `exhausted` once no message number is left, `running` the SEQ of the COMMAND
that the mailbox runs, `queued` one that waits for the mailbox, `peer` the fault manager's address and UDP port (table BS-5), `lastSeq` that of the newest one accepted, `lastDone` and `lastResp`
those of the last one answered. -/
structure Mgmt where
  ip4 : W32
  ip6 : BitVec 128
  dhcp : Bool
  nextSeq : Nat
  queue : List Report
  lostCount : Nat
  beat : Option Report
  exhausted : Bool
  running : Option Nat
  queued : Option (Nat × Word × List Word)
  peer : Option (BitVec 128 × Nat)
  lastSeq : Option Nat
  lastDone : Option Nat
  lastResp : List Word
  deriving DecidableEq, Repr

/-- The I3C target with MCTP and PLDM (R388). -/
structure I3c where
  dynAddr : Option Nat
  staticAddr : Nat
  eid : Nat
  tid : Nat
  deriving DecidableEq, Repr

/-- The fabric of the device: node, routing table, rank maps, ports, port dies,
and the frames addressed to the own node that wait for their delivery (R368). -/
structure Fab where
  node : Nat
  routes : Tbl Nat
  ranks : Vector (Tbl Nat) 8
  ports : Vector Port 18
  dies : Vector PortDie 3
  loop : List Frame
  deriving DecidableEq, Repr

/-- What the device sends out, in order of sending; `answer` is the value that a register read returns to its master, `bytes` the bytes
that an access of another width returns. -/
inductive Out where
  | frame (port : PortIx) (linkSeq : Nat) (f : Frame)
  | link (port : PortIx) (kind named : Nat) (extra : List Nat)
  | report (r : Report)
  | response (seq : Nat) (words : List Word)
  | msix (vector : Nat)
  | net (kind : Nat) (words : List Nat)
  | i3c (kind : Nat) (words : List Nat)
  | hostRead (part : PartIx) (offset len : Nat)
  | hostWrite (part : PartIx) (offset : Nat) (bytes : List Byte)
  | pcie (kind : Nat) (words : List Nat)
  | trace (kind : Nat) (words : List Nat)
  | tdo (bits : List Bool)
  | pin (name : Nat) (high : Bool)
  | pins (driven : Option (List Bool))
  | answer (value : Word)
  | bytes (l : List Byte)
  deriving DecidableEq, Repr

/-- A port after reset: DOWN (table FB-21). -/
def Port.reset : Port :=
  { st := .down, lanes := 0xFF, peerNode := 0, peerSerial := 0, nonce := none, keyGen := 0, nackOf := none, retries := 0, slot := 0, locked := false, redetect := false, rekey := none, rxGen := 0, rxRekey := none
    txSeq := 0, rxSeq := 0, replay := [], waiting := [], grants := [], held := [], corrected := 0, uncorr := 0, nacks := 0 }

/-- Tables FB-17 to FB-20, FB-23 at reset. -/
def PortDie.reset : PortDie :=
  { retryUs := 0x14, uncorrLimit := 0x10, vl1Share := 8, idleUs := 0xA, store := [], nextSeq := 0, reportsLost := false
    hopLimit := false, authFail := false, portDown := false, laneFenced := false, stale := 0, noRoute := 0, hopCount := 0, hopAt := none
    noTarget := 0, routeSel := 0, routeData := 0 }

/-- The MSI-X table after reset: every vector masked, as the PCIe base specification has it (PRESUMED, log entry 207). -/
def msixReset : Vector MsixEntry 16 := Vector.replicate 16 ⟨0, 0, true⟩

/-- Tables FB-24 and FB-25 at reset. -/
def Pcie.reset : Pcie := ⟨false, 0, 0, false, Vector.replicate 8 ⟨0, 0, none⟩, [], msixReset, 0, false, 0⟩

/-- The management port after reset. -/
def Mgmt.reset : Mgmt := ⟨0, 0, false, 0, [], 0, none, false, none, none, none, none, none, []⟩

/-- The I3C target after reset: no dynamic address. DESIGN CHOICE (log entry 220): the MCTP and PLDM identifiers are 0. -/
def I3c.reset : I3c := ⟨none, 0, 0, 0⟩

/-- The fabric after reset: node 0 (table FB-18). DESIGN CHOICE (log entry 220): no routing entry is valid and the rank maps are empty. -/
def Fab.reset : Fab :=
  { node := 0, routes := [], ranks := Vector.replicate 8 [], ports := Vector.replicate 18 Port.reset
    dies := Vector.replicate 3 PortDie.reset, loop := [] }

end Sys2Proof.Machine
end

