-- ==== Sys2Proof/Machine/Parts/Ckp.lean ====
section
/-! DEFINITION. State of a partition's checkpoint writer (R393 to R414; tables CK-3, CK-9 to CK-15). -/

namespace Sys2Proof.Machine

/-- The class B fields of CKP_CTRL, CKP_STORE and CKP_SHARD. -/
structure CkpCfg where
  run : Nat
  baseEvery : Nat
  target : Bool
  enable : Bool
  every : Nat
  slotGib : Nat
  storeNode : Nat
  shards : Nat
  shard : Nat
  deriving DecidableEq, Repr

/-- A dirty map, ACCUM or FROZEN, over the pages of the partition (R398, R399): `pages` are those whose bit is set, or those whose bit is
clear where `all` says that every other one is set. -/
structure PageSet where
  all : Bool
  pages : List Nat
  deriving DecidableEq, Repr

/-- Phases of R405: the zeros over the manifest await their DACK; the manifest of LAST_CUT awaits its bytes; the data object
is being sent; its frames await their DACKs; the manifest awaits its DACK. -/
inductive CkpPhase where
  | zeroing | reading | sending | draining | sealing
  deriving DecidableEq, Repr

/-- A checkpoint being written (R405): its cut and step, the group epoch of its keys and the run checkpoint key (R402), the histories at the cut (R406), what is
still to be sent, the record index and object offset reached, the bytes of the data object so far, whose digest the manifest seals, the frames sent and acknowledged. -/
structure CkpWr where
  cut : Word
  step : Word
  epoch : W32
  key : Vector Word 4
  phase : CkpPhase
  delta : Bool
  depth : Nat
  prev : Word
  base : Word
  hist : Tbl (Tbl HistE)
  todoDies : List Nat
  todoPages : List Nat
  pages : Nat
  index : Nat
  off : Nat
  data : List Byte
  sent : Nat
  acked : Nat
  content : BitVec 256
  deriving DecidableEq, Repr

/-- The CKP block of a partition. `restored`: a CKP_RESTORE has succeeded since the last LOAD_PLAN (R399). -/
structure Ckp where
  cfg : CkpCfg
  held : Option CkpCfg
  timeoutS : Nat
  restoring : Bool
  depth : Nat
  lastSealed : Word
  lastCut : Word
  done : Nat
  total : Nat
  skipCount : Nat
  restoreFailed : Bool
  abandoned : Bool
  skipped : Bool
  accum : PageSet
  frozen : PageSet
  wr : Option CkpWr
  restored : Bool
  deriving DecidableEq, Repr

/-- Tables CK-9 to CK-15 at reset. -/
def Ckp.reset : Ckp :=
  { cfg := ⟨0, 8, false, false, 0, 0, 0, 0, 0⟩, held := none, timeoutS := 0x1E, restoring := false, depth := 0, lastSealed := 0
    lastCut := 0, done := 0, total := 0, skipCount := 0, restoreFailed := false, abandoned := false, skipped := false
    accum := ⟨false, []⟩, frozen := ⟨false, []⟩, wr := none, restored := false }

end Sys2Proof.Machine
end

