-- ==== Sys2Proof/Machine/Parts/Part.lean ====
section
/-! DEFINITION. State of one partition: allotment, plan, step protocol, twin, vestibule, scales (R33 to R48, R128 to R133,
R298 to R328, R434; tables PC-2, SP-1, SP-5, SP-10 to SP-20). -/

namespace Sys2Proof.Machine

/-- Plan states of table PC-2, in its order. -/
inductive PlanSt where
  | empty | loaded | armed | running | halted
  deriving DecidableEq, Repr

/-- Step states of table SP-1, in its order. -/
inductive StepSt where
  | idle | waitStart | run | prepared | stopped | solo | spare
  deriving DecidableEq, Repr

/-- Twin states of table SP-5, in its order. -/
inductive TwinSt where
  | none | handshake | syncing | paired | lost
  deriving DecidableEq, Repr

/-- What PART_CREATE gives a partition (R33, R434): cores, HBM3 share and its areas, hall buffer shares, stream
contexts per compute die, the host plan right. Offsets are bytes within the data space. -/
structure Allot where
  cores : BitVec 40
  base : Nat
  size : Nat
  data : Nat
  pool : Nat
  vest : Nat
  mirror : Nat
  reserved : Nat
  hallBase : List Nat
  hallSize : List Nat
  strBase : List Nat
  strCount : List Nat
  hostPlan : Bool
  deriving DecidableEq, Repr

/-- A landing ring of a RECEIVE channel: the ranges of positions written as (position, length), the bytes that streams have
read, and those read since the last CREDIT (R370, R371). -/
structure RecvSt where
  channel : Nat
  segs : List (Nat × Nat)
  read : Nat
  since : Nat
  deriving DecidableEq, Repr

/-- A SEND channel's limits, one per destination (R371). -/
structure SendSt where
  channel : Nat
  limits : List Nat
  deriving DecidableEq, Repr

/-- A CREDIT held for the step and attempt that it names (R373): its sender's node and partition, channel, limit. -/
structure HeldCredit where
  src : Nat
  spart : Nat
  channel : Nat
  limit : Nat
  attempt : Nat
  step : Nat
  deriving DecidableEq, Repr

/-- Where the entries of an amax history lie: from an entry of the histories region of its cellar die's SRAM on, or from a byte of
the overflow in the partition's reserved area on (R128, R131). -/
inductive HistPlace where
  | sram (entry : Nat)
  | reserved (off : Nat)
  deriving DecidableEq, Repr

/-- An amax history: its tensor, the cellar die that holds the tensor's first block, its number of entries, its place (R128). -/
structure HistAt where
  id : Nat
  die : CellarIx
  len : Nat
  place : HistPlace
  deriving DecidableEq, Repr

/-- One partition. `mirTodo` are the pages that the mirror of the committed version still has to send (R317), `vestMark` the step
and attempt whose vestibule the twin has been told is complete, `soloAttempt` the target attempt of a RESTORE that solo-replays (R322),
`fmHalt` that a FM_HALT waits for the discard to end. -/
structure Part where
  allot : Option Allot
  st : PlanSt
  image : Option Image
  haltReq : Bool
  haltCause : Nat
  ranStep : Bool
  stepNo : Word
  version : Word
  attempt : Nat
  bind : List (Option CoreIx)
  exps : Tbl Int
  hists : List HistAt
  shadowRec : Tbl HistE
  step : StepSt
  inGroup : Bool
  identity : Bool
  group : W32
  epoch : W32
  rank : Nat
  ranks : Nat
  coord : Nat
  requireTwin : Bool
  twin : TwinSt
  twinSerial : Word
  twinRank : Nat
  twinPort : Nat
  twinPart : Nat
  twinLostSent : Bool
  mirrorVersion : Word
  vestAcked : Option Word
  mirror : Option Mirror
  vest : List VestRec
  token : Option Token
  peerTimeout : Nat
  heartbeat : Nat
  maxAttempts : Nat
  maxAttHeld : Option Nat
  readyTimeout : Nat
  commitTimeout : Nat
  staleCount : Nat
  badTokenCount : Nat
  repairFailed : Bool
  vestFull : Bool
  twinLostErr : Bool
  commitTimeoutErr : Bool
  badToken : Bool
  vestUsed : Nat
  readySet : List Nat
  discardedSet : List Nat
  failClassP : Bool
  failCause : Nat
  made : Option Token
  applied : List Token
  abortPending : Bool
  discarding : Bool
  fmHalt : Bool
  excFirst : Option (Nat × Nat)
  recvs : List RecvSt
  sends : List SendSt
  starts : Tbl Nat
  ckp : Ckp
  mirTodo : List Nat
  vestMark : Option (Word × Nat)
  soloAttempt : Nat
  credHeld : List HeldCredit
  mapVer : Nat
  retention : Option Word
  unsweptCount : Nat
  deriving DecidableEq, Repr

/-- A partition after reset: absent, plan EMPTY, step IDLE (tables PC-2, SP-10 to SP-20). -/
def Part.reset : Part :=
  { allot := none, st := .empty, image := none, haltReq := false, haltCause := 0, ranStep := false, stepNo := 0
    version := 0, attempt := 0, bind := [], exps := [], hists := [], shadowRec := [], step := .idle, inGroup := false
    identity := false, group := 0, epoch := 0, rank := 0, ranks := 0, coord := 0, requireTwin := false, twin := .none
    twinSerial := 0, twinRank := 0, twinPort := 0, twinPart := 0, twinLostSent := false, mirrorVersion := 0
    vestAcked := none, mirror := none, vest := [], token := none, peerTimeout := 0xFA, heartbeat := 0x64
    maxAttempts := 3, maxAttHeld := none, readyTimeout := 0x0BB8, commitTimeout := 0x1388, staleCount := 0
    badTokenCount := 0, repairFailed := false, vestFull := false, twinLostErr := false, commitTimeoutErr := false
    badToken := false, vestUsed := 0, readySet := [], discardedSet := [], failClassP := false, failCause := 0
    made := none, applied := [], abortPending := false, discarding := false, fmHalt := false, excFirst := none, recvs := []
    sends := [], starts := [], ckp := Ckp.reset, mirTodo := [], vestMark := none, soloAttempt := 0, credHeld := [], mapVer := 0, retention := none, unsweptCount := 0 }

end Sys2Proof.Machine
end

