-- ==== Sys2Proof/Machine/Parts/Pkg.lean ====
section
/-! DEFINITION. State of the package: fuses, inventory and status registers, the command mailbox (R1, R26 to R31, R49 to
R53, R438; tables PK-6 to PK-13, PC-3 to PC-6, BS-19). -/

namespace Sys2Proof.Machine

/-- An accepted mailbox command: its code, partition, tag, latched arguments and master (R50). -/
structure Cmd where
  code : Nat
  part : Nat
  tag : Nat
  args : Vector Word 8
  master : Master
  deriving DecidableEq, Repr

/-- What a command has come to, held until MBOX_COMPLETION publishes it (R51). -/
structure Done where
  error : Nat
  results : List Nat
  deriving DecidableEq, Repr

/-- The command mailbox (tables PC-3 to PC-6) with its owner (R438). `begun`: the device has taken up the command that runs. -/
structure Mbox where
  args : Vector Word 8
  busy : Bool
  done : Bool
  tag : Nat
  rejects : Nat
  error : Nat
  results : Vector Word 8
  run : Option Cmd
  outcome : Option Done
  begun : Bool
  owner : Nat
  preempt : Bool
  deriving DecidableEq, Repr

/-- What assembly and fuses fix: the variant, the serial number, present units (R1 to R3, tables PK-6 to PK-10), the MAC address of the
management port (R384). -/
structure Fuses where
  m12 : Bool
  l3 : Bool
  serial : Word
  stepping : Nat
  coresPresent : BitVec 40
  mac : BitVec 48
  deriving DecidableEq, Repr

/-- The PKG block: links, inventory, access errors (tables PK-9 to PK-13). -/
structure Pkg where
  ucie : Vector Bool 2
  ucieTries : Vector Nat 2
  bridge : Bool
  portLink : Vector Bool 3
  cellarLink : Vector Bool 12
  inventory : Bool
  errCount : Nat
  accessErr : Bool
  errKind : Nat
  errAddr : Nat
  coreService : BitVec 40
  fabLanes : Nat
  hbmPc : Nat
  updUnits : Nat
  laneGroups : Nat
  arrays : Nat
  deriving DecidableEq, Repr

/-- The mailbox after reset (tables PC-3 to PC-6, BS-19: all 0). -/
def Mbox.reset : Mbox :=
  { args := Vector.replicate 8 0, busy := false, done := false, tag := 0, rejects := 0, error := 0
    results := Vector.replicate 8 0, run := none, outcome := none, begun := false, owner := 0, preempt := false }

/-- The fuses of the part that State.reset describes: variant M12L3, serial number 0, every core built in, MAC address 0. PRESUMED (log entry 6):
any of the four variants is a legal part; statements hold for every state, hence for each of them. -/
def Fuses.reset : Fuses := ⟨true, true, 0, 0xB1, BitVec.allOnes 40, 0⟩

/-- The PKG block after reset: links down, X fields not yet loaded (R31: they read 0). -/
def Pkg.reset : Pkg :=
  { ucie := Vector.replicate 2 false, ucieTries := Vector.replicate 2 0, bridge := false
    portLink := Vector.replicate 3 false, cellarLink := Vector.replicate 12 false, inventory := false, errCount := 0
    accessErr := false, errKind := 0, errAddr := 0, coreService := 0, fabLanes := 0, hbmPc := 0, updUnits := 0
    laneGroups := 0, arrays := 0 }

end Sys2Proof.Machine
end

