-- ==== Sys2Proof/Machine/Parts/Pwr.lean ====
section
/-! DEFINITION. State of power, clocks and heat, and of the board's pins (R472 to R506; tables PW-1 to PW-13, SG-1, SG-4). -/

namespace Sys2Proof.Machine

/-- The class B fields of PWR_CTRL. -/
structure PwrCfg where
  capW : Nat
  boostMargin : Nat
  tjThrottle : Nat
  boostEn : Bool
  deriving DecidableEq, Repr

/-- Stretch of a region: none, three quarters, 1.05 GHz (R477). -/
inductive Stretch where
  | none | shallow | deep
  deriving DecidableEq, Repr

/-- Level control of a compute die (R475, R476): the die target, the level that the clock runs at, the set point last requested in
mV and whether a faster level waits for it, the junction throttle level and whether it still rises, and the hold of rule E0 with its
count of low samples. -/
structure DieClk where
  target : Nat
  level : Nat
  setPoint : Nat
  waiting : Bool
  throttle : Nat
  hot : Bool
  e0 : Bool
  e0Low : Nat
  deriving DecidableEq, Repr

/-- The electrical limiter (table PW-2): the level that it and stacks in band B3 hold the package target to, the hold of E1 with its
count of low samples, the counts of samples in a row for E2 to E4, and whether LIMIT_FLOOR has been reported. -/
structure Limiter where
  level : Nat
  e1 : Bool
  e1Low : Nat
  e2Run : Nat
  e3Run : Nat
  e4Run : Nat
  floor : Bool
  deriving DecidableEq, Repr

/-- Section WEAR as it stands in the device, table PW-3; `max` holds the hottest reading of each die in the running second (0 and 1
compute dies, 2 to 4 port dies, 5 to 16 stacks), `second` the seconds of the running hour. -/
structure Wear where
  credits : List Nat
  boostS : Nat
  trips : Nat
  hours : Nat
  max : List Nat
  second : Nat
  deriving DecidableEq, Repr

/-- The PWR block and the pins. `want` is the power state that a PWR_SET_STATE has asked for. `samples` are the power samples of the
last second, newest first. -/
structure Pwr where
  cfg : PwrCfg
  held : Option PwrCfg
  stretchHold : Nat
  pstate : Nat
  want : Option Nat
  waking : Bool
  dies : Vector DieClk 2
  stretch : Vector Stretch 8
  boost : Bool
  cooldown : Bool
  lim : Limiter
  peak : Nat
  samples : List Nat
  tempDie : Vector Nat 2
  tempPort : Vector Nat 3
  tempMpd : Nat
  limitCount : Nat
  vrTimeout : Bool
  current : Bool
  electrical : Bool
  sustained : Bool
  thermal : Bool
  stackB3 : Bool
  wear : Wear
  tripped : Bool
  powered : Bool
  lost : Bool
  pwrGood : Bool
  testHold : Bool
  deriving DecidableEq, Repr

/-- The PWR block at reset: P0, level L1, no stretch. The pins describe a powered device with PWR_GOOD and RESET_N high (log entry
80); PWR_WEAR, whose reset is X, holds no credits. -/
def Pwr.reset : Pwr :=
  { cfg := ⟨0, 0x28, 0x64, true⟩, held := none, stretchHold := 0x64, pstate := 0, want := none, waking := false
    dies := Vector.replicate 2 ⟨1, 1, 720, false, 1, false, false, 0⟩, stretch := Vector.replicate 8 .none, boost := false
    cooldown := false, lim := ⟨1, false, 0, 0, 0, 0, false⟩, peak := 0, samples := [], tempDie := Vector.replicate 2 0
    tempPort := Vector.replicate 3 0, tempMpd := 0, limitCount := 0, vrTimeout := false, current := false, electrical := false
    sustained := false, thermal := false, stackB3 := false, wear := ⟨List.replicate 17 0, 0, 0, 0, List.replicate 17 0, 0⟩
    tripped := false, powered := true, lost := false, pwrGood := true, testHold := false }

end Sys2Proof.Machine
end

