-- ==== Sys2Proof/Machine/Parts/Sluice.lean ====
section
/-! DEFINITION. State of a sluice: stream contexts, in-flight chunks, held barrier tokens, credits (R206 to R235; tables
ST-9 to ST-16). -/

namespace Sys2Proof.Machine

/-- The fields of a stream descriptor, table ST-2, with the dimension sizes n0 to n4 of R214. -/
structure Desc where
  tensor : Nat
  src : Nat
  dst : Nat
  kind : Nat
  sig : Option Nat
  srcOff : Int
  dstOff : Int
  dims : List Nat
  srcStr : List Int
  dstStr : List Int
  ring : Nat
  rate : Nat
  due : Nat
  deriving DecidableEq, Repr

/-- A granted chunk in flight: its number, its bytes once they have been read, and whether the cellar dies have written
them, for an HBM3 destination (R216, R220, R223). -/
structure Chunk where
  c : Nat
  bytes : Option (List Byte)
  written : Bool
  deriving DecidableEq, Repr

/-- An active stream context (R208, R210, R221, R222); `pc` is the address of its SSTART. `queued` is true while its SSTART still stands in the stream
queue (R212); `buf` gathers the bytes of a granule that a REDUCE_SEND stream has not sent yet (R372).
`inst` counts the earlier starts of the descriptor in the step (R302). For source space 3, `asked` is the number of stream
positions whose host reads have left and `inbuf` holds the bytes that arrived, by position (R381). `flush` and `flushed`: the
zero-length read after the last posted write has left, has completed (R381). -/
structure SCtx where
  part : PartIx
  lcore : Nat
  sctx : Nat
  core : CoreIx
  ctx : CtxIx
  pc : BitVec 40
  cnt : Option Cnt
  descIx : Nat
  desc : Desc
  srcBase : Word
  dstBase : Word
  total : Nat
  granted : Nat
  landed : Nat
  age : Nat
  waited : Nat
  aged : Bool
  queued : Bool
  ending : Bool
  chunks : List Chunk
  buf : List Byte
  inst : Nat
  asked : Nat
  inbuf : Tbl Byte
  flush : Bool
  flushed : Bool
  deriving DecidableEq, Repr

/-- A barrier token: its partition, barrier and source, and the step and attempt it belongs to (R45, R228). -/
structure Tok where
  part : PartIx
  barrier : Nat
  src : BSource
  step : Word
  attempt : Nat
  deriving DecidableEq, Repr

/-- A sluice of a compute die. `credit` holds the pools of table ST-5 by path number. -/
structure Sluice where
  ctxs : Tbl SCtx
  held : List Tok
  credit : Tbl Nat
  grants : Nat
  ageLimit : Nat
  descUnc : Bool
  pathDown : Bool
  srcUnc : Bool
  tagMis : Bool
  dup : Nat
  stale : Nat
  sel : Nat
  info0 : Word
  info1 : Word
  deriving DecidableEq, Repr

/-- Tables ST-9 to ST-16 at reset; the credit pools start empty (DESIGN CHOICE, log entry 9: the manual gives them no reset value). -/
def Sluice.reset : Sluice := ⟨[], [], [], 12, 0x0800, false, false, false, false, 0, 0, 0, 0, 0⟩

end Sys2Proof.Machine
end

