-- ==== Sys2Proof/Machine/State.lean ====
section
/-! DEFINITION. The state of the device, everything the manual gives it, as plain data; the reasons a step can stop; the
state after reset. -/

namespace Sys2Proof.Machine

/-- Reasons for a fault. The manual gives every event an effect that leaves the device in a state, so no command faults;
the type is closed and has one constructor, which no meaning raises (safe). -/
inductive Fault where
  /-- Nothing raises this: kept so that the type is not empty. -/
  | unused
  deriving DecidableEq, Repr

/-- Reasons for a refusal. -/
inductive Refusal where
  /-- Raised by the dispatch alone, for a command whose meaning has not been written; carries its mnemonic (safe). -/
  | notModelled (mnemonic : String)
  deriving DecidableEq, Repr

/-- The device. -/
structure State where
  fuses : Fuses
  pkg : Pkg
  mbox : Mbox
  cores : Vector Core 40
  hall : Vector (Tbl Byte) 2
  sluices : Vector Sluice 2
  toks : List (DieIx × Tok)
  cellars : Vector Cellar 12
  hbm : Tbl Byte
  tags : Tbl Word
  vmap : Tbl MapE
  keyEpochs : Vector Nat 9
  freed : List (PartIx × Nat)
  reqs : List Req
  nextReq : Nat
  parts : Vector Part 8
  fab : Fab
  pcie : Pcie
  mgmt : Mgmt
  i3c : I3c
  sed : Sed
  boot : Boot
  dbg : Dbg
  trc : Trc
  cnt : CntBlk
  pwr : Pwr
  rtime : Nat
  egress : List Out
  freeIx : Nat
  pending : List Instr
  deriving DecidableEq, Repr

/-- The state right after reset: every field at the value the manual gives, and where it gives none at the value that
INVENTORY.md and the assumption log name. -/
def State.reset : State :=
  { fuses := Fuses.reset, pkg := Pkg.reset, mbox := Mbox.reset, cores := Vector.replicate 40 Core.reset
    hall := Vector.replicate 2 [], sluices := Vector.replicate 2 Sluice.reset, toks := []
    cellars := Vector.replicate 12 Cellar.reset, hbm := [], tags := [], vmap := [], keyEpochs := Vector.replicate 9 0, freed := [], reqs := [], nextReq := 0
    parts := Vector.replicate 8 Part.reset, fab := Fab.reset, pcie := Pcie.reset, mgmt := Mgmt.reset, i3c := I3c.reset
    sed := Sed.reset, boot := Boot.reset, dbg := Dbg.reset, trc := Trc.reset, cnt := CntBlk.reset, pwr := Pwr.reset
    rtime := 0, egress := [], freeIx := 0, pending := [] }

end Sys2Proof.Machine
end

