-- ==== Sys2Proof/Machine/Ops.lean ====
section
/-! DEFINITION. The named operations over state: one home for reading and changing each part of it, memory and block tags
(R12 to R15, R22, R40, R67, R85 to R88, R240 to R252, R262, R282 to R291). -/

namespace Sys2Proof.Machine

/-- The outcome of a command that leaves the device in a state. -/
abbrev Res := Host.Outcome State Fault Refusal

/-! ### Places (R13, R14, R15) -/

/-- HBM3 stacks and cellar dies of the variant (table SC-1). -/
def nStacks (s : State) : Nat := if s.fuses.m12 then 12 else 8

/-- Port dies of the variant. -/
def portDies (s : State) : Nat := if s.fuses.l3 then 3 else 2

/-- Fabric ports of the variant. -/
def portCount (s : State) : Nat := 6 * portDies s

/-- The compute die of a core. -/
def dieOfCore (n : CoreIx) : DieIx := if n.val < 20 then 0 else 1

/-- The compute die to which a cellar die attaches (R15). -/
def dieOfCellar (s : State) (c : Nat) : DieIx := if c < nStacks s / 2 then 0 else 1

/-- The port die of a port (R13). -/
def portDieOf (f : PortIx) : PortDieIx := ⟨f.val / 6, by omega⟩

/-- The compute die that a fabric port connects to: ports 0–5 and 12–14 to die 0, ports 6–11 and 15–17 to die 1 (R15). -/
def dieOfPort (f : PortIx) : DieIx := if f.val < 6 ∨ (12 ≤ f.val ∧ f.val < 15) then 0 else 1

/-- The compute dies that a port die attaches to (R15). -/
def diesOfPortDie (d : PortDieIx) : List DieIx := ((List.finRange 18).filter (fun f => portDieOf f == d)).map dieOfPort |>.eraseDups

/-- The quarter-die region of a core (R14). -/
def regionOf (n : CoreIx) : Fin 8 := ⟨4 * (n.val / 20) + n.val % 20 / 5, by omega⟩

/-! ### Changing one part of the state -/

/-- Change one core. -/
def modCore (s : State) (n : CoreIx) (f : Core → Core) : State :=
  { s with cores := s.cores.set n.val (f s.cores[n]) n.isLt }

/-- A task context. -/
def ctxOf (s : State) (n : CoreIx) (i : CtxIx) : Ctx := (s.cores[n]).ctx[i]

/-- Change one task context. -/
def modCtx (s : State) (n : CoreIx) (i : CtxIx) (f : Ctx → Ctx) : State :=
  modCore s n (fun c => { c with ctx := c.ctx.set i.val (f c.ctx[i]) i.isLt })

/-- Change one partition. -/
def modPart (s : State) (p : PartIx) (f : Part → Part) : State :=
  { s with parts := s.parts.set p.val (f s.parts[p]) p.isLt }

/-- Change one sluice. -/
def modSluice (s : State) (d : DieIx) (f : Sluice → Sluice) : State :=
  { s with sluices := s.sluices.set d.val (f s.sluices[d]) d.isLt }

/-- Change one cellar die. -/
def modCellar (s : State) (c : CellarIx) (f : Cellar → Cellar) : State :=
  { s with cellars := s.cellars.set c.val (f s.cellars[c]) c.isLt }

/-- Change the update unit of a cellar die. -/
def modUpd (s : State) (c : CellarIx) (f : Upd → Upd) : State := modCellar s c (fun x => { x with upd := f x.upd })

/-- Change one fabric port. -/
def modPort (s : State) (f : PortIx) (h : Port → Port) : State :=
  { s with fab := { s.fab with ports := s.fab.ports.set f.val (h s.fab.ports[f]) f.isLt } }

/-- Change one port die. -/
def modPortDie (s : State) (d : PortDieIx) (h : PortDie → PortDie) : State :=
  { s with fab := { s.fab with dies := s.fab.dies.set d.val (h s.fab.dies[d]) d.isLt } }

/-- Change a bank of the vector engine of a core. -/
def modBank (s : State) (n : CoreIx) (b : Fin 2) (f : VBank → VBank) : State :=
  modCore s n (fun c => { c with banks := c.banks.set b.val (f c.banks[b]) b.isLt })

/-- Change one matrix array of a core. -/
def modArr (c : Core) (a : Fin 4) (f : Arr → Arr) : Core := { c with arrays := c.arrays.set a.val (f c.arrays[a]) a.isLt }

/-- Does the management Ethernet run: stage 7 has completed, or minimal mode (R416, R419)? -/
def netUp (s : State) : Bool := decide (8 ≤ s.boot.stage) || s.boot.minimal

/-- May something leave the device now: it has power, the path of a power loss stops fabric, PCIe, Ethernet and trace (R501), and
Ethernet runs (R416)? Without message numbers nothing but SEQ_EXHAUSTED is sent on it, and a report under the last number that the flash holds as
reserved waits until section BOOT holds a new reservation (R433). The pins are the board's. -/
def canSend (s : State) (o : Out) : Bool :=
  match o with
  | .pin .. => true
  | .pins .. => true
  | .tdo _ => s.pwr.powered
  | .answer _ => s.pwr.powered
  | .bytes _ => s.pwr.powered
  | .i3c .. => s.pwr.powered
  | .report r => s.pwr.powered && !s.pwr.lost && netUp s && ((!s.mgmt.exhausted && decide (r.seq + 1 < s.boot.seqLimit)) || r.code == 0x55)
  | .response .. => s.pwr.powered && !s.pwr.lost && netUp s && !s.mgmt.exhausted
  | .net .. => s.pwr.powered && !s.pwr.lost && netUp s
  | _ => s.pwr.powered && !s.pwr.lost

/-- Send something out of the device. -/
def emit (s : State) (o : Out) : State := if canSend s o then { s with egress := s.egress ++ [o] } else s

/-- Ask for a write of a section of the persistent record; two pending changes of one section are one write (R425). -/
def wantSection (s : State) (k : Nat) : State := { s with boot := { s.boot with wants := addOnce k s.boot.wants } }

/-- Count one free value as taken. -/
def bump (s : State) : State := { s with freeIx := s.freeIx + 1 }

/-- Bytes that no rule gives: ciphertext, tags, signatures, random values. -/
def freeBytes (s : State) (n : Nat) : State × List Byte :=
  ({ s with freeIx := s.freeIx + n }, (List.range n).map (fun i => (Config.freeWord (s.freeIx + i)).setWidth 8))

/-- Look at reference time: it has moved on by an amount that no rule fixes (R6). -/
def look (s : State) : State := { s with rtime := s.rtime + Config.elapsedNs s.freeIx, freeIx := s.freeIx + 1 }

/-- Apply a change for each entry of a list, in order. -/
def each {α : Type} (l : List α) (s : State) (f : State → α → State) : State := l.foldl f s

/-- All indexes of a finite type, ascending. -/
def ixs (n : Nat) : List (Fin n) := List.finRange n

/-- A number as an index, if it is one. -/
def toFin (n i : Nat) : Option (Fin n) := if h : i < n then some ⟨i, h⟩ else none

/-! ### Contexts and their registers (R64, R65) -/

/-- The RUN context of a core (R68). -/
def runCtx (c : Core) : Option CtxIx := (ixs 4).find? (fun i => c.ctx[i].st == .run)

/-- The logical core whose context a hardware context is (R67). -/
def boundOf (c : Core) (i : CtxIx) : Option Bound := c.bound.find? (fun b => decide (b.ctxLo ≤ i.val ∧ i.val < b.ctxLo + b.ctxN))

/-- The vector bank of a hardware context: bank 0 belongs to the lower-numbered logical core (R172). -/
def bankOf (c : Core) (i : CtxIx) : Fin 2 :=
  match c.bound with
  | _ :: b :: _ => if b.ctxLo ≤ i.val then 1 else 0
  | _ => 0

/-- Read a scalar register; s0 reads as 0 (R65). -/
def rd (c : Ctx) (r : Reg) : Word := if r = 0 then 0 else c.s[r]

/-- Write a scalar register; a write to s0 is discarded (R65). -/
def wr (c : Ctx) (r : Reg) (v : Word) : Ctx := if r = 0 then c else { c with s := c.s.set r.val v r.isLt }

/-- Read a predicate; p0 reads as 1 (R65). -/
def rdp (c : Ctx) (q : Pred) : Bool := if q = 0 then true else c.p[q]

/-- Write a predicate; a write to p0 is discarded (R65). -/
def wrp (c : Ctx) (q : Pred) (v : Bool) : Ctx := if q = 0 then c else { c with p := c.p.set q.val v q.isLt }

/-- Write a completion counter (R90). -/
def wrc (c : Ctx) (k : Cnt) (v : W32) : Ctx := { c with c := c.c.set k.val v k.isLt }

/-- Add 1 to the completion counter that an engine instruction names (R90): it wraps from 0xFFFF_FFFF to 0. -/
def incCnt (s : State) (n : CoreIx) (i : CtxIx) (k : Option Cnt) : State :=
  match k with
  | none => s
  | some k => modCtx s n i (fun c => wrc c k (c.c[k] + 1))

/-! ### The resident plan -/

/-- What the image of a partition's plan holds for a logical core. -/
def lcoreE (s : State) (p : PartIx) (l : Nat) : Option LCoreE := (s.parts[p]).image.bind (fun im => im.lcores[l]?)

/-- The tensor of an identifier in an image. -/
def tensorById (im : Image) (t : Nat) : Option TensorE := if t = 0 then none else im.tensors.find? (fun e => e.id == t)

/-- The tensor of an identifier in a partition's plan. -/
def tensorOf (s : State) (p : PartIx) (t : Nat) : Option TensorE := (s.parts[p]).image.bind (fun im => tensorById im t)

/-- The tensor that the directory gives for an offset: the first in table order that holds it (R249). -/
def tensorAt (s : State) (p : PartIx) (off : Nat) : Option TensorE :=
  (s.parts[p]).image.bind (fun im => im.tensors.find? (fun e => decide (e.base ≤ off ∧ off < e.base + e.size)))

/-- Parameter and moment tensors carry versions (R247, R282). -/
def versioned (e : TensorE) : Bool := decide (e.kind = .parameter ∨ e.kind = .moment)

/-- Does a block, by its offset in the partition, hold bytes of a parameter or moment tensor (R282)? -/
def versionedAt (s : State) (p : PartIx) (off : Nat) : Bool :=
  match (s.parts[p]).image with
  | none => false
  | some im => im.tensors.any (fun e => versioned e && decide (e.base < 4096 * (off / 4096) + 4096 ∧ 4096 * (off / 4096) < e.base + e.size))

/-- The barrier table entry of an identifier. -/
def barrierOf (s : State) (p : PartIx) (b : Nat) : Option BarrierE :=
  (s.parts[p]).image.bind (fun im => im.barriers.find? (fun e => e.id == b))

/-- The exponent in force of a tensor; identifier 0 contributes 0 (R133, R185). -/
def expOf (s : State) (p : PartIx) (t : Nat) : Int := tget 0 (s.parts[p]).exps t

/-- Is the plan of a partition ARMED or RUNNING? -/
def active (s : State) (p : PartIx) : Bool := decide ((s.parts[p]).st = .armed ∨ (s.parts[p]).st = .running)

/-- The cores of a partition. -/
def coresOf (s : State) (p : PartIx) : List CoreIx :=
  match (s.parts[p]).allot with
  | none => []
  | some a => (ixs 40).filter (fun n => a.cores.getLsbD n.val)

/-- The partition that owns a core. -/
def ownerOf (s : State) (n : CoreIx) : Option PartIx :=
  (ixs 8).find? (fun p => match (s.parts[p]).allot with | none => false | some a => a.cores.getLsbD n.val)

/-- In-service arrays of a core, ascending (R149). -/
def arraysOf (c : Core) : List Nat := ((ixs 4).filter (fun a => !(c.arrays[a]).fenced)).map (·.val)

/-- In-service lane groups of a core (R176). -/
def groupsOf (c : Core) : Nat := ((List.range 8).filter (fun g => !c.ve.fenced.getLsbD g)).length

/-! ### Core store and hall buffer (R67, R85) -/

/-- 6 MiB, the core store (table PK-1). -/
def coreStoreBytes : Nat := 6 * 2 ^ 20

/-- Read bytes of a core store at a physical offset; what nothing has written reads 0 (log entry 5). -/
def readStore (c : Core) (a n : Nat) : List Byte := tgetMany 0 c.store a n

/-- Write bytes of a core store at a physical offset. -/
def writeStore (c : Core) (a : Nat) (bs : List Byte) : Core := { c with store := tsetMany 0 c.store a bs }

/-- An instruction pins the lines [lo, hi) of a core (R163). -/
def pinLines (c : Core) (lo hi : Nat) : Core :=
  { c with pins := (List.range (hi - lo)).foldl (fun t j => tset 0 t (lo + j) (tget 0 t (lo + j) + 1)) c.pins }

/-- One pin of a line ends, with a release or without (table ST-4). -/
def unpinLine (c : Core) (l : Nat) (rel : Bool) : Core :=
  let k := tget 0 c.pins l - 1
  let c : Core := { c with pins := tset 0 c.pins l k }
  match tfind c.lines l with
  | some (.present pend) =>
    if rel || pend then { c with lines := tput c.lines l (if k = 0 then .free else .present true) } else c
  | _ => c

/-- The pins of the lines [lo, hi) end (R163). -/
def unpinLines (c : Core) (lo hi : Nat) (rel : Bool) : Core := (List.range (hi - lo)).foldl (fun c j => unpinLine c (lo + j) rel) c

/-- The hall buffer share of a partition on a die: base and size (R434). -/
def hallView (s : State) (p : PartIx) (d : DieIx) : Nat × Nat :=
  match (s.parts[p]).allot with
  | none => (0, 0)
  | some a => (a.hallBase.getD d.val 0, a.hallSize.getD d.val 0)

/-- Read bytes of a hall buffer at a physical offset. -/
def readHall (s : State) (d : DieIx) (a n : Nat) : List Byte := tgetMany 0 s.hall[d] a n

/-- Write bytes of a hall buffer at a physical offset. -/
def writeHall (s : State) (d : DieIx) (a : Nat) (bs : List Byte) : State :=
  { s with hall := s.hall.set d.val (tsetMany 0 s.hall[d] a bs) d.isLt }

/-! ### HBM3: placing, tags and data (R240 to R252) -/

/-- The local block from which the remap reserve begins (R242). -/
def remapStart : Nat := 285120

/-- The pseudo-channels in service of a stack, ascending, given the fenced one (R240). -/
def inServicePcs (fenced : Option Nat) : List Nat := (List.range 32).filter (fun q => some q != fenced)

/-- The function locate of R240: stack, pseudo-channel, local block, byte in the block. `moved` tells whether the block of
a fenced pseudo-channel is served from its remap slot. -/
def locate (n : Nat) (fenced : Nat → Option Nat) (moved : Nat → Nat → Bool) (a : Nat) : Nat × Nat × Nat × Nat :=
  let b := a / 4096
  let c := b % n
  let q := b / n
  let l := q / 32
  let p := (q % 32) ^^^ (l % 32) ^^^ (l / 32 % 32)
  if fenced c = some p ∧ l < remapStart ∧ moved c l then
    (c, (inServicePcs (some p)).getD (l % 31) 0, remapStart + l / 31, a % 4096)
  else (c, p, l, a % 4096)

/-- The pseudo-channel of a stack that is fenced or whose fence is copying, and whether local block `l` is already served
from its remap slot (R243). -/
def pcFence (s : State) (c : Nat) : Option Nat :=
  match toFin 12 c with
  | none => none
  | some c => match (s.cellars[c]).remap with | some r => some r.pc | none => (s.cellars[c]).pcFenced

/-- Has local block `l` of the fenced pseudo-channel been copied (R243)? -/
def pcMoved (s : State) (c l : Nat) : Bool :=
  match toFin 12 c with
  | none => false
  | some c => match (s.cellars[c]).remap with | some r => r.copied || decide (l < r.next) | none => true

/-- Where a data-space offset stands now (R240). -/
def place40 (s : State) (a : Nat) : Nat × Nat × Nat × Nat := locate (nStacks s) (pcFence s) (pcMoved s) a

/-- Bank and row of byte `o` of local block `l` (R241). -/
def bankRow (l o : Nat) : Nat × Nat :=
  let slot := 4 * l + o / 1024
  (slot % 48, slot / 48)

/-- Bank, row and byte in the row of the tag of local block `l`: 8 bytes in the tag reserve (R241). The state keeps tags by data-space block, from
which this place follows. -/
def tagPlace (l : Nat) : Nat × Nat × Nat :=
  let slot := 1177344 + l / 128
  (slot % 48, slot / 48, 8 * (l % 128))

/-- The cellar die of a data-space block. -/
def cellarOf (s : State) (b : Nat) : CellarIx := ⟨b % nStacks s, by unfold nStacks; split <;> omega⟩

/-- The tag of an UNWRITTEN block (R248). -/
def unwrittenTag : Word := BitVec.allOnes 64

/-- The tag of a block. -/
def tagOf (s : State) (b : Nat) : Word := tget unwrittenTag s.tags b

/-- Store a tag. -/
def setTag (s : State) (b : Nat) (t : Word) : State := { s with tags := tset unwrittenTag s.tags b t }

/-- The key slot of a data-space offset: its partition's, or slot 8 (R262). -/
def slotOf (s : State) (a : Nat) : Fin 9 :=
  match (ixs 8).find? (fun p => match (s.parts[p]).allot with | none => false | some q => decide (q.base ≤ a ∧ a < q.base + q.size)) with
  | some p => ⟨p.val, by omega⟩
  | none => 8

/-- The plaintext byte at a data-space offset; a byte that nothing has written since its key was loaded is a free value
(R248). -/
def hbmByte (s : State) (a : Nat) : Byte :=
  (tfind s.hbm a).getD (Config.unwrittenByte (2 ^ 40 * s.keyEpochs[slotOf s a] + a))

/-- Bytes at data-space offsets from `a` on. -/
def hbmBytes (s : State) (a : Nat) (n : Nat) : List Byte := (List.range n).map (fun i => hbmByte s (a + i))

/-- One step of CRC-32C over a bit, reflected (R245). -/
def crcBit (c : Nat) : Nat := if c % 2 = 1 then (c >>> 1) ^^^ 0x82F63B78 else c >>> 1

/-- CRC-32C over one byte. -/
def crcByte (c : Nat) (b : Byte) : Nat := crcBit (crcBit (crcBit (crcBit (crcBit (crcBit (crcBit (crcBit (c ^^^ b.toNat))))))))

/-- CRC-32C of a byte string: polynomial 0x1EDC_6F41 reflected, initial value and final XOR all ones (R245). -/
def crc32c (bs : List Byte) : Nat := (bs.foldl crcByte 0xFFFFFFFF) ^^^ 0xFFFFFFFF

/-- A tag from its fields (table CM-4). -/
def mkTag (crc version fold : Nat) : Word := word (place crc 63 32 + place version 31 16 + place fold 15 0)

/-- The fold of a tensor identifier; identifier 0 names no tensor and gives 0x0000 (R246). -/
def foldOf (t : Nat) : Nat :=
  if t = 0 then 0
  else
    let f := (t % 65536) ^^^ (256 * (t / 65536 % 256))
    if f = 0 then 0x8000 else if f = 0xFFFF then 0x7FFF else f

/-- The byte string of a block that differs from zero only at the listed places. -/
def sparseBlock (ds : List (Nat × Byte)) : List Byte := (List.range 4096).map (fun i => tget 0 ds i)

/-- Write bytes of one block at data-space block `b`, given as (place in the block, byte) with places rising. `fresh`: the
write covers the whole block within one tracker, so its CRC is computed from the data alone; otherwise the tag follows the
XOR difference (R249). -/
def writeBlock (s : State) (b : Nat) (ws : List (Nat × Byte)) (fresh : Bool) (version fold : Nat) : State :=
  let old := tagOf s b
  let blank := decide (old = unwrittenTag)
  let crc :=
    if fresh then crc32c (ws.map (·.2))
    else
      let crcOld := if blank then crc32c (List.replicate 4096 0) else wfield old 63 32
      let diff := ws.map (fun (o, v) => (o, v ^^^ (if blank then 0 else hbmByte s (4096 * b + o))))
      crcOld ^^^ crc32c (sparseBlock diff) ^^^ crc32c (List.replicate 4096 0)
  setTag { s with hbm := ws.foldl (fun m (o, v) => tput m (4096 * b + o) v) s.hbm } b (mkTag crc version fold)

/-- The version map entry of a logical data-space block of a partition (R282, R290). -/
def mapOf (s : State) (p : PartIx) (b : Nat) : MapE := (tfind s.vmap b).getD ⟨(b, (s.parts[p]).mapVer), none, none⟩

/-- The data-space offset of a byte of the partition's HBM3, before the version map. -/
def logicalAddr (s : State) (p : PartIx) (off : Nat) : Nat := match (s.parts[p]).allot with | none => off | some a => a.base + off

/-- The data-space offset that a reader or writer naming no version reaches: CURRENT for parameter and moment blocks
(R284, R291). -/
def physAddr (s : State) (p : PartIx) (off : Nat) : Nat :=
  let a := logicalAddr s p off
  if versionedAt s p off then 4096 * (mapOf s p (a / 4096)).cur.1 + a % 4096 else a

/-- Does the CURRENT block of an entry become RETAINED when another takes its place: a retention is in force, and the block is the
first to leave since it began (R286, R400)? -/
def keepsOld (s : State) (p : PartIx) (e : MapE) : Bool := (s.parts[p]).retention.isSome && e.retained.isNone

/-- Is the bit of a page set in a dirty map (R398)? -/
def PageSet.has (a : PageSet) (g : Nat) : Bool := a.all != a.pages.contains g

/-- Set or clear the bit of a page (R398). -/
def PageSet.put (a : PageSet) (g : Nat) (v : Bool) : PageSet :=
  { a with pages := if v == a.all then a.pages.filter (· != g) else addOnce g a.pages }

/-- The dirty map with the bits of both (R406). -/
def PageSet.union (a b : PageSet) : PageSet :=
  match a.all, b.all with
  | false, false => ⟨false, b.pages.foldl (fun l g => addOnce g l) a.pages⟩
  | true, false => ⟨true, a.pages.filter (fun g => !b.pages.contains g)⟩
  | false, true => ⟨true, b.pages.filter (fun g => !a.pages.contains g)⟩
  | true, true => ⟨true, a.pages.filter b.pages.contains⟩

/-- A write to a block of a parameter or moment tensor sets the ACCUM bit of its page, by logical data-space block (R398). -/
def markPage (s : State) (p : PartIx) (b : Nat) : State :=
  modPart s p (fun q => { q with ckp := { q.ckp with accum := q.ckp.accum.put (b / 16) true } })

/-- Bytes of the partition's HBM3 that its view holds: the data area (R56, R434). -/
def hbmView (s : State) (p : PartIx) : Nat := match (s.parts[p]).allot with | none => 0 | some a => a.data

/-- The VERSION that a stream or scalar store carries (R247, R291). -/
def storeVersion (s : State) (p : PartIx) (off : Nat) : Nat :=
  if versionedAt s p off then (mapOf s p (logicalAddr s p off / 4096)).cur.2
  else if active s p then (s.parts[p]).stepNo.toNat % 65536 else 0

/-- The causes of a failed tag check in the order of R252, codes of CEL_TAG_LOG.CAUSE (table CM-12). -/
inductive TagCause where
  | crc | fold | version | unwritten | hbmUncorr
  deriving DecidableEq, Repr

/-- Code of a cause in CEL_TAG_LOG (table CM-12). -/
def tagCauseCode : TagCause → Nat
  | .crc => 0 | .fold => 1 | .version => 2 | .unwritten => 3 | .hbmUncorr => 4

/-- The comparisons that fail on a read of a block, in the order in which R252 ranks them; empty when the read passes. `err` is what the
hardware does to the read. -/
def tagCheck (s : State) (b : Nat) (err : ReadErr) (crc fold version : Bool) (expFold expVersion : Nat) : List TagCause :=
  let t := tagOf s b
  let bad : Bool × Bool := match err with | .bad c f => (c, f) | _ => (false, false)
  if err = .uncorr then [.hbmUncorr]
  else if !(crc || fold || version) then []
  else if t = unwrittenTag then [.unwritten]
  else
    (if crc && (bad.1 || decide (crc32c (hbmBytes s (4096 * b) 4096) ≠ wfield t 63 32)) then [.crc] else [])
      ++ (if fold && (bad.2 || decide (wfield t 15 0 ≠ expFold)) then [.fold] else [])
      ++ (if version && decide (wfield t 31 16 ≠ expVersion) then [.version] else [])

/-- A free block tracker is at hand on a cellar die, so that an operation which covers a whole block within one tracker checks its CRC, or
stores a fresh one (R249 to R251). -/
def trackerFree (s : State) (c : CellarIx) : Bool := decide ((s.cellars[c]).trackers.length < 256)

/-- A write to a block spoils the read trackers that others hold open for it (R251). -/
def spoil (s : State) (b : Nat) (own : Tracker → Bool) : State :=
  modCellar s (cellarOf s b) (fun x =>
    { x with trackers := x.trackers.map (fun t => if t.block = b ∧ !t.write ∧ !own t then { t with good := false } else t) })

/-- An engine of a cellar die writes a whole block, as one operation with its own tracker if one is free (R249, R251, R272, R283). -/
def engineWrite (s : State) (b : Nat) (bytes : List Byte) (version fold : Nat) : State :=
  writeBlock (spoil s b (fun _ => false)) b ((List.range 4096).zip bytes) (trackerFree s (cellarOf s b)) version fold

/-- A write of bytes of a block that names no tracker: from a window or a scalar store (R249, R251). -/
def looseWrite (s : State) (b : Nat) (ws : List (Nat × Byte)) (version fold : Nat) : State :=
  writeBlock (spoil s b (fun _ => false)) b ws false version fold

/-- Record the failure of a checked read on a cellar die: its bits of CEL_ERR and, if no record is held, CEL_TAG_LOG
(R252, R265). -/
def logTagFail (s : State) (c : CellarIx) (causes : List TagCause) (source block : Nat) : State :=
  match causes with
  | [] => s
  | first :: _ =>
    modCellar s c (fun x =>
      { x with
        hbmUncorr := x.hbmUncorr || causes.contains .hbmUncorr
        unwritten := x.unwritten || causes.contains .unwritten
        versionErr := x.versionErr || causes.contains .version
        foldErr := x.foldErr || causes.contains .fold
        crcErr := x.crcErr || causes.contains .crc
        tagLog := if x.tagLog.valid then x.tagLog else ⟨true, tagCauseCode first, source, 4096 * block⟩ })

/-! ### Failed accesses (R23, R30) -/

/-- Change the PKG block. -/
def modPkg (s : State) (f : Pkg → Pkg) : State := { s with pkg := f s.pkg }

/-- An access of a management core fails: kind and address of table PK-13. -/
def accessError (s : State) (kind addr : Nat) : State :=
  modPkg s (fun p =>
    { p with errCount := satAdd p.errCount 1 255, accessErr := true
             errKind := if p.accessErr then p.errKind else kind, errAddr := if p.accessErr then p.errAddr else addr })

/-- The control address of a data-space offset (table PK-5). -/
def hbmControl (a : Nat) : Nat := 0x8000000000 + a

end Sys2Proof.Machine
end

