-- ==== Sys2Proof/Machine/Watch.lean ====
section
/-! DEFINITION. Observation: clock domains that stand still, counters, trace packets (R18, R443, R450 to R458, R460, R461, R466, R468,
R487; tables PK-4, DB-4 to DB-7, DB-11). Nothing here changes a value that the device computes (R60). -/

namespace Sys2Proof.Machine

/-! ### Clock domains (R18), named by the SOURCE codes of table DB-5 -/

/-- The core region of a core. -/
def coreDom (n : CoreIx) : Nat := 0x30 + (regionOf n).val

/-- The region that clocks a sluice and its hall buffer: 0 or 4 (table PK-4). -/
def sluiceDom (d : DieIx) : Nat := 0x30 + 4 * d.val

/-- A cellar die. -/
def cellarDom (c : CellarIx) : Nat := 0x40 + c.val

/-- The PHY of a stack. -/
def phyDom (c : CellarIx) : Nat := 0x50 + c.val

/-- The SerDes group of a fabric port. -/
def portDom (f : PortIx) : Nat := 0x60 + f.val

/-- The PCIe SerDes group. -/
def pcieDom : Nat := 0x72

/-- The management domain. -/
def mgmtDom : Nat := 0x78

/-- Does a domain stand still: no power, clocks stopped for lost power or a thermal trip, or stopped by a halt or a power state
(R458, R485, R501)? Only the management domain survives a trip or lost power. -/
def asleep (s : State) (dom : Nat) : Bool :=
  !s.pwr.powered || (dom != mgmtDom && (s.pwr.lost || s.pwr.tripped)) || (tfind s.dbg.stops dom).isSome

/-- Can a domain whose duty a halt does not suspend not do it: no power, or clocks stopped by a power state, lost power or a trip? Thermal
trip and electrical protection act whatever the halt (R460). -/
def unclocked (s : State) (dom : Nat) : Bool :=
  !s.pwr.powered || (dom != mgmtDom && (s.pwr.lost || s.pwr.tripped))
    || (match tfind s.dbg.stops dom with | some x => x.cause != 0 | none => false)

/-- Does some cellar die of the variant stand still? -/
def cellarsAsleep (s : State) : Bool := (ixs 12).any (fun c => decide (c.val < nStacks s) && asleep s (cellarDom c))

/-- Do reference-time timers stand still (R461; log entry 255)? -/
def timersHeld (s : State) : Bool := s.dbg.halted || !s.pwr.powered

/-! ### Counters (R466; table DB-11) -/

/-- Largest value of a counter, in its own unit (R466). -/
def cntTop : Nat := 2 ^ 62 - 1

/-- Base units per unit of a partition counter: MACs per 2^20, bytes per KiB (table DB-11). -/
def pUnit (i : Nat) : Nat := if i = 3 then 2 ^ 20 else if i ∈ [8, 9, 10, 11] then 1024 else 1

/-- Base units per unit of a global counter. -/
def gUnit (i : Nat) : Nat := if i = 2 then 2 ^ 20 else if i ∈ [3, 4, 5, 6, 7] then 1024 else 1

/-- Add to a partition counter, in base units. -/
def countP (s : State) (p : PartIx) (i k : Nat) : State :=
  { s with cnt := { s.cnt with p := s.cnt.p.set p.val (tset 0 s.cnt.p[p] i (satAdd (tget 0 s.cnt.p[p] i) k (cntTop * pUnit i))) p.isLt } }

/-- Add to a global counter, in base units. -/
def countG (s : State) (i k : Nat) : State :=
  { s with cnt := { s.cnt with g := tset 0 s.cnt.g i (satAdd (tget 0 s.cnt.g i) k (cntTop * gUnit i)) } }

/-- Is some region stretched, by droop or by rule E0 or E1 (R477; table PW-2)? -/
def anyStretched (s : State) : Bool :=
  (ixs 8).any (fun r => s.pwr.stretch[r] != .none) || (ixs 2).any (fun d => (s.pwr.dies[d]).e0) || s.pwr.lim.e1

/-- Does G11 count now (R478)? In P2 and P3 the counters hold still (R450). -/
def countsStretch (s : State) : Bool := anyStretched s && decide (s.pwr.pstate < 2)

/-- Does G12 count now (R480)? -/
def countsBoost (s : State) : Bool := s.pwr.boost && decide (s.pwr.pstate < 2)

/-- Reference time since a mark. -/
def sinceMark (s : State) : Option Nat → Nat
  | some t => s.rtime - t
  | none => 0

/-- G11 and G12 take up the reference time for which they have counted, and count on where their condition holds (R478, R480). -/
def settleTime (s : State) : State :=
  if s.cnt.stretchSince.isNone && s.cnt.boostSince.isNone && !countsStretch s && !countsBoost s then s
  else
    let s := look s
    let s := countG (countG s 11 (sinceMark s s.cnt.stretchSince)) 12 (sinceMark s s.cnt.boostSince)
    { s with cnt :=
      { s.cnt with
        stretchSince := if countsStretch s then some s.rtime else none
        boostSince := if countsBoost s then some s.rtime else none } }

/-- The counters of cycles, of energy and of blocked time take up what they have counted: free amounts, since no rule gives the time that
passes (table DB-11; log entry 99). In P2 all but ENERGY_MJ hold still, in P3 all (R450). -/
def accrue (s : State) (part : Option PartIx) : State :=
  match part with
  | some p => if 2 ≤ s.pwr.pstate then s else each [4, 5, 15] s (fun s i => bump (countP s p i (Config.counted s.freeIx)))
  | none =>
    let is := if s.pwr.pstate < 2 then [0, 1] else if s.pwr.pstate = 2 then [0] else []
    each is (settleTime s) (fun s i => bump (countG s i (Config.counted s.freeIx)))

/-- Samples of counters of a set in the layout of table DB-22, all in one management cycle. `coin`: they fall in the cycle of the clear that began the
window; they then return the completed window, and every later sample the new one (R467). In P3 a sample returns what the counter held at
the entry (R450). -/
def sampleSet (s : State) (part : Option PartIx) (coin : Bool) (is : List Nat) : State × List Nat :=
  let p3 := s.pwr.pstate == 3
  let begun := match part with | some p => s.cnt.pFresh[p] && (s.cnt.p[p]).isEmpty | none => s.cnt.gFresh && s.cnt.g.isEmpty
  let c := coin && begun && !p3
  let s := if p3 || c then s else accrue s part
  let vals := match part with
    | some p => if p3 then s.cnt.pSlept[p] else if c then s.cnt.pDone[p] else s.cnt.p[p]
    | none => if p3 then s.cnt.gSlept else if c then s.cnt.gDone else s.cnt.g
  let unit := fun i => match part with | some _ => pUnit i | none => gUnit i
  let s := { s with cnt := match part with
    | some p => { s.cnt with pFresh := s.cnt.pFresh.set p.val false p.isLt }
    | none => { s.cnt with gFresh := false } }
  (s, is.map (fun i =>
    let v := tget 0 vals i / unit i
    place (b2n c) 63 63 + place (b2n (decide (v = cntTop))) 62 62 + place v 61 0))

/-- A sample of one counter. -/
def sample (s : State) (part : Option PartIx) (i : Nat) (coin : Bool) : State × Nat :=
  let x := sampleSet s part coin [i]
  (x.1, x.2.headD 0)

/-- Every counter of a set, sampled in one cycle. -/
def sampleAll (s : State) (part : Option PartIx) (coin : Bool) : State × List Nat := sampleSet s part coin (List.range 16)

/-- A new window of a partition's counters begins; WINDOW's held value applies (R466, R467). -/
def newWindow (s : State) (p : PartIx) : State :=
  let s := accrue s (some p)
  { s with cnt :=
    { s.cnt with
      pFresh := s.cnt.pFresh.set p.val true p.isLt
      pDone := s.cnt.pDone.set p.val s.cnt.p[p] p.isLt
      p := s.cnt.p.set p.val [] p.isLt
      win := s.cnt.win.set p.val ((s.cnt.winHeld[p]).getD s.cnt.win[p]) p.isLt
      winHeld := s.cnt.winHeld.set p.val none p.isLt } }

/-- A new window of the global counters begins (R466, R467). -/
def newGlobalWindow (s : State) : State :=
  let s := accrue s none
  { s with cnt := { s.cnt with gFresh := true, gDone := s.cnt.g, g := [], gwin := s.cnt.gwinHeld.getD s.cnt.gwin, gwinHeld := none } }

/-! ### Trace packets (R451 to R455; tables DB-5 to DB-7) -/

/-- Does the trace port send: enabled, level D1 or above, a state of table DB-4 that has trace (R450, R451)? SCRAPPED and minimal mode have
none; the exit from P3 has it again for its RESUME packets (R488). -/
def tracing (s : State) : Bool :=
  s.trc.enable && decide (1 ≤ s.dbg.level ∧ (s.pwr.pstate ≠ 3 ∨ s.pwr.waking)) && s.pwr.powered && !s.pwr.lost
    && !s.boot.minimal && s.boot.fuses.lc != .scrapped

/-- The header word of a packet (table DB-5). -/
def packetHead (type len source aux ts : Nat) : Nat :=
  place type 63 58 + place len 57 55 + place source 51 44 + place aux 43 20 + place ts 19 0

/-- A packet leaves the port, stamped with the reference time that the state holds; its coding on the lanes is left out (log entry 260). -/
def rawPacket (s : State) (type source aux : Nat) (words : List Nat) : State :=
  emit s (.trace type (packetHead type words.length source aux s.rtime :: words))

/-- What goes before the next packet: a trace begins with a SYNC whose AUX[0] is 1 (R456), and a LOST packet follows what has been
dropped (R454; table DB-6). -/
def leadPackets (s : State) : State :=
  let s := if s.trc.first then { rawPacket s 0x01 0x7E 1 [s.rtime] with trc := { s.trc with first := false } } else s
  let t := s.trc
  if t.owedFlow = 0 ∧ t.owedEvent = 0 ∧ t.owedCounter = 0 then s
  else
    rawPacket { s with trc := { t with owedFlow := 0, owedEvent := 0, owedCounter := 0 } } 0x3F 0x7E 0
      [place t.owedCounter 47 32 + place t.owedEvent 31 16 + place t.owedFlow 15 0]

/-- Send a packet stamped with the reference time that the state holds. -/
def packetNow (s : State) (type source aux : Nat) (words : List Nat) : State :=
  if tracing s then rawPacket (leadPackets s) type source aux words else s

/-- Send a packet stamped with reference time now. -/
def packet (s : State) (type source aux : Nat) (words : List Nat) : State :=
  if tracing s then packetNow (look s) type source aux words else s

/-- The packets that the assembler drops where they find no room or no time (R453, R454). -/
inductive Lossy where
  | flow (n : CoreIx) | event | counter
  deriving DecidableEq, Repr

/-- A packet is dropped: TRC_LOST counts it, a LOST packet will tell, and the flow of a core is to be synchronised anew (R453, R454). -/
def dropPacket (s : State) (k : Lossy) : State :=
  let t := s.trc
  { s with trc := match k with
    | .flow n => { t with lostFlow := satAdd t.lostFlow 1 0xFFFF, owedFlow := satAdd t.owedFlow 1 0xFFFF, resync := addOnce n.val t.resync }
    | .event => { t with lostEvent := satAdd t.lostEvent 1 0xFFFF, owedEvent := satAdd t.owedEvent 1 0xFFFF }
    | .counter => { t with lostCounter := satAdd t.lostCounter 1 0xFFFF, owedCounter := satAdd t.owedCounter 1 0xFFFF } }

/-- Send a FLOW, EVENT or COUNTER packet, or drop it (R453, R454). Which are dropped depends on timing: a free value (log entry 91). -/
def lossyPacket (s : State) (k : Lossy) (type source aux : Nat) (words : List Nat) : State :=
  if !tracing s then s
  else if Config.traceFull s.freeIx then dropPacket (bump s) k
  else packet (bump s) type source aux words

/-- Trace an event of table DB-7, if EVENTS enables it (R443, R450). Every event has the management domain as its source (log entry
90). -/
def traceEvent (s : State) (code detail : Nat) : State :=
  if (s.trc.cfg.events >>> code) % 2 = 1 && !asleep s mgmtDom then lossyPacket s .event 0x20 mgmtDom code [detail % 2 ^ 48] else s

/-- Is the instruction flow of a core traced: D2 or above, P0 or P1, selected in TRC_FLOW (R443, R450, R455)? -/
def flowTraced (s : State) (n : CoreIx) : Bool :=
  tracing s && decide (2 ≤ s.dbg.level ∧ s.pwr.pstate ≤ 1) && s.trc.cfg.cores.getLsbD n.val

/-- The outcome bits of a list as a number, the first lowest. -/
def bitsNat : List Bool → Nat
  | [] => 0
  | b :: bs => b2n b + 2 * bitsNat bs

/-- Send the pending outcome bits of a core as FLOW_BITS, under the context whose they are (R455). -/
def flowFlush (s : State) (n : CoreIx) : State :=
  match tfind s.trc.bits n.val with
  | none => s
  | some (i, bs) =>
    if !flowTraced s n || bs.isEmpty then s
    else
      lossyPacket { s with trc := { s.trc with bits := terase s.trc.bits n.val } } (.flow n) 0x11 n.val (place i.val 19 18) [bs.length + 64 * bitsNat bs]

/-- An outcome bit of a BR or BRI, 0 when its guard stops it; 58 bits leave at once (R455). -/
def flowBit (s : State) (n : CoreIx) (i : CtxIx) (taken : Bool) : State :=
  if !flowTraced s n then s
  else
    let bs := (match tfind s.trc.bits n.val with | some (_, bs) => bs | none => []) ++ [taken]
    let s := { s with trc := { s.trc with bits := tput s.trc.bits n.val (i, bs) } }
    if 58 ≤ bs.length then flowFlush s n else s

/-- FLOW_PC with its reason, after the pending bits (R455; table DB-6). -/
def flowPc (s : State) (n : CoreIx) (i : CtxIx) (reason : Nat) (pc : BitVec 40) : State :=
  if !flowTraced s n then s
  else
    let s := flowFlush s n
    let s := bump (modCore s n (fun c => { c with cycles := c.cycles + Config.elapsedCycles s.freeIx }))
    let l := match boundOf s.cores[n] i with | some b => b.lcore | none => 0
    lossyPacket s (.flow n) 0x10 n.val (place reason 23 20 + place i.val 19 18 + place l 17 12) [pc.toNat, (s.cores[n]).cycles]

/-- After a branch of a core whose FLOW packets have been dropped, FLOW_PC with reason 3 (R454). -/
def flowResync (s : State) (n : CoreIx) (i : CtxIx) (pc : BitVec 40) : State :=
  if s.trc.resync.contains n.val && flowTraced s n then
    flowPc { s with trc := { s.trc with resync := s.trc.resync.filter (· != n.val) } } n i 3 pc
  else s

/-- FLOW_PC of the context that a core now runs, if it is another than before (R455). -/
def flowSwitch (s : State) (n : CoreIx) (before : Option CtxIx) : State :=
  match runCtx s.cores[n] with
  | some j => if before = some j then s else flowPc s n j 0 (ctxOf s n j).pc
  | none => s

/-- STEPATT-like detail of the step events of table DB-7: attempt in [7:0], step in [47:8]. -/
def stepDetail (s : State) (p : PartIx) : Nat := (s.parts[p]).attempt % 256 + 256 * ((s.parts[p]).stepNo.toNat % 2 ^ 40)

/-! ### Stopping and restarting domains (R457, R458) -/

/-- A domain stops: its cycle count and stop time are recorded, and STOP is sent (R458). -/
def stopDomain (s : State) (dom cause : Nat) : State :=
  if asleep s dom then s
  else
    let k := tget 0 s.dbg.counts dom + Config.elapsedCycles s.freeIx
    let s := look (bump { s with dbg := { s.dbg with counts := tset 0 s.dbg.counts dom k } })
    let s := packetNow s 0x02 dom cause [s.rtime, k]
    { s with dbg := { s.dbg with stops := tput s.dbg.stops dom ⟨cause, k, s.rtime⟩ } }

/-- A domain restarts from its stop count, or from 0 when it was powered off, and sends RESUME (R458, R462). -/
def resumeDomain (s : State) (dom : Nat) : State :=
  match tfind s.dbg.stops dom with
  | none => s
  | some x =>
    let off := s.dbg.fresh.contains dom
    let k := if off then 0 else x.count
    let s := { s with dbg := { s.dbg with stops := terase s.dbg.stops dom, fresh := s.dbg.fresh.filter (· != dom), counts := tset 0 s.dbg.counts dom k } }
    let s := look s
    packetNow s 0x03 dom (b2n off) [s.rtime, k]

end Sys2Proof.Machine
end

