-- ==== Sys2Proof/Machine/Wire.lean ====
section
/-! DEFINITION. The words of a frame and of a management message: the header of table FB-2, the words A and B of table FB-3, the payloads of table
FB-4, tokens (table SP-3), the header of table FB-11 and the body of a report (R306, R362, R363, R385, R387). -/

namespace Sys2Proof.Machine

/-! ### Frames (tables FB-2 to FB-4) -/

/-- The words of a token (table SP-3). -/
def tokenWords (t : Token) : List Nat :=
  [place t.group.toNat 63 32 + t.epoch.toNat, t.step.toNat, t.version.toNat, place t.kind 63 56 + place t.attempt 55 48 + place t.coord 47 32, t.mac0.toNat, t.mac1.toNat]

/-- TYPE of a frame (table FB-3). -/
def typeOf : FBody → Nat
  | .put .. => 0x01
  | .credit .. => 0x02
  | .contrib .. => 0x03
  | .retry .. => 0x04
  | .token .. => 0x05
  | .step .. => 0x06
  | .mirror _ => 0x07
  | .digest .. => 0x08
  | .storePut .. => 0x09
  | .storeGet .. => 0x0A
  | .storeData .. => 0x0B
  | .dack _ => 0x0C
  | .other t => t

/-- STEPATT: ATTEMPT in [63:56], the step number in [55:0] (R363). -/
def stepattWord (attempt step : Nat) : Nat := place attempt 63 56 + place step 55 0

/-- Code of a step message (table FB-3). -/
def stepMsgCode : StepMsg → Nat
  | .start _ => 1
  | .ready .. => 2
  | .fail .. => 3
  | .commit _ => 4
  | .abort _ => 5
  | .discarded .. => 6
  | .mirrorAck .. => 7

/-- Kind of a MIRROR frame and its offset (table FB-3). -/
def mirrorKind : MirrorMsg → Nat × Nat
  | .page off _ _ _ => (1, off)
  | .vest .. => (2, 0)
  | .image off .. => (3, off)
  | .release => (4, 0)

/-- Word A of a frame (table FB-3); 0 for a type that the table does not list. -/
def wordA : FBody → Nat
  | .put chan pos _ _ _ => place chan 63 56 + place pos 39 0
  | .credit chan limit _ _ => place chan 63 56 + place limit 39 0
  | .contrib red fmt e rank granule _ _ _ => place red 63 52 + place fmt 51 48 + place (e % 256).toNat 47 40 + place rank 39 24 + place granule 23 0
  | .retry ab _ => ab.1.toNat
  | .token rank lcore barrier _ _ => place rank 63 48 + place lcore 47 42 + place barrier 15 0
  | .step sender _ _ m => place (stepMsgCode m) 63 56 + place sender 15 0
  | .mirror m => place (mirrorKind m).1 63 56 + place (mirrorKind m).2 39 0
  | .digest group sender _ _ => place group.toNat 63 32 + place sender 15 0
  | .storePut off _ _ => place off 39 0
  | .storeGet off len _ => place off 39 0 + place (ceilDiv len 256) 55 40
  | .storeData off len _ _ => place off 39 0 + place (ceilDiv len 256) 55 40
  | .dack l => place l.length 7 0
  | .other _ => 0

/-- Word B of a frame (table FB-3); 0 for a type that the table does not list. -/
def wordB : FBody → Nat
  | .put _ _ attempt step _ => stepattWord attempt step
  | .credit _ _ attempt step => stepattWord attempt step
  | .contrib _ _ _ _ _ attempt step _ => stepattWord attempt step
  | .retry ab _ => ab.2.toNat
  | .token _ _ _ attempt step => stepattWord attempt step
  | .step _ group epoch _ => place group.toNat 63 32 + epoch.toNat
  | .mirror (.page _ version _ _) => version.toNat
  | .mirror (.vest step _ _) => step.toNat
  | .mirror (.image _ _ version _ _ _) => version.toNat
  | .mirror .release => 0
  | .digest _ _ version _ => version.toNat
  | .storePut _ obj _ => obj.toNat
  | .storeGet _ _ obj => obj.toNat
  | .storeData _ _ obj _ => obj.toNat
  | .dack _ => 0
  | .other _ => 0

/-- The payload of a step message in 64-bit words (table FB-4). -/
def stepPayload : StepMsg → List Nat
  | .start t => tokenWords t
  | .commit t => tokenWords t
  | .abort t => tokenWords t
  | .ready step attempt unpaired => [step.toNat, place attempt 7 0 + place (b2n unpaired) 8 8]
  | .fail step attempt classH cause => [step.toNat, place attempt 7 0 + place (b2n classH) 9 8 + place cause 31 16]
  | .discarded step attempt => [step.toNat, attempt]
  | .mirrorAck kind value => [kind, value.toNat]

/-- The payload of a DACK: SPD in bits [31:30] of each number (table FB-3). -/
def dackWord (e : Nat × Nat) : Nat := place e.1 31 30 + place e.2 29 0

/-- Word 0 of a header with a payload of `len` bytes (table FB-2). -/
def headWord (vl hops spart dest src dpart len : Nat) (b : FBody) : Nat :=
  place (typeOf b) 63 56 + place vl 55 54 + place hops 53 51 + place spart 50 48 + place dest 47 32 + place src 31 16 + place dpart 15 13 + place len 12 0

/-- Word 1 of a header (table FB-2). -/
def seqWord (spd seq linkSeq : Nat) : Nat := place spd 63 62 + place seq 61 32 + place linkSeq 31 0

/-- The four header words of a frame that leaves under a LINK_SEQ with a payload of `len` bytes (table FB-2). -/
def headerWords (f : Frame) (len linkSeq : Nat) : List Nat :=
  [headWord f.vl f.hops f.spart f.dest f.src f.dpart len f.body, seqWord f.spd f.seq linkSeq, wordA f.body, wordB f.body]

/-! ### Management messages (tables FB-11 and SP-9) -/

/-- MAGIC of a management message: 0x4D47_4B56. -/
def mgmtMagic : Nat := 0x4D474B56

/-- The 24-byte header of a management message (table FB-11). -/
def mgmtHeader (kind bodyLen seq acked : Nat) (serial : Word) : List Byte :=
  leBytes 4 mgmtMagic ++ leBytes 1 1 ++ leBytes 1 kind ++ leBytes 2 bodyLen ++ leBytes 4 seq ++ leBytes 4 acked ++ leBytes 8 serial.toNat

end Sys2Proof.Machine
end

