-- ==== Sys2Proof/Machine/Send.lean ====
section
/-! DEFINITION. What the device sends: frames with their routing and retransmit store, reports, interrupts (R327, R361 to
R368, R372 to R376, R382, R387). -/

namespace Sys2Proof.Machine

/-- Is a port the twin port of some partition (R376)? -/
def isTwinPort (s : State) (f : PortIx) : Bool :=
  (ixs 8).any (fun p => decide ((s.parts[p]).twin ≠ .none ∧ (s.parts[p]).twinPort = f.val))

/-- Ports of the routing entry of a destination that satisfy a condition, ascending (R368). -/
def entryPorts (s : State) (dest : Nat) (ok : Port → Bool) : List PortIx :=
  let e := tget 0 s.fab.routes dest
  if e >>> 31 % 2 = 1 then
    (ixs 18).filter (fun f => decide (f.val < portCount s) && (e >>> f.val) % 2 == 1 && ok s.fab.ports[f] && !isTwinPort s f)
  else []

/-- Is a port in a training state (table FB-1)? -/
def training (p : Port) : Bool :=
  match p.st with
  | .detect | .equalize | .align | .auth | .retrain => true
  | _ => false

/-- Is a port ACTIVE? -/
def portActive (p : Port) : Bool := decide (p.st = .active)

/-- FLOW of R368: the channel of PUT and CREDIT, the reduction of CONTRIB, 0 otherwise. -/
def flowOf : FBody → Nat
  | .put chan _ _ _ _ => chan
  | .credit chan _ _ _ => chan
  | .contrib red _ _ _ _ _ _ _ => red
  | _ => 0

/-- The hash that chooses among the ports of an entry (R368). -/
def routeHash (src dest flow : Nat) : Nat := (mix (word (src <<< 32) ^^^ word (dest <<< 16) ^^^ word flow)).toNat

/-- The port that a frame leaves on (R368). -/
def routePort (s : State) (f : Frame) : Option PortIx :=
  let ps := entryPorts s f.dest portActive
  ps[routeHash f.src f.dest (flowOf f.body) % ps.length]?

/-- Is a frame kept in the retransmit store until its DACK (R374)? -/
def kept (b : FBody) : Bool :=
  match b with
  | .put .. | .contrib .. | .token .. | .storePut .. => true
  | _ => false

/-- Bytes that a record takes in the vestibule: those of what it captures (log entry 40). -/
def vestSize : VRec → Nat
  | .input _ _ _ _ bs => bs.length
  | .contrib _ _ _ fmt _ raws => raws.length * (match fmtOf fmt with | some f => fmtBits f | none => 32) / 8
  | .tok .. => 32
  | .step _ => 48

/-- Payload bytes of a frame (tables FB-2 to FB-4). -/
def payloadLen : FBody → Nat
  | .put _ _ _ _ bs => bs.length
  | .contrib _ fmt _ _ _ _ _ raws => raws.length * (match fmtOf fmt with | some f => fmtBits f | none => 32) / 8
  | .retry _ _ => 16
  | .step _ _ _ (.start _) => 48
  | .step _ _ _ (.commit _) => 48
  | .step _ _ _ (.abort _) => 48
  | .step .. => 16
  | .mirror (.page _ _ bs _) => bs.length
  | .mirror (.vest _ (some v) _) => vestSize v.r
  | .mirror (.image _ len ..) => len
  | .digest .. => 32
  | .storePut _ _ bs => bs.length
  | .storeData _ _ _ bs => bs.length
  | .dack l => 4 * l.length
  | _ => 0

/-- Bytes of a frame: header, payload padded to 16, tag (R362). -/
def frameLen (f : Frame) : Nat := 32 + roundUp (payloadLen f.body) 16 + 16

/-- Bytes in the retransmit store of a port die. -/
def storeUsed (d : PortDie) : Nat := (d.store.map (fun x => frameLen x.frame)).sum

/-- 16 MiB, the retransmit store (R374). -/
def storeBytes : Nat := 16 * 2 ^ 20

/-- Key of the peer's buffer space for a virtual lane and hop class (R365). -/
def grantKey (fr : Frame) : Nat := 8 * fr.vl + fr.hops

/-- 512 KiB, the replay buffer of a port (R364). -/
def replayBytes : Nat := 512 * 1024

/-- Has the replay buffer of a port room for a frame (R364)? A full one holds every frame back until an ACK. -/
def replayRoom (p : Port) (fr : Frame) : Bool := decide ((p.replay.map (fun e => frameLen e.2)).sum + frameLen fr ≤ replayBytes)

/-- Grant a peer the space of an ingress buffer with VLCREDIT, while the port is ACTIVE (R365). -/
def sendVlcredit (s : State) (f : PortIx) (key len : Nat) : State :=
  if portActive s.fab.ports[f] then emit s (.link f 4 (s.fab.ports[f]).rxSeq [key / 8, key % 8, len]) else s

/-- A forwarded frame has left: the buffer of its ingress port is free, and its space is granted anew (R365). -/
def freeIngress (s : State) (e : Egress) : State :=
  match e.origin with
  | none => s
  | some (f, key) =>
    sendVlcredit (modPort s f (fun p => { p with held := tset 0 p.held key (tget 0 p.held key - frameLen e.frame) })) f key (frameLen e.frame)

/-- Put a frame on a link: it takes the port's next LINK_SEQ and its buffer space at the peer, and stands in the replay buffer until
its ACK (R362, R364, R365). Some way before LINK_SEQ reaches 2^31 a REKEY leaves first, for the frame after it (R361; log entry
34); that frame is the first under the new generation. -/
def launch (s : State) (f : PortIx) (fr : Frame) : State :=
  let x := s.fab.ports[f]
  let q := x.txSeq
  let s := countG s 5 (frameLen fr)
  let s := if fr.src = s.fab.node then (match toFin 8 fr.spart with | some p => countP s p 10 (frameLen fr) | none => s) else s
  let s := if q % 2 ^ 31 = 2 ^ 30 then emit (modPort s f (fun p => { p with rekey := some ⟨p.keyGen + 1, q + 1⟩ })) (.link f 5 (q + 1) [x.keyGen + 1]) else s
  emit (modPort s f (fun p =>
    { p with txSeq := (p.txSeq + 1) % 2 ^ 32
             keyGen := match p.rekey with | some r => if r.fromSeq = q then r.gen else p.keyGen | none => p.keyGen
             replay := p.replay ++ [(q, fr)]
             grants := tset 0 p.grants (grantKey fr) (tget 0 p.grants (grantKey fr) - frameLen fr) })) (.frame f q fr)

/-- May a frame leave: has the peer granted space for it, and has the replay buffer room (R364, R365)? -/
def granted (p : Port) (fr : Frame) : Bool := decide (frameLen fr ≤ tget 0 p.grants (grantKey fr)) && replayRoom p fr

/-- The frame that leaves next on a port: VL0 first; of the others, VL1 in VL1_SHARE of every 16 slots in which both wait (R365). -/
def nextFrame (p : Port) (share : Nat) : Option Egress :=
  let first := fun (vl : Nat) => p.waiting.find? (fun e => e.frame.vl == vl && granted p e.frame)
  match first 0, first 1, first 2 with
  | some a, _, _ => some a
  | none, some b, some c => some (if p.slot < share then b else c)
  | none, some b, none => some b
  | none, none, c => c

/-- Send what an ACTIVE port may send now, `fuel` frames at most. -/
def pumpN (s : State) (f : PortIx) : Nat → State
  | 0 => s
  | fuel + 1 =>
    let x := s.fab.ports[f]
    if x.st ≠ .active || asleep s (portDom f) then s
    else
      match nextFrame x (s.fab.dies[portDieOf f]).vl1Share with
      | none => s
      | some e =>
        let both := x.waiting.any (fun y => y.frame.vl == 1) && x.waiting.any (fun y => y.frame.vl == 2) && e.frame.vl != 0
        let s := modPort s f (fun p => { p with waiting := p.waiting.erase e, slot := if both then (p.slot + 1) % 16 else p.slot })
        pumpN (freeIngress (launch s f e.frame) e) f fuel

/-- Send everything that an ACTIVE port may send now. -/
def pump (s : State) (f : PortIx) : State := pumpN s f (s.fab.ports[f]).waiting.length

/-- A frame joins the egress of a port and leaves as soon as the port is ACTIVE and the peer has space (R360, R365). -/
def enqueue (s : State) (f : PortIx) (fr : Frame) (origin : Option (PortIx × Nat) := none) : State :=
  pump (modPort s f (fun p => { p with waiting := p.waiting ++ [⟨fr, origin⟩] })) f

/-- Number a frame on a port die and keep it for retransmission where R374 says so. -/
def numberFrame (s : State) (d : PortDieIx) (fr : Frame) : State × Frame :=
  let fr := { fr with spd := d.val, seq := (s.fab.dies[d]).nextSeq }
  (modPortDie s d (fun x =>
    { x with nextSeq := (x.nextSeq + 1) % 2 ^ 30
             store := if kept fr.body then x.store ++ [⟨fr.seq, fr, false⟩] else x.store }), fr)

/-- Send a frame of this device: to itself, on a port of its entry, or to wait for a port that trains; without a route it
is discarded and counted (R360, R368). The port die of a frame without a route is port die 0 (log entry 30). -/
def sendFrame (s : State) (spart dpart dest vl : Nat) (b : FBody) : State :=
  let fr : Frame := ⟨vl, 0, spart, dpart, dest, s.fab.node, 0, 0, b⟩
  if dest = s.fab.node then { s with fab := { s.fab with loop := s.fab.loop ++ [fr] } }
  else
    match (routePort s fr).orElse (fun _ => (entryPorts s dest training).head?) with
    | some f =>
      let (s, fr) := numberFrame s (portDieOf f) fr
      enqueue s f fr
    | none => modPortDie s 0 (fun d => { d with noRoute := satAdd d.noRoute 1 0xFFFF })

/-- Node and partition of a rank (R367). -/
def rankNode (s : State) (p : PartIx) (rank : Nat) : Nat × Nat :=
  let e := tget 0 s.fab.ranks[p] rank
  (e % 65536, e / 65536 % 8)

/-- Send a frame addressed by rank (R367). -/
def sendRank (s : State) (p : PartIx) (rank vl : Nat) (b : FBody) : State :=
  let (node, part) := rankNode s p rank
  sendFrame s p.val part node vl b

/-- A step message of this device to a rank, with its group and epoch (R300, R305). -/
def sendStep (s : State) (p : PartIx) (rank : Nat) (m : StepMsg) : State :=
  let q := s.parts[p]
  sendRank s p rank 0 (.step q.rank q.group q.epoch m)

/-- A frame to the twin on the twin port (R376). -/
def sendTwin (s : State) (p : PartIx) (vl : Nat) (b : FBody) : State :=
  match toFin 18 (s.parts[p]).twinPort with
  | none => s
  | some f =>
    let fr : Frame := ⟨vl, 0, p.val, (s.parts[p]).twinPart, (s.fab.ports[f]).peerNode, s.fab.node, 0, 0, b⟩
    let (s, fr) := numberFrame s (portDieOf f) fr
    enqueue s f fr

/-- STEPATT of table FB-3 for the current step of a partition: attempt and 56-bit step. -/
def stepAtt (s : State) (p : PartIx) : Nat × Nat := ((s.parts[p]).attempt, (s.parts[p]).stepNo.toNat % 2 ^ 56)

/-- Without numbers left the device reports SEQ_EXHAUSTED and sends no more (R433). -/
def exhaustSeq (s : State) : State :=
  let r : Report := ⟨s.mgmt.nextSeq, 0x55, 0xF, 0, 0, [s.boot.seqBase]⟩
  let s := emit { s with mgmt := { s.mgmt with nextSeq := s.mgmt.nextSeq + 1, queue := s.mgmt.queue ++ [r] } } (.report r)
  { s with mgmt := { s.mgmt with exhausted := true } }

/-- Before the last reserved message number is used a new reservation is written, which also raises FM_FLOOR (R433): it stands once section BOOT has been
written, and what takes the last number or a later one waits for that. Before stage 2 has read SEQ_BASE a report has no number yet. -/
def reserveSeq (s : State) : State :=
  if !s.boot.recordRead || s.mgmt.exhausted || decide (s.mgmt.nextSeq + 1 < s.boot.seqLimit) then s
  else if s.boot.seqBase ≠ s.boot.seqLimit then wantSection s 1
  else if 2 ^ 32 - 2 ^ 18 < s.boot.seqBase + 2 ^ 18 then exhaustSeq s
  else wantSection { s with boot := { s.boot with seqBase := s.boot.seqBase + 2 ^ 18, fmFloor := max s.boot.fmFloor (s.mgmt.lastSeq.getD 0) } } 1

/-- Queue a report to the fault manager and send it (R327, R387). A full queue drops its oldest reports, so that its 1,024 entries hold REPORTS_LOST with
the number dropped at the head, and the new report. -/
def sendReport (s : State) (code part : Nat) (epoch : W32) (step : Word) (detail : List Nat) : State :=
  let s := reserveSeq s
  let m := s.mgmt
  let r : Report := ⟨m.nextSeq, code, part, epoch, step, detail⟩
  if m.queue.length < 1024 then
    emit { s with mgmt := { m with nextSeq := m.nextSeq + 1, queue := m.queue ++ [r] } } (.report r)
  else
    let others := m.queue.filter (fun q => decide (q.code ≠ 0x45))
    let lost := m.lostCount + (others.length - 1022)
    let hd : Report := ⟨m.nextSeq + 1, 0x45, 0xF, 0, 0, [lost]⟩
    let s := modPortDie s 0 (fun d => { d with reportsLost := true })
    emit { s with mgmt := { m with nextSeq := m.nextSeq + 2, lostCount := lost, queue := hd :: others.drop (others.length - 1022) ++ [r] } } (.report r)

/-- A report of a partition, with its epoch and step (R327). -/
def partReport (s : State) (p : PartIx) (code : Nat) (detail : List Nat) : State :=
  sendReport s code p.val (s.parts[p]).epoch (s.parts[p]).stepNo detail

/-- A report of the device as a whole (log entry 31). -/
def devReport (s : State) (code : Nat) (detail : List Nat) : State := sendReport s code 0xF 0 0 detail

/-- An MSI-X message (R382): the host link must be up; the message of a masked vector is pending (table FB-9; log entry 207). -/
def msix (s : State) (v : Nat) : State :=
  if !s.pcie.up then s
  else
    match s.pcie.table[v]? with
    | some e => if e.masked then { s with pcie := { s.pcie with pba := s.pcie.pba ||| BitVec.twoPow 16 v } } else emit s (.msix v)
    | none => s

/-- A posted write to a host window (R380). -/
def hostWrite (s : State) (p : PartIx) (off : Nat) (bs : List Byte) : State :=
  emit (countG s 7 bs.length) (.hostWrite p off bs)

/-- Change a partition's plan state and signal it (R46, R382). -/
def setPlan (s : State) (p : PartIx) (st : PlanSt) : State :=
  if (s.parts[p]).st = st then s else msix (modPart s p (fun q => { q with st := st })) (1 + p.val)

/-- Return the DACK of a frame that was accepted or discarded (R374): the device returns each on its own, a legal group of
one; a frame that the device addressed to itself stands in no retransmit store. -/
def dackFor (s : State) (h : Arrival) : State :=
  match h.port with
  | none => s
  | some _ => sendFrame s h.dpart.val h.spart h.src 0 (.dack [(h.spd, h.seq)])

/-- A frame that the step of a partition sends: in SOLO it is dropped (R323). -/
def stepFrame (s : State) (p : PartIx) (rank vl : Nat) (b : FBody) : State :=
  if (s.parts[p]).step = .solo then s else sendRank s p rank vl b

/-- Count a discarded frame as NO_TARGET on the port die where it arrived (R363, R373, R376, R508). -/
def countNoTarget (s : State) (h : Arrival) : State :=
  modPortDie s (match h.port with | some f => portDieOf f | none => 0) (fun d => { d with noTarget := satAdd d.noTarget 1 0xFFFF })

/-- Count a discarded frame as STALE on the port die where it arrived (R373). -/
def countStale (s : State) (h : Arrival) : State :=
  modPortDie s (match h.port with | some f => portDieOf f | none => 0) (fun d => { d with stale := satAdd d.stale 1 0xFFFF })

/-- Virtual lane of a type of frame (table FB-3). -/
def vlOf : FBody → Nat
  | .put .. | .mirror .. | .storePut .. | .storeData .. => 2
  | .contrib .. => 1
  | _ => 0

/-- Words A and B, and words 0 and 1, of a frame that arrived last on its port (R363): what a RETRY of it carries. -/
def refusedWords (s : State) (h : Arrival) (b : FBody) : (Word × Word) × (Word × Word) :=
  let linkSeq := match h.port with | some f => ((s.fab.ports[f]).rxSeq + (2 ^ 32 - 1)) % 2 ^ 32 | none => 0
  ((word (wordA b), word (wordB b)),
    (word (headWord h.vl h.hops h.spart s.fab.node h.src h.dpart.val (payloadLen b) b), word (seqWord h.spd h.seq linkSeq)))

/-- Refuse a frame for now: answer it with RETRY, which carries its words (R374). One that the device addressed to itself waits for another
delivery (DESIGN CHOICE, log entry 205). -/
def sendRetry (s : State) (h : Arrival) (p : PartIx) (b : FBody) : State :=
  match h.port with
  | some _ =>
    match refusedWords s h b with
    | (ab, w01) => sendFrame s p.val h.spart h.src 0 (.retry ab w01)
  | none => { s with fab := { s.fab with loop := s.fab.loop ++ [⟨vlOf b, 0, h.spart, p.val, s.fab.node, s.fab.node, h.spd, h.seq, b⟩] } }

/-- Is a frame of this key generation accepted on a port (R361)? One of the generation in force; a new one from the frame that the peer's REKEY
names, the old one until this device has acknowledged it with the first frame of the new; and, once a REKEY of this device has left, both
until the peer acknowledges it. -/
def genOk (p : Port) (gen : Nat) : Bool :=
  decide (gen = p.rxGen)
    || (match p.rxRekey with | some r => decide (gen = r.gen ∧ r.fromSeq ≤ p.rxSeq) | none => false)
    || (match p.rekey with | some r => decide (gen = r.gen) | none => false)

/-- A frame whose tag fails, or a codeword that FEC cannot correct: the device sends NACK, naming the frame that it waits for (R364). -/
def sendNack (s : State) (f : PortIx) : State :=
  let s := modPort s f (fun p => { p with nacks := satAdd p.nacks 1 0xFFFF })
  emit s (.link f 2 (s.fab.ports[f]).rxSeq [])

/-- A port has received a frame: it acknowledges the frame by its LINK_SEQ, and takes up the generation of the peer's REKEY with the first frame
under it, for its own direction too (R361, R364). -/
def received (s : State) (f : PortIx) (gen len : Nat) : State :=
  let q := (s.fab.ports[f]).rxSeq
  let s := modPort s f (fun p =>
    let takes := match p.rxRekey with | some r => decide (gen = r.gen) | none => false
    { p with rxSeq := (p.rxSeq + 1) % 2 ^ 32
             rxGen := if takes then gen else p.rxGen
             keyGen := if takes then gen else p.keyGen
             rxRekey := if takes then none else p.rxRekey })
  countG (emit s (.link f 1 q [])) 6 len

/-- A frame reaches the device: one on a port arrives only while that port is ACTIVE and its SerDes group runs; one that the device
addressed to itself must stand first among those waiting for delivery (R368). On a twin port only the twins' frames are taken
(R376), in P2 none is (R489), and one whose VL field is invalid is not either (table FB-2; log entry 208): those are discarded as NO_TARGET. A frame
under a key generation that is not accepted fails its tag (R361, R364). The error is the state in which nothing more happens. -/
def arrive (s : State) (h : Arrival) (b : FBody) (onTwin : Bool) : Except State State :=
  match h.port with
  | none =>
    match s.fab.loop with
    | f :: rest => if f.body = b ∧ f.dpart = h.dpart.val then .ok { s with fab := { s.fab with loop := rest } } else .error s
    | [] => .error s
  | some f =>
    if !portActive s.fab.ports[f] || asleep s (portDom f) then .error s
    else if !genOk s.fab.ports[f] h.gen then .error (sendNack s f)
    else
      let len := 32 + roundUp (payloadLen b) 16 + 16
      let s := countP (sendVlcredit (received s f h.gen len) f (8 * h.vl + h.hops) len) h.dpart 11 len
      if (isTwinPort s f && !onTwin) || decide (s.pwr.pstate = 2 ∨ h.vl = 3) then .error (if kept b then dackFor (countNoTarget s h) h else countNoTarget s h)
      else .ok s

end Sys2Proof.Machine
end

