-- ==== Sys2Proof/Machine/Switch.lean ====
section
/-! DEFINITION. Task contexts: blocking conditions, waking, switching, the partition stop (R45, R68 to R73, R87, R97, R157,
R161, R196, R201, R210, R225, R228). -/

namespace Sys2Proof.Machine

/-- Every listed source of a barrier has sent its token for the current step, as the sluice of a die sees it (R45, R228). -/
def barrierDone (s : State) (d : DieIx) (p : PartIx) (b : Nat) : Bool :=
  match barrierOf s p b with
  | none => false
  | some e => e.sources.all (fun x => (s.sluices[d]).held.any (fun t => decide (t.part = p ∧ t.barrier = b ∧ t.src = x)))

/-- Is a core store line present (R160, R217)? -/
def linePresent (c : Core) (l : Nat) : Bool :=
  match tfind c.lines l with
  | none => true
  | some (.present _) => true
  | some _ => false

/-- Entries of an engine's instruction queue (R96). -/
def queueLen (c : Core) : Engine → Nat
  | .matrix => c.mq.length
  | .vector => c.vq.length
  | .stream => c.sq.length

/-- Depth of an engine's instruction queue (R96). -/
def queueDepth : Engine → Nat
  | .matrix => 8
  | .vector => 8
  | .stream => 16

/-- Does a matrix queue entry name a chain entry? -/
def mqNames (e : Nat) (x : MEntry) : Bool :=
  match x.kind with
  | .mma j => decide (j.f.chain.val = e ∧ (j.f.drain = .direct ∨ j.f.drain = .flume))
  | _ => false

/-- Does a vector queue entry name a chain entry? -/
def vqNames (e : Nat) (x : VEntry) : Bool :=
  match x.kind with
  | .run f _ _ _ => f.chain.val == e
  | .chdef k _ => k == e
  | .pop .. => false

/-- The stream contexts of a sluice that a context of a core has active. -/
def streamsOf (s : State) (n : CoreIx) (i : CtxIx) : List SCtx :=
  ((s.sluices[dieOfCore n]).ctxs.map (·.2)).filter (fun x => decide (x.core = n ∧ x.ctx = i))

/-- Is an access of a context to a space in a FENCE scope still outstanding (R87, R89)? A core store access completes
when it issues (log entry 12). -/
def inScope (scope : Nat) (a : Acc) : Bool :=
  match a.space with
  | .store => scope % 2 == 1
  | .hall => scope / 2 % 2 == 1
  | .hbm => scope / 4 % 2 == 1

/-- Does a condition that an instruction of a context waits for hold now (table CC-2)? -/
def condHolds (s : State) (n : CoreIx) (i : CtxIx) (k : Cond) : Bool :=
  let c := s.cores[n]
  let x := c.ctx[i]
  match k with
  | .regs rs =>
    rs.all (fun r => decide (r = 0) || !(x.accs.any (fun a => !a.store && decide (a.rd = r)) || x.trds.any (fun t => decide (t.rd = r))))
  | .queue e => decide (queueLen c e < queueDepth e)
  | .lines lo hi => (List.range (hi - lo)).all (fun j => linePresent c (lo + j))
  | .keptFree => match c.kept with | some k => decide (k.ctx = i) | none => true
  | .flume count => decide (count ≤ (c.banks[bankOf c i]).flume.length - (c.banks[bankOf c i]).claimed)
  | .entryFree e =>
    !(c.mq.any (fun m => decide (bankOf c m.ctx = bankOf c i) && mqNames e m)
      || c.vq.any (fun v => decide (v.bank = bankOf c i) && vqNames e v)
      || (c.banks[bankOf c i]).flume.any (fun f => f.chain == e))
  | .sctxIdle l =>
    match boundOf c i with
    | none => true
    | some b => !((s.sluices[dieOfCore n]).ctxs.any (fun e => decide (e.2.part = b.part ∧ e.2.lcore = b.lcore ∧ e.2.sctx = l)))
  | .barrier b => match boundOf c i with | none => false | some bd => barrierDone s (dieOfCore n) bd.part b
  | .counter k v => decide (v ≤ x.c[k])
  | .memDone scope => !(x.accs.any (inScope scope))
  | .engineDone => !(c.mq.any (fun m => decide (m.ctx = i)) || c.vq.any (fun v => decide (v.ctx = i))
      || c.sq.any (fun q => decide (q.ctx = i))) && (streamsOf s n i).isEmpty
  | .vectorDone => !(c.vq.any (fun v => decide (v.ctx = i)))

/-- The rotation order of R70 after a context: upward and wrapping, the context itself last. -/
def rotation (i : CtxIx) : List CtxIx := [i + 1, i + 2, i + 3, i]

/-- Select the first READY context in rotation from the one last in RUN; without one the core issues nothing (R70). -/
def pick (c : Core) : Core :=
  match (rotation c.current).find? (fun j => (c.ctx[j]).st == .ready) with
  | none => c
  | some j =>
    { c with ctx := c.ctx.set j.val { c.ctx[j] with st := .run } j.isLt, current := j, issued := 0 }

/-- Select a context if none is in RUN (R70, R71). -/
def pickIfIdle (c : Core) : Core := if (runCtx c).isSome then c else pick c

/-- A BLOCKED context of a core whose conditions all hold becomes READY (R71). -/
def wakeCtx (s : State) (n : CoreIx) (i : CtxIx) : State :=
  let x := ctxOf s n i
  if x.st = .blocked ∧ x.waits.all (condHolds s n i) then modCtx s n i (fun x => { x with st := .ready, waits := [] }) else s

/-- Every context of a core whose blocking condition has cleared becomes READY, and an idle core selects one (R70, R71). -/
def wake (s : State) (n : CoreIx) : State :=
  flowSwitch (modCore (each (ixs 4) s (fun s i => wakeCtx s n i)) n pickIfIdle) n (runCtx s.cores[n])

/-- As `wake`, for every core of a partition. -/
def wakePart (s : State) (p : PartIx) : State := each (coresOf s p) s wake

/-- Count a switch for the partition of a context that is switched in (table DB-11). -/
def countSwitch (s : State) (n : CoreIx) : State :=
  match (runCtx s.cores[n]).bind (boundOf s.cores[n]) with
  | some b => countP s b.part 7 1
  | none => s

/-- The RUN context leaves RUN for a state, and the core selects the next (R70); pending outcome bits leave the trace port (R455). -/
def leave (s : State) (n : CoreIx) (i : CtxIx) (st : CtxSt) (waits : List Cond) : State :=
  let s := flowFlush s n
  countSwitch (flowSwitch (modCore s n (fun c =>
    pick { c with ctx := c.ctx.set i.val { c.ctx[i] with st := st, waits := waits } i.isLt, current := i })) n none) n

/-- Discard the kept output of a core: its half is cleared (R157). -/
def dropKept (c : Core) : Core :=
  { c with kept := none, arrays := c.arrays.map (fun a => if a.half1.st = .kept then { a with half1 := Half.reset } else a) }

/-- Discard every flume slot of a core (R196). -/
def dropFlumes (c : Core) : Core :=
  { c with banks := c.banks.map (fun b => { b with flume := [], claimed := 0, waiting := [] }) }

/-- A partition stop reaches one core: contexts in RUN, READY or BLOCKED become STOPPED, a PARKED one remains (R97), kept
output and flume slots go (R157, R196). -/
def stopCore (p : PartIx) (c : Core) : Core :=
  dropFlumes (dropKept
    { c with
      stopped := true, stopping := false
      ctx := Vector.ofFn (fun i : Fin 4 =>
        let x := c.ctx[i]
        let mine := match boundOf c i with | some b => decide (b.part = p) | none => false
        if mine && (x.st == .run || x.st == .ready || x.st == .blocked) then { x with st := .stopped, waits := [] } else x) })

/-- A core stops for a partition, and the trace port shows where (R97, R455). -/
def stopOne (s : State) (p : PartIx) (n : CoreIx) : State :=
  let s := match runCtx s.cores[n] with | some i => flowPc s n i 5 (ctxOf s n i).pc | none => s
  modCore s n (stopCore p)

/-- Every core of a partition has stopped (R97). -/
def stopPart (s : State) (p : PartIx) : State := each (coresOf s p) s (fun s n => stopOne s p n)

/-- A partition stop begins: each core of the partition that has not stopped does so at an instruction boundary within 2 µs (R97;
DESIGN CHOICE, log entry 189: after the instruction that it issues next, or once no command waits). -/
def beginStop (s : State) (p : PartIx) : State :=
  each (coresOf s p) s (fun s n => modCore s n (fun c => if c.stopped then c else { c with stopping := true }))

/-- A core at an instruction boundary follows a partition stop that is on its way to it (R97). -/
def settleStop (s : State) (n : CoreIx) : State :=
  if (s.cores[n]).stopping then
    match ownerOf s n with
    | some p => stopOne s p n
    | none => modCore s n (fun c => { c with stopping := false })
  else s

/-- Every partition stop under way ends (R97). -/
def settleStops (s : State) : State := each (ixs 40) s settleStop

end Sys2Proof.Machine
end

