-- ==== Sys2Proof/Machine/Stop.lean ====
section
/-! DEFINITION. The halt wave and the resume (R459 to R462; tables DB-6 to DB-8). -/

namespace Sys2Proof.Machine

/-- Does minimal mode hold (R419)? Then no UCIe module is up, and only the management domain is there to stop (R448). -/
def minimal (s : State) : Bool := s.boot.minimal

/-- Every core region, cellar, PHY and SerDes group of the variant, and the PCIe endpoint (table PK-4). -/
def packageDoms (s : State) : List Nat :=
  (List.range 8).map (0x30 + ·) ++ (List.range (nStacks s)).map (0x40 + ·) ++ (List.range (nStacks s)).map (0x50 + ·)
    ++ (List.range (portCount s)).map (0x60 + ·) ++ [pcieDom]

/-- The domains that a halt wave stops (table DB-8): every core region, cellar, PHY and SerDes group of the variant, and the management
domain under HALT_MGMT; in minimal mode the management domain alone (R448). -/
def waveDoms (s : State) : List Nat :=
  if minimal s then [mgmtDom] else packageDoms s ++ (if s.dbg.haltMgmt then [mgmtDom] else [])

/-- A halt wave starts, unless one is in progress or the device is halted (R459). It is a feature of D3, so that below that level no
exception and no dump starts one (R443; table DB-1; log entry 224). -/
def haltWave (s : State) (cause : Nat) : State :=
  if s.dbg.halted || s.dbg.halting || decide (s.dbg.level < 3) then s
  else traceEvent { s with dbg := { s.dbg with halting := true, haltCause := cause } } 0x0D cause

/-- The device is HALTED once every domain that the wave stops has stopped (R460); it reports so (R470). -/
def settleHalt (s : State) : State :=
  if s.dbg.halting && (waveDoms s).all (asleep s) then
    devReport { s with dbg := { s.dbg with halting := false, halted := true } } 0x61 [s.dbg.haltCause]
  else s

/-- DOMAIN_STOP: a domain that the wave reaches stops at a cycle boundary (R459). -/
def execDomainStop (dom : Nat) (s : State) : Res :=
  if s.dbg.halting && (waveDoms s).contains dom then .next (settleHalt (stopDomain s dom 0)) else .next s

/-- Everything that waited for a stopped domain goes on: ports send, contexts wake. -/
def restart (s : State) : State := each (ixs 40) (each (ixs 18) s pump) wake

/-- Resume: every domain that the halt stopped restarts from its stop count (R462). -/
def resumeAll (s : State) : State :=
  if !s.dbg.halted then s
  else
    let doms := (s.dbg.stops.filter (fun e => e.2.cause == 0)).map (·.1)
    restart (each doms { s with dbg := { s.dbg with halted := false, haltCause := 0 } } resumeDomain)

end Sys2Proof.Machine
end

