-- ==== Sys2Proof/Machine/Exc.lean ====
section
/-! DEFINITION. Exceptions: the record, the partition stop, the failed step (R97 to R103; tables CC-14, CC-19, CC-20). -/

namespace Sys2Proof.Machine

/-- Exceptions of table CC-14. -/
inductive Exc where
  | badTarget | misaligned | outOfRange | codeWrite | badBarrier | operandRange | seqRange | tagMismatch
  | storeUncorrectable | engineFault | waitTimeout | trap
  deriving DecidableEq, Repr

/-- Code of an exception (table CC-14). -/
def excCode : Exc → Nat
  | .badTarget => 1 | .misaligned => 2 | .outOfRange => 3 | .codeWrite => 4 | .badBarrier => 5 | .operandRange => 6
  | .seqRange => 7 | .tagMismatch => 0x10 | .storeUncorrectable => 0x11 | .engineFault => 0x12 | .waitTimeout => 0x13
  | .trap => 0x20

/-- Class of an exception, codes of CC_EXC.CLASS: 0 P, 1 H, 2 T (tables CC-14, CC-19). -/
def excClass : Exc → Nat
  | .tagMismatch => 1 | .storeUncorrectable => 1 | .engineFault => 1 | .waitTimeout => 1
  | .trap => 2
  | _ => 0

/-- The step of a partition fails on this device: it enters STOPPED and sends FAIL, and Absuko reports it (R98, tables SP-4
and SP-9). A step that does not run has already failed or ended. A class P failure of the same attempt
that has arrived before stays one (R308). SOLO keeps its state, since table SP-4 omits the pair (R314),
and sends nothing (R323). -/
def failStep (s : State) (p : PartIx) (classH : Bool) (cause : Nat) : State :=
  let q := s.parts[p]
  if q.step = .run then
    let s := modPart s p (fun q => { q with step := .stopped, failClassP := q.failClassP || !classH, failCause := cause })
    let s := sendStep s p q.coord (.fail q.stepNo q.attempt classH cause)
    partReport s p 0x03 [b2n classH, cause]
  else s

/-- Take an exception in a context: it becomes FAULTED, CC_EXC and CC_EXC_ADDR are loaded in one update, the partition
stop begins, and the step fails (R97, R98, R103). An exception of another context, of this core or another, before its core has stopped
is recorded as secondary (R100). Under a pending halt request the step's discard begins at once, without an order (R99); DISCARD_COMPLETE
ends it. -/
def raise (s : State) (n : CoreIx) (i : CtxIx) (e : Exc) (pc : BitVec 40) (info : Word) : State :=
  if (ctxOf s n i).st = .faulted then s
  else match boundOf s.cores[n] i with
  | none => s
  | some b =>
    let p := b.part
    let first := (s.parts[p]).excFirst.isNone
    let s := modCtx s n i (fun x =>
      { x with st := .faulted, waits := [], exc := ⟨excCode e, excClass e, !first, true, pc, info⟩ })
    let s := flowPc s n i 4 pc
    let s := traceEvent s 0x05 (excCode e + 256 * n.val + 65536 * i.val)
    let s := modPart s p (fun q => { q with excFirst := some (q.excFirst.getD (n.val, i.val)) })
    let s := beginStop s p
    let s := partReport s p 0x02 [excCode e, excClass e, n.val, i.val, info.toNat, b2n (!first)]
    let s := failStep s p (decide (excClass e = 1)) (excCode e)
    let s := if (s.parts[p]).haltReq then modPart (stopPart s p) p (fun q => { q with discarding := true, haltCause := 1 }) else s
    if s.dbg.haltOnExc then haltWave s 3 else s

/-- An exception of the instruction at the context's own pc. -/
def raiseHere (s : State) (n : CoreIx) (i : CtxIx) (e : Exc) (info : Word) : State := raise s n i e (ctxOf s n i).pc info

/-- OPERAND_RANGE with its engine code in [63:60] and its detail (tables MA-7, VE-9, ST-7). -/
def operandRange (s : State) (n : CoreIx) (i : CtxIx) (engine check detail : Nat) : State :=
  raiseHere s n i .operandRange (word (place engine 63 60 + place check 59 56 + place detail 55 0))

/-- ENGINE_FAULT in a context for the instruction at `pc`: engine code, unit, cause, detail (R97, R168, R204, R231). -/
def engineFault (s : State) (n : CoreIx) (i : CtxIx) (pc : BitVec 40) (engine : Nat) (f : EngFault) : State :=
  raise s n i .engineFault pc (word (place engine 63 60 + place f.unit 59 56 + place f.cause 55 48 + place f.detail 47 0))

end Sys2Proof.Machine
end

