-- ==== Sys2Proof/Machine/Operands.lean ====
section
/-! DEFINITION. Issue of an instruction by the RUN context of a core, and its operands (R65, R69, R75, R79, R80, R83, R84,
R95). -/

namespace Sys2Proof.Machine

/-- Does a guard let the instruction execute (R75)? -/
def guardOk (x : Ctx) (g : Guard) : Bool := rdp x g.p != g.neg

/-- Is some other context of the core READY (R72)? -/
def anyReady (c : Core) : Bool := (ixs 4).any (fun j => (c.ctx[j]).st == .ready)

/-- The context goes on to the next instruction, `words` words further, after `cycles` issue cycles (table CC-13); the count of R72 grows
while another context is READY. DESIGN CHOICE (log entry 231): the bubbles of a taken branch count as one issue cycle, and cycles in which the
context stalls in place neither count nor end the count. -/
def goOn (s : State) (n : CoreIx) (i : CtxIx) (words cycles : Nat) : State :=
  modCore s n (fun c =>
    { c with ctx := c.ctx.set i.val { c.ctx[i] with pc := (c.ctx[i]).pc + BitVec.ofNat 40 (8 * words) } i.isLt
             issued := if anyReady c then c.issued + cycles else 0 })

/-- As `goOn`, with one issue cycle for each word. -/
def advance (s : State) (n : CoreIx) (i : CtxIx) (words : Nat) : State := goOn s n i words words

/-- Issue an instruction of `words` words that uses the scalar registers `uses`: the RUN context's pc must lie within its
code, or BAD_TARGET is raised where the fetch would have been (R84); a guard that fails costs the issue and nothing else
(R75); a register that awaits a load of space 1 or 2, or a TRD, blocks the context (table CC-2); otherwise the
instruction's effect happens. A core without a RUN context (R70) issues nothing. -/
def issueRun (s : State) (n : CoreIx) (g : Guard) (words : Nat) (uses : List Reg) (effect : State → CtxIx → Bound → LCoreE → State) : State :=
  match runCtx s.cores[n] with
  | none => s
  | some i =>
    match boundOf s.cores[n] i with
    | none => s
    | some b =>
      match lcoreE s b.part b.lcore with
      | none => s
      | some lc =>
        let x := ctxOf s n i
        if lc.codeLen ≤ x.pc.toNat then raiseHere s n i .badTarget (x.pc.setWidth 64)
        else if !guardOk x g then goOn s n i words 1
        else if !condHolds s n i (.regs uses) then leave s n i .blocked [.regs uses]
        else effect s i b lc

/-- Issue an instruction (`issueRun`), after which a partition stop that was on its way reaches the core (R97). A core in a region that
stands still (R458) issues nothing. -/
def issue (s : State) (n : CoreIx) (g : Guard) (words : Nat) (uses : List Reg) (effect : State → CtxIx → Bound → LCoreE → State) : State :=
  if asleep s (coreDom n) then s
  else if (s.cores[n]).stopping then settleStop (issueRun s n g words uses effect) n
  else issueRun s n g words uses effect

/-- Block the RUN context on conditions, or go on when they hold (table CC-2, R161). -/
def gate (s : State) (n : CoreIx) (i : CtxIx) (ks : List Cond) (go : State → State) : State :=
  if ks.all (condHolds s n i) then go s else leave s n i .blocked ks

/-- The headgate of an engine instruction; a failed attempt counts (R161, table DB-11). -/
def headgate (s : State) (n : CoreIx) (i : CtxIx) (b : Bound) (ks : List Cond) (go : State → State) : State :=
  if ks.all (condHolds s n i) then go s else leave (countP s b.part 6 1) n i .blocked ks

/-- The second operand of an instruction (R80, R83). -/
def op2 (x : Ctx) : Op2 → Word
  | .reg r => rd x r
  | .imm v => sext32 v

/-- The registers that a second operand uses. -/
def op2Uses : Op2 → List Reg
  | .reg r => [r]
  | .imm _ => []

/-- Write a scalar result and go on. -/
def result (s : State) (n : CoreIx) (i : CtxIx) (sd : Reg) (v : Word) (words : Nat) : State :=
  advance (modCtx s n i (fun x => wr x sd v)) n i words

/-- An instruction whose only effect is a scalar result computed from the context (R79 to R82). -/
def scalar (s : State) (n : CoreIx) (g : Guard) (sd : Reg) (uses : List Reg) (f : Ctx → Word) : State :=
  issue s n g 1 (sd :: uses) (fun s i _ _ => result s n i sd (f (ctxOf s n i)) 1)

/-- An instruction whose only effect is a predicate (R83). -/
def predicate (s : State) (n : CoreIx) (g : Guard) (pd : Pred) (uses : List Reg) (f : Ctx → Bool) : State :=
  issue s n g 1 uses (fun s i _ _ => advance (modCtx s n i (fun x => wrp x pd (f x))) n i 1)

/-- An FP32 result in bits [31:0], with bits [63:32] zero (R82). -/
def fpWord (v : W32) : Word := v.setWidth 64

/-- The FP32 value in bits [31:0] of a register (R82). -/
def rdf (x : Ctx) (r : Reg) : W32 := (rd x r).setWidth 32

end Sys2Proof.Machine
end

