-- ==== Sys2Proof/Machine/Alu.lean ====
section
/-! DEFINITION. Meanings of the scalar arithmetic, comparison and predicate instructions (R79 to R83; tables CC-6 to CC-9,
R89 LI64). -/

namespace Sys2Proof.Machine

/-- Leading zeros of a word, 0–64. -/
def clz64 (w : Word) : Nat := if w = 0 then 64 else 63 - Nat.log2 w.toNat

/-- Set bits of a word, 0–64. -/
def popc64 (w : Word) : Nat := ((List.range 64).filter (fun i => w.getLsbD i)).length

/-- A shift count: bits [5:0] of the count operand (R79). -/
def shCount (w : Word) : Nat := w.toNat % 64

/-- DIV of table CC-7. -/
def divS (a b : Word) : Word := if b = 0 then BitVec.allOnes 64 else BitVec.ofInt 64 (Int.tdiv a.toInt b.toInt)

/-- REM of table CC-7. -/
def remS (a b : Word) : Word := if b = 0 then a else BitVec.ofInt 64 (Int.tmod a.toInt b.toInt)

/-- DIVU of table CC-7. -/
def divU (a b : Word) : Word := if b = 0 then BitVec.allOnes 64 else word (a.toNat / b.toNat)

/-- REMU of table CC-7. -/
def remU (a b : Word) : Word := if b = 0 then a else word (a.toNat % b.toNat)

/-- High 64 bits of the unsigned product (table CC-7). -/
def mulHU (a b : Word) : Word := word (a.toNat * b.toNat / 2 ^ 64)

/-- High 64 bits of the signed product (table CC-7). -/
def mulHS (a b : Word) : Word := BitVec.ofInt 64 (a.toInt * b.toInt / 2 ^ 64)

/-- The operations of table CC-6 with two operands. -/
inductive AluOp where
  | add | sub | and | or | xor | shl | shr | sar | min | max | minu | maxu
  deriving DecidableEq, Repr

/-- Results of table CC-6. -/
def alu (o : AluOp) (a b : Word) : Word :=
  match o with
  | .add => a + b
  | .sub => a - b
  | .and => a &&& b
  | .or => a ||| b
  | .xor => a ^^^ b
  | .shl => a <<< shCount b
  | .shr => a >>> shCount b
  | .sar => a.sshiftRight (shCount b)
  | .min => if a.toInt ≤ b.toInt then a else b
  | .max => if b.toInt ≤ a.toInt then a else b
  | .minu => if a ≤ b then a else b
  | .maxu => if b ≤ a then a else b

/-- An ALU instruction of class 0x01 or 0x02 (R80). -/
def aluInstr (o : AluOp) (n : CoreIx) (g : Guard) (sd sa : Reg) (op : Op2) (s : State) : State :=
  scalar s n g sd (sa :: op2Uses op) (fun x => alu o (rd x sa) (op2 x op))

/-- A comparison of table CC-9 (R83). -/
def cmpInstr (f : Word → Word → Bool) (n : CoreIx) (g : Guard) (pd : Pred) (sa : Reg) (op : Op2) (s : State) : State :=
  predicate s n g pd (sa :: op2Uses op) (fun x => f (rd x sa) (op2 x op))

/-- An R-format instruction on two registers. -/
def rr (f : Word → Word → Word) (n : CoreIx) (g : Guard) (sd sa sb : Reg) (s : State) : State :=
  scalar s n g sd [sa, sb] (fun x => f (rd x sa) (rd x sb))

/-- An FP32 instruction on two registers (R82). -/
def ff (f : W32 → W32 → W32) (n : CoreIx) (g : Guard) (sd sa sb : Reg) (s : State) : State :=
  scalar s n g sd [sa, sb] (fun x => fpWord (f (rdf x sa) (rdf x sb)))

/-- ADD (R80). -/
def execAdd (n : CoreIx) (g : Guard) (sd sa : Reg) (op : Op2) (s : State) : Res := .next (aluInstr .add n g sd sa op s)

/-- SUB (R80). -/
def execSub (n : CoreIx) (g : Guard) (sd sa : Reg) (op : Op2) (s : State) : Res := .next (aluInstr .sub n g sd sa op s)

/-- AND (R80). -/
def execAnd (n : CoreIx) (g : Guard) (sd sa : Reg) (op : Op2) (s : State) : Res := .next (aluInstr .and n g sd sa op s)

/-- OR (R80). -/
def execOr (n : CoreIx) (g : Guard) (sd sa : Reg) (op : Op2) (s : State) : Res := .next (aluInstr .or n g sd sa op s)

/-- XOR (R80). -/
def execXor (n : CoreIx) (g : Guard) (sd sa : Reg) (op : Op2) (s : State) : Res := .next (aluInstr .xor n g sd sa op s)

/-- SHL: the count is bits [5:0] of the second operand (R79, R80). -/
def execShl (n : CoreIx) (g : Guard) (sd sa : Reg) (op : Op2) (s : State) : Res := .next (aluInstr .shl n g sd sa op s)

/-- SHR (R79, R80). -/
def execShr (n : CoreIx) (g : Guard) (sd sa : Reg) (op : Op2) (s : State) : Res := .next (aluInstr .shr n g sd sa op s)

/-- SAR (R79, R80). -/
def execSar (n : CoreIx) (g : Guard) (sd sa : Reg) (op : Op2) (s : State) : Res := .next (aluInstr .sar n g sd sa op s)

/-- MIN (R80). -/
def execMin (n : CoreIx) (g : Guard) (sd sa : Reg) (op : Op2) (s : State) : Res := .next (aluInstr .min n g sd sa op s)

/-- MAX (R80). -/
def execMax (n : CoreIx) (g : Guard) (sd sa : Reg) (op : Op2) (s : State) : Res := .next (aluInstr .max n g sd sa op s)

/-- MINU (R80). -/
def execMinu (n : CoreIx) (g : Guard) (sd sa : Reg) (op : Op2) (s : State) : Res := .next (aluInstr .minu n g sd sa op s)

/-- MAXU (R80). -/
def execMaxu (n : CoreIx) (g : Guard) (sd sa : Reg) (op : Op2) (s : State) : Res := .next (aluInstr .maxu n g sd sa op s)

/-- SEL: SA if p[SC[3:0]] is 1, else SB (R80). -/
def execSel (n : CoreIx) (g : Guard) (sd sa sb : Reg) (q : Pred) (s : State) : Res :=
  .next (scalar s n g sd [sa, sb] (fun x => if rdp x q then rd x sa else rd x sb))

/-- CLZ (R80). -/
def execClz (n : CoreIx) (g : Guard) (sd sa : Reg) (s : State) : Res :=
  .next (scalar s n g sd [sa] (fun x => word (clz64 (rd x sa))))

/-- POPC (R80). -/
def execPopc (n : CoreIx) (g : Guard) (sd sa : Reg) (s : State) : Res :=
  .next (scalar s n g sd [sa] (fun x => word (popc64 (rd x sa))))

/-- MUL (R81). -/
def execMul (n : CoreIx) (g : Guard) (sd sa sb : Reg) (s : State) : Res := .next (rr (· * ·) n g sd sa sb s)

/-- MULHU (R81). -/
def execMulhu (n : CoreIx) (g : Guard) (sd sa sb : Reg) (s : State) : Res := .next (rr mulHU n g sd sa sb s)

/-- MULH (R81). -/
def execMulh (n : CoreIx) (g : Guard) (sd sa sb : Reg) (s : State) : Res := .next (rr mulHS n g sd sa sb s)

/-- MADD: low 64 bits of SA × SB + SC (R81). -/
def execMadd (n : CoreIx) (g : Guard) (sd sa sb sc : Reg) (s : State) : Res :=
  .next (scalar s n g sd [sa, sb, sc] (fun x => rd x sa * rd x sb + rd x sc))

/-- DIVU (R81). -/
def execDivu (n : CoreIx) (g : Guard) (sd sa sb : Reg) (s : State) : Res := .next (rr divU n g sd sa sb s)

/-- DIV (R81). -/
def execDiv (n : CoreIx) (g : Guard) (sd sa sb : Reg) (s : State) : Res := .next (rr divS n g sd sa sb s)

/-- REMU (R81). -/
def execRemu (n : CoreIx) (g : Guard) (sd sa sb : Reg) (s : State) : Res := .next (rr remU n g sd sa sb s)

/-- REM (R81). -/
def execRem (n : CoreIx) (g : Guard) (sd sa sb : Reg) (s : State) : Res := .next (rr remS n g sd sa sb s)

/-- FADD (R82). -/
def execFadd (n : CoreIx) (g : Guard) (sd sa sb : Reg) (s : State) : Res := .next (ff fadd n g sd sa sb s)

/-- FSUB (R82). -/
def execFsub (n : CoreIx) (g : Guard) (sd sa sb : Reg) (s : State) : Res := .next (ff fsub n g sd sa sb s)

/-- FMUL (R82). -/
def execFmul (n : CoreIx) (g : Guard) (sd sa sb : Reg) (s : State) : Res := .next (ff fmul n g sd sa sb s)

/-- FFMA: one rounding (R82). -/
def execFfma (n : CoreIx) (g : Guard) (sd sa sb sc : Reg) (s : State) : Res :=
  .next (scalar s n g sd [sa, sb, sc] (fun x => fpWord (ffma (rdf x sa) (rdf x sb) (rdf x sc))))

/-- FMIN (R82). -/
def execFmin (n : CoreIx) (g : Guard) (sd sa sb : Reg) (s : State) : Res := .next (ff fmin n g sd sa sb s)

/-- FMAX (R82). -/
def execFmax (n : CoreIx) (g : Guard) (sd sa sb : Reg) (s : State) : Res := .next (ff fmax n g sd sa sb s)

/-- FCVTIF (R82). -/
def execFcvtif (n : CoreIx) (g : Guard) (sd sa : Reg) (s : State) : Res :=
  .next (scalar s n g sd [sa] (fun x => fpWord (fofInt (rd x sa).toInt)))

/-- FCVTFI: the result fills all 64 bits (R82). -/
def execFcvtfi (n : CoreIx) (g : Guard) (sd sa : Reg) (s : State) : Res :=
  .next (scalar s n g sd [sa] (fun x => fcvtfi (rdf x sa)))

/-- EQ (R83). -/
def execEq (n : CoreIx) (g : Guard) (pd : Pred) (sa : Reg) (op : Op2) (s : State) : Res :=
  .next (cmpInstr (fun a b => decide (a = b)) n g pd sa op s)

/-- NE (R83). -/
def execNe (n : CoreIx) (g : Guard) (pd : Pred) (sa : Reg) (op : Op2) (s : State) : Res :=
  .next (cmpInstr (fun a b => decide (a ≠ b)) n g pd sa op s)

/-- LT, signed (R83). -/
def execLt (n : CoreIx) (g : Guard) (pd : Pred) (sa : Reg) (op : Op2) (s : State) : Res :=
  .next (cmpInstr (fun a b => decide (a.toInt < b.toInt)) n g pd sa op s)

/-- GE, signed (R83). -/
def execGe (n : CoreIx) (g : Guard) (pd : Pred) (sa : Reg) (op : Op2) (s : State) : Res :=
  .next (cmpInstr (fun a b => decide (b.toInt ≤ a.toInt)) n g pd sa op s)

/-- LTU, unsigned (R83). -/
def execLtu (n : CoreIx) (g : Guard) (pd : Pred) (sa : Reg) (op : Op2) (s : State) : Res :=
  .next (cmpInstr (fun a b => decide (a < b)) n g pd sa op s)

/-- GEU, unsigned (R83). -/
def execGeu (n : CoreIx) (g : Guard) (pd : Pred) (sa : Reg) (op : Op2) (s : State) : Res :=
  .next (cmpInstr (fun a b => decide (b ≤ a)) n g pd sa op s)

/-- FLT: 0 if either operand is a NaN (R83). -/
def execFlt (n : CoreIx) (g : Guard) (pd : Pred) (sa sb : Reg) (s : State) : Res :=
  .next (predicate s n g pd [sa, sb] (fun x => flt (rdf x sa) (rdf x sb)))

/-- FEQ: 0 if either operand is a NaN (R83). -/
def execFeq (n : CoreIx) (g : Guard) (pd : Pred) (sa sb : Reg) (s : State) : Res :=
  .next (predicate s n g pd [sa, sb] (fun x => feq (rdf x sa) (rdf x sb)))

/-- PAND (R83). -/
def execPand (n : CoreIx) (g : Guard) (pd pa pb : Pred) (s : State) : Res :=
  .next (predicate s n g pd [] (fun x => rdp x pa && rdp x pb))

/-- POR (R83). -/
def execPor (n : CoreIx) (g : Guard) (pd pa pb : Pred) (s : State) : Res :=
  .next (predicate s n g pd [] (fun x => rdp x pa || rdp x pb))

/-- PXOR (R83). -/
def execPxor (n : CoreIx) (g : Guard) (pd pa pb : Pred) (s : State) : Res :=
  .next (predicate s n g pd [] (fun x => rdp x pa != rdp x pb))

/-- PNOT (R83). -/
def execPnot (n : CoreIx) (g : Guard) (pd pa : Pred) (s : State) : Res :=
  .next (predicate s n g pd [] (fun x => !rdp x pa))

/-- LI64: two words, one issue cycle (R89, table CC-13). -/
def execLi64 (n : CoreIx) (g : Guard) (sd : Reg) (v : Word) (s : State) : Res :=
  .next (issue s n g 2 [sd] (fun s i _ _ => goOn (modCtx s n i (fun x => wr x sd v)) n i 2 1))

end Sys2Proof.Machine
end

