-- ==== Sys2Proof/Machine/Aes.lean ====
section
/-! DEFINITION. AES-256 and AES-256-GCM, which the manual names and does not define (R402, R403, R429, R433; tables BS-9, CK-2 to CK-5).
PRESUMED (log entry 241): the functions of FIPS 197 and NIST SP 800-38D. -/

namespace Sys2Proof.Machine

/-- Multiplication by x in GF(2^8). -/
def xtime (a : Byte) : Byte := if a.getLsbD 7 then (a <<< 1) ^^^ 0x1B else a <<< 1

/-- Multiplication in GF(2^8). -/
def gmul8 (a b : Byte) : Byte :=
  ((List.range 8).foldl (fun (x : Byte × Byte) i => (if b.getLsbD i then x.1 ^^^ x.2 else x.1, xtime x.2)) (0, a)).1

/-- The inverse in GF(2^8), as the 254th power. -/
def ginv8 (a : Byte) : Byte :=
  let sq := fun (x : Byte) => gmul8 x x
  let a2 := sq a
  let a3 := gmul8 a2 a
  let a12 := sq (sq a3)
  let a15 := gmul8 a12 a3
  let a240 := sq (sq (sq (sq a15)))
  gmul8 (gmul8 a240 a12) a2

/-- The substitution of one byte. -/
def sbox (a : Byte) : Byte :=
  let x := ginv8 a
  x ^^^ x.rotateLeft 1 ^^^ x.rotateLeft 2 ^^^ x.rotateLeft 3 ^^^ x.rotateLeft 4 ^^^ 0x63

/-- The round constants of the key schedule. -/
def rcon (i : Nat) : Byte := (List.range (i - 1)).foldl (fun a _ => xtime a) 1

/-- The words of the key schedule, newest first; the next one has number `i`. -/
def aesSchedule : Nat → Nat → List (List Byte) → List (List Byte)
  | 0, _, l => l
  | n + 1, i, l =>
    let t := l.getD 0 []
    let t := if i % 8 = 0 then
        (match (t.drop 1 ++ t.take 1).map sbox with | b :: r => (b ^^^ rcon (i / 8)) :: r | [] => [])
      else if i % 8 = 4 then t.map sbox else t
    aesSchedule n (i + 1) (((l.getD 7 []).zipWith (· ^^^ ·) t) :: l)

/-- The fifteen round keys of a key of 32 bytes. -/
def roundKeys (key : List Byte) : List (List Byte) :=
  let ws := (aesSchedule 52 8 ((List.range 8).map (fun i => (key.drop (4 * i)).take 4)).reverse).reverse
  (List.range 15).map (fun r => ((ws.drop (4 * r)).take 4).flatten)

/-- The rows are rotated: byte `i` comes from column i / 4 + i % 4 of the same row. -/
def shiftRows (b : List Byte) : List Byte := (List.range 16).map (fun i => b.getD ((i + 4 * (i % 4)) % 16) 0)

/-- One column is mixed. -/
def mixColumn (c : List Byte) : List Byte :=
  (List.range 4).map (fun i =>
    let x := fun j => c.getD ((i + j) % 4) 0
    xtime (x 0) ^^^ (xtime (x 1) ^^^ x 1) ^^^ x 2 ^^^ x 3)

/-- Every column is mixed. -/
def mixColumns (b : List Byte) : List Byte := (List.range 4).flatMap (fun c => mixColumn ((b.drop (4 * c)).take 4))

/-- AES-256 of one block of 16 bytes under its round keys. -/
def aesBlock (ks : List (List Byte)) (b : List Byte) : List Byte :=
  let add := fun (b : List Byte) (r : Nat) => b.zipWith (· ^^^ ·) (ks.getD r [])
  let b := (List.range 13).foldl (fun b r => add (mixColumns (shiftRows (b.map sbox))) (r + 1)) (add b 0)
  add (shiftRows (b.map sbox)) 14

/-- The product in GF(2^128) of GCM; a block stands as a number with its first byte the most significant. -/
def gmul128 (x y : BitVec 128) : BitVec 128 :=
  ((List.range 128).foldl (fun (z : BitVec 128 × BitVec 128) i =>
    (if x.getMsbD i then z.1 ^^^ z.2 else z.1,
      if z.2.getLsbD 0 then (z.2 >>> 1) ^^^ (0xE1#128 <<< 120) else z.2 >>> 1)) (0, y)).1

/-- A block as a number, and back. -/
def blockNat (b : List Byte) : BitVec 128 := BitVec.ofNat 128 (beNat (b ++ List.replicate (16 - b.length) 0))

/-- GHASH over the blocks of a byte string, from a running value; a short last block is padded with zeros. -/
def ghash (h z : BitVec 128) (bs : List Byte) : BitVec 128 :=
  (List.range ((bs.length + 15) / 16)).foldl (fun z i => gmul128 (z ^^^ blockNat ((bs.drop (16 * i)).take 16)) h) z

/-- The key stream from a counter block on: the 96-bit IV and a 32-bit counter. -/
def keyStream (ks : List (List Byte)) (iv : List Byte) (ctr n : Nat) : List Byte :=
  (List.range ((n + 15) / 16)).flatMap (fun i => aesBlock ks (iv ++ (leBytes 4 (ctr + i)).reverse))

/-- AES-256-GCM: the ciphertext and the 16-byte tag of a plaintext under a key of 32 bytes, an IV of 12 bytes and additional data. -/
def gcm (key iv aad plain : List Byte) : List Byte × List Byte :=
  let ks := roundKeys key
  let h := blockNat (aesBlock ks (List.replicate 16 0))
  let c := plain.zipWith (· ^^^ ·) (keyStream ks iv 2 plain.length)
  let z := ghash h (ghash h 0 aad) c
  let z := gmul128 (z ^^^ BitVec.ofNat 128 (8 * aad.length * 2 ^ 64 + 8 * c.length)) h
  (c, ((leBytes 16 z.toNat).reverse).zipWith (· ^^^ ·) (aesBlock ks (iv ++ [0, 0, 0, 1])))

/-- The plaintext of an AES-256-GCM ciphertext; none where the tag does not verify. -/
def gcmOpen (key iv aad cipher tag : List Byte) : Option (List Byte) :=
  let plain := cipher.zipWith (· ^^^ ·) (keyStream (roundKeys key) iv 2 cipher.length)
  if (gcm key iv aad plain).2 = tag then some plain else none

/-- AES-256-GMAC: the tag of data alone. -/
def gmac (key iv aad : List Byte) : List Byte := (gcm key iv aad []).2

end Sys2Proof.Machine
end

