-- ==== Sys2Proof/Machine/Keys.lean ====
section
/-! DEFINITION. The flash and the persistent record in their bytes, and the keys that the device derives (R402, R415, R424, R427 to R429, R433, R385 to R387; tables
BS-1, BS-6, BS-7, BS-9). -/

namespace Sys2Proof.Machine

/-! ### The flash (table BS-1) -/

/-- Bytes of the flash; a blank one reads 0xFF. -/
def flashBytes (s : State) (off n : Nat) : List Byte := tgetMany 0xFF s.boot.flash off n

/-- A little-endian field of the flash. -/
def flashNat (s : State) (off n : Nat) : Nat := leNat (flashBytes s off n)

/-- The flash once a range is erased and bytes are programmed at its start. -/
def programmed (t : Tbl Byte) (off size : Nat) (bs : List Byte) : Tbl Byte := tsetMany 0xFF (tclear t off (off + size)) off bs

/-! ### Sections (R424; tables BS-6, BS-7) -/

/-- Offset of copy A of a section. -/
def sectAt (k : Nat) : Nat :=
  match k with
  | 1 => 0x410000 | 2 => 0x412000 | 3 => 0x414000 | 4 => 0x416000 | 5 => 0x418000 | 6 => 0x41A000 | 7 => 0x41E000 | 8 => 0x426000
  | _ => 0x500000 + (k - 0x10) * 0x8000

/-- Size of each copy. -/
def sectSize (k : Nat) : Nat :=
  match k with
  | 6 => 0x2000
  | 7 => 0x4000
  | _ => if k < 0x10 then 0x1000 else 0x4000

/-- Offset of copy A or copy B. -/
def copyAt (k : Nat) (b : Bool) : Nat := if b then sectAt k + sectSize k else sectAt k

/-- What a copy holds, generation and payload; none where MAGIC or ID differ or the CRC of header and payload does not verify. -/
def copyOf (s : State) (k : Nat) (b : Bool) : Option (Nat × List Byte) :=
  let at0 := copyAt k b
  if flashNat s at0 4 ≠ 0x50524543 ∨ flashNat s (at0 + 4) 2 ≠ k then none
  else
    let n := flashNat s (at0 + 8) 4
    if sectSize k < 40 + n then none
    else
      let bs := flashBytes s at0 (32 + n)
      if flashNat s (at0 + 32 + n) 4 = crc32c bs then some (flashNat s (at0 + 0x10) 8, bs.drop 32) else none

/-- Is copy A the one that a reader uses: valid, and of no lower generation than a valid copy B? -/
def usesA (s : State) (k : Nat) : Bool :=
  match copyOf s k false, copyOf s k true with
  | some a, some b => decide (b.1 ≤ a.1)
  | some _, none => true
  | none, _ => false

/-- The copy that a reader uses; none when neither is valid. -/
def currentCopy (s : State) (k : Nat) : Option (Nat × List Byte) := copyOf s k (!usesA s k)

/-- The payload of a section; none when it holds its empty value. -/
def sectBody (s : State) (k : Nat) : Option (List Byte) := (currentCopy s k).map (·.2)

/-- The bytes of a copy: header, payload, trailer. -/
def copyBytes (k gen : Nat) (payload : List Byte) : List Byte :=
  let bs := leBytes 4 0x50524543 ++ leBytes 2 k ++ leBytes 2 1 ++ leBytes 4 payload.length ++ leBytes 4 0 ++ leBytes 8 gen ++ leBytes 8 0 ++ payload
  bs ++ leBytes 4 (crc32c bs) ++ leBytes 4 0

/-- Change the flash. -/
def modFlash (s : State) (f : Tbl Byte → Tbl Byte) : State := { s with boot := { s.boot with flash := f s.boot.flash } }

/-- Offset of the copy that a write of a section goes to: the one that does not hold the current generation (R425). -/
def targetAt (s : State) (k : Nat) : Nat := copyAt k (usesA s k)

/-- The target of a write is erased (R425). -/
def eraseTarget (s : State) (k : Nat) : State := modFlash s (fun t => tclear t (targetAt s k) (targetAt s k + sectSize k))

/-- The target of a write takes a payload under the next generation (R425). -/
def programTarget (s : State) (k : Nat) (payload : List Byte) : State :=
  let gen := match currentCopy s k with | some c => c.1 + 1 | none => 1
  modFlash s (fun t => programmed t (targetAt s k) (sectSize k) (copyBytes k gen payload))

/-- Both copies of a section are erased. -/
def eraseSection (s : State) (k : Nat) : State := modFlash s (fun t => tclear t (sectAt k) (sectAt k + 2 * sectSize k))

/-! ### Derived keys (R429; table BS-9) -/

/-- The bytes of an ASCII label. -/
def ascii (l : String) : List Byte := l.toList.map (fun c => BitVec.ofNat 8 c.toNat)

/-- A 256-bit secret as bytes, its words in order. -/
def secretBytes (k : Vector Word 4) : List Byte := k.toList.flatMap (fun w => leBytes 8 w.toNat)

/-- A fresh 256-bit value of the device random source. -/
def freshSecret (s : State) : State × Vector Word 4 :=
  ({ s with freeIx := s.freeIx + 4 }, Vector.ofFn (fun i : Fin 4 => Config.freeWord (s.freeIx + i.val)))

/-- K_REC, from the UDS; none once the UDS is locked (R428). -/
def recordKey (s : State) : Option (List Byte) := if s.boot.fuses.udsLock then none else some (hkdf Config.uds (ascii "record"))

/-- The key of an object of a run: HKDF of the run checkpoint key over "ckp", the object identifier and the epoch (R402). The fields stand
little-endian in the words of the object's frames (DESIGN CHOICE, log entry 242). -/
def objectKey (run : Vector Word 4) (ident epoch : Nat) : List Byte := hkdf (secretBytes run) (ascii "ckp" ++ leBytes 8 ident ++ leBytes 4 epoch)

/-- The commit key of a group (R306). -/
def commitKey (secret : Vector Word 4) (group : Nat) : List Byte := hkdf (secretBytes secret) (ascii "commit" ++ leBytes 4 group)

/-! ### Section IDENTITY and the owner blob (R427, R428) -/

/-- Bytes of the wrapped private keys in section IDENTITY. DESIGN CHOICE (log entry 243): RSA-3072 exponent, SLH-DSA key, ML-KEM-1024 key, each
with a tag of 16 bytes; the certificates follow. -/
def wrappedBytes : Nat := 384 + 64 + 3168 + 48

/-- The wrapped private keys and the certificates that section IDENTITY holds. -/
def identityOf (s : State) : Option (List Byte × List Byte) := (sectBody s 7).map (fun bs => (bs.take wrappedBytes, bs.drop wrappedBytes))

/-- The device KEM encapsulation key: 1,568 bytes. -/
def kemKey (s : State) : List Byte :=
  match identityOf s with | some x => (Config.publicKey 2 x.1 ++ List.replicate 1568 0).take 1568 | none => List.replicate 1568 0

/-- Bytes of the owner blob before its signatures. DESIGN CHOICE (log entry 243): the fields of R428 in their order, the generation and the serial
of eight bytes each, four digests, an absent one 0. -/
def blobBytes : Nat := 384 + 32 + 1568 + 8 + 8 + 4 * 48 + 1616

/-- The three owner public keys of a blob. -/
def ownerKeys (blob : List Byte) : List Byte := blob.take (384 + 32 + 1568)

/-- The owner generation of a blob. -/
def ownerGen (blob : List Byte) : Nat := fieldAt blob 0x7C0 8

/-- The serial that a blob names. -/
def blobSerial (blob : List Byte) : Nat := fieldAt blob 0x7C8 8

/-- The SHA-384 digests of the store-node CA keys of a blob. -/
def storeCas (blob : List Byte) : List (List Byte) :=
  ((List.range 4).map (fun i => (blob.drop (0x7D0 + 48 * i)).take 48)).filter (fun d => d.any (· != 0))

/-- The GMAC over the owner blob under K_REC. -/
def ownerMac (key blob : List Byte) : List Byte := gmac key Config.ownerIv blob

/-- The blob that section OWNER holds, if its GMAC verifies under K_REC (R427). -/
def storedOwner (s : State) : Option (List Byte) :=
  match recordKey s, sectBody s 8 with
  | some k, some bs => if (bs.drop blobBytes).take 16 = ownerMac k (bs.take blobBytes) then some (bs.take blobBytes) else none
  | _, _ => none

/-- SHA-384 of the three owner public keys; 0 without an owner (table BS-10). -/
def ownerDigest (s : State) : List Byte := match s.boot.owner with | some b => sha384 (ownerKeys b) | none => List.replicate 48 0

/-! ### Life cycle (R427; tables BS-8, BS-18) -/

/-- Does section OWNER hold a blob whose GMAC verifies (R427)? It was read in stage 2. -/
def owned (s : State) : Bool := s.boot.owner.isSome

/-- Life-cycle state, codes of SEC_STATUS.LC (table BS-18). -/
def lcOf (s : State) : Nat :=
  match s.boot.fuses.lc with
  | .factory => 0
  | .provisioned => if owned s then 2 else 1
  | .scrapped => 3

/-- Is the life-cycle state FACTORY? -/
def isFactory (s : State) : Bool := s.boot.fuses.lc == .factory

/-! ### Attestation (R430, R431; table BS-10) -/

/-- Bytes of the report before its signatures. -/
def reportHead : Nat := 217

/-- Bytes of both signatures (table BS-4). -/
def signBytes : Nat := 384 + 7856

/-- A nonce, or another value of four words, as bytes. -/
def nonceBytes (n : Vector Word 4) : List Byte := secretBytes n

/-- The fields of table BS-10 before the signatures, for a nonce and the partition whose group the report names. -/
def reportFields (s : State) (nonce : Vector Word 4) (p : Nat) : List Byte :=
  let b := s.boot
  let group := match toFin 8 p with
    | some p =>
      let q := s.parts[p]
      if q.inGroup then leBytes 4 q.group.toNat ++ leBytes 2 q.rank ++ leBytes 1 p.val else leBytes 7 0
    | none => leBytes 7 0
  leBytes 4 0x41545354 ++ leBytes 2 1 ++ leBytes 1 (lcOf s) ++ leBytes 1 (b2n b.minimal + 2 * b2n b.cfgDefaults)
    ++ leBytes 8 s.fuses.serial.toNat ++ leBytes 8 b.bootCount ++ nonceBytes nonce ++ b.image.digest
    ++ leBytes 1 b.image.svn ++ leBytes 1 b.fuses.svn ++ (if lcOf s = 2 then ownerDigest s else List.replicate 48 0) ++ sha384 (kemKey s)
    ++ leBytes 8 b.fenceGen ++ group

/-- The certificates that section IDENTITY holds. -/
def certificates (s : State) : List Byte := match identityOf s with | some x => x.2 | none => []

/-- Bytes of a report as it is delivered: fields, signatures, KEM encapsulation key, certificates; a SCRAPPED device has lost the keys and reports
its fields unsigned (table BS-8). -/
def reportSize (s : State) : Nat := if lcOf s = 3 then reportHead else reportHead + signBytes + 1568 + (certificates s).length

/-- A report as it is delivered; the values of the signatures are free. -/
def fullReport (s : State) (nonce : Vector Word 4) (p : Nat) : State × List Byte :=
  if lcOf s = 3 then (s, reportFields s nonce p)
  else
    let (t, signed) := freeBytes s signBytes
    (t, reportFields s nonce p ++ signed ++ kemKey s ++ certificates s)

/-- Is a peer accepted under R431: its signatures verify, LC is OWNED, OWNER_DIGEST is this device's, NONCE is the one that was sent? A store node is
accepted by its CA. -/
def peerOk (s : State) (nonce : Option (Vector Word 4)) (r : PeerReport) : Bool :=
  r.sigs && (match r.store, s.boot.owner with
    | some d, some b => decide (d ∈ storeCas b)
    | some _, none => false
    | none, _ => r.lc == 2 && r.owner == ownerDigest s && nonce == some r.nonce)

/-- Ask the peer of a port for its attestation report under a fresh nonce (R431); the message's form is the model's (DESIGN CHOICE, log entry 244). -/
def challenge (s : State) (f : PortIx) : State :=
  let (s, n) := freshSecret s
  emit (modPort s f (fun p => { p with nonce := some n })) (.link f 6 0 (n.toList.map BitVec.toNat))

/-- Give the peer of a port this device's attestation report under the nonce that the peer asks for (R430). -/
def giveReport (s : State) (f : PortIx) (nonce : Vector Word 4) (p : Nat) : State :=
  let (s, bs) := fullReport s nonce p
  emit s (.link f 7 0 (bs.map BitVec.toNat))

/-! ### The management session (R433) -/

/-- The management secret: 32 zero bytes without an owner, else what opens of the blob under the device's keys. -/
def managementSecret (s : State) : List Byte :=
  match s.boot.owner, identityOf s with
  | some b, some x => Config.decapsulate x.1 (b.drop 0x890)
  | _, _ => List.replicate 32 0

/-- The management session key. -/
def sessionKey (s : State) : List Byte := hkdf (managementSecret s) (ascii "mgmt" ++ leBytes 8 s.fuses.serial.toNat)

/-- The IV of a message of the session: the direction, 0 from the device, then SEQ. -/
def sessionIv (toDevice : Bool) (seq : Nat) : List Byte := leBytes 1 (b2n toDevice) ++ leBytes 3 0 ++ leBytes 4 seq ++ leBytes 4 0

/-- The bytes of a message that the device sends: header, encrypted body, tag; the header is the additional authenticated data (R385; log entry 248). -/
def sealMessage (s : State) (kind seq acked : Nat) (body : List Byte) : List Byte :=
  let head := mgmtHeader kind body.length seq acked s.fuses.serial
  let x := gcm (sessionKey s) (sessionIv false seq) head body
  head ++ x.1 ++ x.2

/-- The detail of a report, at most 64 bytes: section identifiers take two bytes, other numbers eight (R387; log entry 248). -/
def detailBytes (r : Report) : List Byte := (r.detail.flatMap (leBytes (if r.code = 0x52 then 2 else 8))).take 64

/-- The body of a REPORT (R387). -/
def reportBody (r : Report) : List Byte :=
  leBytes 1 r.code ++ leBytes 1 r.part ++ leBytes 2 0 ++ leBytes 4 r.epoch.toNat ++ leBytes 8 r.step.toNat ++ leBytes 2 (detailBytes r).length ++ detailBytes r

/-- The bytes of a REPORT as they leave (R385, R387). -/
def reportMessage (s : State) (r : Report) : List Byte := sealMessage s 3 r.seq 0 (reportBody r)

/-- The bytes of a RESPONSE: PKG_MBOX_STATUS and the eight results (R386). -/
def responseMessage (s : State) (seq : Nat) (words : List Word) : List Byte := sealMessage s 2 seq 0 (words.flatMap (fun w => leBytes 8 w.toNat))

end Sys2Proof.Machine
end

