-- ==== Sys2Proof/Machine/Sed.lean ====
section
/-! DEFINITION. The defence against silent errors: sampling, comparisons, votes, unit states, fences, the pantry (R329 to
R348, R355; tables SE-1 to SE-7, SE-12). -/

namespace Sys2Proof.Machine

/-! ### Units (R345; table SE-6) -/

/-- Identifier of matrix array `k` of a core. -/
def arrayUnit (n : CoreIx) (k : Nat) : Nat := 0x1000 + 4 * n.val + k

/-- Identifier of lane group `g` of a core. -/
def groupUnit (n : CoreIx) (g : Nat) : Nat := 0x2000 + 8 * n.val + g

/-- Identifier of a core. -/
def coreUnit (n : CoreIx) : Nat := 0x3000 + n.val

/-- Identifier of the update unit of a cellar die. -/
def updUnit (c : Nat) : Nat := 0x4000 + c

/-- Identifier of pseudo-channel `q` of stack `c`. -/
def pcUnit (c q : Nat) : Nat := 0x5000 + 32 * c + q

/-- Identifier of a fabric lane. -/
def laneUnit (l : Nat) : Nat := 0x6000 + l

/-- KIND and INDEX of an identifier. -/
def unitKind (u : Nat) : Nat := u / 4096

/-- INDEX of an identifier. -/
def unitIndex (u : Nat) : Nat := u % 4096

/-- Does an identifier name a unit of this variant (R345; UNKNOWN_UNIT)? -/
def unitKnown (s : State) (u : Nat) : Bool :=
  match unitKind u with
  | 1 => decide (unitIndex u < 160)
  | 2 => decide (unitIndex u < 320)
  | 3 => decide (unitIndex u < 40)
  | 4 => decide (unitIndex u < nStacks s)
  | 5 => decide (unitIndex u < 32 * nStacks s)
  | 6 => decide (unitIndex u < 8 * portCount s)
  | _ => false

/-- What the device keeps of a unit. -/
def unitOf (s : State) (u : Nat) : UnitE := tget UnitE.fresh s.sed.units u

/-- Change the SED block. -/
def modSed (s : State) (f : Sed → Sed) : State := { s with sed := f s.sed }

/-- Store what the device keeps of a unit. -/
def setUnit (s : State) (u : Nat) (e : UnitE) : State := modSed s (fun x => { x with units := tset UnitE.fresh x.units u e })

/-- The units that the fence map lists as suspects (R348). -/
def listedUnits (s : State) : Tbl UnitE := s.sed.units.filter (fun e => e.2.listed)

/-- Give a suspect its entry in the fence map; without a free one it takes that of the entry with the highest CLEAN, and
SUSPECT_OVERFLOW is set (R348). -/
def listSuspect (s : State) (u : Nat) : State :=
  let e := unitOf s u
  if e.listed then s
  else
    let s :=
      if (listedUnits s).length < 64 then s
      else
        let top := ((listedUnits s).map (·.2.clean)).foldl max 0
        match (listedUnits s).find? (fun x => decide (x.2.clean = top)) with
        | none => s
        | some x => modSed (setUnit s x.1 { x.2 with listed := false }) (fun y => { y with overflow := true })
    setUnit s u { e with listed := true }

/-! ### Fences (R166, R203, R295, R337, R339, R346) -/

/-- In-service units of a kind, as a FENCED report gives them (table SE-12). -/
def inServiceCount (s : State) (k : Nat) : Nat :=
  match k with
  | 1 => s.pkg.arrays
  | 2 => s.pkg.laneGroups
  | 3 => ((List.range 40).filter (fun n => s.pkg.coreService.getLsbD n)).length
  | 4 => s.pkg.updUnits
  | 5 => s.pkg.hbmPc
  | _ => s.pkg.fabLanes

/-- A unit becomes FENCED: its state, the fence map, the report (R337, R348, R355). -/
def markFenced (s : State) (u : Nat) : State :=
  let e := unitOf s u
  let s := wantSection (setUnit s u { e with st := .fenced, listed := false }) 3
  devReport (traceEvent s 0x07 u) 0x22 [u, inServiceCount s (unitKind u)]

/-- A pending fence of an array takes effect (R166): it also leaves the count of PKG_UNIT_COUNT, unless its core is fenced and
already has. -/
def fenceArray (s : State) (n : CoreIx) (k : Fin 4) : State :=
  let a := (s.cores[n]).arrays[k]
  if a.fenced then s
  else
    let s := modCore s n (fun c => { modArr c k (fun a => { a with fenced := true, fencePending := false }) with preload := none })
    let s := if (s.cores[n]).fenced then s else modPkg s (fun p => { p with arrays := p.arrays - 1 })
    markFenced s (arrayUnit n k.val)

/-- A pending fence of a lane group takes effect (R203). -/
def fenceGroup (s : State) (n : CoreIx) (g : Fin 8) : State :=
  let v := (s.cores[n]).ve
  if v.fenced.getLsbD g.val then s
  else
    let s := modCore s n (fun c =>
      { c with ve := { c.ve with fenced := c.ve.fenced ||| BitVec.twoPow 8 g.val, fencePending := c.ve.fencePending &&& ~~~ (BitVec.twoPow 8 g.val) } })
    let s := if (s.cores[n]).fenced then s else modPkg s (fun p => { p with laneGroups := p.laneGroups - 1 })
    markFenced s (groupUnit n g.val)

/-- A whole core becomes FENCED: PKG_CORE_SERVICE loses its bit, and ARRAYS and LANE_GROUPS drop in the same update by what
the core still had in service (table PK-11). -/
def fenceCore (s : State) (n : CoreIx) : State :=
  let c := s.cores[n]
  if c.fenced then s
  else
    let s := modCore s n (fun c => { c with fenced := true, fencePending := false })
    let s := modPkg s (fun p =>
      { p with coreService := p.coreService &&& ~~~ (BitVec.twoPow 40 n.val)
               arrays := p.arrays - (arraysOf c).length, laneGroups := p.laneGroups - groupsOf c })
    markFenced s (coreUnit n)

/-- A unit enters FENCE_ORDERED, with the cause of its report: 0 blames, 1 self-test, 2 R339, 3 R346, 4 command. Its block shows
the fence pending until it takes effect (R166, R203, R295, R337). -/
def orderFence (s : State) (u cause : Nat) : State :=
  let e := unitOf s u
  if e.st = .fenced ∨ e.st = .fenceOrdered then s
  else
    let s := setUnit s u { e with st := .fenceOrdered, cause := cause }
    let s := devReport (wantSection (listSuspect s u) 3) 0x21 [u, cause]
    let i := unitIndex u
    match unitKind u with
    | 1 =>
      match toFin 40 (i / 4), toFin 4 (i % 4) with
      | some n, some k => modCore s n (fun c => modArr c k (fun a => { a with fencePending := true }))
      | _, _ => s
    | 2 =>
      match toFin 40 (i / 8) with
      | some n => modCore s n (fun c => { c with ve := { c.ve with fencePending := c.ve.fencePending ||| BitVec.twoPow 8 (i % 8) } })
      | none => s
    | 3 => match toFin 40 i with | some n => modCore s n (fun c => { c with fencePending := true }) | none => s
    | 4 => match toFin 12 i with | some c => modUpd s c (fun u => { u with fencePending := true }) | none => s
    | _ => s

/-- The fences of a core that take effect at a boundary: arrays and lane groups one by one, and the whole core when it is
ordered itself, when it has fewer than three in-service arrays or lane groups without DEGRADED, or none (R166, R167, R203, R339). -/
def coreFences (s : State) (n : CoreIx) : State :=
  let c := s.cores[n]
  let s := each (ixs 4) s (fun s k => if (c.arrays[k]).fencePending then fenceArray s n k else s)
  let s := each (ixs 8) s (fun s g => if c.ve.fencePending.getLsbD g.val then fenceGroup s n g else s)
  let least := if s.sed.degraded then 1 else 3
  let few := decide ((arraysOf s.cores[n]).length < least ∨ groupsOf s.cores[n] < least)
  if c.fenced then s
  else if c.fencePending then fenceCore s n
  else if few then fenceCore (orderFence s (coreUnit n) 2) n
  else s

/-- Causes of REPLACE_ME: the last update unit of a compute die is fenced (R295), a block could not be restored (R324). Table SP-9 names the two rules
and gives no codes (DESIGN CHOICE, log entry 211). -/
def replaceUpd : Nat := 0
/-- A block could not be restored. -/
def replaceRepair : Nat := 1

/-- The cellar die that serves the granules of a stack: its own, or its deputy, the next in-service one attached to the same
compute die in ascending order with wrap-around (R295). -/
def deputyOf (s : State) (stack : Nat) : Option CellarIx :=
  let h := nStacks s / 2
  let base := if stack < h then 0 else h
  ((List.range h).filterMap (fun j => toFin 12 (base + (stack - base + j) % h))).find? (fun c => !(s.cellars[c]).upd.fenced)

/-- What is parked on a die that is being fenced passes to its deputy, which serves its granules from then on (R295; log entry 32). -/
def passParked (s : State) (c : CellarIx) : State :=
  match deputyOf s c.val with
  | none => s
  | some d => modUpd (modUpd s d (fun u => { u with parked := u.parked ++ (s.cellars[c]).upd.parked })) c (fun u => { u with parked := [] })

/-- A pending fence of an update unit takes effect once its engines hold nothing of a step (R295; log entry 32); when the last
one of a compute die goes, the device is reported for replacement. -/
def updFence (s : State) (c : CellarIx) : State :=
  let u := (s.cellars[c]).upd
  if u.fencePending && !u.fenced && u.sums.isEmpty && u.binds.isEmpty && u.written.isEmpty then
    let s := passParked (modUpd s c (fun u => { u with fenced := true, fencePending := false })) c
    let s := markFenced (modPkg s (fun p => { p with updUnits := p.updUnits - 1 })) (updUnit c.val)
    let d := dieOfCellar s c.val
    if (ixs 12).all (fun k => decide (nStacks s ≤ k.val ∨ dieOfCellar s k.val ≠ d) || (s.cellars[k]).upd.fenced) then
      devReport s 0x0F [replaceUpd]
    else s
  else s

/-! ### Pseudo-channels (R243, R244, R346) -/

/-- Order a pseudo-channel of a stack fenced; a second one is refused, PC_EXHAUSTED is set and reported (R243, R244). -/
def orderPcFence (s : State) (c : CellarIx) (pc cause : Nat) : State :=
  let x := s.cellars[c]
  if x.pcFenced.isSome ∨ x.remap.isSome then
    devReport (modCellar s c (fun x => { x with pcExhausted := true })) 0x0C [c.val]
  else orderFence (modCellar s c (fun x => { x with remap := some ⟨pc, 0, false, []⟩ })) (pcUnit c.val pc) cause

/-- Count an event of a pseudo-channel over the last 24 hours of reference time (R346). -/
def pcEvent (s : State) (c : CellarIx) (pc : Nat) : State :=
  let u := pcUnit c.val pc
  let s := look s
  let recent := (s.sed.pcEvents.filter (fun e => decide (s.rtime < e.2 + 86400 * 10 ^ 9))) ++ [(u, s.rtime)]
  let s := modSed s (fun x => { x with pcEvents := recent })
  let n := (recent.filter (fun e => decide (e.1 = u))).length
  if s.sed.pcErrLimit ≠ 0 ∧ s.sed.pcErrLimit ≤ n ∧ (unitOf s u).st ≠ .fenced ∧ (unitOf s u).st ≠ .fenceOrdered then orderPcFence s c pc 3
  else s

/-- The events that the causes of a failed read, or of a scrub, count for the pseudo-channel that holds a block (R346). -/
def readEvents (s : State) (c : CellarIx) (block : Nat) (ks : List TagCause) : State :=
  if ks.contains .hbmUncorr || ks.contains .crc then pcEvent s c (place40 s (4096 * block)).2.1 else s

/-! ### Sampling (R329 to R331) -/

/-- The function sampled of R330. -/
def sampledFn (seed step : Word) (attempt kind place ordinal sh : Nat) : Bool :=
  let z := mix (seed ^^^ 0x2D719A0CE3B45F86#64)
  let z := mix (z ^^^ step)
  let z := mix (z ^^^ word (attempt <<< 56) ^^^ word (kind <<< 48) ^^^ word place)
  let z := mix (z ^^^ word ordinal)
  z.toNat % 2 ^ sh == 0

/-- Is an item sampled: SHIFT of the partition, or 2 when a unit that takes part as original is SUSPECT (R330)? -/
def sampled (s : State) (p : PartIx) (kind place ordinal : Nat) (origs : List Nat) : Bool :=
  let sh := if origs.any (fun u => decide ((unitOf s u).st = .suspect)) then 2 else (s.sed.rates[p]).shift
  sampledFn s.sed.seed (s.parts[p]).stepNo (s.parts[p]).attempt kind place ordinal sh

/-- Change the counts of a partition. -/
def modCounts (s : State) (p : PartIx) (f : SedCount → SedCount) : State :=
  modSed s (fun x => { x with counts := x.counts.set p.val (f x.counts[p]) p.isLt })

/-- Count an item that is never sampled (R331). -/
def ineligible (s : State) (p : PartIx) : State := modCounts s p (fun c => { c with ineligible := satAdd c.ineligible 1 0xFFFFFF })

/-- Put a sampled item up for comparison. -/
def addItem (s : State) (i : SedItem) : State := countG (countP (modSed s (fun x => { x with items := x.items ++ [i] })) i.part 14 1) 13 1

/-- The trio of unit `j` of `n` in-service units: itself, the next, the one after; no voter with fewer than three (table
SE-1). -/
def trio (us : List Nat) (j : Nat) : Trio :=
  let n := us.length
  ⟨us.getD j 0, us.getD ((j + 1) % n) 0, if n < 3 then none else us[(j + 2) % n]?⟩

/-- In-service lane groups of a core as units. -/
def groupUnits (c : Core) (n : CoreIx) : List Nat := ((List.range 8).filter (fun g => !c.ve.fenced.getLsbD g)).map (groupUnit n)

/-- A tile of an element stream runs through a chain on a core: the item of kind 2 that it is, if it is sampled, with its source and operand
lines and its accumulator half pinned until both runs have been compared (R329 to R331, R333). -/
def sampleTile (s : State) (n : CoreIx) (p : PartIx) (halves pins : List (Nat × Nat)) (work : Work) : State × Bool :=
  let o := tget 0 s.sed.vecOrd n.val
  let s := modSed s (fun x => { x with vecOrd := tset 0 x.vecOrd n.val (o + 1) })
  let us := groupUnits s.cores[n] n
  if us.length < 2 then (ineligible s p, false)
  else if sampled s p 2 n.val o us then
    let s := modCore s n (fun c => pins.foldl (fun c l => pinLines c l.1 l.2) c)
    (addItem s ⟨2, p, n.val, o, (s.parts[p]).stepNo, (s.parts[p]).attempt, (List.range us.length).map (trio us), halves, pins, work, none⟩, true)
  else (s, false)

/-- In-service update units of the package in ascending order. -/
def updUnits (s : State) : List Nat := ((ixs 12).filter (fun c => decide (c.val < nStacks s) && !(s.cellars[c]).upd.fenced)).map (fun c => updUnit c.val)

/-- The trio of the update unit of a die: the next in-service units in ascending order with wrap-around (table SE-1). -/
def updTrio (s : State) (c : CellarIx) : Trio :=
  let us := updUnits s
  trio us (us.idxOf (updUnit c.val))

/-- The item of kind 3 or 4 that a granule updated or summed on a cellar die is (R329, R330, R334). -/
def granuleItem (s : State) (c : CellarIx) (p : PartIx) (kind ordinal : Nat) (work : Work) : SedItem :=
  ⟨kind, p, c.val, ordinal, (s.parts[p]).stepNo, (s.parts[p]).attempt, [updTrio s c], [], [], work, none⟩

/-- A granule has been updated on a cellar die: the item of kind 3 or 4 that it is, where it is sampled. -/
def sampleGranule (s : State) (c : CellarIx) (p : PartIx) (kind ordinal : Nat) (work : Work) : State × Bool :=
  if sampled s p kind c.val ordinal [updUnit c.val] then (addItem s (granuleItem s c p kind ordinal work), true) else (s, false)

/-- The key of a partition's ordinals of update granules on a die. -/
def updKey (c : CellarIx) (p : PartIx) : Nat := 8 * c.val + p.val

/-- The item of an update granule, which takes the next ordinal of its die in the partition's attempt (R330). -/
def sampleUpdate (s : State) (c : CellarIx) (p : PartIx) (work : Work) : State × Bool :=
  let o := tget 0 s.sed.updOrd (updKey c p)
  sampleGranule (modSed s (fun x => { x with updOrd := tset 0 x.updOrd (updKey c p) (o + 1) })) c p 3 o work

/-- The item of a reduction granule: its ordinal is the reduction and the granule (R330). -/
def sampleReduction (s : State) (c : CellarIx) (p : PartIx) (red granule : Nat) (loc sum : List W32) : State :=
  let o := 2 ^ 24 * red + granule % 2 ^ 24
  if sampled s p 4 c.val o [updUnit c.val] then addItem s (granuleItem s c p 4 o (.reduction red granule loc sum)) else s

/-- Release the matrix halves and the core store lines that an item holds: a half that nothing else holds is cleared (R332, R333). -/
def releaseItem (s : State) (i : SedItem) : State :=
  match toFin 40 i.place with
  | none => s
  | some n =>
    if 2 < i.kind then s
    else
      let free := fun (h : Half) => if h.hold ≤ 1 ∧ h.idle then Half.reset else { h with hold := h.hold - 1 }
      let s := each i.halves s (fun s ah =>
        match toFin 4 ah.1 with
        | none => s
        | some k => modCore s n (fun c => modArr c k (fun a => if ah.2 = 0 then { a with half0 := free a.half0 } else { a with half1 := free a.half1 })))
      modCore s n (fun c => i.pins.foldl (fun c l => unpinLines c l.1 l.2 false) c)

/-- Forget the ordinals and items of a partition at the start of an attempt: the ordinals of its cores and its own on the update units start
at 0 (R330). -/
def clearItems (s : State) (p : PartIx) : State :=
  let s := each (s.sed.items.filter (fun i => decide (i.part = p))) s releaseItem
  modSed s (fun x =>
    { x with items := x.items.filter (fun i => decide (i.part ≠ p))
             matOrd := (coresOf s p).foldl (fun t n => terase t n.val) x.matOrd
             vecOrd := (coresOf s p).foldl (fun t n => terase t n.val) x.vecOrd
             updOrd := (ixs 12).foldl (fun t c => terase t (updKey c p)) x.updOrd })

/-! ### Comparisons and votes (R335 to R341) -/

/-- Drop the item at a place of the list. -/
def dropItem (s : State) (ix : Nat) : State := modSed s (fun x => { x with items := x.items.eraseIdx ix })

/-- A unit becomes SUSPECT (table SE-3). -/
def suspect (s : State) (u : Nat) : State :=
  let e := unitOf s u
  if e.st = .inService then wantSection (listSuspect (setUnit s u { e with st := .suspect }) u) 3 else s

/-- Blame a unit, at most once per step and attempt of a partition (R337); its clean count starts again (R338). -/
def blame (s : State) (u : Nat) (i : SedItem) : State :=
  let e := unitOf s u
  let now := (i.part, i.step, i.attempt)
  if e.st = .fenced ∨ e.seen.contains now then setUnit s u { e with clean := 0 }
  else
    let s := setUnit s u { e with blames := e.blames + 1, clean := 0, lastStep := i.step, seen := now :: e.seen.filter (fun x => x.1 != i.part) }
    let s := wantSection (suspect s u) 3
    if s.sed.fenceAfter ≤ e.blames + 1 then orderFence s u 0 else s

/-- An agreeing comparison of a unit: a SUSPECT unit counts it, and returns to service after CLEAR_COUNT of them (R338).
DESIGN CHOICE (log entry 237): the step of its last blame reads 0 again then. -/
def agree (s : State) (u : Nat) : State :=
  let e := unitOf s u
  if e.st ≠ .suspect then s
  else if s.sed.clearCount ≤ e.clean + 1 then
    devReport (wantSection (setUnit s u { UnitE.fresh with seen := e.seen }) 3) 0x24 [u]
  else setUnit s u { e with clean := e.clean + 1 }

/-- Record a verdict: SED_ERR, SED_LAST_VOTE, the VOTE report (R355, R356; table SE-19). SED_LAST_VOTE is loaded while its VALID is 0; of the
verdicts of one management cycle it keeps the one with the lowest original (`same`: this one settles in the cycle of the one before). -/
def verdict (s : State) (v : Nat) (i : SedItem) (t : Trio) (voted missing same : Bool) : State :=
  let voter := if voted then t.vote.getD 0 else 0
  let s := modSed s (fun x =>
    let old := x.last
    let takes := !old.valid || (same && old.fresh && decide (t.orig < old.original))
    { x with blameErr := x.blameErr || decide (v = 1 ∨ v = 2), split := x.split || decide (v = 3), novote := x.novote || decide (v = 4)
             comparator := x.comparator || decide (v = 5)
             last := if takes then ⟨true, true, v, i.part.val, voter, t.check, t.orig⟩ else { old with fresh := same && old.fresh } })
  partReport (traceEvent s 0x06 (v + 65536 * t.orig)) i.part 0x20 [v, t.orig, t.check, voter, b2n missing]

/-- A vote fails the step as class H with a cause of table SE-2 (R336, R314); the partition stops. -/
def voteFail (s : State) (i : SedItem) (cause : Nat) : State := failStep (beginStop s i.part) i.part true cause

/-- Does the domain of the units that hold an item stand still? -/
def itemAsleep (s : State) (i : SedItem) : Bool :=
  match i.kind with
  | 1 | 2 => (match toFin 40 i.place with | some n => asleep s (coreDom n) | none => false)
  | _ => (match toFin 12 i.place with | some c => asleep s (cellarDom c) | none => false)

/-! ### The pantry (R341, R342; tables SE-4, CM-2) -/

/-- A pantry record as table SE-4 lays it out, VALID set. -/
def pantryBytes (r : PanRec) : List Byte :=
  let hd := leBytes 4 0x50545259 ++ leBytes 1 r.kind ++ leBytes 1 (1 + 2 * b2n r.imported) ++ leBytes 2 r.hits ++ leBytes 2 r.unit
    ++ leBytes 2 r.operands.length ++ leBytes 2 r.expect.length ++ leBytes 2 0 ++ leBytes 8 r.step.toNat ++ leBytes 8 r.serial.toNat
    ++ leBytes 8 r.place.toNat ++ leBytes 20 0
  hd ++ leBytes 4 (crc32c (hd ++ r.operands ++ r.expect)) ++ r.operands ++ r.expect

/-- The record that bytes hold; none for a bad one (table SE-11). -/
def parsePantry (bs : List Byte) : Option PanRec :=
  let n := fieldAt bs 0x0A 2
  let m := fieldAt bs 0x0C 2
  let payload := (bs.drop 0x40).take (n + m)
  if fieldAt bs 0 4 ≠ 0x50545259 ∨ fieldAt bs 4 1 < 1 ∨ 4 < fieldAt bs 4 1 ∨ 8192 < n ∨ 4096 < m then none
  else if fieldAt bs 0x3C 4 ≠ crc32c (bs.take 0x3C ++ payload) then none
  else
    some { kind := fieldAt bs 4 1, imported := (fieldAt bs 5 1).testBit 1, hits := fieldAt bs 6 2, unit := fieldAt bs 8 2
           step := word (fieldAt bs 0x10 8), serial := word (fieldAt bs 0x18 8), place := word (fieldAt bs 0x20 8)
           operands := payload.take n, expect := payload.drop n }

/-- Where the slot of pantry record `i` begins in the SRAM of its cellar die, which is die i mod n (R342). -/
def pantryOff (s : State) (i : Nat) : Nat := 0x1400000 + 16384 * (i / nStacks s)

/-- Pantry record `i`: what its slot holds, if VALID is set and its CRC verifies (R342, table SE-4). -/
def pantryRec (s : State) (i : Nat) : Option PanRec :=
  let sram := (s.cellars[cellarOf s i]).sram
  let at0 := pantryOff s i
  if tgetMany 0 sram at0 4 ≠ leBytes 4 0x50545259 ∨ (tget 0 sram (at0 + 5)).getLsbD 0 = false then none
  else parsePantry (tgetMany 0 sram at0 (64 + leNat (tgetMany 0 sram (at0 + 0x0A) 2) + leNat (tgetMany 0 sram (at0 + 0x0C) 2)))

/-- The valid records of the pantry by index (R342, R343). -/
def pantry (s : State) : Tbl PanRec := (List.range 256).filterMap (fun i => (pantryRec s i).map (fun r => (i, r)))

/-- Put a record into its slot (R342). -/
def putPantry (s : State) (i : Nat) (r : PanRec) : State :=
  modCellar s (cellarOf s i) (fun x => { x with sram := tsetMany 0 x.sram (pantryOff s i) (pantryBytes r) })

/-- Equality of two patterns (R342): operands, or placement and operands, hence operands. -/
def samePattern (a b : PanRec) : Bool := a.operands == b.operands

/-- The slot that a new pantry record takes: the first free one, or that of the record with the lowest HITS, the earliest STEP
among equals (R342). -/
def pantrySlot (s : State) : Nat :=
  match (List.range 256).find? (fun i => (pantryRec s i).isNone) with
  | some i => i
  | none =>
    ((pantry s).foldl (fun (best : Option (Nat × PanRec)) e =>
      match best with
      | none => some e
      | some b => if e.2.hits < b.2.hits ∨ (e.2.hits = b.2.hits ∧ e.2.step.toNat < b.2.step.toNat) then some e else best) none).elim 0 (·.1)

/-- Store a record in the pantry and in the persistent record, or raise the HITS of an equal one; answer its index (R342,
R355). -/
def storePattern (s : State) (r : PanRec) : State × Nat :=
  let (ix, r) :=
    match (pantry s).find? (fun e => samePattern e.2 r) with
    | some e => (e.1, { e.2 with hits := satAdd e.2.hits 1 0xFFFF })
    | none => (pantrySlot s, r)
  let s := putPantry s ix r
  (devReport (wantSection (wantSection s (0x10 + ix)) 4) 0x23 [ix, r.kind, r.hits], ix)

/-- Are comparisons and votes of a partition's step still open (R307 condition 3)? -/
def itemsOpen (s : State) (p : PartIx) : Bool := s.sed.items.any (fun i => decide (i.part = p))

/-! ### Self-test (R343) -/

/-- May a unit be tested now: in service, and no step of an ARMED or RUNNING partition runs on it (R343)? -/
def testable (s : State) (u : Nat) : Bool :=
  let i := unitIndex u
  match unitKind u with
  | 1 =>
    match toFin 40 (i / 4), toFin 4 (i % 4) with
    | some n, some k => !(s.cores[n]).fenced && !((s.cores[n]).arrays[k]).fenced && (match ownerOf s n with | some p => !active s p | none => true)
    | _, _ => false
  | 2 =>
    match toFin 40 (i / 8) with
    | some n => !(s.cores[n]).fenced && !(s.cores[n]).ve.fenced.getLsbD (i % 8) && (match ownerOf s n with | some p => !active s p | none => true)
    | none => false
  | 4 => match toFin 12 i with | some c => !(s.cellars[c]).upd.fenced && (ixs 8).all (fun p => !active s p) | none => false
  | _ => false

/-- What a self-test still has to replay: the plan's entries whose unit may be tested now; those of units that a step runs on wait, those of fenced
units have gone (R343). -/
def testLeft (s : State) : List (Nat × Nat) :=
  match s.sed.test with
  | some t => t.todo.filter (fun e => testable s e.1)
  | none => []

/-- The in-service units that replay records of a kind (R343). -/
def unitsFor (s : State) (kind : Nat) : List Nat :=
  match kind with
  | 1 => ((ixs 40).flatMap (fun n => (List.range 4).map (arrayUnit n))).filter (testable s)
  | 2 => ((ixs 40).flatMap (fun n => (List.range 8).map (groupUnit n))).filter (testable s)
  | _ => ((List.range (nStacks s)).map updUnit).filter (testable s)

/-- Every valid record on every in-service unit of its kind, in ascending order of record and unit (R343). -/
def testPlan (s : State) : List (Nat × Nat) := (pantry s).flatMap (fun e => (unitsFor s e.2.kind).map (fun u => (u, e.1)))

/-- A unit of an idle core, or an update unit, that fails self-test is fenced at once: no step runs there (R343). -/
def fenceNow (s : State) (u : Nat) : State :=
  let i := unitIndex u
  match unitKind u with
  | 1 => match toFin 40 (i / 4) with | some n => coreFences s n | none => s
  | 2 => match toFin 40 (i / 8) with | some n => coreFences s n | none => s
  | 4 => match toFin 12 i with | some c => updFence s c | none => s
  | _ => s

end Sys2Proof.Machine
end

