-- ==== Sys2Proof/Machine/Vest.lean ====
section
/-! DEFINITION. The vestibule: capture of what a step takes in, its room, and what a replay takes from it (R302 to R304,
R317, R323). -/

namespace Sys2Proof.Machine

/-- Capture a record for a step: into the vestibule, and to the twin as it is captured. Without room the step stops as class
P with cause VEST_FULL (R302, R304). -/
def capture (s : State) (p : PartIx) (step : Word) (attempt : Nat) (r : VRec) : State :=
  let q := s.parts[p]
  let room := match q.allot with | none => 0 | some a => a.vest
  if q.vestUsed + vestSize r ≤ room then
    let v : VestRec := ⟨step, attempt, r⟩
    let s := modPart s p (fun q => { q with vest := q.vest ++ [v], vestUsed := q.vestUsed + vestSize r })
    match q.twin with
    | .paired | .syncing => sendTwin s p 2 (.mirror (.vest step (some v) false))
    | _ => s
  else
    let s := modPart s p (fun q => { q with vestFull := true })
    let s := partReport s p 0x0A [q.vestUsed + vestSize r - room]
    failStep (beginStop s p) p false (Config.causeCode 0).toNat

/-- Keep only the vestibule records of some steps (R304). -/
def keepVest (s : State) (p : PartIx) (keep : VestRec → Bool) : State :=
  modPart s p (fun q =>
    let l := q.vest.filter keep
    { q with vest := l, vestUsed := (l.map (fun v => vestSize v.r)).sum })

/-- The bytes that the vestibule holds for a place in an input stream of the current step (R303). -/
def vestInput (s : State) (p : PartIx) (lcore inst desc pos : Nat) : Option (List Byte) :=
  (s.parts[p]).vest.findSome? (fun v =>
    if v.step = (s.parts[p]).stepNo then
      match v.r with
      | .input l i d q bs => if l = lcore ∧ i = inst ∧ d = desc ∧ q = pos then some bs else none
      | _ => none
    else none)

end Sys2Proof.Machine
end

