-- ==== Sys2Proof/Machine/Descr.lean ====
section
/-! DEFINITION. Stream descriptors: fields, validity, addresses, extents, views, and the run-time checks of SSTART and
SRELEASE (R206, R209, R213 to R215, R230, R369, R370, R372; tables ST-2, ST-3, ST-7). -/

namespace Sys2Proof.Machine

/-- A signed field [hi:0] of a word. -/
def sfield (w : Word) (hi : Nat) : Int :=
  let v := wfield w hi 0
  if 2 ^ hi ≤ v then (v : Int) - 2 ^ (hi + 1) else v

/-- Word `k` of a descriptor. -/
def dw (ws : List Word) (k : Nat) : Word := ws.getD k 0

/-- The fields of a descriptor (table ST-2, R214). -/
def parseDesc (ws : List Word) : Desc :=
  let w0 := dw ws 0
  { tensor := wfield w0 63 40, src := wfield w0 39 36, dst := wfield w0 35 32, kind := wfield w0 31 28
    sig := if wbit w0 16 then some (wfield w0 15 0) else none
    srcOff := wfield (dw ws 1) 47 0, dstOff := wfield (dw ws 2) 47 0
    dims := [wfield (dw ws 3) 59 40 + 1, wfield (dw ws 3) 39 20 + 1, wfield (dw ws 3) 19 0 + 1, wfield (dw ws 4) 39 20 + 1, wfield (dw ws 4) 19 0 + 1]
    srcStr := [sfield (dw ws 5) 47, sfield (dw ws 6) 47, sfield (dw ws 7) 47, sfield (dw ws 8) 47]
    dstStr := [sfield (dw ws 9) 47, sfield (dw ws 10) 47, sfield (dw ws 11) 47, sfield (dw ws 12) 47]
    ring := wfield (dw ws 13) 44 32, rate := wfield (dw ws 13) 31 0, due := wfield (dw ws 14) 31 0 }

/-- Bytes that a descriptor moves (R214). -/
def descTotal (d : Desc) : Nat := d.dims.foldl (· * ·) 1

/-- The channel entry of a number. -/
def channelOf (s : State) (p : PartIx) (c : Nat) : Option ChannelE :=
  (s.parts[p]).image.bind (fun im => im.channels.find? (fun e => e.channel == c))

/-- The first stride that keeps an endpoint from being one contiguous ascending range, as its word's place 0–3 among the four
(R370): dimension `d` must step by the bytes of the dimensions below it where it has more than one place. -/
def badStride (dims : List Nat) (strides : List Int) : Option Nat :=
  let rec go (below : Nat) : List Nat → List Int → Nat → Option Nat
    | n :: ns, t :: ts, k => if n ≠ 1 ∧ t ≠ (below : Int) then some k else go (below * n) ns ts (k + 1)
    | _, _, _ => none
  match dims with
  | [] => none
  | n0 :: ns => go n0 ns strides 0

/-- The first word of a descriptor that breaks table ST-2, R214, R215, R370 or R372, if one does (check 0x3 of table ST-7; log
entry 21 says which word answers for a rule over several). `sendOk` says whether a stream to space 4 keeps R372, which
concerns word 0. -/
def badDescWord (ws : List Word) (sendOk : Bool) : Option Nat :=
  let d := parseDesc ws
  let fill := d.kind = 0
  let zero := fun (k hi lo : Nat) => decide (wfield (dw ws k) hi lo = 0)
  let ok : List Bool :=
    [ decide (d.src ≤ 4 ∧ d.dst ≤ 4 ∧ d.kind ≤ 1) && zero 0 27 17 && !(decide fill && decide (d.dst ≠ 0))
        && (if d.dst = 4 then sendOk else d.tensor == 0 || d.src == 2 || d.dst == 2),
      zero 1 63 48, zero 2 63 48, zero 3 63 60 && decide (descTotal d < 2 ^ 40), zero 4 63 40,
      zero 5 63 48, zero 6 63 48, zero 7 63 48, zero 8 63 48,
      zero 9 63 48 && !(decide fill && decide (dw ws 9 ≠ 0)), zero 10 63 48 && !(decide fill && decide (dw ws 10 ≠ 0)),
      zero 11 63 48 && !(decide fill && decide (dw ws 11 ≠ 0)), zero 12 63 48 && !(decide fill && decide (dw ws 12 ≠ 0)),
      zero 13 63 45 && (if fill then decide (1 ≤ d.ring ∧ d.ring ≤ 6144) else decide (d.ring = 0 ∧ d.rate = 0)),
      zero 14 63 32 && (!(decide fill) || decide (d.due = 0)), decide (dw ws 15 = 0) ]
  let srcBad := if d.src = 4 then (badStride d.dims d.srcStr).map (5 + ·) else none
  let dstBad := if d.dst = 4 then (badStride d.dims d.dstStr).map (9 + ·) else none
  (List.range 16).find? (fun k => !(ok.getD k true) || srcBad == some k || dstBad == some k)

/-- A sum in 64-bit signed arithmetic (R214). -/
def wrap64 (x : Int) : Int := (BitVec.ofInt 64 x).toInt

/-- The address of stream position `p` from an endpoint's start (R214). -/
def strideAddr (start : Int) (dims : List Nat) (strides : List Int) (p : Nat) : Int :=
  let rec go : List Nat → List Int → Nat → Int
    | n :: ns, t :: ts, q => (q % n : Nat) * t + go ns ts (q / n)
    | _, _, _ => 0
  match dims with
  | [] => start
  | n0 :: ns => wrap64 (start + (p % n0 : Nat) + go ns strides (p / n0))

/-- The extent of an endpoint: the lowest and the highest address that any byte reaches (R214). Where no sum leaves 64 bits they are those of the
corners; else the addresses wrap, and the extent is that of all of them. -/
def extent (start : Int) (dims : List Nat) (strides : List Int) : Int × Int :=
  let spans := (dims.drop 1).zipWith (fun n t => ((n : Int) - 1) * t) strides
  let lo := spans.foldl (fun a x => if x < 0 then a + x else a) start
  let hi := spans.foldl (fun a x => if x < 0 then a else a + x) (start + ((dims.headD 1 : Nat) : Int) - 1)
  if -(2 ^ 63) ≤ lo ∧ hi < 2 ^ 63 then (lo, hi)
  else
    let addrs := (List.range (dims.foldl (· * ·) 1)).map (strideAddr start dims strides)
    (addrs.foldl min (wrap64 start), addrs.foldl max (wrap64 start))

/-- The source start of a stream (R214). -/
def srcStart (d : Desc) (reg : Word) : Int := wrap64 (d.srcOff + reg.toInt)

/-- The destination start of a stream (R214). -/
def dstStart (d : Desc) (reg : Word) : Int := wrap64 (d.dstOff + reg.toInt)

/-- The lowest address of an extent that lies outside a view of `size` bytes, if any. -/
def outside (e : Int × Int) (size : Nat) : Option Int :=
  if e.1 < 0 then some e.1 else if (size : Int) ≤ e.2 then some (max e.1 size) else none

/-- Does a space 4 endpoint address a channel of its kind (R370)? Otherwise its extent lies in no channel (log entry 22). -/
def channelFits (s : State) (p : PartIx) (e : Int × Int) (source : Bool) : Bool :=
  decide (0 ≤ e.1) && decide (e.1 / 2 ^ 40 = e.2 / 2 ^ 40)
    && (match channelOf s p (e.1.toNat / 2 ^ 40) with
        | some c => if source then c.kind == 0 else decide (c.kind = 1 ∨ c.kind = 2)
        | none => false)

/-- Where an endpoint's extent leaves its view (R215). -/
def spaceFault (s : State) (n : CoreIx) (b : Bound) (lc : LCoreE) (space : Nat) (e : Int × Int) (source : Bool) : Option Int :=
  match space with
  | 0 => outside e lc.footprint
  | 1 => outside e (hallView s b.part (dieOfCore n)).2
  | 2 => outside e (hbmView s b.part)
  | 3 => outside e (s.pcie.wins[b.part]).size.toNat
  | _ => if channelFits s b.part e source then none else some e.1

/-- Does a stream to space 4 keep R372: on a REDUCE_SEND channel a source tensor in FP32, BF16, FP8 E4M3 or FP8 E5M2 and whole granules, on
another no tensor without an HBM3 source (table ST-2; log entry 198)? -/
def reduceSendOk (s : State) (p : PartIx) (d : Desc) (start : Int) : Bool :=
  match channelOf s p (start.toNat / 2 ^ 40) with
  | some c =>
    if c.kind = 2 then
      match tensorOf s p d.tensor with
      | some t =>
        decide (t.fmt = 0 ∨ t.fmt = 1 ∨ t.fmt = 3 ∨ t.fmt = 4)
          && (match fmtOf t.fmt with
              | some f => decide (descTotal d % (128 * fmtBits f) = 0 ∧ start.toNat % 2 ^ 40 % (128 * fmtBits f) = 0)
              | none => false)
      | none => false
    else d.src == 2 || d.tensor == 0
  | none => d.src == 2 || d.tensor == 0

/-- The stream run-time checks of SSTART (table ST-7): the first that fails, with its value. -/
def sstartCheck (s : State) (n : CoreIx) (b : Bound) (lc : LCoreE) (ws : List Word) (rSrc rDst : Word) (sctx desc : Nat) :
    Option (Nat × Nat) :=
  let d := parseDesc ws
  let se := extent (srcStart d rSrc) d.dims d.srcStr
  let ds := dstStart d rDst
  let de := if d.kind = 0 then (ds, ds + (1024 * d.ring : Nat) - 1) else extent ds d.dims d.dstStr
  let v := fun (x : Int) => (x % 2 ^ 56).toNat
  if lc.descs.length ≤ desc then some (1, desc)
  else if lc.nStreams ≤ sctx then some (2, sctx)
  else
    match badDescWord ws (reduceSendOk s b.part d ds) with
    | some k => some (3, 8 * k)
    | none =>
      match spaceFault s n b lc d.src se true with
      | some x => some (4, v x)
      | none =>
        match lowest ((spaceFault s n b lc d.dst de false).toList ++ (if d.kind = 0 ∧ ds % 1024 ≠ 0 then [ds] else [])
            ++ (if d.dst = 0 ∧ de.1 < lc.codeLen then [de.1] else [])) with
        | some x => some (5, v x)
        | none =>
          if (d.src = 2 ∨ d.dst = 2) ∧ (tensorOf s b.part d.tensor).isNone then some (6, d.tensor)
          else
            match d.sig with
            | some k =>
              match barrierOf s b.part k with
              | some e => if e.sources.contains (.here b.lcore) then none else some (7, k)
              | none => some (7, k)
            | none => none
where
  /-- The lowest of the failing addresses (table ST-7). -/
  lowest : List Int → Option Int
    | [] => none
    | a :: l => some (l.foldl min a)

end Sys2Proof.Machine
end

