-- ==== Sys2Proof/Machine/Dump.lean ====
section
/-! DEFINITION. Tensor dumps (R464, R465; tables DB-10, DB-17, DB-18). -/

namespace Sys2Proof.Machine

/-- Change a trigger. -/
def modDump (s : State) (i : Fin 4) (f : Dump → Dump) : State :=
  { s with dbg := { s.dbg with dumps := s.dbg.dumps.set i.val (f s.dbg.dumps[i]) i.isLt } }

/-- Are dumps available: D2 or above in P0 or P1 (tables DB-1, DB-4)? -/
def dumpsOn (s : State) : Bool := decide (2 ≤ s.dbg.level ∧ s.pwr.pstate ≤ 1)

/-- Does a trigger watch a tensor in the current step and attempt of a partition (R464)? -/
def watches (s : State) (p : PartIx) (tensor : Nat) (d : Dump) : Bool :=
  let q := s.parts[p]
  decide (d.partition = p.val ∧ d.tensor = tensor ∧ d.step = q.stepNo) && (d.attempt == 0xFF || d.attempt == q.attempt % 256)

/-- Does the logical core filter admit a writer (R464)? It filters streams only. -/
def filterOk (d : Dump) : Writer → Bool
  | .stream l _ _ _ => d.lcore == 0x3F || d.lcore == l
  | _ => true

/-- SOURCE of the header: the logical core of a stream, the cellar die otherwise (table DB-10). -/
def writerSource (die : CellarIx) : Writer → Nat
  | .stream l _ _ _ => l
  | _ => die.val

/-- WRITER of the header (table DB-10). -/
def writerCode : Writer → Nat
  | .stream .. => 1
  | .binding _ => 2
  | .reduction _ => 3

/-- One armed trigger numbers a writer whose first write to the tensor reaches a cellar die; the k-th is captured (R464). -/
def numberWriter (p : PartIx) (tensor : Nat) (w : Writer) (die : CellarIx) (s : State) (i : Fin 4) : State :=
  let d := s.dbg.dumps[i]
  if d.state = 1 ∧ watches s p tensor d ∧ filterOk d w ∧ !d.seen.contains w then
    let seen := d.seen ++ [w]
    if seen.length = d.occurrence then
      traceEvent (modDump s i (fun d =>
        { d with seen := seen, state := 2, first := 2 ^ 40, last := 0, lost := 0, source := writerSource die w, caught := (s.parts[p]).attempt % 256 }))
        0x0C (i.val + 8)
    else modDump s i (fun d => { d with seen := seen })
  else s

/-- A write of a writer reaches a cellar die (R464). -/
def dumpSee (s : State) (p : PartIx) (tensor : Nat) (w : Writer) (die : CellarIx) : State :=
  if dumpsOn s then each (ixs 4) s (numberWriter p tensor w die) else s

/-- The dump header, table DB-10. -/
def dumpHeader (i : Fin 4) (d : Dump) (st : Nat) : List Byte :=
  leBytes 4 0x444D5054 ++ leBytes 1 i.val ++ leBytes 1 st ++ leBytes 1 (match d.seen.getLast? with | some w => writerCode w | none => 0)
    ++ leBytes 1 d.source ++ leBytes 4 d.tensor ++ leBytes 4 d.occurrence ++ leBytes 8 d.step.toNat ++ leBytes 1 d.caught
    ++ leBytes 1 d.partition ++ leBytes 2 0 ++ leBytes 4 d.lost ++ leBytes 8 (if d.last = 0 then 0 else d.first) ++ leBytes 8 d.last

/-- The words of a byte string, little-endian. -/
def wordsOf : Nat → List Byte → List Nat
  | 0, _ => []
  | n + 1, bs => leNat (bs.take 8) :: wordsOf n (bs.drop 8)

/-- Send a DUMP or DUMP_END packet; while the port sends nothing it waits in the queue (R454). -/
def dumpPacket (s : State) (type source aux : Nat) (words : List Nat) : State :=
  if tracing s then packet s type source aux words
  else
    let s := look s
    { s with trc := { s.trc with queue := s.trc.queue ++ [(type, packetHead type words.length source aux s.rtime :: words)] } }

/-- Do bytes lie within the host window of a partition (R465)? -/
def inWindow (s : State) (p : Nat) (off len : Nat) : Bool :=
  match toFin 8 p with
  | some p => decide (off + len ≤ (s.pcie.wins[p]).size.toNat) && s.pcie.up
  | none => false

/-- A dump ends in a state of table DB-18: header or DUMP_END, report, event, halt wave (R459, R465, R470). -/
def endDump (s : State) (i : Fin 4) (st : Nat) : State :=
  let d := s.dbg.dumps[i]
  let hd := dumpHeader i d st
  let s :=
    if d.target then (match toFin 8 d.partition with | some p => if inWindow s d.partition d.host 48 then hostWrite s p d.host hd else s | none => s)
    else dumpPacket s 0x31 mgmtDom i.val (wordsOf 6 hd)
  let s := traceEvent (modDump s i (fun d => { d with state := st })) 0x0C (i.val + 4 * st)
  let s := match toFin 8 d.partition with | some p => partReport s p 0x62 [i.val, st] | none => devReport s 0x62 [i.val, st]
  if d.halt then haltWave s 4 else s

/-- One capturing trigger copies a sector of its writer; in MODE 1 a sector that does not fit is dropped and counted in LOST (R465). Whether the
dump path is full depends on timing: a free value (log entry 91); in MODE 0 the writer stalls, which changes timing only. -/
def copySector (w : Writer) (die : CellarIx) (off : Nat) (bs : List Byte) (s : State) (i : Fin 4) : State :=
  let d := s.dbg.dumps[i]
  if d.state = 2 ∧ d.seen.getLast? = some w then
    let full := d.mode && Config.traceFull s.freeIx
    let s := modDump (if d.mode then bump s else s) i (fun d => { d with first := min d.first off, last := max d.last (off + bs.length) })
    if full then modDump s i (fun d => { d with lost := satAdd d.lost 1 0xFFFFFFFF })
    else if d.target then
      match toFin 8 d.partition with
      | some p => if inWindow s d.partition (d.host + 64 + off) bs.length then hostWrite s p (d.host + 64 + off) bs else endDump s i 4
      | none => s
    else dumpPacket s 0x30 (cellarDom die) i.val (off :: wordsOf 4 bs)
  else s

/-- A sector that a writer has written to the tensor passes (R465). -/
def dumpSector (s : State) (w : Writer) (die : CellarIx) (off : Nat) (bs : List Byte) : State :=
  if dumpsOn s then each (ixs 4) s (copySector w die off bs) else s

/-- Cut bytes at sector bounds. -/
def sectorsOf : Nat → List Byte → List (Nat × List Byte)
  | 0, _ => []
  | n + 1, bs => (32 * n, (bs.drop (32 * n)).take 32) :: sectorsOf n bs

/-- Whole sectors of a granule or block that an engine has written (R465). -/
def dumpRange (s : State) (w : Writer) (die : CellarIx) (off : Nat) (bs : List Byte) : State :=
  each (sectorsOf (bs.length / 32) bs).reverse s (fun s e => dumpSector s w die (off + e.1) e.2)

/-- A writer has written its last sector (R465). -/
def dumpDone (s : State) (w : Writer) : State :=
  each (ixs 4) s (fun s i => let d := s.dbg.dumps[i]; if d.state = 2 ∧ d.seen.getLast? = some w then endDump s i 3 else s)

/-- The step of a partition ends: a capture still open ends in a state, and an armed trigger numbers writers anew (R464, R465). -/
def dumpStepEnd (s : State) (p : PartIx) (st : Nat) : State :=
  each (ixs 4) s (fun s i =>
    let d := s.dbg.dumps[i]
    if d.partition ≠ p.val then s
    else if d.state = 2 then endDump s i st
    else if d.state = 1 then modDump s i (fun d => { d with seen := [] })
    else s)

/-- Every capture ends as INCOMPLETE: D2 is left (table DB-12). -/
def dumpAbort (s : State) : State := each (ixs 4) s (fun s i => if (s.dbg.dumps[i]).state = 2 then endDump s i 4 else s)

end Sys2Proof.Machine
end

