-- ==== Sys2Proof/Machine/Hbm.lean ====
section
/-! DEFINITION. Requests to HBM3: making one, the bytes and checks of one piece, and when a request is complete (R248 to
R257, R284, R289, R291). -/

namespace Sys2Proof.Machine

/-- Is the cellar die variant G (table PK-2)? -/
def variantG (s : State) : Bool := !s.fuses.m12

/-- Queue a request for the bytes at partition offsets `offs`; the version map gives their places (R282, R284). -/
def mkReq (s : State) (who : Requester) (p : PartIx) (tensor : Nat) (write : Bool) (offs : List Nat) (data : List Byte) : State :=
  { s with
    nextReq := s.nextReq + 1
    reqs := s.reqs ++ [⟨s.nextReq, who, p, tensor, write, offs.map (fun o => (o, physAddr s p o)), data, [], [], false⟩] }

/-- The cellar dies that a request touches. -/
def diesOf (s : State) (r : Req) : List CellarIx := (r.addrs.map (fun a => cellarOf s (a.2 / 4096))).eraseDups

/-- Bytes of a piece: a sector of 32 or a run of 512 (R254, R255). -/
def pieceSize (s : State) : Nat := if variantG s then 32 else 512

/-- Have all pieces of a request been issued (R216, R254)? -/
def reqDone (s : State) (r : Req) : Bool :=
  (diesOf s r).all (fun c => r.atDie.contains c && !((s.cellars[c]).pieces.any (fun q => q.req == r.id)))

/-- Take a request off the list. -/
def dropReq (s : State) (id : Nat) : State := { s with reqs := s.reqs.filter (fun r => r.id != id) }

/-- Change one request. -/
def modReq (s : State) (id : Nat) (f : Req → Req) : State := { s with reqs := s.reqs.map (fun r => if r.id = id then f r else r) }

/-- The link of a compute die or the engine that a request comes from, codes of CEL_TAG_LOG.SOURCE (table CM-12). -/
def sourceCode : Requester → Nat
  | .stream d _ _ => d.val
  | .scalar n _ => (dieOfCore n).val

/-- The tracker that a stream's request uses on a cellar die for a block (R251). -/
def isTracker (r : Req) (block : Nat) (t : Tracker) : Bool :=
  match r.who with
  | .stream d phys _ => decide (t.block = block ∧ t.die = d ∧ t.phys = phys ∧ t.write = r.write)
  | .scalar .. => false

/-- A set of bytes of a block as bits. -/
def byteSet (os : List Nat) : BitVec 4096 := os.foldl (fun b o => b ||| BitVec.twoPow 4096 o) 0

/-- The number of bytes in a set. -/
def setCount (b : BitVec 4096) : Nat := ((List.range 4096).filter (fun i => b.getLsbD i)).length

/-- The bytes of a request that lie in a block, as places in it. -/
def placesIn (r : Req) (block : Nat) : List Nat :=
  (r.addrs.filter (fun a => a.2 / 4096 == block)).map (fun a => a.2 % 4096)

/-- The expected VERSION of a read: the block version of the physical block, which every reader that names no version reads
(R284, R289). -/
def expVersion (s : State) (p : PartIx) (off : Nat) : Nat := (mapOf s p (logicalAddr s p off / 4096)).cur.2

/-- Does a read of a request check FOLD of a block (table CM-5)? A scalar load does; a stream read does on variant S, and on
variant G when the stream requests 512 bytes or more of the block. -/
def foldChecked (s : State) (t : Option Tracker) (r : Req) (block : Nat) : Bool :=
  match r.who with
  | .scalar .. => true
  | .stream .. =>
    !variantG s ||
      (match t with
       | some t => decide (512 ≤ setCount t.asked)
       | none => decide (512 ≤ (placesIn r block).length))

/-- The failures of a read of one block by a request, with or without the CRC (R250, R252); `t` is the request's tracker for the block. -/
def readCheck (s : State) (t : Option Tracker) (r : Req) (block : Nat) (err : ReadErr) (crc : Bool) : List TagCause :=
  let off := match r.addrs.find? (fun a => a.2 / 4096 == block) with | some a => a.1 | none => 0
  let chk := foldChecked s t r block
  let ver := match tensorOf s r.part r.tensor with | some e => versioned e | none => false
  tagCheck s block err crc chk (chk && ver) (foldOf r.tensor) (expVersion s r.part off)

/-- A mismatch is cured by the re-read: it is counted, and nothing is reported (R252). -/
def cured (s : State) (c : CellarIx) : State := modCellar (countG s 9 1) c (fun x => { x with retryOk := satAdd x.retryOk 1 0xFFFF })

end Sys2Proof.Machine
end

