-- ==== Sys2Proof/Machine/Tokens.lean ====
section
/-! DEFINITION. Barrier tokens: where a token goes, and how a sluice judges one that arrives (R45, R91, R226 to R228,
R508). -/

namespace Sys2Proof.Machine

/-- Does an update binding or a local contribution of the plan wait on a barrier (R270, R277)? -/
def updateWaits (im : Image) (b : Nat) : Bool :=
  im.bindings.any (fun e => decide ((e.trigger = 1 ∨ e.trigger = 3) ∧ e.barrier = b))
    || im.reductions.any (fun e => decide (e.loc ≠ 0 ∧ e.locBarrier = b))

/-- The core to which a logical core is bound. -/
def coreOf (s : State) (p : PartIx) (l : Nat) : Option CoreIx := ((s.parts[p]).bind[l]?).join

/-- The compute dies that hold a waiter of a barrier (R228, R508): the die of each logical core whose code waits on it, and
both dies where the update units wait (log entry 20). -/
def waiterDies (s : State) (p : PartIx) (b : Nat) : List DieIx :=
  match (s.parts[p]).image with
  | none => []
  | some im =>
    (ixs 2).filter (fun d =>
      updateWaits im b
        || (List.range im.lcores.length).any (fun l =>
             match im.lcores[l]?, coreOf s p l with
             | some lc, some n => decide (dieOfCore n = d) && codeWaits lc b
             | _, _ => false))

/-- Send the token of a logical core for a barrier and the current step: to the sluice of every die that holds a waiter, and
as one TOKEN frame to each remote waiter rank (R91, R228, R508). -/
def sendToken (s : State) (p : PartIx) (b lcore : Nat) : State :=
  let q := s.parts[p]
  let s := { s with toks := s.toks ++ (waiterDies s p b).map (fun d => (d, ⟨p, b, .here lcore, q.stepNo, q.attempt⟩)) }
  match barrierOf s p b with
  | none => s
  | some e =>
    let (a, st) := stepAtt s p
    each e.waiters s (fun s r => stepFrame s p r 0 (.token q.rank lcore b a st))

/-- A token reaches the sluice of a die: one whose source is already held for the step and barrier is discarded and counted
as DUP, one of another step or attempt as STALE, any other is held (R45, R228). -/
def judgeToken (s : State) (d : DieIx) (t : Tok) : State :=
  let q := s.parts[t.part]
  if t.step ≠ q.stepNo ∨ t.attempt ≠ q.attempt ∨ !active s t.part then
    modSluice s d (fun x => { x with stale := satAdd x.stale 1 0xFFFF })
  else if (s.sluices[d]).held.any (fun h => decide (h.part = t.part ∧ h.barrier = t.barrier ∧ h.src = t.src)) then
    modSluice s d (fun x => { x with dup := satAdd x.dup 1 0xFFFF })
  else modSluice s d (fun x => { x with held := x.held ++ [t] })

end Sys2Proof.Machine
end

