-- ==== Sys2Proof/Machine/Stream.lean ====
section
/-! DEFINITION. Streams: starting one, the sluice's arbitration, chunks in flight and landing, consumer buffer lines,
completion, releases, tokens at a sluice (R206 to R235, R302, R303, R370 to R372, R380, R381; tables ST-2 to ST-8). -/

namespace Sys2Proof.Machine

/-! ### Core store lines (R160, R163, R217, R218) -/

/-- SRELEASE of a line (table ST-4). -/
def releaseLine (c : Core) (l : Nat) : Core :=
  match tfind c.lines l with
  | some (.present _) => { c with lines := tput c.lines l (if tget 0 c.pins l = 0 then .free else .present true) }
  | _ => c

/-- The physical lines of a ring of a logical core. -/
def ringLines (b : Bound) (off ring : Nat) : List Nat := (List.range ring).map (fun j => (b.base + off) / 1024 + j)

/-- Lines of a ring that lie in no consumer buffer join one: FREE, or PINNED with a release pending where an instruction
pins them (R217). -/
def addRing (c : Core) (ls : List Nat) : Core :=
  ls.foldl (fun c l =>
    match tfind c.lines l with
    | some _ => c
    | none => { c with lines := tput c.lines l (if tget 0 c.pins l = 0 then .free else .present true) }) c

/-- The consumer buffers of a core at the start of a step: every line of the ring of each KIND 0 descriptor is FREE
(R217, R219). -/
def stepLines (s : State) (c : Core) : Core :=
  let c : Core := { c with lines := [], pins := [] }
  c.bound.foldl (fun c b =>
    match lcoreE s b.part b.lcore with
    | none => c
    | some lc => lc.descs.foldl (fun c ws =>
        let d := parseDesc ws
        if d.kind = 0 then addRing c (ringLines b d.dstOff.toNat d.ring) else c) c) c

/-! ### Starting a stream -/

/-- The physical stream context of a local one: the allowance of the partition on the die, filled by logical cores in
ascending order (R207; log entry 23). -/
def physCtx (s : State) (d : DieIx) (p : PartIx) (lcore sctx : Nat) : Nat :=
  let q := s.parts[p]
  let base := match q.allot with | none => 0 | some a => a.strBase.getD d.val 0
  let below := (List.range lcore).map (fun l =>
    match coreOf s p l, lcoreE s p l with
    | some n, some lc => if dieOfCore n = d then lc.nStreams else 0
    | _, _ => 0)
  base + below.sum + sctx

/-- The descriptor words as they stand in the core store (R213). -/
def descWords (c : Core) (b : Bound) (lc : LCoreE) (desc : Nat) : List Word :=
  (List.range 16).map (fun k => word (leNat (readStore c (b.base + lc.descOffset + 128 * desc + 8 * k) 8)))

/-- Change one active stream. -/
def modStream (s : State) (d : DieIx) (phys : Nat) (f : SCtx → SCtx) : State :=
  modSluice s d (fun x => match tfind x.ctxs phys with | none => x | some t => { x with ctxs := tput x.ctxs phys (f t) })

/-- The active stream of a physical context. -/
def streamAt (s : State) (d : DieIx) (phys : Nat) : Option SCtx := tfind (s.sluices[d]).ctxs phys

/-- Source address of a stream position. -/
def srcAddr (x : SCtx) (p : Nat) : Nat := (strideAddr (srcStart x.desc x.srcBase) x.desc.dims x.desc.srcStr p).toNat

/-- Destination address of a stream position (R214). -/
def dstAddr (x : SCtx) (p : Nat) : Nat :=
  if x.desc.kind = 0 then (dstStart x.desc x.dstBase).toNat + p % (1024 * x.desc.ring)
  else (strideAddr (dstStart x.desc x.dstBase) x.desc.dims x.desc.dstStr p).toNat

/-- First position and length of a chunk (R220). -/
def chunkSpan (x : SCtx) (c : Nat) : Nat × Nat := (256 * c, min 256 (x.total - 256 * c))

/-- Cut ascending addresses into contiguous runs of at most `k`, as (index of the first, address, length). -/
def runsOf (k : Nat) : Nat → List Nat → List (Nat × Nat × Nat)
  | _, [] => []
  | i, a :: as =>
    match runsOf k (i + 1) as with
    | (j, b, l) :: rest => if b = a + 1 ∧ j = i + 1 ∧ l < k then (i, a, l + 1) :: rest else (i, a, 1) :: (j, b, l) :: rest
    | [] => [(i, a, 1)]

/-- Bytes held or awaited in the shared prefetch buffer of port die 0 (R381). -/
def prefetchUsed (s : State) : Nat :=
  ((s.pcie.reads.map (·.len)).sum) + ((ixs 2).map (fun d => ((s.sluices[d]).ctxs.map (fun e => e.2.inbuf.length)).sum)).sum

/-- Port die 0 starts host reads for the next positions of a space 3 stream, up to 64 KiB ahead of its next chunk, within
the shared buffer of 8 MiB and 768 outstanding reads; bytes that the vestibule already holds for a replay are not read
(R303, R381). One call asks for one chunk's positions. -/
def hostAsk (s : State) (d : DieIx) (phys : Nat) : State :=
  match streamAt s d phys with
  | none => s
  | some x =>
    let (lo, len) := chunkSpan x (x.asked / 256)
    if x.desc.src ≠ 3 ∨ x.ending = true ∨ (s.parts[x.part]).discarding = true ∨ len = 0 ∨ 256 * x.granted + 65536 < lo + len ∨ 8 * 2 ^ 20 < prefetchUsed s + len then s
    else if (s.parts[x.part]).step = .solo ∨ (vestInput s x.part x.lcore x.inst x.descIx lo).isSome then
      modStream s d phys (fun x => { x with asked := x.asked + 256 })
    else
      let rs := runsOf 4096 0 ((List.range len).map (fun j => srcAddr x (lo + j)))
      if 768 < s.pcie.reads.length + rs.length then s
      else
        let s := modStream s d phys (fun x => { x with asked := x.asked + 256 })
        each rs s (fun s r =>
          emit { s with pcie := { s.pcie with reads := s.pcie.reads ++ [⟨d.val, phys, some (lo + r.1), x.part, r.2.1, r.2.2⟩] } }
            (.hostRead x.part r.2.1 r.2.2))

/-- As many chunks of host reads as may leave now. -/
def hostAskAll (s : State) (d : DieIx) (phys : Nat) : State := each (List.range 256) s (fun s _ => hostAsk s d phys)

/-- SSTART: the checks of table ST-7, then the headgate of R210, then the stream context becomes active (R208 to R210). -/
def execSstart (n : CoreIx) (g : Guard) (saSrc saDst : Reg) (sctx : Fin 64) (desc : BitVec 16) (cnt : Option Cnt) (s : State) : Res :=
  .next (issue s n g 2 [saSrc, saDst] (fun s i b lc =>
    let x := ctxOf s n i
    let ws := descWords s.cores[n] b lc desc.toNat
    match sstartCheck s n b lc ws (rd x saSrc) (rd x saDst) sctx.val desc.toNat with
    | some (k, v) => operandRange s n i 3 k v
    | none =>
      headgate s n i b [.queue .stream, .sctxIdle sctx.val] (fun s =>
        let d := dieOfCore n
        let phys := physCtx s d b.part b.lcore sctx.val
        let de := parseDesc ws
        let key := 65536 * b.lcore + desc.toNat
        let inst := tget 0 (s.parts[b.part]).starts key
        let t : SCtx :=
          { part := b.part, lcore := b.lcore, sctx := sctx.val, core := n, ctx := i, pc := x.pc, cnt := cnt, descIx := desc.toNat
            desc := de, srcBase := rd x saSrc, dstBase := rd x saDst, total := descTotal de, granted := 0, landed := 0
            age := 0, waited := 0, aged := false, queued := true, ending := false, chunks := [], buf := [], inst := inst
            asked := 0, inbuf := [], flush := false, flushed := false }
        let s := modSluice s d (fun q => { q with ctxs := tput q.ctxs phys t })
        let s := modPart s b.part (fun q => { q with starts := tset 0 q.starts key (inst + 1) })
        let s := modCore s n (fun c =>
          let c := { c with sq := c.sq ++ [⟨i, .start phys⟩] }
          if de.kind = 0 ∧ rd x saDst ≠ 0 then addRing c (ringLines b (dstStart de (rd x saDst)).toNat de.ring) else c)
        hostAskAll (advance s n i 2) d phys)))

/-- SRELEASE: check 0x8 of table ST-7, then the stream queue (R212). -/
def execSrelease (n : CoreIx) (g : Guard) (saOff : Reg) (lines : Nat) (cnt : Option Cnt) (s : State) : Res :=
  .next (issue s n g 2 [saOff] (fun s i b lc =>
    let a := (rd (ctxOf s n i) saOff).toNat
    if a % 1024 ≠ 0 ∨ lc.footprint < a + 1024 * lines then operandRange s n i 3 8 a
    else
      headgate s n i b [.queue .stream] (fun s =>
        advance (modCore s n (fun c => { c with sq := c.sq ++ [⟨i, .release ((b.base + a) / 1024) lines cnt⟩] })) n i 2)))

/-- SRELEASE_RECORD: the sluice takes an SRELEASE at the head of the core's stream queue, records the release of its lines
and completes it (R212, table ST-4). -/
def execSreleaseRecord (n : CoreIx) (s : State) : Res :=
  if asleep s (sluiceDom (dieOfCore n)) then .next s else
  match (s.cores[n]).sq with
  | ⟨i, .release line lines cnt⟩ :: rest =>
    if (s.cores[n]).sqTaken then .next s
    else
      let s := modCore s n (fun c => (List.range lines).foldl (fun c j => releaseLine c (line + j)) { c with sq := rest, sqTaken := true })
      .next (wake (incCnt s n i cnt) n)
  | _ => .next s

/-! ### Arbitration (R220 to R223) -/

/-- Numbers of the paths of table ST-5: the core store of a core, hall buffer to core store and back, HBM3 of the own and of
the other die, host memory, a fabric port. -/
inductive PathNo where
  | core (n : CoreIx) | hallOut | hallIn | hbmOwn | hbmRead | hbmWrite | host | port (f : Nat)
  deriving DecidableEq, Repr

/-- Key of a path's credit pool. -/
def pathKey : PathNo → Nat
  | .hallOut => 1 | .hallIn => 2 | .hbmOwn => 3 | .hbmRead => 4 | .hbmWrite => 5 | .host => 6
  | .port f => 10 + f
  | .core n => 100 + n.val

/-- Lanes of a port in service (R358, R359). -/
def portLanes (s : State) (f : PortIx) : Nat := ((List.range 8).filter (fun l => (s.fab.ports[f]).lanes.getLsbD l)).length

/-- Capacity of a path in bytes per sluice cycle (table ST-5, R358). -/
def pathCap (s : State) : PathNo → Nat
  | .core _ => 256
  | .hallOut => 4096
  | .hallIn => 4096
  | .hbmOwn => if s.fuses.m12 then 2304 else 1536
  | .hbmRead => 1792
  | .hbmWrite => 1792
  | .host => 60
  | .port f => match toFin 18 f with
    | some f => if portLanes s f = 7 then 166 else 190
    | none => 190

/-- The paths of a sluice. -/
def pathsOf (d : DieIx) : List PathNo :=
  ((ixs 40).filter (fun n => dieOfCore n = d)).map .core
    ++ [.hallOut, .hallIn, .hbmOwn, .hbmRead, .hbmWrite, .host] ++ (List.range 18).map .port

/-- Every pool refills by its capacity, up to four cycles' worth (R223). -/
def refill (s : State) (d : DieIx) : State :=
  modSluice s d (fun x =>
    { x with credit := (pathsOf d).foldl (fun t k => tset 0 t (pathKey k) (min (tget 0 t (pathKey k) + pathCap s k) (4 * pathCap s k))) x.credit })

/-- The channel and position of a space 4 address (R370). -/
def chanPos (a : Nat) : Nat × Nat := (a / 2 ^ 40, a % 2 ^ 40)

/-- The port that PUT or CONTRIB frames to a rank would leave on (R368). -/
def sendPort (s : State) (p : PartIx) (rank : Nat) (b : FBody) : Option PortIx :=
  let (node, part) := rankNode s p rank
  routePort s ⟨2, 0, p.val, part, node, s.fab.node, 0, 0, b⟩

/-- The path bytes of HBM3 addresses: own and other die (table ST-5). -/
def hbmPaths (s : State) (d : DieIx) (p : PartIx) (offs : List Nat) (write : Bool) : List (PathNo × Nat) :=
  let own := (offs.filter (fun o => dieOfCellar s (physAddr s p o / 4096 % nStacks s) = d)).length
  [(.hbmOwn, own), (if write then .hbmWrite else .hbmRead, offs.length - own)]

/-- The first destination rank of a channel, and a body that routes like its frames. -/
def chanRoute (c : ChannelE) : Nat × FBody :=
  if c.kind = 2 then (c.rank, .contrib c.redId 0 0 0 0 0 0 []) else ((c.dests.headD (0, 0)).1, .put (c.dests.headD (0, 0)).2 0 0 0 [])

/-- Credits by path, those of one pool added up. -/
def sumPaths (l : List (PathNo × Nat)) : List (PathNo × Nat) :=
  (l.map (·.1)).eraseDups.map (fun k => (k, ((l.filter (fun e => e.1 == k)).map (·.2)).sum))

/-- The credit that a chunk takes from each path (R223). -/
def chunkPaths (s : State) (d : DieIx) (x : SCtx) : List (PathNo × Nat) :=
  let (lo, len) := chunkSpan x x.granted
  let ps := (List.range len).map (lo + ·)
  let src :=
    match x.desc.src with
    | 0 => []
    | 1 => [(.hallOut, len)]
    | 2 => hbmPaths s d x.part (ps.map (srcAddr x)) false
    | 3 => [(.host, len)]
    | _ => [(.port 0, len)]
  let dst :=
    match x.desc.dst with
    | 0 => []
    | 1 => [(.hallIn, len)]
    | 2 => hbmPaths s d x.part (ps.map (dstAddr x)) true
    | 3 => [(.host, len)]
    | _ =>
      match channelOf s x.part (chanPos (dstAddr x lo)).1 with
      | some c => [(.port (match sendPort s x.part (chanRoute c).1 (chanRoute c).2 with | some f => f.val | none => 0), len)]
      | none => []
  if x.desc.src = 0 ∧ x.desc.dst = 0 then [(.core x.core, len)] else sumPaths (src ++ dst)

/-- Outstanding stream chunk bytes of one compute die at a cellar die; a chunk that will be written there counts from its grant on (R257). -/
def linkBytes (s : State) (c : CellarIx) (d : DieIx) : Nat :=
  let asked := ((s.reqs.filter (fun r => match r.who with | .stream e _ _ => e == d | .scalar .. => false)).map
    (fun r => (r.addrs.filter (fun a => cellarOf s (a.2 / 4096) = c)).length)).sum
  let due := ((s.sluices[d]).ctxs.map (fun e =>
    if e.2.desc.dst ≠ 2 then 0
    else
      ((e.2.chunks.filter (fun k => k.bytes.isNone)).map (fun k =>
        let (lo, len) := chunkSpan e.2 k.c
        ((List.range len).filter (fun j => cellarOf s (physAddr s e.2.part (dstAddr e.2 (lo + j)) / 4096) = c)).length)).sum)).sum
  asked + due

/-- Has every cellar die that the bytes touch request space for them (R257)? -/
def cellarRoom (s : State) (d : DieIx) (p : PartIx) (offs : List Nat) : Bool :=
  let cs := offs.map (fun o => cellarOf s (physAddr s p o / 4096))
  cs.eraseDups.all (fun c => decide (linkBytes s c d + (cs.filter (· = c)).length ≤ 65536))

/-- The limit of a SEND channel over its destinations (R371). -/
def sendLimit (s : State) (p : PartIx) (c : ChannelE) : Nat :=
  match (s.parts[p]).sends.find? (fun e => e.channel == c.channel) with
  | none => 0
  | some e => e.limits.foldl min (e.limits.headD 0)

/-- May a chunk to space 4 leave now (R371, R374)? In SOLO its frames are dropped, and nothing holds it back (R323). -/
def sendRoom (s : State) (x : SCtx) (lo len : Nat) : Bool :=
  let (ch, pos) := chanPos (dstAddr x lo)
  match channelOf s x.part ch with
  | none => false
  | some c =>
    (s.parts[x.part]).step == .solo ||
      ((c.kind == 2 || decide (pos + len ≤ sendLimit s x.part c))
        && (match sendPort s x.part (chanRoute c).1 (chanRoute c).2 with
            | some f => decide (storeUsed s.fab.dies[portDieOf f] < storeBytes)
            | none => decide ((rankNode s x.part (chanRoute c).1).1 = s.fab.node)))

/-- Does the landing ring of a channel hold the positions [pos, pos + len) (R370)? -/
def ringHolds (s : State) (p : PartIx) (ch pos len : Nat) : Bool :=
  match (s.parts[p]).recvs.find? (fun r => r.channel == ch) with
  | none => false
  | some r => (List.range len).all (fun j => r.segs.any (fun g => decide (g.1 ≤ pos + j ∧ pos + j < g.1 + g.2)))

/-- Have the next bytes of a stream from space 3 or 4 arrived (R220)? Captured bytes of a replay are there (R303, R323). -/
def arrived (s : State) (x : SCtx) : Bool :=
  let (lo, len) := chunkSpan x x.granted
  if x.desc.src < 3 then true
  else if (vestInput s x.part x.lcore x.inst x.descIx lo).isSome then true
  else if (s.parts[x.part]).step = .solo then false
  else if x.desc.src = 3 then (List.range len).all (fun j => (tfind x.inbuf (lo + j)).isSome)
  else ringHolds s x.part (chanPos (srcAddr x lo)).1 (chanPos (srcAddr x lo)).2 len

/-- The physical ring line of a chunk of a KIND 0 stream. -/
def chunkLine (s : State) (x : SCtx) (c : Nat) : Nat :=
  let base := match boundOf s.cores[x.core] x.ctx with | some b => b.base | none => 0
  (base + dstAddr x (256 * c)) / 1024

/-- Is the line of a KIND 0 stream's next chunk FREE, or FILLING for this lap of it (R217, R220)? The first chunk of a lap
in a line needs it FREE. -/
def lineOpen (s : State) (phys : Nat) (x : SCtx) : Bool :=
  if x.desc.kind ≠ 0 then true
  else
    match tfind (s.cores[x.core]).lines (chunkLine s x x.granted) with
    | some .free => true
    | some (.filling k) => k == phys && decide (256 * x.granted % 1024 ≠ 0)
    | _ => false

/-- Eligibility of R220 but for the grants already made in the cycle. -/
def eligible (s : State) (d : DieIx) (phys : Nat) (x : SCtx) : Bool :=
  let (lo, len) := chunkSpan x x.granted
  let ps := (List.range len).map (lo + ·)
  !x.queued && !x.ending && !(s.parts[x.part]).discarding && decide (0 < len) && arrived s x && lineOpen s phys x
    && (chunkPaths s d x).all (fun (k, n) => decide (n ≤ tget 0 (s.sluices[d]).credit (pathKey k)))
    && (x.desc.src != 2 || cellarRoom s d x.part (ps.map (srcAddr x)))
    && (x.desc.dst != 2 || cellarRoom s d x.part (ps.map (dstAddr x)))
    && (x.desc.dst != 4 || sendRoom s x lo len)

/-- FILL of R221: the bytes granted into lines of the ring that are not FREE. -/
def fillOf (s : State) (x : SCtx) : Nat :=
  if x.desc.kind ≠ 0 then 0
  else
    let g := min x.total (256 * x.granted)
    let R := 1024 * x.desc.ring
    ((List.range x.desc.ring).map (fun l =>
      let free := match tfind (s.cores[x.core]).lines (chunkLine s x 0 + l) with | some .free => true | _ => false
      if free || decide (g ≤ 1024 * l) then 0
      else
        let lap := (g - 1024 * l - 1) / R
        min 1024 (g - 1024 * l - lap * R))).sum

/-- Time-to-empty of R221. -/
def tteOf (s : State) (x : SCtx) : Nat :=
  if x.desc.kind = 0 then (if x.desc.rate = 0 then 0xFFFFFFFF else min (16 * fillOf s x / x.desc.rate) 0xFFFFFFFE)
  else if x.desc.due = 0xFFFFFFFF then 0xFFFFFFFF
  else x.desc.due - x.age

/-- Effective TTE of R222. -/
def effTte (s : State) (x : SCtx) : Nat := if x.aged then 0 else tteOf s x

/-- Insert by ascending effective TTE, then physical context number. -/
def insTte (a : Nat × Nat) : List (Nat × Nat) → List (Nat × Nat)
  | [] => [a]
  | b :: l => if a.1 < b.1 ∨ (a.1 = b.1 ∧ a.2 ≤ b.2) then a :: b :: l else b :: insTte a l

/-- The bytes of a chunk whose source is not HBM3. -/
def chunkBytes (s : State) (d : DieIx) (x : SCtx) (lo len : Nat) : List Byte :=
  let as := (List.range len).map (fun j => srcAddr x (lo + j))
  match vestInput s x.part x.lcore x.inst x.descIx lo with
  | some bs => if 3 ≤ x.desc.src then bs else []
  | none =>
  match x.desc.src with
  | 0 =>
    let base := match boundOf s.cores[x.core] x.ctx with | some b => b.base | none => 0
    as.map (fun a => tget 0 (s.cores[x.core]).store (base + a))
  | 1 => as.map (fun a => tget 0 s.hall[d] ((hallView s x.part d).1 + a))
  | 3 => (List.range len).map (fun j => tget 0 x.inbuf (lo + j))
  | _ =>
    let (ch, pos) := chanPos (srcAddr x lo)
    match channelOf s x.part ch with
    | some c => (List.range len).map (fun j =>
        tget 0 s.hall[d] ((hallView s x.part d).1 + c.ring + (pos + j) % (4096 * c.ringPages)))
    | none => []

/-- Does a stream read or write the core store of its core (R220)? -/
def usesStore (x : SCtx) : Bool := x.desc.src == 0 || x.desc.dst == 0

/-- A chunk to HBM3 whose bytes are at hand goes to the cellar dies. -/
def writeChunk (s : State) (d : DieIx) (phys : Nat) (x : SCtx) (c : Nat) (bs : List Byte) : State :=
  if x.desc.dst = 2 then
    mkReq s (.stream d phys c) x.part x.desc.tensor true ((List.range bs.length).map (fun j => dstAddr x (256 * c + j))) bs
  else s

/-- Grant the next chunk of a stream: credit, ring line, the source read (R218, R220, R223). -/
def grant (s : State) (d : DieIx) (phys : Nat) (x : SCtx) : State :=
  let (lo, len) := chunkSpan x x.granted
  let s := modSluice (countG s 8 1) d (fun q =>
    { q with credit := (chunkPaths s d x).foldl (fun t (k, n) => tset 0 t (pathKey k) (tget 0 t (pathKey k) - n)) q.credit })
  let s := if x.desc.kind = 0 then modCore s x.core (fun c => { c with lines := tput c.lines (chunkLine s x x.granted) (.filling phys) }) else s
  let bs := if x.desc.src = 2 then none else some (chunkBytes s d x lo len)
  let s := modStream s d phys (fun x =>
    { x with granted := x.granted + 1, waited := 0, aged := false, chunks := x.chunks ++ [⟨x.granted, bs, false⟩] })
  match bs with
  | none => mkReq s (.stream d phys x.granted) x.part x.desc.tensor false ((List.range len).map (fun j => srcAddr x (lo + j))) []
  | some bs => hostAskAll (writeChunk s d phys x x.granted bs) d phys

/-- Grants of one cycle, in order; the cores whose core store a grant of the cycle uses go along (R220, R222). -/
def grantAll (s : State) (d : DieIx) : Nat → List CoreIx → List (Nat × Nat) → State
  | _, _, [] => s
  | 0, _, _ => s
  | k + 1, busy, (_, phys) :: rest =>
    match streamAt s d phys with
    | none => grantAll s d (k + 1) busy rest
    | some x =>
      if eligible s d phys x && !(usesStore x && busy.contains x.core) then
        grantAll (grant s d phys x) d k (if usesStore x then x.core :: busy else busy) rest
      else grantAll s d (k + 1) busy rest

/-- A sluice cycle begins: the sluice takes the SSTART at the head of each core's stream queue (R212). -/
def takeStarts (s : State) (d : DieIx) : State :=
  each ((ixs 40).filter (fun n => dieOfCore n = d)) s (fun s n =>
    match (s.cores[n]).sq with
    | ⟨_, .start phys⟩ :: rest =>
      wake (modStream (modCore s n (fun c => { c with sq := rest, sqTaken := true })) d phys (fun x => { x with queued := false })) n
    | _ => modCore s n (fun c => { c with sqTaken := false }))

/-- SLUICE_GRANT: one sluice cycle (R212, R220 to R223). -/
def execSluiceGrant (d : DieIx) (s : State) : Res :=
  if asleep s (sluiceDom d) then .next s else
  let s := takeStarts (refill s d) d
  let s := modSluice s d (fun q => { q with ctxs := q.ctxs.map (fun e => (e.1, { e.2 with age := e.2.age + 1 })) })
  let el := (s.sluices[d]).ctxs.filter (fun e => eligible s d e.1 e.2)
  let order := el.foldl (fun l e => insTte (effTte s e.2, e.1) l) []
  let s := modSluice s d (fun q =>
    { q with ctxs := q.ctxs.map (fun e => (e.1, { e.2 with waited := if el.any (fun f => f.1 == e.1) then e.2.waited + 1 else 0 })) })
  let s := grantAll s d (s.sluices[d]).grants [] order
  .next (each ((s.sluices[d]).ctxs.filter (fun e => e.2.desc.src == 3)) s (fun s e => hostAskAll s d e.1))

/-- AGE_LIMIT: a context that has been eligible without a grant for AGE_LIMIT sluice cycles gets effective TTE 0 until its
next grant (R222). -/
def execAgeLimit (d : DieIx) (phys : Fin 8192) (s : State) : Res :=
  if asleep s (sluiceDom d) then .next s else
  let k := (s.sluices[d]).ageLimit
  .next (modStream s d phys.val (fun x => if k ≠ 0 ∧ k ≤ x.waited then { x with aged := true } else x))

/-! ### Landing and completion -/

/-- A stream context becomes idle (R208). -/
def idleStream (s : State) (d : DieIx) (phys : Nat) : State := modSluice s d (fun q => { q with ctxs := terase q.ctxs phys })

/-- A fault stops further grants of a stream and raises ENGINE_FAULT in its issuing context; without a chunk in flight the stream context is idle at
once (R231). -/
def streamFault (s : State) (d : DieIx) (phys : Nat) (f : EngFault) : State :=
  match streamAt s d phys with
  | none => s
  | some x =>
    let s := if x.chunks.isEmpty then idleStream s d phys else modStream s d phys (fun x => { x with ending := true })
    let s := modSluice s d (fun q =>
      { q with tagMis := q.tagMis || f.cause == 1, srcUnc := q.srcUnc || f.cause == 2, pathDown := q.pathDown || f.cause == 3
               descUnc := q.descUnc || f.cause == 4 })
    engineFault s x.core x.ctx x.pc 3 ⟨0, f.cause, f.detail⟩

/-- Send CREDIT for a RECEIVE channel: the ring's bytes beyond what has been read (R371). -/
def sendCredit (s : State) (p : PartIx) (c : ChannelE) : State :=
  let r := (s.parts[p]).recvs.find? (fun r => r.channel == c.channel)
  let n := match r with | some r => r.read | none => 0
  let (a, st) := stepAtt s p
  let s := modPart s p (fun q => { q with recvs := q.recvs.map (fun r => if r.channel = c.channel then { r with since := 0 } else r) })
  stepFrame s p (Config.creditRank p.val c.channel) 0 (.credit c.channel (4096 * c.ringPages + n) a st)

/-- A RECEIVE stream has read bytes of its channel's ring: a further 64 KiB leads to CREDIT (R371). -/
def tookFromRing (s : State) (p : PartIx) (ch pos len : Nat) : State :=
  let s := modPart s p (fun q =>
    { q with recvs := q.recvs.map (fun r => if r.channel = ch then { r with read := max r.read (pos + len), since := r.since + len } else r) })
  match channelOf s p ch, (s.parts[p]).recvs.find? (fun r => r.channel == ch) with
  | some c, some r => if 65536 ≤ r.since then sendCredit s p c else s
  | _, _ => s

/-- Raw elements of a granule's bytes in a format. -/
def granuleRaws (fmt : Nat) (bs : List Byte) : List Nat :=
  let k := (match fmtOf fmt with | some f => fmtBits f | none => 32) / 8
  (List.range (bs.length / max k 1)).map (fun j => leNat ((bs.drop (k * j)).take k))

/-- A chunk for space 4: PUT frames to every destination in order, or the CONTRIB frames of the granules that it completes
(R370, R372). -/
def sendChunk (s : State) (d : DieIx) (phys : Nat) (x : SCtx) (c : Nat) (bs : List Byte) : State :=
  let (ch, pos) := chanPos (dstAddr x (256 * c))
  let (a, st) := stepAtt s x.part
  match channelOf s x.part ch with
  | none => s
  | some e =>
    if e.kind = 2 then
      match tensorOf s x.part x.desc.tensor with
      | none => s
      | some t =>
        let gb := 128 * (match fmtOf t.fmt with | some f => fmtBits f | none => 32)
        let buf := x.buf ++ bs
        if buf.length < gb then modStream s d phys (fun x => { x with buf := buf })
        else
          let granule := (pos + bs.length - 1) / gb
          let s := modStream s d phys (fun x => { x with buf := buf.drop gb })
          stepFrame s x.part e.rank 1
            (.contrib e.redId t.fmt (expOf s x.part t.id) (s.parts[x.part]).rank granule a st (granuleRaws t.fmt (buf.take gb)))
    else each e.dests s (fun s q => stepFrame s x.part q.1 2 (.put q.2 pos a st bs))

/-- The bytes of a chunk land at their destination (R214 to R216, R218). -/
def landBytes (s : State) (d : DieIx) (phys : Nat) (x : SCtx) (c : Nat) (bs : List Byte) : State :=
  let lo := 256 * c
  let as := (List.range bs.length).map (fun j => dstAddr x (lo + j))
  match x.desc.dst with
  | 0 =>
    let base := match boundOf s.cores[x.core] x.ctx with | some b => b.base | none => 0
    modCore s x.core (fun k =>
      let k := { k with store := (as.zip bs).foldl (fun t e => tset 0 t (base + e.1) e.2) k.store }
      if x.desc.kind = 0 ∧ ((lo + bs.length) % 1024 = 0 ∨ lo + bs.length = x.total) then
        { k with lines := tput k.lines (chunkLine s x c) (.present false) }
      else k)
  | 1 => { s with hall := s.hall.set d.val ((as.zip bs).foldl (fun t e => tset 0 t ((hallView s x.part d).1 + e.1) e.2) s.hall[d]) d.isLt }
  | 2 => s
  | 3 => each (runsOf 512 0 as) s (fun s r => hostWrite s x.part r.2.1 ((bs.drop r.1).take r.2.2))
  | _ => sendChunk s d phys x c bs

/-- Capture the bytes of an input stream, unless the vestibule already holds them (R302, R303). -/
def captureInput (s : State) (x : SCtx) (c : Nat) (bs : List Byte) : State :=
  if x.desc.src < 3 ∨ (vestInput s x.part x.lcore x.inst x.descIx (256 * c)).isSome then s
  else capture s x.part (s.parts[x.part]).stepNo (s.parts[x.part]).attempt (.input x.lcore x.inst x.descIx (256 * c) bs)

/-- CHUNK_WRITTEN: the bytes of the stream's oldest chunk in flight land (log entry 24: chunks of one stream land in the
order of their positions), or a hardware failure of the stream is reported (R231). Bytes for the store of a stopped core region wait
(R472). -/
def execChunkWritten (d : DieIx) (phys : Fin 8192) (fault : Option EngFault) (s : State) : Res :=
  if asleep s (sluiceDom d) then .next s else
  match streamAt s d phys.val with
  | none => .next s
  | some x =>
    match fault with
    | some f => .next (streamFault s d phys.val f)
    | none =>
      match x.chunks with
      | ⟨c, some bs, written⟩ :: rest =>
        if (x.desc.dst = 2 ∧ !written) ∨ (x.desc.dst = 0 ∧ asleep s (coreDom x.core)) then .next s
        else
          let s := captureInput s x c bs
          let s := landBytes s d phys.val x c bs
          let s := modStream s d phys.val (fun x =>
            { x with chunks := rest, landed := x.landed + bs.length
                     inbuf := tclear x.inbuf (256 * c) (256 * c + bs.length) })
          let s := if x.desc.src = 4 then tookFromRing s x.part (chanPos (srcAddr x (256 * c))).1 (chanPos (srcAddr x (256 * c))).2 bs.length else s
          let s :=
            if x.desc.dst = 3 ∧ x.landed + bs.length = x.total then
              let last := dstAddr x (x.total - 1)
              emit (modStream { s with pcie := { s.pcie with reads := s.pcie.reads ++ [⟨d.val, phys.val, none, x.part, last, 0⟩] } } d phys.val
                (fun x => { x with flush := true })) (.hostRead x.part last 0)
            else s
          let s := if x.ending && rest.isEmpty then idleStream s d phys.val else s
          .next (wake s x.core)
      | _ => .next s

/-- STREAM_COMPLETE: every byte has landed and, to host memory, the zero-length read has completed; the counter rises, the
token of SIG_EN leaves, the context becomes idle (R208, R216, R226, R371, R381). -/
def execStreamComplete (d : DieIx) (phys : Fin 8192) (s : State) : Res :=
  if asleep s (sluiceDom d) then .next s else
  match streamAt s d phys.val with
  | none => .next s
  | some x =>
    if x.landed = x.total ∧ x.chunks = [] ∧ (x.desc.dst ≠ 3 ∨ x.flushed) then
      let s := dumpDone (incCnt (idleStream s d phys.val) x.core x.ctx x.cnt) (.stream x.lcore x.sctx x.descIx x.inst)
      let s := match x.desc.sig with | some b => sendToken s x.part b x.lcore | none => s
      let s :=
        if x.desc.src = 4 then
          match channelOf s x.part (chanPos (srcAddr x 0)).1 with | some c => sendCredit s x.part c | none => s
        else s
      .next (wake s x.core)
    else .next s

end Sys2Proof.Machine
end

