-- ==== Sys2Proof/Machine/Burst.lean ====
section
/-! DEFINITION. Requests at a cellar die: the version map that places them, taking a request, trackers, issuing sectors and runs, what a read
that fails gives (R23, R238, R249 to R258, R263, R282; tables CM-5, CM-12). -/

namespace Sys2Proof.Machine

/-! ### The version map (R282, R283) -/

/-- Store a map entry; an entry that says what an unlisted block reads as is not listed. -/
def setMap (s : State) (p : PartIx) (b : Nat) (e : MapE) : State :=
  { s with vmap := if e = ⟨(b, (s.parts[p]).mapVer), none, none⟩ then terase s.vmap b else tput s.vmap b e }

/-- The logical data-space blocks of a partition that have a map entry listed. -/
def mapped (s : State) (p : PartIx) : Tbl MapE :=
  match (s.parts[p]).allot with
  | none => []
  | some a => s.vmap.filter (fun e => decide (a.base ≤ 4096 * e.1 ∧ 4096 * e.1 < a.base + a.data))

/-- First block and number of blocks of a partition's version pool (R434). -/
def poolArea (s : State) (p : PartIx) : Nat × Nat :=
  match (s.parts[p]).allot with
  | none => (0, 0)
  | some a => ((a.base + a.data) / 4096, a.pool / 4096)

/-- The physical blocks that a partition's map entries hold. -/
def heldBlocks (s : State) (p : PartIx) : List Nat :=
  (mapped s p).flatMap (fun e => e.2.cur.1 :: ((match e.2.shadow with | some x => [x.1] | none => []) ++ (match e.2.retained with | some x => [x.1] | none => [])))

/-- Is a physical block of a partition free: held by no entry and swept (R282, R286)? -/
def blockFree (s : State) (p : PartIx) (b : Nat) : Bool := !(heldBlocks s p).contains b && !s.freed.contains (p, b)

/-- The lowest-numbered free physical block for a logical block: the logical block itself or a pool block of its stack
(R282, R283). -/
def freeFor (s : State) (p : PartIx) (b : Nat) : Option Nat :=
  let home := if (mapOf s p b).cur.1 ≠ b && blockFree s p b then some b else none
  match home with
  | some x => some x
  | none =>
    let (lo, n) := poolArea s p
    ((List.range n).map (lo + ·)).find? (fun x => decide (x % nStacks s = b % nStacks s) && blockFree s p x)

/-! ### Taking requests (R251, R254 to R257, R291) -/

/-- May a request reach a cellar die now: it touches the die and has not been taken there, no earlier request of the same stream still
waits to be taken there (R256), and every earlier access of the same context has taken effect (R87)? -/
def mayTake (s : State) (c : CellarIx) (r : Req) : Bool :=
  (diesOf s r).contains c && !r.atDie.contains c && !(s.reqs.any (fun q => decide (q.id < r.id) && before q.who r.who q))
where
  /-- Must the request `q` go before a later one? -/
  before (a b : Requester) (q : Req) : Bool :=
    match a, b with
    | .stream d x _, .stream e y _ => d == e && x == y && (diesOf s q).contains c && !q.atDie.contains c
    | .scalar n i, .scalar m j => n == m && i == j && !reqDone s q
    | _, _ => false

/-- The bases of the pieces of a request at a cellar die: its sectors or runs, in address order of the request. -/
def basesAt (s : State) (c : CellarIx) (r : Req) : List Nat :=
  ((r.addrs.filter (fun a => cellarOf s (a.2 / 4096) = c)).map (fun a => a.2 / pieceSize s * pieceSize s)).eraseDups

/-- Distinct pending sectors or runs of a cellar die. -/
def pendingCount (x : Cellar) : Nat := ((x.pieces.map (·.base)).eraseDups).length

/-- Is every access to the stack failing: its link down, or a wipe in progress (R23, R263)? -/
def stackDown (s : State) (c : CellarIx) : Bool := !s.pkg.cellarLink[c] || (s.cellars[c]).wipeBusy

/-- A stream's request marks what it asks of a block in the block's tracker, which opens at the first request while one of
the 256 is free (R251). -/
def openTracker (s : State) (c : CellarIx) (r : Req) (block : Nat) : State :=
  match r.who with
  | .scalar .. => s
  | .stream d phys _ =>
    let set := byteSet (placesIn r block)
    modCellar s c (fun x =>
      if x.trackers.any (isTracker r block) then
        { x with trackers := x.trackers.map (fun t => if isTracker r block t then { t with asked := t.asked ||| set } else t) }
      else if x.trackers.length < 256 then
        { x with trackers := x.trackers ++ [⟨block, d, phys, r.write, set, 0, true⟩] }
      else x)

/-- Every byte of a run has been requested by the pieces that wait for it (R255). -/
def runFull (s : State) (x : Cellar) (base : Nat) : Bool :=
  let ids := (x.pieces.filter (fun q => q.base == base)).map (·.req)
  let got := s.reqs.foldl (fun b r =>
    if ids.contains r.id then b ||| byteSet ((r.addrs.filter (fun a => 512 * (a.2 / 512) == base)).map (fun a => a.2 % 512)) else b) (0 : BitVec 4096)
  decide (setCount got = 512)

/-- The logical data-space blocks of parameter and moment tensors whose bytes on a die a request writes (R291). -/
def inPlace (s : State) (c : CellarIx) (r : Req) : List Nat :=
  if r.write then
    (((r.addrs.filter (fun a => decide (cellarOf s (a.2 / 4096) = c) && versionedAt s r.part a.1)).map
      (fun a => logicalAddr s r.part a.1 / 4096))).eraseDups
  else []

/-- An in-place write while a retention holds the block goes to a free block of the stack, a copy with the same block version, and
the old one becomes RETAINED; without a free block the write waits (R292, R400). -/
def copyRetained (s : State) (p : PartIx) (b : Nat) : Option State :=
  let e := mapOf s p b
  if !keepsOld s p e then some s
  else
    match freeFor s p b with
    | none => none
    | some x =>
      let old := e.cur.1
      let s := countG (countG s 3 4096) 4 4096
      let s := setTag { s with hbm := (List.range 4096).foldl (fun m o => tput m (4096 * x + o) (hbmByte s (4096 * old + o))) s.hbm } x (tagOf s old)
      some (setMap s p b { e with cur := (x, e.cur.2), retained := some e.cur })

/-- What a cellar die does for a request before it takes it: retained blocks are copied, ACCUM bits set, and the bytes of the die
placed where the version map has them now (R289, R291, R398, R400). -/
def prepare (s : State) (c : CellarIx) (r : Req) : Option State :=
  match (inPlace s c r).foldl (fun s b => s.bind (fun s => copyRetained s r.part b)) (some s) with
  | none => none
  | some s =>
    let s := each (inPlace s c r) s (fun s b => markPage s r.part b)
    some (modReq s r.id (fun r =>
      { r with addrs := r.addrs.map (fun a => if cellarOf s (a.2 / 4096) = c && versionedAt s r.part a.1 then (a.1, physAddr s r.part a.1) else a) }))

/-- The writer that a stream's request belongs to, for the tensor dumps (R464). -/
def reqWriter (s : State) (r : Req) : Option Writer :=
  match r.who with
  | .scalar .. => none
  | .stream d phys _ => if r.write then (streamAt s d phys).map (fun x => .stream x.lcore x.sctx x.descIx x.inst) else none

/-- A prepared request joins the scheduler of a cellar die with its sectors or runs (R254, R255). -/
def joinPieces (s : State) (c : CellarIx) (r : Req) : State :=
  let bs := basesAt s c r
  let s := each ((bs.map (· / 4096)).eraseDups) s (fun s b => openTracker s c r b)
  let ps := bs.map (fun b =>
    let (_, pc, l, o) := place40 s b
    let (bank, row) := bankRow l o
    (⟨r.id, pc, bank, row, b, false, false⟩ : Piece))
  let s := modCellar s c (fun x => { x with pieces := x.pieces ++ ps })
  let s := modCellar s c (fun x =>
    { x with pieces := x.pieces.map (fun q => if !variantG s && runFull s x q.base then { q with held := true } else q) })
  let s := match reqWriter s r with | some w => dumpSee s r.part r.tensor w c | none => s
  modReq s r.id (fun r => { r with atDie := r.atDie ++ [c] })

/-- A prepared request joins the scheduler, if there is room for its sectors or runs; otherwise nothing changes (R254, R255). -/
def takeRequest (s0 s : State) (c : CellarIx) (req : Nat) : State :=
  match s.reqs.find? (fun r => r.id == req) with
  | none => s0
  | some r =>
    let fresh := (basesAt s c r).filter (fun b => !((s.cellars[c]).pieces.any (fun q => q.base == b)))
    let cap := if variantG s then 4096 else 256
    if cap < pendingCount s.cellars[c] + fresh.length then s0 else joinPieces s c r


/-- The open row of a bank. -/
def openRow (x : Cellar) (pc bank : Nat) : Option Nat := tfind x.openRows (64 * pc + bank)

/-- Does a piece write? -/
def pieceWrites (s : State) (q : Piece) : Bool := s.reqs.any (fun r => r.id == q.req && r.write)

/-- Pieces of a pseudo-channel that may issue: no earlier request for the same sector stands before them where one of the two writes (R256); a run
waits until it is complete or its hold has ended (R255). -/
def readyPieces (s : State) (x : Cellar) (pc : Nat) : List Piece :=
  let ps := x.pieces.filter (fun q => decide (q.pc = pc) && (variantG s || q.held))
  ps.zipIdx.filterMap (fun (q, k) =>
    if variantG s && (ps.take k).any (fun e => e.base == q.base && (pieceWrites s e || pieceWrites s q)) then none else some q)

/-- The piece that a pseudo-channel issues next: an aged one, else the oldest in an open row, else the oldest (R254). A pseudo-channel that has reads
and writes serves the writes in batches of WRITE_BATCH bursts (R258). DESIGN CHOICE (log entry 199): a batch begins when that many writes wait,
or no read does. -/
def nextPiece (s : State) (x : Cellar) (pc : Nat) : Option Piece :=
  let ps := readyPieces s x pc
  match ps.find? (·.aged) with
  | some q => some q
  | none =>
    let ws := ps.filter (pieceWrites s)
    let rs := ps.filter (fun q => !pieceWrites s q)
    let bursts := ws.length * (pieceSize s / 32)
    let serve := if rs.isEmpty then ws else if ws.isEmpty then rs else if 0 < tget 0 x.batch pc ∨ x.writeBatch ≤ bursts then ws else rs
    match serve.find? (fun q => openRow x q.pc q.bank == some q.row) with
    | some q => some q
    | none => serve.head?

/-- The write batch of a pseudo-channel once a piece has issued: the bursts left in it (R258). -/
def batchAfter (s : State) (x : Cellar) (q : Piece) : Nat :=
  if pieceWrites s q then
    let left := tget 0 x.batch q.pc
    (if left = 0 then x.writeBatch else left) - pieceSize s / 32
  else tget 0 x.batch q.pc

/-- Fail a request with the causes of a check: the bits of CEL_ERR and CEL_TAG_LOG, and the fault of a stream at once; a
scalar load keeps its failure until LOAD_DATA (R231, R252). -/
def failReq (s : State) (c : CellarIx) (r : Req) (block : Nat) (causes : List TagCause) : State :=
  match causes with
  | [] => s
  | _ =>
    let s := modReq (readEvents (logTagFail s c causes (sourceCode r.who) block) c block causes) r.id (fun r => { r with failed := true })
    match r.who with
    | .scalar .. => s
    | .stream d phys _ =>
      let off := match r.addrs.find? (fun a => a.2 / 4096 == block) with | some a => a.1 | none => 0
      streamFault s d phys ⟨0, 1, 4096 * (off / 4096)⟩

/-- The bytes of a piece that a request reads or writes, as (position in the request, address, byte to write). -/
def pieceBytes (s : State) (r : Req) (base : Nat) : List (Nat × Nat × Nat × Byte) :=
  ((List.range r.addrs.length).zip r.addrs).filterMap (fun (j, a) =>
    if a.2 / pieceSize s * pieceSize s = base then some (j, a.1, a.2, r.data.getD j 0) else none)

/-- The sectors of a piece that a stream has written pass the dump triggers (R465). -/
def dumpPiece (s : State) (c : CellarIx) (r : Req) (base : Nat) : State :=
  match reqWriter s r, tensorOf s r.part r.tensor with
  | some w, some t =>
    let places := (pieceBytes s r base).map (fun e => (32 * (e.2.1 / 32), 32 * (e.2.2.1 / 32)))
    each places.eraseDups s (fun s e => dumpSector s w c (e.1 - t.base) (hbmBytes s e.2 32))
  | _, _ => s

/-- What one request does when its piece is issued: a write stores its bytes and the tag with them, a read collects its bytes. A read is judged once
with the last piece of it in the block, with the CRC when its tracker closes complete, or with the piece that meets a hardware error; it
fails once, with the first failing cause (R249 to R252). A write whose parity error persists stores nothing and fails as HBM_UNCORR (R238;
log entry 200). -/
def issuePiece (s : State) (c : CellarIx) (r : Req) (base : Nat) (err : ReadErr) : State :=
  let block := base / 4096
  let bytes := pieceBytes s r base
  let set := byteSet (bytes.map (fun e => e.2.2.1 % 4096))
  let off := match bytes.head? with | some e => e.2.1 | none => 0
  let s := countG s (if r.write then 4 else 3) bytes.length
  let s := match r.who with | .stream .. => countP s r.part (if r.write then 9 else 8) bytes.length | .scalar .. => s
  let s := modCellar s c (fun x =>
    { x with trackers := x.trackers.map (fun t => if isTracker r block t then { t with passed := t.passed ||| set } else t) })
  let mine := (s.cellars[c]).trackers.find? (isTracker r block)
  let full := match mine with | some t => decide (t.passed = BitVec.allOnes 4096) | none => false
  let closes := full && (match mine with | some t => t.good | none => false)
  let s := if full then modCellar s c (fun x => { x with trackers := x.trackers.filter (fun t => !isTracker r block t) }) else s
  if r.write then
    if err = .uncorr then failReq s c r block [.hbmUncorr]
    else
      let s := writeBlock (spoil s block (isTracker { r with write := false } block)) block (bytes.map (fun e => (e.2.2.1 % 4096, e.2.2.2))) false
        (storeVersion s r.part off) (foldOf r.tensor)
      let s := dumpPiece s c r base
      if closes then
        let old := tagOf s block
        setTag s block (mkTag (crc32c (hbmBytes s (4096 * block) 4096)) (wfield old 31 16) (wfield old 15 0))
      else s
  else
    let s := modReq s r.id (fun r => { r with got := bytes.foldl (fun t e => tput t e.1 (hbmByte s e.2.2.1)) r.got })
    let last := !((s.cellars[c]).pieces.any (fun q => q.req == r.id && q.base / 4096 == block))
    if r.failed || !(last || err != .ok) then s
    else
      let ks := readCheck s mine r block err closes
      let s := if err = .cured && (foldChecked s mine r block || closes) && ks.isEmpty then cured s c else s
      failReq s c r block ks

/-- A complete request of a stream: the bytes of a chunk are at hand, or written; a failed read delivers nothing (R252). -/
def finishReq (s : State) (r : Req) : State :=
  match r.who with
  | .scalar n i => if (ctxOf s n i).accs.any (fun a => a.space == .hbm) then s else dropReq s r.id
  | .stream d phys c =>
    let s := dropReq s r.id
    match streamAt s d phys with
    | none => s
    | some x =>
      if r.write then
        modStream s d phys (fun x => { x with chunks := x.chunks.map (fun k => if k.c = c then { k with written := true } else k) })
      else if r.failed then
        let s := modStream s d phys (fun x => { x with chunks := x.chunks.filter (fun k => k.c != c) })
        if x.ending && (x.chunks.filter (fun k => k.c != c)).isEmpty then idleStream s d phys else s
      else
        let bs := tgetMany 0 r.got 0 r.addrs.length
        let s := modStream s d phys (fun x => { x with chunks := x.chunks.map (fun k => if k.c = c then { k with bytes := some bs } else k) })
        writeChunk s d phys x c bs

/-- A sector or run is issued: all requests that joined a run are served in the order of their arrival (R254 to R256). -/
def issueBase (s : State) (c : CellarIx) (q : Piece) (err : ReadErr) : State :=
  let mine := if variantG s then [q.req] else (((s.cellars[c]).pieces.filter (fun p => p.base == q.base)).map (·.req))
  let left := batchAfter s s.cellars[c] q
  let s := modCellar s c (fun x =>
    { x with openRows := tput x.openRows (64 * q.pc + q.bank) q.row, batch := tset 0 x.batch q.pc left
             pieces := if variantG s then x.pieces.erase q else x.pieces.filter (fun p => p.base != q.base) })
  each mine s (fun s id =>
    match s.reqs.find? (fun r => r.id == id) with
    | none => s
    | some r =>
      let s := issuePiece s c r q.base err
      match s.reqs.find? (fun r => r.id == id) with
      | some r => if reqDone s r then finishReq s r else s
      | none => s)

/-- The requests for a block that arrived earlier are performed before an engine or a window touches the block (R256). DESIGN CHOICE (log entry
201): those two do not wait as sectors or runs themselves; they take effect where their command stands. -/
def settleBlock (s : State) (c : CellarIx) (b : Nat) : State :=
  each ((s.cellars[c]).pieces.filter (fun q => q.base / 4096 == b)) s (fun s q =>
    if (s.cellars[c]).pieces.contains q then issueBase s c q .ok else s)

/-- BURST_ISSUE: the pseudo-channel issues its next sector or run (R254 to R256, R258). `err` is what the hardware does to the read, `reread`
whether the re-read matches (R252). -/
def execBurstIssue (c : CellarIx) (pc : Fin 32) (err : ReadErr) (reread : Bool) (s : State) : Res :=
  if asleep s (cellarDom c) || asleep s (phyDom c) || stackDown s c then .next s else
  match nextPiece s s.cellars[c] pc.val with
  | none => .next s
  | some q => .next (issueBase s c q (err.after reread))

/-- A request reaches a stack whose link is down, or that is being wiped: it fails there as a link-down access (R23, R231, R263). A stream gets
PATH_DOWN; a scalar load reads all ones and a scalar store is dropped. -/
def failDown (s : State) (c : CellarIx) (r : Req) : State :=
  let here := ((List.range r.addrs.length).zip r.addrs).filter (fun e => cellarOf s (e.2.2 / 4096) = c)
  let s := modReq s r.id (fun r => { r with atDie := addOnce c r.atDie })
  let s :=
    match r.who with
    | .stream d phys _ => streamFault (modReq s r.id (fun r => { r with failed := true })) d phys ⟨0, 3, place 2 47 44 + c.val⟩
    | .scalar .. =>
      let s := accessError s 2 (hbmControl (match here.head? with | some e => e.2.2 | none => 0))
      if r.write then s else modReq s r.id (fun r => { r with got := here.foldl (fun t e => tput t e.1 0xFF) r.got })
  match s.reqs.find? (fun x => x.id == r.id) with
  | some r => if reqDone s r then finishReq s r else s
  | none => s

/-- The link of a cellar die goes down: the requests that it has taken and not yet performed fail as accesses to it do (R23, R29). -/
def failTaken (s : State) (c : CellarIx) : State :=
  let ids := ((s.cellars[c]).pieces.map (·.req)).eraseDups
  each ids (modCellar s c (fun x => { x with pieces := [] })) (fun s id =>
    match s.reqs.find? (fun r => r.id == id) with
    | none => s
    | some r => failDown s c r)

/-- CELLAR_REQUEST: the cellar die takes its share of a request, split into sectors or joined to runs (R254 to R256). A
full scheduler takes nothing. -/
def execCellarRequest (c : CellarIx) (req : Nat) (s : State) : Res :=
  if asleep s (cellarDom c) then .next s else
  match s.reqs.find? (fun r => r.id == req) with
  | none => .next s
  | some r =>
    if !mayTake s c r then .next s
    else if stackDown s c then .next (failDown s c r)
    else
      match prepare s c r with
      | none => .next s
      | some s' => .next (takeRequest s s' c req)

/-- GATHER_AGE: the oldest sector of the pseudo-channel has waited the limit and goes before every younger one (R254); 0 is
no limit, and variant S has no such limit. -/
def execGatherAge (c : CellarIx) (pc : Fin 32) (s : State) : Res :=
  if asleep s (cellarDom c) then .next s else
  if !variantG s || (s.cellars[c]).gatherAge == 0 then .next s
  else
    .next (modCellar s c (fun x =>
      match x.pieces.findIdx? (fun q => q.pc == pc.val && !q.aged) with
      | none => x
      | some k => { x with pieces := x.pieces.modify k (fun q => { q with aged := true }) }))

/-- RUN_HOLD: the oldest run of the pseudo-channel that still waits may issue (R255). -/
def execRunHold (c : CellarIx) (pc : Fin 32) (s : State) : Res :=
  if asleep s (cellarDom c) then .next s else
  if variantG s then .next s
  else
    .next (modCellar s c (fun x =>
      match x.pieces.find? (fun q => q.pc == pc.val && !q.held) with
      | none => x
      | some q => { x with pieces := x.pieces.map (fun p => if p.base = q.base then { p with held := true } else p) }))

/-- TRACKER_EXPIRY: a tracker closes incomplete (R251). -/
def execTrackerExpiry (c : CellarIx) (ix : Nat) (s : State) : Res :=
  if asleep s (cellarDom c) then .next s else
  .next (modCellar s c (fun x => { x with trackers := x.trackers.eraseIdx ix }))

/-! ### The end of a partition's streams (R232) -/

/-- Perform what is left of a request now: it joins each die that has not taken it, and its sectors or runs issue behind what arrived earlier for
their blocks (R254 to R256). DESIGN CHOICE (log entry 239): a write for which no block is free while a retention holds its block is not
performed. -/
def performReq (s : State) (r : Req) : State :=
  each (diesOf s r) s (fun s c =>
    match s.reqs.find? (fun x => x.id == r.id) with
    | none => s
    | some r =>
      if stackDown s c then failDown s c r
      else
        let s := if r.atDie.contains c then s
          else match prepare s c r with
            | none => s
            | some t => (match t.reqs.find? (fun x => x.id == r.id) with | some r => joinPieces t c r | none => t)
        each (((s.cellars[c]).pieces.filter (fun q => q.req == r.id)).map (fun q => q.base / 4096)).eraseDups s (fun s b => settleBlock s c b))

/-- A chunk in flight lands at a discard: what it still asks of HBM3 is performed now, and what an input stream delivers is captured
(R232, R302). -/
def landNow (s : State) (d : DieIx) (phys c : Nat) : State :=
  let perform := fun (s : State) (write : Bool) =>
    match s.reqs.find? (fun r => decide (r.who = .stream d phys c) && r.write == write) with
    | some r => performReq s r
    | none => s
  let s := perform (perform s false) true
  match streamAt s d phys with
  | none => s
  | some x =>
    match x.chunks.find? (fun k => k.c == c) with
    | some ⟨_, some bs, _⟩ => landBytes (if (s.parts[x.part]).step = .solo then s else captureInput s x c bs) d phys x c bs
    | _ => s

/-- End every active stream of a partition at a chunk boundary: chunks already granted land, and the contexts become idle (R232). -/
def endStreams (s : State) (p : PartIx) : State :=
  let s := each (ixs 2) s (fun s d =>
    each ((s.sluices[d]).ctxs.filter (fun e => decide (e.2.part = p))) s (fun s e =>
      idleStream (each e.2.chunks s (fun s c => landNow s d e.1 c.c)) d e.1))
  let mine := fun (w : Requester) => match w with | .stream d phys _ => ((streamAt s d phys).isNone) | .scalar .. => false
  let gone := (s.reqs.filter (fun r => decide (r.part = p) && mine r.who)).map (·.id)
  { s with
    reqs := s.reqs.filter (fun r => !gone.contains r.id)
    cellars := s.cellars.map (fun c => { c with pieces := c.pieces.filter (fun q => !gone.contains q.req) })
    pcie := { s.pcie with reads := s.pcie.reads.filter (fun r => decide (r.part ≠ p ∨ r.pos = none)) } }

end Sys2Proof.Machine
end

