-- ==== Sys2Proof/Machine/Fmath.lean ====
section
/-! DEFINITION. Division, roots and the functions of table VE-5, to nearest (R182, R190; table UP-3). Values are carried as
exact or 400-bit truncated binary numbers and rounded to FP32 once; the distance of a function value of an FP32 input from
the middle between two FP32 numbers is far above the truncation error (log entry 50). -/

namespace Sys2Proof.Machine

/-- Cut a value to 400 significant bits, toward zero. -/
def fvTrim : Fval → Fval
  | .fin n m e =>
    let k := Nat.log2 m + 1
    if 400 < k then .fin n (m >>> (k - 400)) (e + ((k - 400 : Nat) : Int)) else .fin n m e
  | v => v

/-- A quotient to 400 bits or more; x / 0 is an infinity, 0 / 0 and ∞ / ∞ are NaN. -/
def fvDiv : Fval → Fval → Fval
  | .nan, _ => .nan
  | _, .nan => .nan
  | .inf a, .inf _ => let _ := a; .nan
  | .inf a, .fin b _ _ => .inf (a != b)
  | .fin a _ _, .inf b => .fin (a != b) 0 0
  | .fin a m e, .fin b k d =>
    if k = 0 then (if m = 0 then .nan else .inf (a != b))
    else
      let sh := 402 + Nat.log2 k
      .fin (a != b) ((m <<< sh) / k) (e - d - (sh : Int))

/-- A square root to 400 bits: √−0 is −0, a negative number has none. -/
def fvSqrt : Fval → Fval
  | .nan => .nan
  | .inf neg => if neg then .nan else .inf false
  | .fin neg m e =>
    if m = 0 then .fin neg 0 0
    else if neg then .nan
    else
      let sh := 810 + (e % 2).toNat
      .fin false (Nat.sqrt (m <<< sh)) ((e - (sh : Int)) / 2)

/-- FP32 division, correctly rounded. -/
def fdiv (a b : W32) : W32 := toFp32 (fvDiv (fp32 a) (fp32 b))

/-- FP32 square root, correctly rounded. -/
def fsqrt (a : W32) : W32 := toFp32 (fvSqrt (fp32 a))

/-- The value 1. -/
def fvOne : Fval := .fin false 1 0

/-- FP32 nearest to 1 / √a: 1 / √±0 is an infinity. -/
def frsqrt (a : W32) : W32 := toFp32 (fvDiv fvOne (fvSqrt (fp32 a)))

/-- An exact power with a natural exponent. -/
def fvPow (v : Fval) (t : Nat) : Fval :=
  match v with
  | .nan => .nan
  | .inf n => if t = 0 then fvOne else .inf (n && t % 2 == 1)
  | .fin n m e => .fin (n && t % 2 == 1) (m ^ t) (e * (t : Int))

/-- FP32 nearest to 1 − k^t (table UP-3, BIASC). -/
def biasc (k : W32) (t : Nat) : W32 := toFp32 (fvAdd fvOne (fvNeg (fvPow (fp32 k) t)))

/-- A small integer as a value. -/
def fvNat (n : Nat) : Fval := .fin false n 0

/-- A sum and a product cut to 400 bits. -/
def tAdd (a b : Fval) : Fval := fvTrim (fvAdd a b)

/-- A product cut to 400 bits. -/
def tMul (a b : Fval) : Fval := fvTrim (fvMul a b)

/-- A quotient cut to 400 bits. -/
def tDiv (a b : Fval) : Fval := fvTrim (fvDiv a b)

/-- Σ z^(2j+1) / (2j+1) for j below `n`, from the last term down: atanh z; with `alt`, arctan z. -/
def oddSeries (alt : Bool) (z2 : Fval) : Nat → Nat → Fval
  | 0, _ => .fin false 0 0
  | n + 1, j =>
    let t := tDiv fvOne (fvNat (2 * j + 1))
    let r := tMul z2 (oddSeries alt z2 n (j + 1))
    tAdd t (if alt then fvNeg r else r)

/-- atanh z for |z| ≤ 1/3. -/
def fvAtanh (z : Fval) : Fval := tMul z (oddSeries false (tMul z z) 135 0)

/-- ln 2 = 2 atanh(1/3). -/
def ln2 : Fval := tMul (fvNat 2) (fvAtanh (tDiv fvOne (fvNat 3)))

/-- arctan(1/k) for k ≥ 5. -/
def fvAtanInv (k : Nat) : Fval := let z := tDiv fvOne (fvNat k); tMul z (oddSeries true (tMul z z) 95 0)

/-- π by Machin's formula. -/
def fvPi : Fval := tAdd (tMul (fvNat 16) (fvAtanInv 5)) (fvNeg (tMul (fvNat 4) (fvAtanInv 239)))

/-- Horner sum of r^i / i! from i = j on, `n` terms. -/
def expSeries (r : Fval) : Nat → Nat → Fval
  | 0, _ => fvOne
  | n + 1, j => tAdd fvOne (tMul (tDiv r (fvNat j)) (expSeries r n (j + 1)))

/-- The nearest integer of a finite value. -/
def fvNearest : Fval → Int
  | .fin n m e => fvToInt n m e
  | _ => 0

/-- An integer as a value. -/
def fvInt (v : Int) : Fval := .fin (decide (v < 0)) v.natAbs 0

/-- Compare a finite value with an integer: is it above? -/
def fvAbove (v : Fval) (k : Int) : Bool :=
  match fvAdd v (fvInt (-k)) with
  | .fin n m _ => !n && decide (m ≠ 0)
  | .inf n => !n
  | .nan => false

/-- e^v; arguments beyond ±300 stand for ±300, where every function below has reached its limit in FP32. -/
def fvExp (v : Fval) : Fval :=
  let v := if fvAbove v 300 then fvInt 300 else if fvAbove v (-300) then v else fvInt (-300)
  let k := fvNearest (tDiv v ln2)
  let r := tAdd v (fvNeg (tMul (fvInt k) ln2))
  fvMul (expSeries r 90 1) (.fin false 1 k)

/-- 2^v, exact where v is an integer; arguments beyond ±300 stand for ±300. -/
def fvExp2 (v : Fval) : Fval :=
  let v := if fvAbove v 300 then fvInt 300 else if fvAbove v (-300) then v else fvInt (-300)
  let k := fvNearest v
  fvMul (expSeries (tMul (fvAdd v (fvInt (-k))) ln2) 90 1) (.fin false 1 k)

/-- ln v of a positive finite value. -/
def fvLog : Fval → Fval
  | .fin _ m e =>
    let k := Nat.log2 m
    let f : Fval := .fin false m (-(k : Int))
    let ln := tMul (fvNat 2) (fvAtanh (tDiv (fvAdd f (fvInt (-1))) (fvAdd f fvOne)))
    tAdd (tMul (fvInt (e + (k : Int))) ln2) ln
  | _ => .nan

/-- ln(1 + E) for 0 ≤ E ≤ 1. -/
def fvLog1p (E : Fval) : Fval := tMul (fvNat 2) (fvAtanh (tDiv E (fvAdd (fvNat 2) E)))

/-- The magnitude of a finite value. -/
def fvAbs : Fval → Fval
  | .fin _ m e => .fin false m e
  | .inf _ => .inf false
  | .nan => .nan

/-- Is a finite value negative? -/
def fvIsNeg : Fval → Bool
  | .fin n m _ => n && decide (m ≠ 0)
  | .inf n => n
  | .nan => false

/-- σ(v). -/
def fvSigma (v : Fval) : Fval :=
  let E := fvExp (fvNeg (fvAbs v))
  if fvIsNeg v then tDiv E (tAdd fvOne E) else tDiv fvOne (tAdd fvOne E)

/-- σ(v)(1 − σ(v)). -/
def fvSigma' (v : Fval) : Fval :=
  let E := fvExp (fvNeg (fvAbs v))
  let d := tAdd fvOne E
  tDiv E (tMul d d)

/-- tanh v; the exact value of a tiny argument differs from it by less than the rounding. -/
def fvTanh (v : Fval) : Fval :=
  let E := fvExp (fvNeg (tMul (fvNat 2) (fvAbs v)))
  let t := if fvAbove (tMul (fvAbs v) (.fin false 1 100)) 1 then tDiv (fvAdd fvOne (fvNeg E)) (fvAdd fvOne E) else fvAbs v
  if fvIsNeg v then fvNeg t else t

/-- 1 − tanh² v. -/
def fvTanh' (v : Fval) : Fval :=
  let E := fvExp (fvNeg (tMul (fvNat 2) (fvAbs v)))
  let d := tAdd fvOne E
  tDiv (tMul (fvNat 4) E) (tMul d d)

/-- φ(v), the normal density. -/
def fvDensity (v : Fval) : Fval :=
  tDiv (fvExp (fvNeg (tDiv (tMul v v) (fvNat 2)))) (fvSqrt (tMul (fvNat 2) fvPi))

/-- Σ v^(2j) / (1·3···(2j+1)), `n` terms from factor 2j+1 on. -/
def cdfSeries (v2 : Fval) : Nat → Nat → Fval
  | 0, _ => fvOne
  | n + 1, j => tAdd fvOne (tMul (tDiv v2 (fvNat (2 * j + 1))) (cdfSeries v2 n (j + 1)))

/-- Φ(v), the normal distribution function, for |v| ≤ 20; beyond, its limits. -/
def fvCdf (v : Fval) : Fval :=
  if fvAbove v 20 then fvOne
  else if fvAbove (fvNeg v) 20 then .fin false 1 (-300)
  else tAdd (.fin false 1 (-1)) (tMul (fvDensity v) (tMul v (cdfSeries (tMul v v) 700 1)))

/-- The functions of table VE-5 with codes from 0x08 on, to nearest; none for an unlisted code (R181, R182). -/
def actSmooth (code : Nat) (x : W32) : Option W32 :=
  let v := fp32 x
  match v with
  | .nan => some qnan
  | .inf neg =>
    let pInf : W32 := 0x7F800000#32
    let one : W32 := 0x3F800000#32
    match code with
    | 0x08 => some (if neg then 0 else pInf)
    | 0x09 => some (if neg then 0 else pInf)
    | 0x0A => some (if neg then qnan else pInf)
    | 0x0B => some (if neg then 0x80000000#32 else 0)
    | 0x0C => some (if neg then qnan else 0)
    | 0x0D => some (if neg then qnan else pInf)
    | 0x10 => some (if neg then 0xBF800000#32 else one)
    | 0x11 => some (if neg then 0 else one)
    | 0x12 => some (if neg then 0x80000000#32 else pInf)
    | 0x13 => some (if neg then 0x80000000#32 else pInf)
    | 0x14 => some (if neg then 0 else pInf)
    | _ => none
  | .fin neg m _ =>
    match code with
    | 0x08 => some (toFp32 (fvExp v))
    | 0x09 => some (toFp32 (fvExp2 v))
    | 0x0A => some (if m = 0 then 0xFF800000#32 else if neg then qnan else toFp32 (fvLog v))
    | 0x0B => some (toFp32 (fvDiv fvOne v))
    | 0x0C => some (if m = 0 then qnan else frsqrt x)
    | 0x0D => some (fsqrt x)
    | 0x10 => some (if m = 0 then x else toFp32 (fvTanh v))
    | 0x11 => some (toFp32 (fvSigma v))
    | 0x12 => some (if m = 0 then x else toFp32 (fvMul v (fvCdf v)))
    | 0x13 => some (if m = 0 then x else toFp32 (fvMul v (fvSigma v)))
    | 0x14 => some (toFp32 (if fvIsNeg v then fvLog1p (fvExp v) else fvAdd v (fvLog1p (fvExp (fvNeg v)))))
    | _ => none

/-- f′ of table VE-5 for codes from 0x08 on, at `z`, to nearest (R182). DESIGN CHOICE (log entry 233): a result that is 0 by underflow, or the
limit at an infinity, is +0. -/
def dactSmooth (code : Nat) (z : W32) : Option W32 :=
  let v := fp32 z
  match v with
  | .nan => some qnan
  | .inf neg =>
    let one : W32 := 0x3F800000#32
    match code with
    | 0x10 => some 0
    | 0x11 => some 0
    | 0x12 => some (if neg then 0 else one)
    | 0x13 => some (if neg then 0 else one)
    | 0x14 => some (if neg then 0 else one)
    | _ => none
  | .fin .. =>
    match code with
    | 0x10 => some (toFp32 (fvTanh' v))
    | 0x11 => some (toFp32 (fvSigma' v))
    | 0x12 => some (toFp32 (tAdd (fvCdf v) (tMul v (fvDensity v))))
    | 0x13 =>
      let g := fvSigma v
      some (toFp32 (tMul g (tAdd fvOne (tMul v (fvSigma (fvNeg v))))))
    | 0x14 => some (toFp32 (fvSigma v))
    | _ => none

/-- Σ (−1)^i r^(2i) / ((j+1)(j+2))…, the alternating series of sine and cosine, `n` terms from factor j on. -/
def trigSeries (r2 : Fval) : Nat → Nat → Fval
  | 0, _ => fvOne
  | n + 1, j => tAdd fvOne (fvNeg (tMul (tDiv r2 (fvNat (j * (j + 1)))) (trigSeries r2 n (j + 2))))

/-- cos and sin of 2πφ / 2^32 as FP32 values, to nearest (R190). -/
def cosSin (phi : Nat) : W32 × W32 :=
  let q := phi / 2 ^ 30 % 4
  let r := phi % 2 ^ 30
  let a := tMul (tMul fvPi (fvNat r)) (.fin false 1 (-31))
  let a2 := tMul a a
  let c := if r = 0 then fvOne else trigSeries a2 50 1
  let s := if r = 0 then .fin false 0 0 else tMul a (trigSeries a2 50 2)
  let neg := fun (v : Fval) => match v with | .fin _ 0 _ => v | v => fvNeg v
  match q with
  | 0 => (toFp32 c, toFp32 s)
  | 1 => (toFp32 (neg s), toFp32 c)
  | 2 => (toFp32 (neg c), toFp32 (neg s))
  | _ => (toFp32 s, toFp32 (neg c))

end Sys2Proof.Machine
end

