-- ==== Sys2Proof/Machine/Scale.lean ====
section
/-! DEFINITION. Per-tensor scales, amax histories, and the conversion of values into a tensor (R107, R113, R116, R127 to
R133; tables NF-4, NF-6). -/

namespace Sys2Proof.Machine

/-- The fields of a scale word (table NF-4): INIT_EXP, MARGIN, MODE, H. -/
structure ScaleW where
  init : Int
  margin : Nat
  mode : Nat
  h : Nat
  deriving DecidableEq, Repr

/-- Decode a scale word; 0x80 reads as −127 (table NF-4). -/
def scaleW (w : Word) : ScaleW :=
  let r := wfield w 31 24
  { init := if r < 128 then (r : Int) else if r = 128 then -127 else (r : Int) - 256
    margin := wfield w 23 20, mode := wfield w 19 18, h := wfield w 10 0 }

/-- The mode in effect: for FP32, BF16 and BIT tensors modes 2 and 3 act as mode 0 (R127). -/
def scaleMode (t : TensorE) : Nat :=
  let m := (scaleW t.scale).mode
  if (t.fmt = 0 ∨ t.fmt = 1 ∨ t.fmt = 8) ∧ 2 ≤ m then 0 else m

/-- Does a tensor keep an amax history (R128)? -/
def hasHistory (t : TensorE) : Bool := decide (2 ≤ scaleMode t)

/-- An invalid history entry (R128). -/
def HistE.empty : HistE := ⟨0, false, false, false, 0, 0⟩

/-- Slot `k mod H` of a tensor's history (R128). -/
def histAt (h : Tbl (Tbl HistE)) (t : TensorE) (k : Nat) : HistE :=
  tget HistE.empty (tget [] h t.id) (k % max 1 (scaleW t.scale).h)

/-! ### Where histories stand (R128, R131; tables NF-6, CM-2) -/

/-- The eight bytes of an entry (table NF-6). -/
def histBytes (e : HistE) : List Byte :=
  leBytes 8 (place e.stepLow 63 51 + place (b2n e.valid) 50 50 + place (b2n e.inf) 49 49 + place (b2n e.nan) 48 48 + place e.sat 47 32
    + e.amax.toNat)

/-- The entry that eight bytes spell (table NF-6). -/
def parseHist (bs : List Byte) : HistE :=
  let w := leNat bs
  ⟨field w 63 51, field w 50 50 == 1, field w 49 49 == 1, field w 48 48 == 1, field w 47 32, BitVec.ofNat 32 w⟩

/-- The histories region of a cellar die's SRAM (table CM-2). -/
def histRegion : Nat := 0x1000000

/-- Entries that the region holds (table CM-2). -/
def histRoom : Nat := 524288

/-- The cellar die that holds the first block of a tensor (R128). -/
def histDie (s : State) (p : PartIx) (t : TensorE) : CellarIx := cellarOf s (logicalAddr s p t.base / 4096)

/-- The entry of a die's region from which on no history stands. -/
def histUsed (s : State) (c : CellarIx) : Nat :=
  ((ixs 8).flatMap (fun p => (s.parts[p]).hists.map (fun h =>
    match h.place with | .sram e => if h.die = c then e + h.len else 0 | .reserved _ => 0))).foldl max 0

/-- The byte of a partition's overflow from which on no history stands. -/
def overflowUsed (s : State) (p : PartIx) : Nat :=
  ((s.parts[p]).hists.map (fun h => match h.place with | .sram _ => 0 | .reserved o => o + 8 * h.len)).foldl max 0

/-- The data-space offset at which a partition's reserved area begins (R434). -/
def reservedBase (s : State) (p : PartIx) : Nat :=
  match (s.parts[p]).allot with | none => 0 | some a => a.base + a.data + a.pool + a.vest + a.mirror

/-- Read slot `k` of a history where it stands. -/
def getHist (s : State) (p : PartIx) (h : HistAt) (k : Nat) : HistE :=
  parseHist (match h.place with
    | .sram e => tgetMany 0 (s.cellars[h.die]).sram (histRegion + 8 * (e + k)) 8
    | .reserved o => hbmBytes s (reservedBase s p + o + 8 * k) 8)

/-- Write slot `k` of a history where it stands. -/
def putHist (s : State) (p : PartIx) (h : HistAt) (k : Nat) (e : HistE) : State :=
  match h.place with
  | .sram b => modCellar s h.die (fun x => { x with sram := tsetMany 0 x.sram (histRegion + 8 * (b + k)) (histBytes e) })
  | .reserved o =>
    let a := reservedBase s p + o + 8 * k
    writeBlock s (a / 4096) ((histBytes e).zipIdx.map (fun x => (a % 4096 + x.2, x.1))) false 0 0

/-- The histories of a partition as tables of their slots by tensor. -/
def histOf (s : State) (p : PartIx) : Tbl (Tbl HistE) :=
  (s.parts[p]).hists.foldl (fun t h =>
    tset [] t h.id ((List.range h.len).foldl (fun u k => tset HistE.empty u k (getHist s p h k)) [])) []

/-- Load histories that were saved elsewhere into the partition's (R128, R322). -/
def loadHists (s : State) (p : PartIx) (t : Tbl (Tbl HistE)) : State :=
  each (s.parts[p]).hists s (fun s h => each (List.range h.len) s (fun s k => putHist s p h k (tget HistE.empty (tget [] t h.id) k)))

/-- Entries of a die's region in which histories stand. -/
def histTotal (s : State) (c : CellarIx) : Nat :=
  ((ixs 8).flatMap (fun p => (s.parts[p]).hists.map (fun h =>
    match h.place with | .sram _ => if h.die = c then h.len else 0 | .reserved _ => 0))).sum

/-- Pack the histories of a die's region from its start on. -/
def packHists (s : State) (c : CellarIx) : State :=
  let hs := (ixs 8).flatMap (fun p => (s.parts[p]).hists.filterMap (fun h =>
    match h.place with
    | .sram _ => if h.die = c then some (p, h, (List.range h.len).map (fun k => (k, getHist s p h k))) else none
    | .reserved _ => none))
  (hs.foldl (fun (u : State × Nat) x =>
    let g : HistAt := { x.2.1 with place := .sram u.2 }
    let s := modPart u.1 x.1 (fun q => { q with hists := q.hists.map (fun y => if y.id = g.id then g else y) })
    (each x.2.2 s (fun s e => putHist s x.1 g e.1 e.2), u.2 + g.len)) (s, 0)).1

/-- Only what the histories of a die exceed its region by is held elsewhere (R131): where `n` more entries fit in number and
not behind the last one, the region is packed first (log entry 193). -/
def makeRoom (s : State) (c : CellarIx) (n : Nat) : State :=
  if histUsed s c + n ≤ histRoom ∨ histRoom < histTotal s c + n then s else packHists s c

/-- Where a new history of `n` entries goes on a die: into its SRAM while there is room, else into the partition's reserved area (R131).
DESIGN CHOICE (log entry 193): histories are placed whole and in the order of the tensor table, each behind the last one that stands. -/
def histPlace (s : State) (p : PartIx) (c : CellarIx) (n : Nat) : HistPlace :=
  if histUsed s c + n ≤ histRoom then .sram (histUsed s c) else .reserved (overflowUsed s p)

/-- LOAD_PLAN creates the history of every tensor in mode 2 or 3, all entries invalid (R128). -/
def createHists (s : State) (p : PartIx) (im : Image) : State :=
  each (im.tensors.filter hasHistory) (modPart s p (fun q => { q with hists := [] })) (fun s t =>
    let n := (scaleW t.scale).h
    let s := makeRoom s (histDie s p t) n
    let h : HistAt := ⟨t.id, histDie s p t, n, histPlace s p (histDie s p t) n⟩
    let s := modPart s p (fun q => { q with hists := q.hists ++ [h] })
    each (List.range n) s (fun s k => putHist s p h k HistE.empty))

/-- At a commit the histories of the reserved area move into cellar SRAM, those for which it has room (R131; log entry 193). -/
def moveHists (s : State) (p : PartIx) : State :=
  each (s.parts[p]).hists s (fun s h =>
    match h.place with
    | .sram _ => s
    | .reserved _ =>
      let s := makeRoom s h.die h.len
      if histUsed s h.die + h.len ≤ histRoom then
        let g : HistAt := { h with place := .sram (histUsed s h.die) }
        let es := (List.range h.len).map (fun k => (k, getHist s p h k))
        let s := modPart s p (fun q => { q with hists := q.hists.map (fun x => if x = h then g else x) })
        each es s (fun s e => putHist s p g e.1 e.2)
      else s)

/-! ### Scale exponents -/

/-- Does an entry record step `k` (R132)? -/
def records (e : HistE) (k : Nat) : Bool := e.valid && decide (e.stepLow = k % 8192)

/-- The function scale_exp of R132. DESIGN CHOICE (log entry 191): where k < j, k − j is taken modulo 2⁶⁴. -/
def scaleExp (h : Tbl (Tbl HistE)) (t : TensorE) (k : Nat) : Int :=
  let w := scaleW t.scale
  let back := fun (j : Nat) => (k + 2 ^ 64 - j) % 2 ^ 64
  match scaleMode t with
  | 0 => 0
  | 1 => w.init
  | m =>
    let es := ((List.range w.h).map (fun j => (histAt h t (back (j + 1)), back (j + 1)))).filter (fun e => records e.1 e.2)
    let a := (es.map (fun e => e.1.amax.toNat)).foldl max 0
    if a = 0 then w.init
    else
      let x := match decodeFp .fp32 a with
        | .fin _ mt e => fmtP ((fmtOf t.fmt).getD .fp32) - ceilLog2 mt e - (w.margin : Int)
        | _ => w.init
      let last := histAt h t (back 1)
      let x := if m = 2 ∧ records last (back 1) ∧ 0 < last.sat then x - 1 else x
      max (-127) (min 127 x)

/-- The exponents in force of every tensor for step `k`, those that are not 0 (R133). -/
def scalesFor (im : Image) (h : Tbl (Tbl HistE)) (k : Nat) : Tbl Int :=
  im.tensors.foldl (fun t e => tset 0 t e.id (scaleExp h e k)) []

/-- Compute the exponents of a partition for its current step (R133). -/
def setScales (s : State) (p : PartIx) : State :=
  let h := histOf s p
  modPart s p (fun q => match q.image with | none => q | some im => { q with exps := scalesFor im h q.stepNo.toNat })

/-- What one converted value adds to the shadow record of its tensor (R113, R129, table NF-6): AMAX of |x| before scaling
with an infinity as 0x7F7F_FFFF and NaNs left out, the flags, the saturation count. -/
def noteValue (r : HistE) (x : W32) (sat : Bool) : HistE :=
  let mag := x.toNat % 2 ^ 31
  let isNan := decide (0x7F800000 < mag)
  let isInf := mag == 0x7F800000
  let a := if isNan then 0 else if isInf then 0x7F7FFFFF else mag
  { r with inf := r.inf || isInf, nan := r.nan || isNan, sat := satAdd r.sat (b2n sat) 0xFFFF
           amax := BitVec.ofNat 32 (max r.amax.toNat a) }

/-- Record conversions into a tensor in a history mode (R129). -/
def recordAmax (s : State) (p : PartIx) (t : TensorE) (xs : List (W32 × Bool)) : State :=
  if hasHistory t then
    modPart s p (fun q => { q with shadowRec := tput q.shadowRec t.id (xs.foldl (fun r x => noteValue r x.1 x.2) (tget HistE.empty q.shadowRec t.id)) })
  else s

/-- Write the shadow records of step `k` into their slots at the flip; a step that converted nothing into a tensor records
AMAX 0 (R129 to R131). -/
def flipHistories (s : State) (p : PartIx) (k : Nat) : State :=
  let recs := (s.parts[p]).shadowRec
  let s := each (s.parts[p]).hists s (fun s h =>
    putHist s p h (k % max 1 h.len) { tget HistE.empty recs h.id with valid := true, stepLow := k % 8192 })
  moveHists (modPart s p (fun q => { q with shadowRec := [] })) p

/-- The random bits of an element of a tensor when stochastic rounding is selected (R114 to R116). -/
def srFor (s : State) (p : PartIx) (tensor : Nat) (index : Word) : Nat :=
  srBits (match (s.parts[p]).image with | some im => im.seed | none => 0) (word tensor) (s.parts[p]).stepNo index

/-- The converter of R127: x × 2^e as an FP32 multiply, then R111. -/
def convScaled (f : Fmt) (e : Int) (sr : Option Nat) (x : W32) : Conv := convert f sr (fp32 (fscale x e))

/-- Read `n` bits at a bit offset of a byte string read little-endian (R107). -/
def bitsAt (byte : Nat → Byte) (bit n : Nat) : Nat :=
  field (leNat ((List.range (n / 8 + 2)).map (fun j => byte (bit / 8 + j)))) (bit % 8 + n - 1) (bit % 8)

/-- The bytes that change when an `n`-bit element is written at a bit offset, as (byte place, new byte) (R107). -/
def putBits (byte : Nat → Byte) (bit n v : Nat) : List (Nat × Byte) :=
  let k := (bit % 8 + n + 7) / 8
  let old := leNat ((List.range k).map (fun j => byte (bit / 8 + j)))
  let cleared := old - (field old (bit % 8 + n - 1) (bit % 8)) <<< (bit % 8)
  (List.range k).zip (leBytes k (cleared + (v % 2 ^ n) <<< (bit % 8))) |>.map (fun e => (bit / 8 + e.1, e.2))

end Sys2Proof.Machine
end

