-- ==== Sys2Proof/Machine/Update.lean ====
section
/-! DEFINITION. Cellar engines: granules, the reduction engine, the fused update unit, versions of parameter and moment
blocks (R266 to R296; tables UP-1 to UP-3). -/

namespace Sys2Proof.Machine

/-! ### Granules (R266 to R268) -/

/-- Width class of an update operand's format (R267); 0 for a format that is no update operand. -/
def widthClass (t : TensorE) : Nat :=
  match fmtOf t.fmt with
  | some .fp32 => 1
  | some .bf16 => 2
  | some .int8 => 4
  | some .e4m3 => 4
  | some .e5m2 => 4
  | some .e2m1 => if t.bx then 0 else 8
  | _ => 0

/-- Block of the tensor, first byte in the block, and byte length of granule `c` (R267). -/
def granulePlace (t : TensorE) (c : Nat) : Nat × Nat × Nat :=
  let r := max 1 (widthClass t)
  (24 * (c / (24 * r)) + c % 24, c / 24 % r * (4096 / r), 4096 / r)

/-- The stack that holds granule `c` of a tensor (R268). -/
def granuleStack (s : State) (p : PartIx) (t : TensorE) (c : Nat) : Nat := (logicalAddr s p t.base / 4096 + c) % nStacks s

/-- Does a cellar die serve granule `c` of a tensor? -/
def serves (s : State) (c : CellarIx) (p : PartIx) (t : TensorE) (g : Nat) : Bool := deputyOf s (granuleStack s p t g) == some c

/-- Elements of a tensor (R36). -/
def elements (t : TensorE) : Nat := t.shape.foldl (· * ·) 1

/-- The raw elements of a granule in a byte string (R107). -/
def rawsOf (f : Fmt) (bs : List Byte) : List Nat :=
  let byte := fun i => bs.getD i 0
  (List.range (bs.length * 8 / fmtBits f)).map (fun j => bitsAt byte (j * fmtBits f) (fmtBits f))

/-- The bytes of raw elements (R107). -/
def packRaws (f : Fmt) (raws : List Nat) : List Byte :=
  leBytes (ceilDiv (raws.length * fmtBits f) 8) (raws.zipIdx.foldl (fun a r => a + (r.1 % 2 ^ fmtBits f) <<< (r.2 * fmtBits f)) 0)

/-- The bytes of granule `g` of a tensor, as a reader that names no version reads them (R284). -/
def granuleBytes (s : State) (p : PartIx) (t : TensorE) (g : Nat) : List Byte :=
  let (blk, o, len) := granulePlace t g
  hbmBytes s (physAddr s p (t.base + 4096 * blk) + o) len

/-- The physical block of granule `g` that a reader which names no version reads (R284). -/
def granuleBlock (s : State) (p : PartIx) (t : TensorE) (g : Nat) : Nat := physAddr s p (t.base + 4096 * (granulePlace t g).1) / 4096

/-- The failures of an engine's read of the block at a place of the partition, which it reads whole for a tensor: CRC if a tracker is free, FOLD
and, for a parameter or moment tensor, VERSION (R250, R251, R280); `err` is what the hardware does to the read. -/
def blockCheck (s : State) (p : PartIx) (t : TensorE) (off : Nat) (err : ReadErr) : List TagCause :=
  let b := physAddr s p off / 4096
  tagCheck s b err (trackerFree s (cellarOf s b)) true (versioned t) (foldOf t.id) (expVersion s p off)

/-- The failures of an engine's read of granule `g`'s block. -/
def granuleCheck (s : State) (p : PartIx) (t : TensorE) (g : Nat) (err : ReadErr) : List TagCause :=
  blockCheck s p t (t.base + 4096 * (granulePlace t g).1) err

/-- An engine reads bytes of a block: earlier requests for the block are performed first (R256), a cured mismatch is counted, and the answer
gives what failed (R252). -/
def engineRead (s : State) (p : PartIx) (t : TensorE) (off len : Nat) (err : ReadErr) : State × List TagCause :=
  let b := physAddr s p off / 4096
  let s := settleBlock s (cellarOf s b) b
  let ks := blockCheck s p t off err
  (countG (if err = .cured ∧ ks = [] then cured s (cellarOf s b) else s) 3 len, ks)

/-- An engine reads granule `g`. -/
def readGranule (s : State) (p : PartIx) (t : TensorE) (g : Nat) (err : ReadErr) : State × List TagCause :=
  engineRead s p t (t.base + 4096 * (granulePlace t g).1) (granulePlace t g).2.2 err

/-- A window read of bytes of one block at a data-space offset, after the earlier requests for the block (R23, R250, R256, R263): a stack that is
down answers all ones. DESIGN CHOICE (log entry 240): a burst that the stack reports uncorrected gives bytes that no rule fixes, and the record
names the link of the compute die. -/
def windowBytes (s : State) (a len : Nat) : State × List Byte :=
  let b := a / 4096
  let c := cellarOf s b
  if stackDown s c then (accessError s 2 (hbmControl a), List.replicate len 0xFF)
  else
    let s := countG (settleBlock s c b) 3 len
    if Config.readErr s.freeIx = .uncorr then
      freeBytes (readEvents (logTagFail (bump s) c [.hbmUncorr] (dieOfCellar s c.val).val b) c b [.hbmUncorr]) len
    else (bump s, hbmBytes s a len)

/-- A window write of bytes of one block (R249, R251). One whose parity error persists stores nothing (R238; log entry 240). -/
def windowStore (s : State) (a : Nat) (bs : List Byte) (version fold : Nat) : State :=
  let b := a / 4096
  let c := cellarOf s b
  let s := countG s 4 bs.length
  if Config.readErr s.freeIx = .uncorr then
    readEvents (logTagFail (bump s) c [.hbmUncorr] (dieOfCellar s c.val).val b) c b [.hbmUncorr]
  else looseWrite (bump s) b ((bs.zipIdx).map (fun e => (a % 4096 + e.2, e.1))) version fold

/-! ### The update unit's and reduction engine's state -/

/-- Is the die's engine stopped by its stack's temperature (R294)? -/
def updStopped (x : Cellar) : Bool := decide (2 ≤ x.band)

/-- Has the reduction engine of a die work: an open sum, or something parked (table UP-5)? -/
def redBusy (u : Upd) : Bool := !u.sums.isEmpty || !u.parked.isEmpty

/-- The tensor whose granules a binding counts by: that of its first bound slot (R268, R276). -/
def bindTensor (im : Image) (e : BindingE) : Option TensorE := (e.slots.filterMap (tensorById im)).head?

/-- Has the update unit of a die work: an active binding with a granule left (table UP-5)? -/
def unitBusy (s : State) (c : CellarIx) : Bool :=
  (s.cellars[c]).upd.binds.any (fun b => b.active &&
    (match (s.parts[b.part]).image with
     | none => false
     | some im =>
       match im.bindings[b.binding]? with
       | none => false
       | some e =>
         match bindTensor im e with
         | none => false
         | some t => (List.range (e.elements / 1024)).any (fun g => serves s c b.part t g && !b.done.contains g)))

/-- Does the UPD block of a die run (tables UP-4, UP-5)? Once it does not, held class B fields apply (R11). -/
def updBusy (s : State) (c : CellarIx) : Bool := redBusy (s.cellars[c]).upd || unitBusy s c

/-- Apply the held fields of UPD_CTRL once the engines have no work (table UP-4). -/
def updBoundary (s : State) (c : CellarIx) : State :=
  if updBusy s c then s
  else
    modUpd s c (fun u =>
      { u with reportMs := u.reportHeld.getD u.reportMs, reportHeld := none
               reserve := u.reserveHeld.getD u.reserve, reserveHeld := none })

/-- The partition that owns a data-space block. -/
def blockOwner (s : State) (b : Nat) : Option PartIx :=
  (ixs 8).find? (fun p => match (s.parts[p]).allot with | none => false | some a => decide (a.base ≤ 4096 * b ∧ 4096 * b < a.base + a.size))

/-- A block is lost: it is listed for REPAIR, and the partition that owns it reports it (R243, R296). -/
def reportLost (s : State) (c : CellarIx) (b : Nat) : State :=
  let s := modCellar s c (fun x => { x with lostBlocks := addOnce b x.lostBlocks })
  match blockOwner s b with
  | some p => partReport s p 0x0B [1, 4096 * b]
  | none => devReport s 0x0B [1, 4096 * b]

/-- The step of a partition fails as class H for a failure of a cellar engine: the partition stops and FAIL is sent
(R296, R314). -/
def cellarFault (s : State) (p : PartIx) : State := failStep (beginStop s p) p true (Config.causeCode 2).toNat

/-! ### Reduction (R269 to R274) -/

/-- The reduction entry of an identifier. -/
def reductionOf (s : State) (p : PartIx) (r : Nat) : Option ReductionE :=
  (s.parts[p]).image.bind (fun im => im.reductions.find? (fun e => e.id == r))

/-- The values of a contribution: decoded exactly, then × 2^−e as an FP32 multiply; an FP32 element with e = 0 passes as it
stands (R270, R271; log entry 60). -/
def contribVals (fmt : Nat) (e : Int) (raws : List Nat) : List W32 :=
  let f := (fmtOf fmt).getD .fp32
  if f = .fp32 ∧ e = 0 then raws.map (BitVec.ofNat 32) else raws.map (fun r => fscale (toFp32 (decodeElem f r)) (-e))

/-- Free slots of the reduction half of the staging region (R273). -/
def freeSlots (u : Upd) : Nat := 2048 - u.sums.length - u.parked.length

/-- Write a completed sum as a full block of TARGET: VERSION is the step number, FOLD that of TARGET (R272). -/
def writeTarget (s : State) (p : PartIx) (red : Nat) (t : TensorE) (g : Nat) (sum : List W32) : State :=
  let b := physAddr s p (t.base + 4096 * g) / 4096
  let bytes := sum.flatMap (fun v => leBytes 4 v.toNat)
  let s := dumpSee s p t.id (.reduction red) (cellarOf s b)
  let s := engineWrite (settleBlock (countG s 4 4096) (cellarOf s b) b) b bytes ((s.parts[p]).stepNo.toNat % 65536) (foldOf t.id)
  dumpRange s (.reduction red) (cellarOf s b) (4096 * g) bytes

/-- Add parked contributions while the rank at NEXT has one, `fuel` times at most (R271). -/
def drainParked (u : Upd) (p : PartIx) (step : Word) (e : ReductionE) (g : Nat) : Nat → Upd
  | 0 => u
  | fuel + 1 =>
    match u.sums.find? (fun x => decide (x.part = p ∧ x.red = e.id ∧ x.granule = g)) with
    | none => u
    | some x =>
      match u.parked.find? (fun y => decide (y.part = p ∧ y.red = e.id ∧ y.granule = g ∧ e.ranks[x.next]? = some y.rank ∧ y.step = step)) with
      | none => u
      | some y =>
        let x' : RSum := { x with next := x.next + 1, sum := x.sum.zipWith fadd y.vals }
        drainParked { u with sums := u.sums.map (fun z => if z = x then x' else z), parked := u.parked.erase y } p step e g fuel

/-- NEXT of a granule (R271): a written granule has taken every contribution. -/
def nextPos (u : Upd) (p : PartIx) (e : ReductionE) (g : Nat) : Nat :=
  if u.written.contains (p, e.id, g) then e.ranks.length
  else match u.sums.find? (fun x => decide (x.part = p ∧ x.red = e.id ∧ x.granule = g)) with
    | some x => x.next
    | none => 0

/-- Has every target granule of a reduction been written (R293)? -/
def reductionDone (s : State) (p : PartIx) (e : ReductionE) : Bool :=
  match tensorOf s p e.target with
  | none => true
  | some t => (List.range (elements t / 1024)).all (fun g =>
      match deputyOf s (granuleStack s p t g) with
      | none => false
      | some c => (s.cellars[c]).upd.written.contains (p, e.id, g))

/-- When the sum of a granule is complete, it is written and its slot is free (R271, R272). -/
def closeSum (s : State) (c : CellarIx) (p : PartIx) (e : ReductionE) (g : Nat) : State :=
  match (s.cellars[c]).upd.sums.find? (fun x => decide (x.part = p ∧ x.red = e.id ∧ x.granule = g)) with
  | none => s
  | some x =>
    if x.next < e.ranks.length then s
    else
      match tensorOf s p e.target with
      | none => s
      | some t =>
        let s := modUpd (writeTarget s p e.id t g x.sum) c (fun u =>
          { u with sums := u.sums.erase x, written := u.written ++ [(p, e.id, g)] })
        let s := if reductionDone s p e then dumpDone s (.reduction e.id) else s
        let loc := match tensorOf s p e.loc with | some l => (rawsOf .fp32 (granuleBytes s p l g)).map (BitVec.ofNat 32) | none => []
        updBoundary (sampleReduction (countP s p 13 1) c p e.id g loc x.sum) c

/-- What a staging or lane error of an engine's work on a granule does (R296): a corrected error is counted; an uncorrectable one or a lane parity
error sets its bit and fails the step. None: the engine goes on, in the state given. -/
def stagingFault (s : State) (c : CellarIx) (p : PartIx) (err : Staging) : State × Bool :=
  let s := if err.corr then modUpd s c (fun u => { u with stagingCorr := true, corrCount := satAdd u.corrCount 1 0xFFFF }) else s
  match err.fault with
  | none => (s, false)
  | some f => (cellarFault (modUpd s c (fun u => if f = 0 then { u with stagingUnc := true } else { u with lanePar := true })) p, true)

/-- An engine's read has failed: the record of the die that holds the block, the lost block, and the failed step (R250, R252, R296); `source` is 2
for the update unit, 3 for the reduction engine. -/
def engineReadFails (s : State) (p : PartIx) (source b : Nat) (ks : List TagCause) : State :=
  let c := cellarOf s b
  cellarFault (reportLost (readEvents (logTagFail s c ks source b) c b ks) c b) p

/-- Park a contribution of a step, or refuse it (R271, R273). -/
def park (s : State) (c : CellarIx) (y : Parked) : State × Bool :=
  let u := (s.cellars[c]).upd
  if u.reserve < freeSlots u then (modUpd s c (fun u => { u with parked := u.parked ++ [y] }), true)
  else (modUpd s c (fun u => { u with refused := satAdd u.refused 1 0xFFFF }), false)

/-- A contribution from the rank at list position `i` reaches the engine of a die in its step: summed, parked, discarded as DUP, or
refused (R271, R273, R294). The answer says whether it was taken. DESIGN CHOICE (log entry 227): one below NEXT is discarded as DUP also while
the engine is stopped. -/
def contribute (s : State) (c : CellarIx) (p : PartIx) (e : ReductionE) (g i : Nat) (vals : List W32) : State × Bool :=
  let x := s.cellars[c]
  let u := x.upd
  let step := (s.parts[p]).stepNo
  let nxt := nextPos u p e g
  if i < nxt then (modUpd s c (fun u => { u with dup := satAdd u.dup 1 0xFFFF }), true)
  else if updStopped x || decide (nxt < i) then park s c ⟨p, e.id, g, e.ranks.getD i 0, step, vals⟩
  else if i = 0 ∧ freeSlots u = 0 then (modUpd s c (fun u => { u with refused := satAdd u.refused 1 0xFFFF }), false)
  else
    let s := modUpd s c (fun u =>
      let u := if i = 0 then { u with sums := u.sums ++ [⟨p, e.id, g, 1, vals⟩] }
        else { u with sums := u.sums.map (fun z => if z.part = p ∧ z.red = e.id ∧ z.granule = g then { z with next := z.next + 1, sum := z.sum.zipWith fadd vals } else z) }
      drainParked u p step e g e.ranks.length)
    (closeSum s c p e g, true)

/-- Does a reduction list the rank and hold the granule (R274)? -/
def listed (s : State) (p : PartIx) (e : ReductionE) (rank g : Nat) : Bool :=
  e.ranks.contains rank && (match tensorOf s p e.target with | some t => decide (1024 * g < elements t) | none => false)

/-- Contributions that the vestibule holds for a SOLO step are delivered to the engine in list order (R323): those of one
granule, while the engine runs, admits them, and the next in the list is a captured one. -/
def soloFeed (s : State) (p : PartIx) (e : ReductionE) (g : Nat) : Nat → State
  | 0 => s
  | fuel + 1 =>
    match tensorOf s p e.target with
    | none => s
    | some t =>
      match deputyOf s (granuleStack s p t g) with
      | none => s
      | some c =>
        let i := nextPos (s.cellars[c]).upd p e g
        let hit := (s.parts[p]).vest.findSome? (fun v =>
          if v.step = (s.parts[p]).stepNo then
            match v.r with
            | .contrib r gr rank fmt x raws => if r = e.id ∧ gr = g ∧ e.ranks[i]? = some rank then some (contribVals fmt x raws) else none
            | _ => none
          else none)
        match hit with
        | none => s
        | some vals =>
          if updStopped s.cellars[c] then s
          else
            match contribute s c p e g i vals with
            | (s, true) => soloFeed s p e g fuel
            | (s, false) => s

/-- The reductions of a plan with the granules of their targets. -/
def redGranules (im : Image) : List (ReductionE × Nat) :=
  im.reductions.flatMap (fun e =>
    match tensorById im e.target with
    | none => []
    | some t => (List.range (elements t / 1024)).map (fun g => (e, g)))

/-- Feed every granule of every reduction of a SOLO step; a sum that closes frees a slot for those refused before it, so that the round is made
once for each granule (R273, R323). -/
def soloFeedAll (s : State) (p : PartIx) : State :=
  match (s.parts[p]).image with
  | none => s
  | some im =>
    let gs := redGranules im
    each gs s (fun s _ => each gs s (fun s k => soloFeed s p k.1 k.2 k.1.ranks.length))

/-- Parked contributions of a step are taken up: when the step begins, or when the engine resumes; those that no list of the plan has are discarded as
UNLISTED (R274, R294). -/
def resumeParked (s : State) (c : CellarIx) (p : PartIx) : State :=
  if updStopped s.cellars[c] then s
  else
    let step := (s.parts[p]).stepNo
    let mine := (s.cellars[c]).upd.parked.filter (fun y => decide (y.part = p ∧ y.step = step))
    let bad := mine.filter (fun y => match reductionOf s p y.red with | none => true | some e => !listed s p e y.rank y.granule)
    let s := modUpd s c (fun u => { u with unlisted := satAdd u.unlisted bad.length 0xFFFF, parked := u.parked.filter (fun y => !bad.contains y) })
    let keys := (((s.cellars[c]).upd.parked.filter (fun y => decide (y.part = p ∧ y.step = step))).map (fun y => (y.red, y.granule))).eraseDups
    let s := each keys s (fun s k =>
      match reductionOf s p k.1 with
      | none => s
      | some e =>
        let s := modUpd s c (fun u =>
          match u.parked.find? (fun y => decide (y.part = p ∧ y.red = k.1 ∧ y.granule = k.2 ∧ e.ranks.head? = some y.rank ∧ y.step = step)) with
          | some y =>
            if nextPos u p e k.2 = 0 then { u with sums := u.sums ++ [⟨p, e.id, k.2, 1, y.vals⟩], parked := u.parked.erase y } else u
          | none => u)
        closeSum (modUpd s c (fun u => drainParked u p step e k.2 e.ranks.length)) c p e k.2)
    updBoundary (if (s.parts[p]).step = .solo then soloFeedAll s p else s) c

/-- LOCAL_CONTRIBUTION: once LOCAL_BARRIER is complete, a granule of LOCAL is read and contributed at LOCAL_POS; while it
cannot be admitted it waits (R270, R271, R273). A failed tag check or an error of staging or lanes stops the engine and fails the step (R296). -/
def execLocalContribution (c : CellarIx) (p : PartIx) (red : Nat) (x : GranuleRead) (s : State) : Res :=
  let granule := x.granule
  if asleep s (cellarDom c) then .next s else
  let q := s.parts[p]
  match reductionOf s p red with
  | none => .next s
  | some e =>
    match tensorOf s p e.loc, tensorOf s p e.target with
    | some l, some t =>
      if !(decide (q.step = .run ∨ q.step = .solo)) || !serves s c p t granule || decide (elements t ≤ 1024 * granule)
          || (s.cellars[c]).upd.localRead.contains (p, red, granule)
          || !barrierDone s (dieOfCellar s c.val) p e.locBarrier then .next s
      else
        match stagingFault s c p x.err.staging with
        | (s, true) => .next s
        | (s, false) =>
          match readGranule s p l granule (x.err.reads.headD .ok) with
          | (s, []) =>
            let vals := (rawsOf .fp32 (granuleBytes s p l granule)).map (BitVec.ofNat 32)
            match contribute s c p e granule e.locPos vals with
            | (s, true) =>
              let s := modUpd s c (fun u => { u with localRead := u.localRead ++ [(p, red, granule)] })
              .next (updBoundary (if (s.parts[p]).step = .solo then soloFeedAll s p else s) c)
            | (s', false) => .next s'
          | (s, ks) => .next (engineReadFails s p 3 (granuleBlock s p l granule) ks)
    | _, _ => .next s

/-! ### Versions (R282 to R291) -/

/-- Open the SHADOW of a logical block: a copy of CURRENT in a free block, with the next version, after the earlier requests for CURRENT (R256,
R283). -/
def openShadow (s : State) (p : PartIx) (b : Nat) : Option State :=
  let e := mapOf s p b
  match e.shadow with
  | some _ => some s
  | none =>
    match freeFor s p b with
    | none => none
    | some x =>
      let s := settleBlock s (cellarOf s e.cur.1) e.cur.1
      let bytes := hbmBytes s (4096 * e.cur.1) 4096
      let v := ((s.parts[p]).version.toNat + 1) % 65536
      let s := engineWrite (countG (countG s 3 4096) 4 4096) x bytes v (wfield (tagOf s e.cur.1) 15 0)
      some (setMap s p b { e with shadow := some (x, v) })

/-- The flip: every SHADOW becomes CURRENT; the former CURRENT is RETAINED while a retention is in force whose version it stands
for, else freed for the sweep (R286; log entry 70). -/
def flipVersions (s : State) (p : PartIx) : State :=
  each (mapped s p) s (fun s e =>
    match e.2.shadow with
    | none => s
    | some x =>
      let keep := keepsOld s p e.2
      let s := if keep then s else { s with freed := s.freed ++ [(p, e.2.cur.1)] }
      setMap s p e.1 ⟨x, none, if keep then some e.2.cur else e.2.retained⟩)

/-- Free every SHADOW of a partition, for the sweep (R287). -/
def freeShadows (s : State) (p : PartIx) : State :=
  each (mapped s p) s (fun s e =>
    match e.2.shadow with
    | none => s
    | some x => setMap { s with freed := s.freed ++ [(p, x.1)] } p e.1 { e.2 with shadow := none })

/-- Free every RETAINED block of a partition when its retention ends (R288). -/
def freeRetained (s : State) (p : PartIx) : State :=
  let s := each (mapped s p) s (fun s e =>
    match e.2.retained with
    | none => s
    | some x => setMap { s with freed := s.freed ++ [(p, x.1)] } p e.1 { e.2 with retained := none })
  modPart s p (fun q => { q with retention := none })

/-- SWEEP_ENTRY: the sweep of a stack passes one entry, and its freed block rejoins the pool (R286). -/
def execSweepEntry (c : CellarIx) (s : State) : Res :=
  if asleep s (cellarDom c) then .next s else
  match s.freed.find? (fun e => decide (e.2 % nStacks s = c.val)) with
  | none => .next s
  | some e => .next { s with freed := s.freed.erase e }

/-! ### The update unit (R275 to R280) -/

/-- The progress record of a binding on a die. -/
def bindAt (u : Upd) (p : PartIx) (k : Nat) : BindSt :=
  (u.binds.find? (fun b => decide (b.part = p ∧ b.binding = k))).getD ⟨p, k, false, [], [], [], false, false⟩

/-- Store a progress record. -/
def setBind (u : Upd) (b : BindSt) : Upd := { u with binds := u.binds.filter (fun x => !(decide (x.part = b.part ∧ x.binding = b.binding))) ++ [b] }

/-- The constants of a binding: 16 FP32 values of CONST, or +0 (table UP-2, R277). -/
def constsOf (s : State) (p : PartIx) (e : BindingE) : List W32 :=
  match tensorOf s p e.const with
  | none => List.replicate 16 0
  | some t => (rawsOf .fp32 (hbmBytes s (physAddr s p t.base) 64)).map (BitVec.ofNat 32)

/-- The failures of the read of CONST, 64 bytes of one block: checked on variant S, as a stream's read of part of a block (table CM-5, R277). -/
def constCheck (s : State) (p : PartIx) (e : BindingE) (err : ReadErr) : List TagCause :=
  match tensorOf s p e.const with
  | none => []
  | some t =>
    let chk := !variantG s
    tagCheck s (physAddr s p t.base / 4096) err false chk (chk && versioned t) (foldOf t.id) (expVersion s p t.base)

/-- A binding becomes active on a die, which reads CONST once, after the earlier requests for its block; a read that fails its tag check fails
the step (R252, R256, R277, R296). What the hardware does to the read is a free value. -/
def activateOn (s : State) (c : CellarIx) (p : PartIx) (e : BindingE) (k : Nat) : State :=
  let ready := fun (s : State) (v : List W32) => modUpd s c (fun u => setBind u { bindAt u p k with active := true, consts := v })
  match tensorOf s p e.const with
  | none => ready s (constsOf s p e)
  | some t =>
    let b := physAddr s p t.base / 4096
    let s := countG (settleBlock s (cellarOf s b) b) 3 64
    let err := Config.readErr s.freeIx
    match constCheck s p e err with
    | [] => ready (bump (if err = .cured && !variantG s then cured s (cellarOf s b) else s)) (constsOf s p e)
    | ks => engineReadFails (bump s) p 2 b ks

/-- Bindings that become active now: at the start of the step for TRIGGER 0 and 2, when the barrier completes in the sluice
of the die's compute die for TRIGGER 1 and 3 (R277). -/
def activate (s : State) (p : PartIx) : State :=
  match (s.parts[p]).image with
  | none => s
  | some im =>
    each (ixs 12) s (fun s c =>
      if nStacks s ≤ c.val then s
      else
        each im.bindings.zipIdx s (fun s ek =>
          let (e, k) := ek
          let now := if e.trigger = 0 ∨ e.trigger = 2 then true else barrierDone s (dieOfCellar s c.val) p e.barrier
          let runs := decide ((s.parts[p]).step = .run ∨ (s.parts[p]).step = .solo)
          if !runs || (bindAt (s.cellars[c]).upd p k).active || !now then s else activateOn s c p e k))

/-- LOCAL_TOKEN: a token of this device reaches a sluice, which judges it; waiting contexts of the partition may become
READY, and update bindings active (R45, R228, R277). -/
def execLocalToken (d : DieIx) (ix : Nat) (s : State) : Res :=
  if asleep s (sluiceDom d) then .next s else
  match s.toks[ix]? with
  | some (e, t) =>
    if e = d then
      let s := { s with toks := s.toks.eraseIdx ix }
      .next (activate (wakePart (judgeToken s d t) t.part) t.part)
    else .next s
  | none => .next s

/-- Fields of a micro-operation (R278). -/
def mop (w : W32) (hi lo : Nat) : Nat := field w.toNat hi lo

/-- Tensors that a program stores to, by slot. -/
def storedSlots (pr : ProgramE) : List Nat := ((pr.ops.filter (fun w => mop w 31 26 == 2 || mop w 31 26 == 3)).map (fun w => mop w 3 0)).eraseDups

/-- The tensor in a slot of a binding. -/
def slotTensor (im : Image) (e : BindingE) (k : Nat) : Option TensorE := tensorById im (e.slots.getD k 0)

/-- The place of a granule in the order of R280: the block of the narrowest written operand, then the granule. -/
def granuleOrder (im : Image) (e : BindingE) (pr : ProgramE) (g : Nat) : Nat × Nat :=
  let ts := (storedSlots pr).filterMap (slotTensor im e)
  let r := (ts.map widthClass).foldl max 1
  (24 * (g / (24 * r)) + g % 24, g)

/-- The least by the order of pairs. -/
def leastOrder (l : List ((Nat × Nat) × Nat)) : Option Nat :=
  match l with
  | [] => none
  | a :: l => some (l.foldl (fun x y => if y.1.1 < x.1.1 ∨ (y.1.1 = x.1.1 ∧ y.1.2 < x.1.2) then y else x) a).2

/-- Lane results of table UP-3 for the operations on registers. -/
def laneOp (op : Nat) (k : W32) (t : Nat) (a b c : W32) : W32 :=
  match op with
  | 0x04 => a
  | 0x05 => k
  | 0x06 => fadd a b
  | 0x07 => fsub a b
  | 0x08 => fmul a b
  | 0x09 => ffma a b c
  | 0x0A => fadd a k
  | 0x0B => fmul a k
  | 0x0C => ffma a k b
  | 0x0D => fmaxN a b
  | 0x0E => fminN a b
  | 0x0F => if fisNan a then qnan else a &&& 0x7FFFFFFF#32
  | 0x10 => fminN (fmaxN a (k ^^^ 0x80000000#32)) k
  | 0x11 => fdiv a b
  | 0x12 => fsqrt a
  | 0x13 => frsqrt a
  | 0x14 => biasc k t
  | 0x15 => if fisNan a || decide (a.toNat % 2 ^ 31 = 0) then a else if a.getLsbD 31 then 0xBF800000#32 else 0x3F800000#32
  | _ => a

/-- The exponent of BIASC: max(step − T0 + 1, 1) (table UP-3). -/
def biasT (step t0 : Word) : Nat := max ((step.toNat : Int) - (t0.toNat : Int) + 1) 1 |>.toNat

/-- What one granule has come to: the state, the registers u0–u15 of 1,024 lanes, the bytes stored so far, the hardware's part in the reads and
writes to come (a write fails where a parity error persists, R238), and what has failed. -/
structure GranSt where
  s : State
  u : List (List W32)
  outs : List (List Byte)
  errs : List ReadErr
  bad : List TagCause
  badBlock : Nat

/-- Index of the first element of granule `g` in its tensor (R116, R267). -/
def firstElem (t : TensorE) (g : Nat) : Nat :=
  let r := max 1 (widthClass t)
  1024 * (24 * r * (g / (24 * r)) + (g % 24) * r + g / 24 % r)

/-- What the checker of a granule is sent: its program, constants, exponents and the raw operand bytes (R334). -/
def granuleWork (s : State) (p : PartIx) (im : Image) (e : BindingE) (pr : ProgramE) (consts : List W32) (regs : List (List W32)) (g : Nat) : UpdWork :=
  { t0 := e.t0, step := (s.parts[p]).stepNo, seed := im.seed, ops := pr.ops, consts := consts, regs := regs
    slots := e.slots.map (fun id => (tensorById im id).map (fun t => ⟨t.id, t.fmt, expOf s p t.id, word (firstElem t g), granuleBytes s p t g⟩)) }

/-- Store converted raw elements as a granule of the SHADOW of a tensor (R283): whole block, fresh tag, dirty page. -/
def storeGranule (s : State) (p : PartIx) (k : Nat) (t : TensorE) (g : Nat) (raws : List Nat) : State :=
  let (blk, o, _) := granulePlace t g
  let b := logicalAddr s p (t.base + 4096 * blk) / 4096
  match openShadow s p b with
  | none => s
  | some s =>
    match (mapOf s p b).shadow with
    | none => s
    | some (x, v) =>
      let bytes := packRaws ((fmtOf t.fmt).getD .fp32) raws
      let old := hbmBytes s (4096 * x) 4096
      let s := dumpSee s p t.id (.binding k) (cellarOf s b)
      let s := engineWrite (countG s 4 bytes.length) x (old.take o ++ bytes ++ old.drop (o + bytes.length)) v (foldOf t.id)
      markPage (dumpRange s (.binding k) (cellarOf s b) (4096 * blk + o) bytes) p b

/-- One micro-operation over a granule (R275, R278). -/
def runMop (p : PartIx) (im : Image) (e : BindingE) (consts : List W32) (g : Nat) (x : GranSt) (w : W32) : GranSt :=
  let op := mop w 31 26
  let d := mop w 25 22
  let reg := fun i => x.u.getD i []
  let a := reg (mop w 21 18)
  let imm := mop w 3 0
  match op with
  | 0x01 =>
    match slotTensor im e imm with
    | none => x
    | some t =>
      let f := (fmtOf t.fmt).getD .fp32
      let (s, bad) := readGranule x.s p t g (x.errs.headD .ok)
      let vals := (rawsOf f (granuleBytes s p t g)).map (fun r => fscale (toFp32 (decodeElem f r)) (-(expOf s p t.id)))
      { x with s := s, u := x.u.set d vals, errs := x.errs.tail, bad := x.bad ++ bad
               badBlock := if x.bad = [] ∧ bad ≠ [] then granuleBlock s p t g else x.badBlock }
  | 0x02 | 0x03 =>
    match slotTensor im e imm with
    | none => x
    | some t =>
      let f := (fmtOf t.fmt).getD .fp32
      let ex := expOf x.s p t.id
      let cs := a.zipIdx.map (fun v => convScaled f ex (if op = 3 then some (srFor x.s p t.id (word (firstElem t g + v.2))) else none) v.1)
      let s := recordAmax x.s p t ((a.zip cs).map (fun v => (v.1, v.2.sat)))
      let raws := cs.map (·.raw)
      let fails := decide (x.errs.headD .ok = .uncorr)
      { x with s := if fails then s else storeGranule s p (im.bindings.idxOf e) t g raws
               outs := x.outs ++ [packRaws f raws], errs := x.errs.tail
               bad := if fails then x.bad ++ [.hbmUncorr] else x.bad
               badBlock := if x.bad = [] ∧ fails then granuleBlock s p t g else x.badBlock }
  | _ =>
    let k := consts.getD imm 0
    let t := biasT (x.s.parts[p]).stepNo e.t0
    let b := reg (mop w 17 14)
    let c := reg (mop w 13 10)
    { x with u := x.u.set d ((List.range 1024).map (fun l => laneOp op k t (a.getD l 0) (b.getD l 0) (c.getD l 0))) }

/-- The granule that is next in each active binding of a die: partitions ascending, bindings in table order (log entry 61), the least granule in the
order of R280, once for TRIGGER 2 and 3 the target granule is written (R277). -/
def dueGranules (s : State) (c : CellarIx) : List (PartIx × Nat × Nat) :=
  (ixs 8).flatMap (fun p =>
    match (s.parts[p]).image with
    | none => []
    | some im =>
      if !(decide ((s.parts[p]).step = .run ∨ (s.parts[p]).step = .solo)) then []
      else
        im.bindings.zipIdx.filterMap (fun ek =>
          let (e, k) := ek
          let u := (s.cellars[c]).upd
          let b := bindAt u p k
          match im.programs.find? (fun pr => pr.number == e.program), bindTensor im e with
          | some pr, some t =>
            if !b.active then none
            else
              let todo := (List.range (e.elements / 1024)).filter (fun g => serves s c p t g && !b.ran.contains g)
              match leastOrder (todo.map (fun g => (granuleOrder im e pr g, g))) with
              | none => none
              | some g => if (e.trigger = 2 ∨ e.trigger = 3) && !u.written.contains (p, e.redId, g) then none else some (p, k, g)
          | _, _ => none))

/-- The stored tensors of a granule's binding. -/
def storedTensors (im : Image) (e : BindingE) : List TensorE :=
  match im.programs.find? (fun pr => pr.number == e.program) with
  | none => []
  | some pr => (storedSlots pr).filterMap (slotTensor im e)

/-- The logical blocks that a granule of a binding stores to. -/
def storedBlocks (s : State) (p : PartIx) (k g : Nat) : List Nat :=
  match (s.parts[p]).image with
  | none => []
  | some im =>
    match im.bindings[k]? with
    | none => []
    | some e => (storedTensors im e).map (fun t => logicalAddr s p (t.base + 4096 * (granulePlace t g).1) / 4096)

/-- Every block that the granule's stores need has a SHADOW, or a free block becomes one (R283, R292). -/
def shadowsReady (s : State) (p : PartIx) (k g : Nat) : Option State :=
  (storedBlocks s p k g).foldl (fun s b => s.bind (fun s => openShadow s p b)) (some s)

/-- What the shadows of a granule's stores copy from CURRENT: the stored tensor and the place of its block, where the block has no SHADOW and the
binding does not update every byte of it (R267, R283). -/
def copiedBlocks (s : State) (p : PartIx) (k g : Nat) : List (TensorE × Nat) :=
  match (s.parts[p]).image with
  | none => []
  | some im =>
    match im.bindings[k]? with
    | none => []
    | some e => (storedTensors im e).filterMap (fun t =>
        let blk := (granulePlace t g).1
        let r := max 1 (widthClass t)
        let whole := (List.range r).all (fun i => decide (24 * r * (blk / 24) + 24 * i + blk % 24 < e.elements / 1024))
        let off := t.base + 4096 * blk
        if whole || (mapOf s p (logicalAddr s p off / 4096)).shadow.isSome then none else some (t, off))

/-- The reads that fill the shadows of a granule's stores, in order, each with what the hardware does to it: the failing block, with its causes, if
one fails, and what is left of the hardware's part (R250, R252, R283, R296). -/
def copyReads (s : State) (p : PartIx) : List (TensorE × Nat) → List ReadErr → State × List ReadErr × Option (Nat × List TagCause)
  | [], errs => (s, errs, none)
  | (t, off) :: rest, errs =>
    match engineRead s p t off 4096 (errs.headD .ok) with
    | (s, []) => copyReads s p rest errs.tail
    | (s, ks) => (s, errs.tail, some (physAddr s p off / 4096, ks))

/-- Can a retention or a sweep still free a block of a partition on a stack (R292)? -/
def canFree (s : State) (p : PartIx) (stack : Nat) : Bool :=
  (mapped s p).any (fun e => match e.2.retained with | some x => decide (x.1 % nStacks s = stack) | none => false)
    || s.freed.any (fun x => x.1 == p && decide (x.2 % nStacks s = stack))

/-- Has a binding written every granule, with every comparison settled (R293, R334)? -/
def bindingDone (s : State) (p : PartIx) (im : Image) (e : BindingE) (k : Nat) : Bool :=
  match bindTensor im e with
  | none => true
  | some t => (List.range (e.elements / 1024)).all (fun g =>
      match deputyOf s (granuleStack s p t g) with
      | none => false
      | some c => (bindAt (s.cellars[c]).upd p k).done.contains g)

/-- POOL_WAIT is set while a binding waits for a block that can still be freed (R292, table UP-5). -/
def showWaits (u : Upd) : Upd := { u with poolWait := u.binds.any (·.waiting) }

/-- A binding finds no free block on a stack: it waits while a retention or a sweep can free one, else POOL_EXHAUSTED is set and reported, once
(R292). -/
def poolWaits (s : State) (c : CellarIx) (p : PartIx) (k g : Nat) : State :=
  let stack := (storedBlocks s p k g).headD 0 % nStacks s
  let b := bindAt (s.cellars[c]).upd p k
  let more := canFree s p stack
  let s := modUpd s c (fun u => showWaits (setBind u { b with waiting := more, dry := b.dry || !more }))
  if more || b.dry then s else partReport (modUpd s c (fun u => { u with poolExhausted := true })) p 0x0D [stack]

/-- A granule is reported done: progress, counts, and the end of a tensor dump (R280, R334, R465, table UP-9). -/
def granuleDone (s : State) (c : CellarIx) (p : PartIx) (k g : Nat) : State :=
  let b := bindAt (s.cellars[c]).upd p k
  let s := modUpd (countP s p 12 1) c (fun u => setBind { u with granules := u.granules.set p.val (u.granules[p] + 1) p.isLt } { b with done := b.done ++ [g] })
  match (s.parts[p]).image with
  | none => s
  | some im =>
    match im.bindings[k]? with
    | none => s
    | some e => updBoundary (if bindingDone s p im e k then dumpDone s (.binding k) else s) c

/-- The update unit of a die runs one granule whose shadows stand ready; a sampled one is reported done only after its comparison (R278, R280,
R283, R334). -/
def runGranule (s : State) (c : CellarIx) (p : PartIx) (k g : Nat) (errs : List ReadErr) : State :=
  match (s.parts[p]).image with
  | none => s
  | some im =>
    match im.bindings[k]? with
    | none => s
    | some e =>
      match im.programs.find? (fun pr => pr.number == e.program) with
      | none => s
      | some pr =>
        let b := bindAt (s.cellars[c]).upd p k
        let u0 := (List.range 16).map (fun r => tgetMany 0 (s.cellars[c]).upd.u (1024 * r) 1024)
        let w := granuleWork s p im e pr b.consts u0 g
        let x := pr.ops.foldl (runMop p im e b.consts g) ⟨s, u0, [], errs, [], 0⟩
        match x.bad with
        | [] =>
          let s := modUpd x.s c (fun u =>
            let u := showWaits (setBind u { b with ran := b.ran ++ [g], waiting := false, dry := false })
            { u with k := b.consts, u := (x.u.zipIdx).foldl (fun t r => tsetMany 0 t (1024 * r.2) r.1) u.u })
          match sampleUpdate s c p (.update k g w x.outs) with
          | (s, true) => s
          | (s, false) => granuleDone s c p k g
        | ks => engineReadFails x.s p 2 x.badBlock ks

/-- UPD_GRANULE: the update unit of a die runs its next granule: that of the first binding whose shadows stand ready; bindings without a free block
wait (R280, R283, R292, R296). `reads` is what the hardware does to the granule's reads and writes: first the reads that fill its shadows, then those
of its program in order. -/
def execUpdGranule (c : CellarIx) (staging : Staging) (reads : List ReadErr) (s : State) : Res :=
  if asleep s (cellarDom c) || updStopped s.cellars[c] || (s.cellars[c]).upd.fenced then .next s
  else
    let due := dueGranules s c
    let stuck := due.filter (fun d => (shadowsReady s d.1 d.2.1 d.2.2).isNone)
    let s := each stuck s (fun s d => poolWaits s c d.1 d.2.1 d.2.2)
    match due.find? (fun d => (shadowsReady s d.1 d.2.1 d.2.2).isSome) with
    | none => .next s
    | some d =>
      match stagingFault s c d.1 staging with
      | (s, true) => .next s
      | (s, false) =>
        match copyReads s d.1 (copiedBlocks s d.1 d.2.1 d.2.2) reads with
        | (s, _, some (b, ks)) => .next (engineReadFails s d.1 2 b ks)
        | (s, errs, none) => .next (runGranule ((shadowsReady s d.1 d.2.1 d.2.2).getD s) c d.1 d.2.1 d.2.2 errs)

/-- POOL_REPORT_MS: a shadow write has waited the limit for a free block, and is reported once (R292). -/
def execPoolReportMs (c : CellarIx) (s : State) : Res :=
  if timersHeld s || asleep s (cellarDom c) then .next s else
  match (s.cellars[c]).upd.binds.find? (fun b => b.waiting && !b.dry) with
  | none => .next s
  | some b =>
    let g := match (dueGranules s c).find? (fun d => d.1 == b.part && d.2.1 == b.binding) with | some d => d.2.2 | none => 0
    .next (partReport (modUpd s c (fun u => setBind { u with poolExhausted := true } { b with dry := true })) b.part 0x0D [(storedBlocks s b.part b.binding g).headD 0 % nStacks s])

/-- Are the updates of a step finished: every binding has written every granule, every reduction every target granule
(R293)? -/
def updatesDone (s : State) (p : PartIx) : Bool :=
  match (s.parts[p]).image with
  | none => true
  | some im =>
    im.bindings.zipIdx.all (fun ek => bindingDone s p im ek.1 ek.2) && im.reductions.all (reductionDone s p)

/-- The cellar engines forget the step of a partition: progress, sums, written granules and every parked contribution; at a flip, which has made the
next step the current one, what is parked for that step stays (R274, R277, R311, R312). -/
def clearUpd (s : State) (p : PartIx) (discard : Bool) : State :=
  let step := (s.parts[p]).stepNo
  each (ixs 12) s (fun s c =>
    updBoundary (modUpd s c (fun u => showWaits
      { u with sums := u.sums.filter (fun x => decide (x.part ≠ p))
               parked := u.parked.filter (fun x => decide (x.part ≠ p) || (!discard && decide (x.step = step)))
               written := u.written.filter (fun x => decide (x.1 ≠ p)), localRead := u.localRead.filter (fun x => decide (x.1 ≠ p))
               binds := u.binds.filter (fun x => decide (x.part ≠ p)), granules := u.granules.set p.val 0 p.isLt })) c)

end Sys2Proof.Machine
end

