-- ==== Sys2Proof/Machine/Ckp.lean ====
section
/-! DEFINITION. Checkpoints: pages, digests, cuts, the writer of R405, abandoning (R350, R393 to R407, R413; tables CK-1 to
CK-5, CK-8). -/

namespace Sys2Proof.Machine

/-! ### Pages and digests (R350, R395, R397) -/

/-- Pages of a partition, ascending: those that overlap a parameter or moment tensor (R397). -/
def shardPages (s : State) (p : PartIx) : List Nat :=
  match (s.parts[p]).image, (s.parts[p]).allot with
  | some im, some a =>
    let ts := im.tensors.filter (fun t => versioned t && decide (0 < t.size))
    ((List.range (ceilDiv a.size 65536 + 1)).map (a.base / 65536 + ·)).filter (fun g =>
      ts.any (fun t => decide ((a.base + t.base) / 65536 ≤ g ∧ g ≤ (a.base + t.base + t.size - 1) / 65536)))
  | _, _ => []

/-- The data-space block that a reader of the committed or the retained version reads for a logical block (R284, R288). -/
def blockNamed (s : State) (p : PartIx) (b : Nat) (retained : Bool) : Nat :=
  let base := match (s.parts[p]).allot with | some a => a.base | none => 0
  if versionedAt s p (4096 * b - base) then
    let e := mapOf s p b
    match e.retained with
    | some x => if retained then x.1 else e.cur.1
    | none => e.cur.1
  else b

/-- The version that a snapshot engine reads of a logical block: the block version of the physical block that it reads (R284, R289). -/
def versionNamed (s : State) (p : PartIx) (b : Nat) (retained : Bool) : Nat :=
  let e := mapOf s p b
  match e.retained with
  | some x => if retained then x.2 else e.cur.2
  | none => e.cur.2

/-- The failures of a snapshot engine's read of a logical block, which it reads whole, as a stream's read: CRC if a tracker is free, FOLD and, for
a parameter or moment tensor, VERSION (R250, R251; table CM-5). Bytes outside every tensor are compared with nothing (log entry 72). -/
def snapCheck (s : State) (p : PartIx) (b : Nat) (retained : Bool) (err : ReadErr) : List TagCause :=
  let base := match (s.parts[p]).allot with | some a => a.base | none => 0
  let x := blockNamed s p b retained
  match tensorAt s p (4096 * b - base) with
  | none => tagCheck s x err false false false 0 0
  | some t => tagCheck s x err (trackerFree s (cellarOf s x)) true (versioned t) (foldOf t.id) (versionNamed s p b retained)

/-- The snapshot engines read a page: earlier requests for its blocks are performed first (R256), a cured mismatch is counted, and a block that
fails is recorded on its die (R252). The answer says whether the page was read. `errs` is what the hardware does to the sixteen blocks. -/
def readPage (s : State) (p : PartIx) (g : Nat) (retained : Bool) (errs : List ReadErr) : State × Bool :=
  let s := each (List.range 16) s (fun s j => let x := blockNamed s p (16 * g + j) retained; settleBlock s (cellarOf s x) x)
  (List.range 16).foldl (fun (a : State × Bool) j =>
    if !a.2 then a
    else
      let s := a.1
      let b := 16 * g + j
      let x := blockNamed s p b retained
      let err := errs.getD j .ok
      match snapCheck s p b retained err with
      | [] => (if err = .cured then cured s (cellarOf s x) else s, true)
      | ks => (readEvents (logTagFail s (cellarOf s x) ks 4 x) (cellarOf s x) x ks, false)) (s, true)

/-- The plaintext of a page at the committed version, or at the retained one (R403). -/
def pageBytes (s : State) (p : PartIx) (g : Nat) (retained : Bool) : List Byte :=
  (List.range 16).flatMap (fun j => hbmBytes s (4096 * blockNamed s p (16 * g + j) retained) 4096)

/-- A digest as its bytes. -/
def digestBytes (d : BitVec 256) : List Byte := leBytes 32 d.toNat

/-- Digest of a page's plaintext (R350). -/
def pageDigest (s : State) (p : PartIx) (g : Nat) : BitVec 256 := sha256 (pageBytes s p g false)

/-- Page digests of what the pages of a shard hold now, in ascending order of page. -/
def pageDigests (s : State) (p : PartIx) : List (BitVec 256) := (shardPages s p).map (pageDigest s p)

/-- The content digest of R395, and what SED_DIGEST gives of a range of pages (R353). -/
def contentOf (ds : List (BitVec 256)) : BitVec 256 := sha256 (ds.flatMap digestBytes)

/-- The digest of a version's page digests as a rank of a group computes it (R350). -/
def digestAs (group : W32) (rank : Nat) (v : Word) (ds : List (BitVec 256)) : BitVec 256 :=
  sha256 (leBytes 4 group.toNat ++ leBytes 2 rank ++ leBytes 8 v.toNat ++ ds.flatMap digestBytes)

/-- The shard digest D(v) of R350. -/
def shardDigest (s : State) (p : PartIx) (v : Word) (ds : List (BitVec 256)) : BitVec 256 :=
  let q := s.parts[p]
  digestAs q.group q.rank v ds

/-! ### Small changes -/

/-- Change the CKP block of a partition. -/
def modCkp (s : State) (p : PartIx) (f : Ckp → Ckp) : State := modPart s p (fun q => { q with ckp := f q.ckp })

/-- Change the checkpoint being written. -/
def modWr (s : State) (p : PartIx) (f : CkpWr → CkpWr) : State := modCkp s p (fun k => { k with wr := k.wr.map f })

/-! ### Objects (R401, R402, R407) -/

/-- An object identifier, table CK-1. -/
def objId (kind run shard : Nat) (cut : Word) : Word := word (place kind 63 60 + place run 59 48 + place shard 47 32 + cut.toNat % 2 ^ 32)

/-- The identifier of an object of this partition's shard. -/
def ownObj (s : State) (p : PartIx) (kind : Nat) (cut : Word) : Word :=
  let c := (s.parts[p]).ckp.cfg
  objId kind c.run c.shard cut

/-- Cut bytes into pieces of at most `k`, with their offsets. -/
def piecesOf (k : Nat) : Nat → Nat → List Byte → List (Nat × List Byte)
  | 0, _, _ => []
  | n + 1, off, bs => if bs.isEmpty then [] else (off, bs.take k) :: piecesOf k n (off + k) (bs.drop k)

/-- Window offset of the manifest and data object slots of a cut (R407). -/
def slotOff (c : CkpCfg) (cut : Word) (data : Bool) : Nat :=
  let i := cut.toNat / max 1 c.every % 2
  if data then 8192 + 2 ^ 30 * (i * c.slotGib) else 4096 * i

/-- Write bytes of an object: STORE_PUT frames of up to 4,096 bytes to the store node, or posted writes to the host window and
the zero-length read that shows them durable (R401, R407). The number of answers still to come grows by what was sent. -/
def putObject (s : State) (p : PartIx) (kind : Nat) (cut : Word) (off : Nat) (bs : List Byte) : State :=
  let c := (s.parts[p]).ckp.cfg
  if c.target then
    let at0 := slotOff c cut (kind = 1) + off
    let s := each (piecesOf 512 (bs.length / 512 + 1) at0 bs) s (fun s e => hostWrite s p e.1 e.2)
    let last := at0 + bs.length - 1
    let s := emit { s with pcie := { s.pcie with reads := s.pcie.reads ++ [⟨2, p.val, none, p, last, 0⟩] } } (.hostRead p last 0)
    modWr s p (fun w => { w with sent := w.sent + 1 })
  else
    each (piecesOf 4096 (bs.length / 4096 + 1) off bs) s (fun s e =>
      modWr (sendFrame s p.val 0 c.storeNode 2 (.storePut e.1 (ownObj s p kind cut) e.2)) p (fun w => { w with sent := w.sent + 1 }))

/-- The run checkpoint key of a partition's RUN, if it is held (R402, R432). -/
def runSecret (s : State) (p : PartIx) : Option (Vector Word 4) :=
  (s.boot.keys.find? (fun k => decide (k.part = p ∧ k.kind = 2 ∧ k.ident = (s.parts[p]).ckp.cfg.run))).map (·.secret)

/-- Is the run checkpoint key of a partition's RUN held (R402, R432)? -/
def runKey (s : State) (p : PartIx) : Bool := (runSecret s p).isSome

/-- The IV of a record: its INDEX, zero-extended (R402). -/
def recordIv (index : Nat) : List Byte := leBytes 12 index

/-- The GMAC of a manifest or a reference record: under the key of its object and epoch, with its INDEX (R402; tables CK-3, CK-5). -/
def objectMac (run : Vector Word 4) (obj : Word) (epoch : W32) (index : Nat) (bs : List Byte) : List Byte :=
  gmac (objectKey run obj.toNat epoch.toNat) (recordIv index) bs

/-- INDEX of a manifest (R402). -/
def manifestIndex : Nat := 0xFFFFFFFF

/-! ### Cuts (R393 to R396) -/

/-- Insert a rank into an ascending list. -/
def insRank (a : Nat) : List Nat → List Nat
  | [] => [a]
  | b :: l => if a < b then a :: b :: l else if a = b then b :: l else b :: insRank a l

/-- Members of a partition's shard in ascending order (R394). -/
def members (s : State) (p : PartIx) : List Nat := (s.sed.digests[p]).replicas.foldl (fun l r => insRank r l) [(s.parts[p]).rank]

/-- The writer of a cut (R394). -/
def writerOf (s : State) (p : PartIx) (cut : Word) : Nat :=
  let ms := members s p
  ms.getD (cut.toNat / max 1 (s.parts[p]).ckp.cfg.every % ms.length) 0

/-- End the retention of a partition; its blocks are freed (R288). -/
def endRetention (s : State) (p : PartIx) : State := if (s.parts[p]).retention.isSome then freeRetained s p else s

/-- Abandon the checkpoint in progress with a cause of table CK-8 (R406); what it has read of the host window to see its writes durable answers no later
cut (R407). -/
def abandon (s : State) (p : PartIx) (cause : Nat) : State :=
  match (s.parts[p]).ckp.wr with
  | none => s
  | some w =>
    let s := endRetention s p
    let s : State := { s with pcie := { s.pcie with reads := s.pcie.reads.filter (fun r => decide (r.die < 2 ∨ r.part ≠ p)) } }
    let s := modCkp s p (fun k => { k with wr := none, abandoned := true, accum := k.accum.union k.frozen })
    partReport s p 0x31 [w.cut.toNat, cause]

/-- The bytes of a reference record, table CK-5, up to its MAC. -/
def refRecord (rank writer : Nat) (cut : Word) (content : BitVec 256) : List Byte :=
  leBytes 4 0x434B5246 ++ leBytes 2 rank ++ leBytes 2 writer ++ leBytes 8 cut.toNat ++ leBytes 32 content.toNat

/-- The cut at a flip (R393 to R396), taken once version and step number have risen. A writer without the run checkpoint key
skips the cut (log entry 71); a skipped cut leaves the dirty maps (log entry 221). -/
def takeCut (s : State) (p : PartIx) : State :=
  let q := s.parts[p]
  let c := q.ckp.cfg
  if !c.enable || decide (c.every = 0) || decide (q.version.toNat % max 1 c.every ≠ 0) then s
  else
    let content := contentOf (pageDigests s p)
    if c.target || decide (writerOf s p q.version = q.rank) then
      match runSecret s p, q.ckp.wr with
      | some run, none =>
        let w : CkpWr :=
          { cut := q.version, step := q.stepNo, epoch := q.epoch, key := run, phase := .zeroing, delta := false, depth := 0, prev := q.version
            base := q.version, hist := histOf s p, todoDies := [], todoPages := [], pages := 0, index := 0, off := 0, data := [], sent := 0, acked := 0
            content := content }
        let s := modPart s p (fun q =>
          { q with retention := some q.version
                   ckp := { q.ckp with wr := some w, frozen := q.ckp.accum, accum := ⟨false, []⟩, done := 0, total := 0 } })
        putObject s p 3 q.version 0 (List.replicate 256 0)
      | _, _ =>
        partReport (modCkp s p (fun k => { k with skipped := true, skipCount := satAdd k.skipCount 1 0xFFFF })) p 0x32 [q.version.toNat]
    else
      let s := modCkp s p (fun k => { k with lastCut := q.version, accum := ⟨false, []⟩ })
      match runSecret s p with
      | some run =>
        let member := (members s p).idxOf q.rank
        let front := refRecord q.rank (writerOf s p q.version) q.version content
        let obj := ownObj s p 2 q.version
        sendFrame s p.val 0 c.storeNode 2 (.storePut (64 * member) obj (front ++ objectMac run obj q.epoch member front))
      | none => s

/-! ### The writer (R402 to R406) -/

/-- Start sending the data object as a base or a delta (R405 step 2). -/
def beginData (s : State) (p : PartIx) (m : Option Manifest) : State :=
  let k := (s.parts[p]).ckp
  let pages := shardPages s p
  modCkp s p (fun k0 => { k0 with
    done := 0
    total := (match m with | some _ => pages.filter k.frozen.has | none => pages).length
    wr := k0.wr.map (fun w =>
      let todo := match m with | some _ => pages.filter k.frozen.has | none => pages
      { w with phase := .sending, todoDies := List.range (nStacks s), todoPages := todo, pages := todo.length, index := 0, off := 0, data := []
               delta := m.isSome, depth := (match m with | some x => x.depth + 1 | none => 0)
               prev := (match m with | some _ => k.lastCut | none => w.cut), base := (match m with | some x => x.base | none => w.cut) }) })

/-- The bytes of a manifest, table CK-3, up to its CRC. -/
def manifestFront (s : State) (p : PartIx) (w : CkpWr) : List Byte :=
  let q := s.parts[p]
  let c := q.ckp.cfg
  let image := match q.image with | some im => im.digest | none => []
  leBytes 4 0x434B4D46 ++ leBytes 2 1 ++ leBytes 1 (b2n w.delta) ++ leBytes 1 w.depth ++ leBytes 2 c.run ++ leBytes 2 c.shard
    ++ leBytes 2 c.shards ++ leBytes 2 q.rank ++ leBytes 4 q.group.toNat ++ leBytes 4 w.epoch.toNat ++ leBytes 8 w.cut.toNat
    ++ leBytes 8 w.step.toNat ++ leBytes 8 w.prev.toNat ++ leBytes 8 w.base.toNat ++ leBytes 4 w.pages
    ++ leBytes 4 (shardPages s p).length ++ leBytes 8 w.off ++ (image ++ List.replicate 16 0).take 16 ++ digestBytes (sha256 w.data)
    ++ leBytes 32 w.content.toNat ++ List.replicate 84 0

/-- The bytes of a manifest, table CK-3. -/
def manifestBytes (s : State) (p : PartIx) (w : CkpWr) : List Byte :=
  let front := manifestFront s p w
  let sealed := front ++ leBytes 4 (crc32c front)
  sealed ++ objectMac w.key (ownObj s p 3 w.cut) w.epoch manifestIndex sealed

/-- Read a manifest object from 256 bytes under a run checkpoint key (R404). -/
def parseManifest (run : Vector Word 4) (obj : Word) (bs : List Byte) : Manifest :=
  let epoch := BitVec.ofNat 32 (fieldAt bs 0x14 4)
  { valid := decide (bs.length = 256 ∧ fieldAt bs 0 4 = 0x434B4D46 ∧ fieldAt bs 4 2 = 1) && fieldAt bs 0xEC 4 == crc32c (bs.take 0xEC)
      && bs.drop 0xF0 == objectMac run obj epoch manifestIndex (bs.take 0xF0)
    kind := fieldAt bs 6 1, depth := fieldAt bs 7 1, run := fieldAt bs 8 2 % 4096, shard := fieldAt bs 0xA 2, shards := fieldAt bs 0xC 2
    writer := fieldAt bs 0xE 2, group := BitVec.ofNat 32 (fieldAt bs 0x10 4), epoch := epoch
    cut := word (fieldAt bs 0x18 8), step := word (fieldAt bs 0x20 8), prev := word (fieldAt bs 0x28 8), base := word (fieldAt bs 0x30 8)
    pages := fieldAt bs 0x38 4, shardPages := fieldAt bs 0x3C 4, dataBytes := fieldAt bs 0x40 8, image := (bs.drop 0x48).take 16
    digest := BitVec.ofNat 256 (fieldAt bs 0x58 32), content := BitVec.ofNat 256 (fieldAt bs 0x78 32) }

/-- Does a read manifest make the checkpoint a delta (R405 step 2)? -/
def deltaOf (k : Ckp) (m : Manifest) : Option Manifest := if m.valid ∧ m.depth + 1 < k.cfg.baseEvery then some m else none

/-- The writer goes on once everything it has sent is durable (R405 steps 1, 5 and 6). -/
def ckpAdvance (s : State) (p : PartIx) : State :=
  let k := (s.parts[p]).ckp
  match k.wr with
  | none => s
  | some w =>
    if w.acked < w.sent then s
    else
      match w.phase with
      | .zeroing =>
        if k.cfg.target then beginData s p none
        else
          sendFrame (modWr s p (fun w => { w with phase := .reading })) p.val 0 k.cfg.storeNode 0 (.storeGet 0 256 (ownObj s p 3 k.lastCut))
      | .draining =>
        putObject (modWr s p (fun w => { w with phase := .sealing })) p 3 w.cut 0 (manifestBytes s p w)
      | .sealing =>
        let s := modCkp s p (fun k => { k with wr := none, lastCut := w.cut, lastSealed := w.cut, depth := w.depth })
        partReport s p 0x30 [w.cut.toNat, b2n w.delta, w.depth, w.off]
      | _ => s

/-- The DACK, or the zero-length read, of something the writer has sent (R405). -/
def ckpAck (s : State) (p : PartIx) : State := ckpAdvance (modWr s p (fun w => { w with acked := w.acked + 1 })) p

/-- A record of a data object joins it: header, ciphertext, tag (R402; table CK-2). -/
def putRecord (s : State) (p : PartIx) (w : CkpWr) (type pos : Nat) (plain : List Byte) : State :=
  let hd := leBytes 4 0x434B5052 ++ leBytes 1 type ++ leBytes 3 0 ++ leBytes 4 w.index ++ leBytes 4 plain.length ++ leBytes 8 pos
    ++ leBytes 4 w.epoch.toNat ++ leBytes 4 0
  let x := gcm (objectKey w.key (ownObj s p 1 w.cut).toNat w.epoch.toNat) (recordIv w.index) hd plain
  let bs := hd ++ x.1 ++ x.2
  modWr (putObject s p 1 w.cut w.off bs) p (fun w => { w with index := w.index + 1, off := w.off + bs.length, data := w.data ++ bs })

/-- The tensors of a partition, in tensor-table order, whose amax history the SRAM of a die holds (R128, R403). -/
def histTensors (s : State) (p : PartIx) (d : Nat) : List TensorE :=
  match (s.parts[p]).image with
  | none => []
  | some im => im.tensors.filter (fun t => hasHistory t && decide (logicalAddr s p t.base / 4096 % nStacks s = d))

/-- Bytes of a die's HISTORY record. -/
def histLen (s : State) (p : PartIx) (d : Nat) : Nat := ((histTensors s p d).map (fun t => 8 * (scaleW t.scale).h)).sum

/-- The plaintext of a die's HISTORY record: the entries at the cut of every tensor in turn (R403, R406). -/
def histPlain (s : State) (p : PartIx) (w : CkpWr) (d : Nat) : List Byte :=
  (histTensors s p d).flatMap (fun t => (List.range (scaleW t.scale).h).flatMap (fun k => histBytes (tget HistE.empty (tget [] w.hist t.id) k)))

/-- Would a record of `len` bytes more go past the host slot (R407)? -/
def slotFull (c : CkpCfg) (off len : Nat) : Bool := c.target && decide (2 ^ 30 * c.slotGib < off + len)

/-- Has the retransmit store of the path to the store node room (R374)? -/
def storeRoom (s : State) (p : PartIx) : Bool :=
  let c := (s.parts[p]).ckp.cfg
  c.target ||
    (match routePort s ⟨2, 0, p.val, 0, c.storeNode, s.fab.node, 0, 0, .storePut 0 0 []⟩ with
     | some f => decide (storeUsed s.fab.dies[portDieOf f] < storeBytes)
     | none => true)

/-- CKP_PAGE_SEND: the next record of the data object: a HISTORY record for each die, then the pages in ascending order; after
the last the retention ends (R403, R405). A page whose tags fail is not delivered, and the writer stays there (R252; log entry
72). -/
def execCkpPageSend (x : SnapRead) (s : State) : Res :=
  let p := x.p
  if cellarsAsleep s then .next s else
  let k := (s.parts[p]).ckp
  match k.wr with
  | none => .next s
  | some w =>
    if w.phase ≠ .sending || !storeRoom s p then .next s
    else
      let finish := fun (s : State) =>
        match (s.parts[p]).ckp.wr with
        | some w => if w.todoDies.isEmpty && w.todoPages.isEmpty then ckpAdvance (modWr (endRetention s p) p (fun w => { w with phase := .draining })) p else s
        | none => s
      match w.todoDies with
      | d :: ds =>
        if slotFull k.cfg w.off (48 + histLen s p d) then .next (abandon s p 5)
        else .next (finish (modWr (putRecord s p w 2 d (histPlain s p w d)) p (fun w => { w with todoDies := ds })))
      | [] =>
        match w.todoPages with
        | [] => .next (finish s)
        | g :: gs =>
          if slotFull k.cfg w.off (48 + 65536) then .next (abandon s p 5)
          else
            let base := match (s.parts[p]).allot with | some a => a.base | none => 0
            match readPage s p g true x.errs with
            | (s, false) => .next s
            | (s, true) =>
              let s := modWr (putRecord (countG s 3 65536) p w 1 (65536 * g - base) (pageBytes s p g true)) p (fun w => { w with todoPages := gs })
              .next (finish (modCkp s p (fun k => { k with done := k.done + 1 })))

/-- CKP_TIMEOUT: a frame has waited TIMEOUT_S for its DACK (R406). -/
def execCkpTimeout (p : PartIx) (s : State) : Res :=
  if timersHeld s then .next s else
  match (s.parts[p]).ckp.wr with
  | none => .next s
  | some w => .next (if w.acked < w.sent then abandon s p 1 else s)

/-- Bytes of a manifest arrive for step 2 of R405. -/
def manifestData (s : State) (p : PartIx) (off : Nat) (obj : Word) (bytes : List Byte) : State :=
  let k := (s.parts[p]).ckp
  match k.wr with
  | some w =>
    if w.phase = .reading ∧ obj = ownObj s p 3 k.lastCut ∧ off = 0 then beginData s p (deltaOf k (parseManifest w.key obj bytes)) else s
  | none => s

end Sys2Proof.Machine
end

