-- ==== Sys2Proof/Machine/Memory.lean ====
section
/-! DEFINITION. Cellar dies: scrub, temperature bands, the copy of a fenced pseudo-channel, the end of a wipe (R242 to R244, R253, R260, R263;
tables CM-5, CM-8, CM-12). -/

namespace Sys2Proof.Machine

/-! ### Scrub (R253) -/

/-- Blocks of the data space of the variant. -/
def dataBlocks (s : State) : Nat := 294336 * (32 * nStacks s)

/-- The next block of a stack after one, wrapping at the end of the data space. -/
def nextBlockOf (s : State) (b : Nat) : Nat := if b + nStacks s < dataBlocks s then b + nStacks s else b % nStacks s

/-- Has a block an open write tracker or a pending write (R253)? -/
def writeBusy (s : State) (c : CellarIx) (b : Nat) : Bool :=
  (s.cellars[c]).trackers.any (fun t => decide (t.block = b) && t.write)
    || s.reqs.any (fun r => r.write && r.addrs.any (fun a => a.2 / 4096 == b))

/-- Scrub one block, after what was requested of it earlier (R256): its severity, whether its tag is UNWRITTEN (R248 excepts no read that checks a
tag), its CRC (R250, R253), with the re-read of R252. A CRC mismatch that stays sets SCRUB_CRC with cause SCRUB_CRC. -/
def scrubOne (s : State) (c : CellarIx) (b : Nat) (err : ReadErr) : State :=
  let s := countG (settleBlock s c b) 3 4096
  match tagCheck s b err true false false 0 0 with
  | [] => if err = .cured then cured s c else s
  | k :: _ =>
    readEvents (modCellar s c (fun x =>
      { x with scrubCrc := x.scrubCrc || k == .crc
               hbmUncorr := x.hbmUncorr || k == .hbmUncorr
               unwritten := x.unwritten || k == .unwritten
               tagLog := if x.tagLog.valid then x.tagLog else ⟨true, if k = .crc then 5 else tagCauseCode k, 5, 4096 * b⟩ })) c b [k]

/-- SCRUB_BLOCK: the scrub takes the next block of its stack, or skips one that is being written (R253). The pass is in progress from its first block
to its last (table CM-10). -/
def execScrubBlock (c : CellarIx) (err : ReadErr) (s : State) : Res :=
  if asleep s (cellarDom c) then .next s else
  let x := s.cellars[c]
  if x.scrubHours = 0 ∨ stackDown s c ∨ nStacks s ≤ c.val then .next s
  else
    let b := if x.scrubNext = 0 then c.val else x.scrubNext
    let s := modCellar s c (fun x => { x with scrubbing := decide (b < nextBlockOf s b), scrubNext := nextBlockOf s b })
    if writeBusy s c b then .next (modCellar s c (fun x => { x with scrubSkipped := addOnce b x.scrubSkipped }))
    else .next (scrubOne s c b err)

/-- SCRUB_RETRY: a skipped block is scrubbed 1 ms later (R253). -/
def execScrubRetry (c : CellarIx) (x : BlockRead) (s : State) : Res :=
  if asleep s (cellarDom c) then .next s else
  if (s.cellars[c]).scrubSkipped.contains x.block ∧ !writeBusy s c x.block ∧ !stackDown s c then
    .next (scrubOne (modCellar s c (fun y => { y with scrubSkipped := y.scrubSkipped.filter (· != x.block) })) c x.block x.err)
  else .next s

/-! ### The copy of a fenced pseudo-channel (R242 to R244) -/

/-- The data-space block that is local block `l` of pseudo-channel `p` of a stack, the inverse of R240. -/
def blockAt (s : State) (c : CellarIx) (p l : Nat) : Nat := (32 * l + (p ^^^ (l % 32) ^^^ (l / 32 % 32))) * nStacks s + c.val

/-- Does a partition's share hold a block of a pseudo-channel below the remap reserve (R243)? -/
def ownsOn (s : State) (c : CellarIx) (pc : Nat) (p : PartIx) : Bool :=
  match (s.parts[p]).allot with
  | none => false
  | some a => (List.range remapStart).any (fun l => decide (a.base ≤ 4096 * blockAt s c pc l ∧ 4096 * blockAt s c pc l < a.base + a.size))

/-- A pseudo-channel fence takes effect: FENCED is set, PENDING cleared, HBM_PC lowered by one (R243). -/
def pcFenceEffect (s : State) (c : CellarIx) : State :=
  match (s.cellars[c]).remap with
  | none => s
  | some r =>
    let s := modCellar s c (fun x => { x with remap := none, pcFenced := some r.pc })
    markFenced { s with pkg := { s.pkg with hbmPc := s.pkg.hbmPc - 1 } } (pcUnit c.val r.pc)

/-- A partition has passed a step boundary, or no longer runs: copied pseudo-channel fences no longer wait for it (R243). -/
def pcFencePass (s : State) (p : PartIx) : State :=
  each (ixs 12) s (fun s c =>
    match (s.cellars[c]).remap with
    | some r =>
      if r.copied then
        let w := r.waits.filter (fun q => q != p)
        let s := modCellar s c (fun x => { x with remap := some { r with waits := w } })
        if w.isEmpty then pcFenceEffect s c else s
      else s
    | none => s)

/-- The copy of a block fails: its bit and record on the cellar die, and the report (R243). -/
def loseBlock (s : State) (c : CellarIx) (b : Nat) : State :=
  reportLost (modCellar s c (fun x => { x with lost := true, tagLog := if x.tagLog.valid then x.tagLog else ⟨true, 6, 6, 4096 * b⟩ })) c b

/-- REMAP_COPY: the next block of the fenced pseudo-channel is copied verbatim; one that fails its tag check is copied as it
stands and reported lost, an UNWRITTEN one is not (R243). After the last block the fence waits for the owners that are ARMED
or RUNNING. -/
def execRemapCopy (x : StackRead) (s : State) : Res :=
  let c := x.c
  if asleep s (cellarDom c) then .next s else
  match (s.cellars[c]).remap with
  | none => .next s
  | some r =>
    if r.copied ∨ stackDown s c then .next s
    else
      let b := blockAt s c r.pc r.next
      let s := countG (countG (settleBlock s c b) 3 4096) 4 4096
      let ks := tagCheck s b x.err true false false 0 0
      let s := if ks = [] then (if x.err = .cured then cured s c else s) else if tagOf s b = unwrittenTag then s else loseBlock s c b
      if r.next + 1 < remapStart then .next (modCellar s c (fun x => { x with remap := some { r with next := r.next + 1 } }))
      else
        let w := (ixs 8).filter (fun p => active s p && ownsOn s c r.pc p)
        let s := modCellar s c (fun x => { x with remap := some { r with next := remapStart, copied := true, waits := w } })
        .next (if w.isEmpty then pcFenceEffect s c else s)

/-! ### Wipe (R263) -/

/-- A wipe of every stack begins: every key slot is replaced, so that no earlier plaintext is left, and WIPE_BUSY is set
until the overwrite ends; the tags read UNWRITTEN (R248, R263); every page counts as changed since the last cut (R399). -/
def startWipe (s : State) : State :=
  { s with
    hbm := [], tags := [], vmap := [], freed := [], reqs := []
    keyEpochs := s.keyEpochs.map (· + 1)
    parts := s.parts.map (fun q => { q with ckp := { q.ckp with lastCut := 0, accum := ⟨true, []⟩ } })
    cellars := s.cellars.map (fun x => { x with wipeBusy := true, pieces := [], trackers := [], scrubSkipped := [], lostBlocks := [] }) }

/-- Is a stack of the variant still being wiped? -/
def wiping (s : State) : Bool := (ixs 12).any (fun c => decide (c.val < nStacks s) && (s.cellars[c]).wipeBusy)

/-- WIPE_END: the overwrite of a stack ends (R263). -/
def execWipeEnd (c : CellarIx) (s : State) : Res :=
  if asleep s (cellarDom c) then .next s else
  .next (modCellar s c (fun x => { x with wipeBusy := false }))

end Sys2Proof.Machine
end

