-- ==== Sys2Proof/Machine/Rebind.lean ====
section
/-! DEFINITION. Logical cores on physical cores: binding, rebinding, the start of a step, the step boundary, HALTED (R34, R41,
R44, R47, R66, R67, R103, R219, R311, R312, R371, R373). -/

namespace Sys2Proof.Machine

/-! ### Binding (R34, R41, R67) -/

/-- What a rebinding carries to another core: contexts, footprint, vector bank (R42, R66). -/
structure Lifted where
  ctxs : List Ctx
  bytes : Tbl Byte
  bank : VBank

/-- Take a logical core off its physical core. -/
def lift (c : Core) (b : Bound) (footprint : Nat) : Lifted :=
  { ctxs := (c.ctx.toList.drop b.ctxLo).take b.ctxN
    bytes := (c.store.filter (fun e => decide (b.base ≤ e.1 ∧ e.1 < b.base + footprint))).map (fun e => (e.1 - b.base, e.2))
    bank := c.banks[if c.bound.head? = some b then (0 : Fin 2) else 1] }

/-- Put contexts into a core from hardware context `lo` on. -/
def putCtxs (c : Core) (lo : Nat) (xs : List Ctx) : Core :=
  { c with ctx := Vector.ofFn (fun i : Fin 4 => if i.val < lo then c.ctx[i] else (xs[i.val - lo]?).getD c.ctx[i]) }

/-- Put lifted logical cores onto a physical core in order: contexts one after the other, the second footprint at the first's
size rounded up to 64 KiB (R67). -/
def putDown (p : PartIx) (c : Core) (l0 : Nat) (fp0 : Nat) (x0 : Lifted) (other : Option (Nat × Nat × Lifted)) : Core :=
  let c := { c with ctx := Vector.replicate 4 Ctx.reset, bound := [⟨p, l0, 0, x0.ctxs.length, 0⟩] }
  let c := putCtxs c 0 x0.ctxs
  let c : Core := { c with store := x0.bytes.foldl (fun t e => tset 0 t e.1 e.2) (tclear c.store 0 coreStoreBytes), banks := c.banks.set 0 x0.bank }
  match other with
  | none => c
  | some (l1, _, x1) =>
    let base := roundUp fp0 65536
    let c : Core := { c with bound := c.bound ++ [⟨p, l1, x0.ctxs.length, x1.ctxs.length, base⟩] }
    let c := putCtxs c x0.ctxs.length x1.ctxs
    { c with store := x1.bytes.foldl (fun t e => tset 0 t (base + e.1) e.2) c.store, banks := c.banks.set 1 x1.bank }

/-- The footprint that the plan gives a logical core. -/
def footprintOf (s : State) (p : PartIx) (l : Nat) : Nat := match lcoreE s p l with | some e => e.footprint | none => 0

/-- Contexts that the plan declares for a logical core. -/
def contextsOf (s : State) (p : PartIx) (l : Nat) : Nat := match lcoreE s p l with | some e => e.contexts | none => 0

/-- Do two logical cores fit on one physical core (R41)? -/
def fitTogether (s : State) (p : PartIx) (l k : Nat) : Bool :=
  decide (contextsOf s p l + contextsOf s p k ≤ 4
    ∧ roundUp (footprintOf s p (min l k)) 65536 + footprintOf s p (max l k) ≤ coreStoreBytes)

/-- Where a logical core that loses its physical core goes: the first case of R41 that fits, as the new physical core and the
logical core that it shares it with. -/
def newPlace (s : State) (p : PartIx) (l : Nat) : Option (CoreIx × Option Nat) :=
  match (coresOf s p).find? (fun n => !(s.cores[n]).fenced && (s.cores[n]).bound.isEmpty) with
  | some n => some (n, none)
  | none =>
    ((List.range (s.parts[p]).bind.length).filterMap (fun k =>
      match coreOf s p k with
      | some n => if k ≠ l ∧ !(s.cores[n]).fenced ∧ (s.cores[n]).bound.length = 1 ∧ fitTogether s p l k then some (n, some k) else none
      | none => none)).head?

/-- A logical core leaves a physical core: its hardware contexts are NONE (table CC-1), their exception records stay (log entry 184), and
a logical core that stays there keeps its vector bank, as bank 0 now (R172). -/
def takeOff (c : Core) (b : Bound) : Core :=
  let c := { c with ctx := Vector.ofFn (fun i : Fin 4 =>
    if b.ctxLo ≤ i.val ∧ i.val < b.ctxLo + b.ctxN then { Ctx.reset with exc := (c.ctx[i]).exc } else c.ctx[i]) }
  let c : Core := if c.bound.head? = some b then { c with banks := (c.banks.set 0 c.banks[1]).set 1 VBank.reset } else c
  { c with bound := c.bound.filter (fun x => x != b) }

/-- Move a logical core to another physical core (R41). DESIGN CHOICE (log entry 184): the exception records move with the contexts,
and the fenced core keeps what its own registers held. -/
def moveCore (s : State) (p : PartIx) (l : Nat) (old new : CoreIx) (share : Option Nat) : State :=
  let mine := (s.cores[old]).bound.find? (fun b => decide (b.part = p ∧ b.lcore = l))
  let x := match mine with
    | some b => lift s.cores[old] b (footprintOf s p l)
    | none => ⟨[], [], VBank.reset⟩
  let s := match mine with
    | some b => modCore s old (fun c => takeOff c b)
    | none => s
  let s := modCore s new (fun c =>
    match share, c.bound.head? with
    | some k, some b =>
      let y := lift c b (footprintOf s p k)
      if l < k then putDown p c l (footprintOf s p l) x (some (k, footprintOf s p k, y))
      else putDown p c k (footprintOf s p k) y (some (l, footprintOf s p l, x))
    | _, _ => putDown p c l (footprintOf s p l) x none)
  modPart s p (fun q => { q with bind := q.bind.set l (some new) })

/-- Rebind every logical core whose physical core is fenced, in ascending order; the answer names one that fits nowhere. -/
def rebind (s : State) (p : PartIx) : State × Option Nat :=
  (List.range (s.parts[p]).bind.length).foldl (fun (a : State × Option Nat) l =>
    match a.2, coreOf a.1 p l with
    | none, some n =>
      if (a.1.cores[n]).fenced then
        match newPlace a.1 p l with
        | some (m, k) => (moveCore a.1 p l n m k, none)
        | none => (a.1, some l)
      else a
    | _, _ => a) (s, none)

/-- No logical core is bound to a core, and its contexts are as ARM begins with them (R66, R103). -/
def unbindCore (c : Core) : Core :=
  { c with bound := [], ctx := Vector.replicate 4 Ctx.reset, current := 0, issued := 0, stopped := false, stopping := false }

/-- No logical core of a partition is bound to a physical core, and its cores hold no exception record (R103). -/
def unbindAll (s : State) (p : PartIx) : State :=
  let count := match (s.parts[p]).image with | some im => im.lcores.length | none => 0
  modPart (each (coresOf s p) s (fun s n => modCore s n unbindCore)) p (fun q => { q with bind := List.replicate count none })

/-- The binding at ARM of a partition none of whose logical cores is bound; the answer names the first logical core that fits nowhere,
if one does not (R34, R41). DESIGN CHOICE (log entry 185): logical cores take the lowest-numbered free in-service cores in ascending
order, and share once none is left. DESIGN CHOICE (log entry 186): the declared contexts are PARKED until the first START. -/
def bindAll (s : State) (p : PartIx) : State × Option Nat :=
  (List.range (s.parts[p]).bind.length).foldl (fun (a : State × Option Nat) l =>
    match a with
    | (s, some k) => (s, some k)
    | (s, none) =>
      let x : Lifted := ⟨List.replicate (contextsOf s p l) { Ctx.reset with st := .parked }, [], VBank.reset⟩
      let bound := fun (s : State) (n : CoreIx) => modPart s p (fun q => { q with bind := q.bind.set l (some n) })
      match newPlace s p l with
      | none => (s, some l)
      | some (n, none) => (bound (modCore s n (fun c => putDown p c l (footprintOf s p l) { x with bytes := c.store } none)) n, none)
      | some (n, some k) =>
        let s := modCore s n (fun c =>
          match c.bound.head? with
          | some b => putDown p c k (footprintOf s p k) (lift c b (footprintOf s p k)) (some (l, footprintOf s p l, x))
          | none => c)
        (bound s n, none)) (s, none)

/-! ### HALTED -/

/-- No plan is armed: every context of a core is in state NONE (table CC-1). -/
def unarmCore (c : Core) : Core := { c with ctx := c.ctx.map (fun x => { x with st := .none }), stopped := false, stopping := false }

/-- The plan enters HALTED with a cause, and the step state is IDLE (R47, R68, R99, R314). -/
def haltPlan (s : State) (p : PartIx) (cause : Nat) : State :=
  let s := each (coresOf s p) s (fun s n => modCore s n unarmCore)
  let s := modPart (setPlan s p .halted) p (fun q => { q with step := .idle, haltReq := false, haltCause := cause, discarding := false, fmHalt := false })
  pcFencePass s p

/-! ### Channels (R371, R373) -/

/-- Raise the limits of the SEND channels of a partition that a CREDIT names: those with a destination whose rank is at the
sender's node and partition under the channel (R371). -/
def applyCredit (s : State) (p : PartIx) (src spart chan limit : Nat) : State :=
  match (s.parts[p]).image with
  | none => s
  | some im =>
    modPart s p (fun q => { q with sends := q.sends.map (fun e =>
      match im.channels.find? (fun c => c.channel == e.channel) with
      | none => e
      | some c => { e with limits := (c.dests.zip e.limits).map (fun dl =>
          if rankNode s p dl.1.1 = (src, spart) ∧ dl.1.2 = chan then max dl.2 limit else dl.2) }) })

/-- Both ends of every channel start over for the current step and attempt, and CREDITs held for it apply (R371, R373). -/
def freshChannels (s : State) (p : PartIx) : State :=
  match (s.parts[p]).image with
  | none => s
  | some im =>
    let s := modPart s p (fun q =>
      { q with recvs := (im.channels.filter (fun c => c.kind == 0)).map (fun c => ⟨c.channel, [], 0, 0⟩)
               sends := (im.channels.filter (fun c => c.kind == 1)).map (fun c => ⟨c.channel, List.replicate c.dests.length 0⟩) })
    let (a, st) := stepAtt s p
    let mine := (s.parts[p]).credHeld.filter (fun h => decide (h.attempt = a ∧ h.step = st))
    let s := modPart s p (fun q => { q with credHeld := q.credHeld.filter (fun h => !(decide (h.attempt = a ∧ h.step = st))) })
    each mine s (fun s h => applyCredit s p h.src h.spart h.channel h.limit)

/-! ### The start of a step (R44, R66, R219, R228, R277, R323, R371) -/

/-- The held class B fields of a core's CC, MA and VE blocks apply: the start of a step is the boundary of these blocks on every core of
the partition (R10, R11). -/
def coreHolds (c : Core) : Core :=
  { c with
    waitLimit := c.waitHeld.getD c.waitLimit, waitHeld := none, quantum := c.quantumHeld.getD c.quantum, quantumHeld := none
    arrays := c.arrays.map (fun a => { a with regs := { a.regs with ramp := a.regs.rampHeld.getD a.regs.ramp, rampHeld := none } })
    ve := { c.ve with share := c.ve.shareHeld.getD c.ve.share, shareHeld := none } }

/-- The contexts of a core at the start of a step: at their entry offsets, counters 0, the lowest in RUN, the others READY (R66). -/
def startCore (s : State) (p : PartIx) (c : Core) : Core :=
  let c : Core :=
    { c with
      ctx := Vector.ofFn (fun i : Fin 4 =>
        let x := c.ctx[i]
        match boundOf c i with
        | none => x
        | some b =>
          match lcoreE s p b.lcore with
          | none => x
          | some lc =>
            { x with st := if i.val = 0 then .run else .ready, pc := BitVec.ofNat 40 (lc.entries.getD (i.val - b.ctxLo) 0)
                     c := Vector.replicate 8 0, waits := [], accs := [], trds := [] })
      stopped := false, stopping := false, current := 0, issued := 0, preload := none }
  stepLines s c

/-- A SOLO step takes what the vestibule recorded: fabric tokens at the sluices that hold waiters, contributions in list order
(R323). -/
def soloInputs (s : State) (p : PartIx) : State :=
  let q := s.parts[p]
  let recs := q.vest.filter (fun v => decide (v.step = q.stepNo))
  let s := each recs s (fun s v =>
    match v.r with
    | .tok b rank lcore => each (waiterDies s p b) s (fun s d => judgeToken s d ⟨p, b, .remote rank lcore, q.stepNo, q.attempt⟩)
    | _ => s)
  soloFeedAll (activate s p) p

/-- The held fields of SED_RATE apply (table SE-17). -/
def applyRate (r : SedRate) : SedRate := ⟨r.everyHeld.getD r.every, r.shiftHeld.getD r.shift, none, none⟩

/-- The step of a partition begins: RUN or SOLO is already its state. -/
def startStep (s : State) (p : PartIx) : State :=
  let q := s.parts[p]
  let s := modPart s p (fun q => { q with excFirst := none, starts := [], vestMark := none, vestAcked := none, discarding := false, abortPending := false })
  let s := each (coresOf s p) s (fun s n => modCore s n coreHolds)
  let s := each (coresOf s p) s (fun s n =>
    if (s.cores[n]).bound.any (fun b => b.part == p) then flowPc (modCore s n (startCore s p)) n 0 1 (ctxOf (modCore s n (startCore s p)) n 0).pc else s)
  let s := traceEvent s 0x01 (stepDetail s p)
  let s := { s with sluices := s.sluices.map (fun x => { x with held := x.held.filter (fun t => decide (t.part ≠ p)) }) }
  let s := modSed s (fun x => { x with rates := x.rates.set p.val (applyRate x.rates[p]) p.isLt })
  let s := clearItems s p
  let s := activate s p
  let s := each (ixs 12) s (fun s c => resumeParked s c p)
  let s := if q.step = .solo then soloInputs s p else s
  match q.image with
  | none => s
  | some im => each (im.channels.filter (fun c => c.kind == 0)) s (fun s c => sendCredit s p c)

/-! ### The step boundary (R11, R41, R166, R203, R243, R295, R311) -/

/-- A held host window applies (R389). -/
def applyWin (w : HostWin) : HostWin := match w.held with | some (b, n) => ⟨b, n, none⟩ | none => w

/-- Pending fences and held class B fields take effect (R10, R389). `flip` tells a flip from a discard: only a flip is a boundary of the CKP
block. -/
def settleHeld (s : State) (p : PartIx) (flip : Bool) : State :=
  let s := each (coresOf s p) s coreFences
  let s := each (ixs 12) s updFence
  let s := pcFencePass s p
  let s := modPart s p (fun q =>
    { q with maxAttempts := q.maxAttHeld.getD q.maxAttempts, maxAttHeld := none
             ckp := if flip then { q.ckp with cfg := q.ckp.held.getD q.ckp.cfg, held := none } else q.ckp })
  { s with pcie := { s.pcie with wins := s.pcie.wins.set p.val (applyWin s.pcie.wins[p]) p.isLt } }

/-- What a rebinding comes to: without a place for a logical core the partition enters HALTED with CORES_SHORT, which is reported (R41). -/
def settleBind (p : PartIx) (r : State × Option Nat) : State × Bool :=
  match r.2 with
  | none => (r.1, true)
  | some l => (partReport (haltPlan r.1 p 2) p 0x0E [l], false)

/-- A step boundary: what is held or pending takes effect, then logical cores of fenced cores are rebound. The answer says whether the
partition still runs. -/
def boundary (s : State) (p : PartIx) (flip : Bool) : State × Bool := settleBind p (rebind (settleHeld s p flip) p)

end Sys2Proof.Machine
end

