-- ==== Sys2Proof/Machine/Steps.lean ====
section
/-! DEFINITION. The step protocol: READY, the coordinator, tokens, commit, discard, the twin, SOLO, timeouts (R298 to R323, R327,
R350, R351; tables SP-1 to SP-5, SP-9). -/

namespace Sys2Proof.Machine

/-! ### Digests of versions (R350, R351) -/

/-- Change the digest exchange of a partition. -/
def modDigests (s : State) (p : PartIx) (f : Digests → Digests) : State :=
  modSed s (fun x => { x with digests := x.digests.set p.val (f x.digests[p]) p.isLt })

/-- Compare the own digest of a version with a peer's once both are held (R351). DEDUCED (log entry 238): the rank that R350 hashes into
D(v) is the sender's, so the own page digests are hashed again under the peer's rank. -/
def compareDigest (s : State) (p : PartIx) (rank : Nat) (v : Word) (d : BitVec 256) : State :=
  match (s.sed.digests[p]).own.find? (fun e => e.1 == v) with
  | none => s
  | some e =>
    let s := modDigests s p (fun x => { x with peers := x.peers.filter (fun y => !(decide (y.1 = rank ∧ y.2.1 = v))) })
    if digestAs (s.parts[p]).group rank v e.2 = d then modDigests s p (fun x => { x with agreed := x.agreed + 1 })
    else partReport (modSed s (fun x => { x with digestErr := true })) p 0x25 [v.toNat, rank]

/-- The page digests that the device keeps of the committed version, in ascending order of page (R350). -/
def keptDigests (s : State) (p : PartIx) : List (BitVec 256) := (shardPages s p).map (tget 0 (s.sed.digests[p]).pages)

/-- Forget every digest of earlier versions, own and peers' (R350, R351): the next versions are others. -/
def clearDigests (s : State) (p : PartIx) : State := modDigests s p (fun x => { x with own := [], peers := [], pages := [] })

/-- D(v) of the committed version is ready: it is kept, sent to every replica, and compared with those that peers have sent
(R350, R351). -/
def digestReady (s : State) (p : PartIx) : State :=
  let v := (s.parts[p]).version
  let every := (s.sed.rates[p]).every
  if every = 0 ∨ v.toNat % max 1 every ≠ 0 ∨ (s.sed.digests[p]).own.any (fun e => e.1 == v) then s
  else
    let ds := keptDigests s p
    let s := modDigests s p (fun x => { x with own := (x.own ++ [(v, ds)]).drop (x.own.length + 1 - 4) })
    let q := s.parts[p]
    let s := each (s.sed.digests[p]).replicas s (fun s r => sendRank s p r 0 (.digest q.group q.rank v (shardDigest s p v ds)))
    each ((s.sed.digests[p]).peers.filter (fun y => y.2.1 == v)) s (fun s y => compareDigest s p y.1 y.2.1 y.2.2)

/-! ### The mirror (R302, R316, R317) -/

/-- Is the mirror being kept or copied? -/
def mirroring (q : Part) : Bool := q.twin == .paired || q.twin == .syncing

/-- Pages that hold a block whose version changes at the flip: those with a SHADOW (R317). -/
def changedPages (s : State) (p : PartIx) : List Nat :=
  ((mapped s p).filter (fun e => e.2.shadow.isSome)).foldl (fun l e => addOnce (e.1 / 16) l) []

/-- Bytes of the image of a partition with its amax histories. -/
def imageBytes (q : Part) (im : Image) : Nat := im.length + 8 * (q.hists.map (·.len)).sum

/-- Send the image and the amax histories to the twin, in frames of at most 4,096 bytes (R316, R362; log entry 74). -/
def sendImage (s : State) (p : PartIx) : State :=
  let q := s.parts[p]
  match q.image with
  | none => s
  | some im =>
    if mirroring q then
      let n := imageBytes q im
      let pieces := max 1 (ceilDiv n 4096)
      each (List.range pieces) s (fun s k =>
        sendTwin s p 2 (.mirror (.image (4096 * k) (min 4096 (n - 4096 * k)) q.version im (histOf s p) (k + 1 == pieces))))
    else s

/-- The mirror of the committed version begins with a set of pages; one without pages is complete with an empty page
(log entry 74), and an unpaired device then has its digest. -/
def startMirror (s : State) (p : PartIx) (pages : List Nat) : State :=
  let s := sendImage s p
  let s := modPart s p (fun q => { q with mirTodo := pages.foldl (fun l g => addOnce g l) q.mirTodo })
  let q := s.parts[p]
  if q.mirTodo.isEmpty then
    if mirroring q then sendTwin s p 2 (.mirror (.page 0 q.version [] true)) else digestReady s p
  else s

/-- MIRROR_PAGE: the snapshot engines read a changed page at the committed version and send it to the twin; an unpaired device
reads it for the digest alone (R317, R350). A page whose tags fail is not delivered (R252; log entry 72). -/
def execMirrorPage (p : PartIx) (x : PageRead) (s : State) : Res :=
  let page := x.page
  if cellarsAsleep s then .next s else
  let q := s.parts[p]
  if !q.mirTodo.contains page then .next s
  else
    let base := match q.allot with | some a => a.base | none => 0
    match readPage s p page false x.errs with
    | (s, false) => .next s
    | (s, true) =>
      let s := modPart (countG s 3 65536) p (fun q => { q with mirTodo := q.mirTodo.filter (· != page) })
      let s := modDigests s p (fun x => { x with pages := tset 0 x.pages page (pageDigest s p page) })
      let done := (s.parts[p]).mirTodo.isEmpty
      if mirroring q then
        let bytes := pageBytes s p page false
        .next (each (List.range 16) s (fun s j =>
          sendTwin s p 2 (.mirror (.page (65536 * page - base + 4096 * j) q.version ((bytes.drop (4096 * j)).take 4096) (done && j == 15)))))
      else .next (if done then digestReady s p else s)

/-- Acknowledge a complete vestibule or mirror version to the partner (table SP-2). -/
def sendMirrorAck (s : State) (p : PartIx) (kind : Nat) (v : Word) : State :=
  let q := s.parts[p]
  sendTwin s p 0 (.step q.rank q.group q.epoch (.mirrorAck kind v))

/-- The twin keeps of its partner's vestibule the steps from the one that reads the complete version on (R317). -/
def keepRecs (m : Mirror) (from_ : Word) : Mirror := { m with recs := m.recs.filter (fun r => decide (from_.toNat ≤ r.step.toNat)) }

/-- An empty mirror. -/
def Mirror.empty : Mirror := ⟨0, [], [], none, [], none, [], none⟩

/-- The newest COMMIT token among what a mirror holds (R313). -/
def noteToken (m : Mirror) (r : VestRec) : Mirror :=
  match r.r with
  | .step t => if t.kind = 2 then { m with token := some t } else m
  | _ => m

/-- MIRROR: the twin takes a page, a vestibule record, an image with histories, or a release from its partner, on the twin port
only (R316, R317, R319, R376). The step that reads a complete version is the one after the COMMIT that made it current. -/
def execMirror (h : Arrival) (m : MirrorMsg) (s : State) : Res :=
  match arrive s h (.mirror m) true with
  | .error s => .next s
  | .ok s =>
    let p := h.dpart
    let q := s.parts[p]
    let right := match h.port with | some f => decide (q.twin ≠ .none ∧ q.twinPort = f.val ∧ q.twinPart = h.spart) | none => false
    if !right then .next (countNoTarget s h)
    else
      let mi := q.mirror.getD Mirror.empty
      let put := fun (s : State) (m : Mirror) => modPart s p (fun q => { q with mirror := some m })
      match m with
      | .page off v bytes last =>
        let mi : Mirror := if bytes.isEmpty then mi else { mi with next := tput mi.next (off / 4096) bytes }
        if last then
          let mi : Mirror := { mi with pages := mi.next.foldl (fun t e => tput t e.1 e.2) mi.pages, next := [], version := v }
          let mi : Mirror := match mi.nextImage with
            | some (im, hist) => { mi with image := some im, hist := hist, nextImage := none }
            | none => mi
          let mi := match mi.token with
            | some t => if t.version = v then keepRecs mi (t.step + 1) else mi
            | none => mi
          .next (sendMirrorAck (put s mi) p 2 v)
        else .next (put s mi)
      | .vest step r last =>
        let mi : Mirror := match r with | some r => noteToken { mi with recs := mi.recs ++ [r] } r | none => mi
        let s := put s mi
        .next (if last then sendMirrorAck s p 1 step else s)
      | .image _ _ _ im hist last => .next (if last then put s { mi with nextImage := some (im, hist) } else s)
      | .release =>
        .next (modPart s p (fun q => { q with twin := .none, mirror := none, mirTodo := [], vestAcked := none, vestMark := none, mirrorVersion := 0 }))

/-- Drop what the vestibule need no longer hold: records of steps before the one that reads version `v` (R304). -/
def releaseVest (s : State) (p : PartIx) (v : Word) : State :=
  let q := s.parts[p]
  let first := q.stepNo - (q.version - v)
  keepVest s p (fun r => decide (first.toNat ≤ r.step.toNat))

/-- Is a message of the group and epoch of a partition (R300)? -/
def sameGroup (q : Part) (group epoch : W32) : Bool := group == q.group && epoch == q.epoch

/-- Count a discarded message (R300, R310). -/
def staleMsg (s : State) (p : PartIx) : State := modPart s p (fun q => { q with staleCount := satAdd q.staleCount 1 0xFFFF })

/-- MIRROR_ACK: the twin holds a vestibule or a mirror version complete (R304, R317, R351). -/
def execMirrorAck (h : Arrival) (group epoch : W32) (sender : Nat) (kind : Nat) (value : Word) (s : State) : Res :=
  match arrive s h (.step sender group epoch (.mirrorAck kind value)) true with
  | .error s => .next s
  | .ok s =>
    let p := h.dpart
    if !sameGroup s.parts[p] group epoch then .next (staleMsg s p)
    else
      match kind with
      | 1 => .next (modPart s p (fun q => { q with vestAcked := some value }))
      | 2 =>
        let s := modPart s p (fun q => { q with mirrorVersion := value })
        let s := releaseVest s p value
        .next (if (s.parts[p]).version = value then digestReady s p else s)
      | _ => .next s

/-- TWIN_SYNC_DONE: the mirror version at the twin equals the version that the current step reads (R316). -/
def execTwinSyncDone (p : PartIx) (s : State) : Res :=
  if asleep s mgmtDom then .next s else
  let q := s.parts[p]
  if q.twin = .syncing ∧ q.mirTodo = [] ∧ q.mirrorVersion = q.version then .next (modPart s p (fun q => { q with twin := .paired }))
  else .next s

/-! ### READY (R233, R307, R318) -/

/-- Is the work of a partition's step finished (R233)? -/
def workDone (s : State) (p : PartIx) : Bool :=
  (coresOf s p).all (fun n =>
    let c := s.cores[n]
    (ixs 4).all (fun i => (boundOf c i).isNone || ((c.ctx[i]).st == .parked && (c.ctx[i]).accs.isEmpty && (c.ctx[i]).trds.isEmpty))
      && c.mq.isEmpty && c.vq.isEmpty && c.sq.isEmpty)
    && (ixs 2).all (fun d => (s.sluices[d]).ctxs.all (fun e => decide (e.2.part ≠ p)))

/-- Do conditions 1 to 3 of R307 hold? -/
def stepDone (s : State) (p : PartIx) : Bool := workDone s p && updatesDone s p && !itemsOpen s p && !(s.parts[p]).discarding

/-- Send READY and enter PREPARED (R307). -/
def goReady (s : State) (p : PartIx) (unpaired : Bool) : State :=
  let q := s.parts[p]
  let s := sendStep (modPart s p (fun q => { q with step := .prepared })) p q.coord (.ready q.stepNo q.attempt unpaired)
  let s := traceEvent s 0x02 (stepDetail s p)
  if unpaired then partReport s p 0x08 [] else s

/-- READY: conditions 1 to 3 hold. A paired device first tells its twin that the vestibule is complete, and sends READY once the twin
has acknowledged it and the mirror of the version read (R307, R317); an unpaired one follows R318. -/
def execReady (p : PartIx) (s : State) : Res :=
  if asleep s mgmtDom then .next s else
  let q := s.parts[p]
  if q.step ≠ .run || !stepDone s p then .next s
  else if q.twin = .paired then
    if q.vestMark ≠ some (q.stepNo, q.attempt) then
      .next (sendTwin (modPart s p (fun q => { q with vestMark := some (q.stepNo, q.attempt) })) p 2 (.mirror (.vest q.stepNo none true)))
    else if q.vestAcked = some q.stepNo ∧ q.mirrorVersion = q.version then .next (goReady s p false)
    else .next s
  else if q.requireTwin then
    if q.twinLostSent then .next s
    else .next (partReport (modPart s p (fun q => { q with twinLostSent := true })) p 0x07 [q.twinRank])
  else .next (goReady s p true)

/-! ### Commit (R311) -/

/-- The flip and the step boundary of an accepted COMMIT, a FLIP or a recorded COMMIT (R311). The answer says whether the partition
goes on to its next step. DESIGN CHOICE (log entry 235): without a mirror, whose acknowledgement R304 waits for, the vestibule drops the committed
step here. -/
def commitStep (s : State) (p : PartIx) (t : Token) : State × Bool :=
  let q := s.parts[p]
  let s := modPart (dumpStepEnd s p 3) p (fun q => { q with token := some t, applied := q.applied ++ [t] })
  let s := capture s p q.stepNo q.attempt (.step t)
  let pages := changedPages s p
  let s := flipHistories (flipVersions s p) p q.stepNo.toNat
  let s := modPart s p (fun q => { q with stepNo := q.stepNo + 1, version := q.version + 1, attempt := 0, readySet := [], discardedSet := [], failClassP := false })
  let s := traceEvent (countP s p 0 1) 0x03 (s.parts[p]).version.toNat
  let s := takeCut (setScales s p) p
  let s := startMirror s p pages
  let s := if mirroring s.parts[p] then s else releaseVest s p (s.parts[p]).version
  let s := clearUpd s p false
  let s := freshChannels s p
  let s := each (coresOf s p) s (fun s n => modCore s n (fun c => dropFlumes (dropKept c)))
  boundary s p true

/-- Apply a COMMIT: the next step begins in RUN at once, or the plan halts on a pending request (R311). -/
def applyCommit (s : State) (p : PartIx) (t : Token) : State :=
  let r := commitStep s p t
  let s := r.1
  if !r.2 then s
  else if (s.parts[p]).haltReq then haltPlan s p 1
  else startStep (modPart s p (fun q => { q with step := .run })) p

/-! ### Discard (R99, R312) -/

/-- Begin the discard of the current step (R312): the partition stops; DISCARD_COMPLETE ends it. -/
def beginDiscard (s : State) (p : PartIx) (byAbort : Bool) : State :=
  modPart (stopPart s p) p (fun q => { q with discarding := true, abortPending := byAbort })

/-- Have the engines of a core come to rest for a discard: queues empty, except an MMA that waits for a full flume? -/
def engineQuiet (c : Core) : Bool :=
  c.vq.isEmpty && c.sq.isEmpty && (c.mq.isEmpty ||
    (match c.mq.head? with
     | some ⟨_, _, .mma j⟩ => j.f.drain == .flume && (ixs 2).any (fun b => !(c.banks[b]).waiting.isEmpty)
     | _ => false))

/-- A discard drops what the engines and contexts of a core still hold, accumulator contents too, and returns FAULTED and STOPPED
contexts to PARKED with their records (R103, R157, R196, R312). -/
def discardCore (p : PartIx) (c : Core) : Core :=
  let c := dropFlumes
    { c with mq := [], vq := [], sq := [], kept := none, preload := none, stopped := false, stopping := false
             arrays := c.arrays.map (fun a => { a with half0 := Half.reset, half1 := Half.reset }) }
  { c with ctx := Vector.ofFn (fun i : Fin 4 =>
      let x := c.ctx[i]
      let mine := match boundOf c i with | some b => decide (b.part = p) | none => false
      if mine then { x with st := if x.st == .none then .none else .parked, waits := [], accs := [], trds := [] } else x) }

/-- DISCARD_COMPLETE: the discard of a step ends (R312). Outstanding hall buffer stores take effect; loads are dropped. -/
def execDiscardComplete (p : PartIx) (s : State) : Res :=
  if asleep s mgmtDom then .next s else
  let q := s.parts[p]
  if !q.discarding || !(coresOf s p).all (fun n => engineQuiet s.cores[n]) then .next s
  else
    let s := each (coresOf s p) s (fun s n =>
      each (ixs 4) s (fun s i =>
        each ((ctxOf s n i).accs.filter (fun a => a.store && a.space == .hall)) s (fun s a =>
          writeHall s (dieOfCore n) ((hallView s p (dieOfCore n)).1 + a.addr) (leBytes a.size a.data))))
    let s := endStreams s p
    let s := each (coresOf s p) s (fun s n => modCore s n (discardCore p))
    let loads := (s.reqs.filter (fun r => decide (r.part = p) && !r.write && (match r.who with | .scalar .. => true | _ => false))).map (·.id)
    let s := { s with reqs := s.reqs.filter (fun r => !loads.contains r.id)
                      cellars := s.cellars.map (fun c => { c with pieces := c.pieces.filter (fun x => !loads.contains x.req) }) }
    let s := dumpStepEnd (traceEvent (countP (freeShadows s p) p 1 1) 0x04 (stepDetail s p)) p 5
    let s := modSed s (fun x => { x with items := x.items.filter (fun i => decide (i.part ≠ p)) })
    let s := clearUpd (modPart s p (fun q => { q with shadowRec := [] })) p true
    let old := q.attempt
    let s := modPart s p (fun q =>
      { q with attempt := q.attempt + 1, step := .waitStart, discarding := false, abortPending := false, excFirst := none
               vestAcked := none, vestMark := none })
    let s := freshChannels s p
    let (s, on) := boundary s p false
    let s := if q.abortPending then sendStep s p q.coord (.discarded q.stepNo old) else s
    if !on then .next (abandon s p 3)
    else if q.fmHalt then .next (abandon (haltPlan s p 3) p 3)
    else if q.haltReq then .next (abandon (haltPlan s p 1) p 3)
    else .next s

/-! ### The coordinator (R308, R309) -/

/-- A token of the coordinator (table SP-3). Its MAC is a free value. -/
def makeToken (s : State) (p : PartIx) (kind : Nat) (version : Word) : State × Token :=
  let q := s.parts[p]
  ({ s with freeIx := s.freeIx + 2 },
    ⟨q.group, q.epoch, q.stepNo, version, kind, q.attempt, q.rank, Config.freeWord s.freeIx, Config.freeWord (s.freeIx + 1)⟩)

/-- Send a token to the other ranks in ascending order (R308). -/
def broadcast (s : State) (p : PartIx) (m : StepMsg) : State :=
  let q := s.parts[p]
  each ((List.range q.ranks).filter (· != q.rank)) s (fun s r => sendStep s p r m)

/-- Is a partition the coordinator of its group? -/
def isCoord (q : Part) : Bool := q.inGroup && q.coord == q.rank

/-- Has the coordinator made its token for the current step and attempt? -/
def tokenMade (q : Part) : Bool :=
  match q.made with
  | some t => t.step == q.stepNo && t.attempt == q.attempt && t.epoch == q.epoch && decide (t.kind ≠ 1)
  | none => false

/-- Take an ABORT on this device (R310, R314): RUN, STOPPED or PREPARED of the token's step and attempt. -/
def applyAbort (s : State) (p : PartIx) (t : Token) : State := beginDiscard (modPart s p (fun q => { q with applied := q.applied ++ [t] })) p true

/-- With READY from every rank the coordinator makes COMMIT, sends it, and applies it to itself (R308). -/
def tryCommit (s : State) (p : PartIx) : State :=
  let q := s.parts[p]
  if tokenMade q || !((List.range q.ranks).all q.readySet.contains) || decide (q.step ≠ .prepared) then s
  else
    let (s, t) := makeToken s p 2 (q.version + 1)
    let s := broadcast (modPart s p (fun q => { q with made := some t })) p (.commit t)
    applyCommit s p t

/-- COORD_READY: the coordinator takes a READY of its current step and attempt (R300, R308). -/
def execCoordReady (h : Arrival) (group epoch : W32) (sender : Nat) (step : Word) (attempt : Nat) (unpaired : Bool) (s : State) : Res :=
  match arrive s h (.step sender group epoch (.ready step attempt unpaired)) true with
  | .error s => .next s
  | .ok s =>
    let p := h.dpart
    let q := s.parts[p]
    if !sameGroup q group epoch then .next (staleMsg s p)
    else if isCoord q ∧ step = q.stepNo ∧ attempt = q.attempt then
      .next (tryCommit (modPart s p (fun q => { q with readySet := addOnce sender q.readySet })) p)
    else .next s

/-- FAIL: before it has made COMMIT the coordinator makes ABORT, sends it, and applies it to itself; class P is reported (R308). -/
def execFail (h : Arrival) (group epoch : W32) (sender : Nat) (step : Word) (attempt : Nat) (classH : Bool) (cause : Nat) (s : State) : Res :=
  match arrive s h (.step sender group epoch (.fail step attempt classH cause)) true with
  | .error s => .next s
  | .ok s =>
    let p := h.dpart
    let q := s.parts[p]
    if !sameGroup q group epoch then .next (staleMsg s p)
    else if isCoord q ∧ step = q.stepNo ∧ attempt = q.attempt then
      let s := modPart s p (fun q => { q with failClassP := q.failClassP || !classH, failCause := cause })
      let s := if classH then s else partReport s p 0x03 [0, cause]
      if tokenMade q then .next s
      else
        let (s, t) := makeToken s p 3 q.version
        let s := broadcast (modPart s p (fun q => { q with made := some t })) p (.abort t)
        .next (if q.step = .run ∨ q.step = .stopped ∨ q.step = .prepared then applyAbort s p t else s)
    else .next s

/-- Make START for the current step and attempt and send it to every rank, this one included (R308). -/
def sendStart (s : State) (p : PartIx) : State :=
  let (s, t) := makeToken s p 1 (s.parts[p]).version
  let s := modPart s p (fun q => { q with made := some t, readySet := [], discardedSet := [], failClassP := false })
  each (List.range (s.parts[p]).ranks) s (fun s r => sendStep s p r (.start t))

/-- DISCARDED: with one from every rank the coordinator sends START for the next attempt, unless a FAIL was of class P or the limit
of attempts is reached (R308). -/
def execDiscarded (h : Arrival) (group epoch : W32) (sender : Nat) (step : Word) (attempt : Nat) (s : State) : Res :=
  match arrive s h (.step sender group epoch (.discarded step attempt)) true with
  | .error s => .next s
  | .ok s =>
    let p := h.dpart
    let q := s.parts[p]
    let mine := match q.made with | some t => decide (t.kind = 3 ∧ t.step = step ∧ t.attempt = attempt) | none => false
    if !sameGroup q group epoch then .next (staleMsg s p)
    else if !isCoord q || !mine then .next s
    else
      let s := modPart s p (fun q => { q with discardedSet := addOnce sender q.discardedSet })
      let q := s.parts[p]
      if !((List.range q.ranks).all q.discardedSet.contains) || decide (q.step ≠ .waitStart) then .next s
      else if q.failClassP then .next s
      else if q.maxAttempts ≤ attempt + 1 then .next (partReport s p 0x10 [attempt])
      else .next (sendStart s p)

/-! ### Tokens on arrival (R300, R310) -/

/-- Judge a token that arrives in a message: group and epoch of the message, a duplicate, the MAC, then whether it fits (R300,
R310). -/
def takeToken (s : State) (p : PartIx) (group epoch : W32) (sender : Nat) (t : Token) (kind : Nat) (macOk : Bool) (fits : Part → Bool)
    (effect : State → State) : State :=
  let q := s.parts[p]
  if !sameGroup q group epoch then staleMsg s p
  else if q.applied.contains t then s
  else if !macOk then
    partReport (modPart s p (fun q => { q with badToken := true, badTokenCount := satAdd q.badTokenCount 1 0xFFFF })) p 0x11 [t.kind, sender]
  else if t.kind = kind ∧ t.group = q.group ∧ t.epoch = q.epoch ∧ fits q then effect s
  else staleMsg s p

/-- START: the device is in WAIT_START, and step, attempt and version are its own (R310, R314). -/
def execStart (h : Arrival) (group epoch : W32) (sender : Nat) (t : Token) (macOk : Bool) (s : State) : Res :=
  match arrive s h (.step sender group epoch (.start t)) true with
  | .error s => .next s
  | .ok s =>
    let p := h.dpart
    .next (takeToken s p group epoch sender t 1 macOk
      (fun q => decide (q.step = .waitStart ∧ t.step = q.stepNo ∧ t.attempt = q.attempt ∧ t.version = q.version))
      (fun s =>
        let s := if s.cnt.win[p] = 1 then newWindow s p else s
        let s := modPart (setPlan s p .running) p (fun q => { q with step := .run, ranStep := true, applied := q.applied ++ [t] })
        capture (startStep s p) p t.step t.attempt (.step t)))

/-- COMMIT: the device is PREPARED for the step and attempt, and the version is its own plus one (R310, R311). -/
def execCommit (h : Arrival) (group epoch : W32) (sender : Nat) (t : Token) (macOk : Bool) (s : State) : Res :=
  match arrive s h (.step sender group epoch (.commit t)) true with
  | .error s => .next s
  | .ok s =>
    let p := h.dpart
    .next (takeToken s p group epoch sender t 2 macOk
      (fun q => decide (q.step = .prepared ∧ t.step = q.stepNo ∧ t.attempt = q.attempt ∧ t.version = q.version + 1))
      (fun s => applyCommit s p t))

/-- ABORT: step and attempt are its own, and it is in RUN, STOPPED or PREPARED (R310, R312). -/
def execAbort (h : Arrival) (group epoch : W32) (sender : Nat) (t : Token) (macOk : Bool) (s : State) : Res :=
  match arrive s h (.step sender group epoch (.abort t)) true with
  | .error s => .next s
  | .ok s =>
    let p := h.dpart
    .next (takeToken s p group epoch sender t 3 macOk
      (fun q => decide ((q.step = .run ∨ q.step = .stopped ∨ q.step = .prepared) ∧ t.step = q.stepNo ∧ t.attempt = q.attempt))
      (fun s => applyAbort s p t))

/-! ### SOLO, timeouts, heartbeats (R309, R318, R320, R323, R327) -/

/-- The COMMIT token that the vestibule records for the current step. -/
def recordedCommit (q : Part) : Option Token :=
  q.vest.findSome? (fun v =>
    match v.r with
    | .step t => if t.kind = 2 ∧ t.step = q.stepNo then some t else none
    | _ => none)

/-- SOLO_COMMIT: the retained step is finished; the spare flips on the recorded COMMIT, reports CAUGHT_UP, and waits for START at the
target attempt (R323). -/
def execSoloCommit (p : PartIx) (s : State) : Res :=
  if asleep s mgmtDom then .next s else
  let q := s.parts[p]
  if q.step ≠ .solo || !stepDone s p then .next s
  else
    match recordedCommit q with
    | none => .next s
    | some t =>
      match commitStep s p t with
      | (s, on) =>
        let s := partReport s p 0x09 [(s.parts[p]).version.toNat]
        if !on then .next s
        else if (s.parts[p]).haltReq then .next (haltPlan s p 1)
        else .next (freshChannels (modPart s p (fun q => { q with step := .waitStart, attempt := q.soloAttempt })) p)

/-- READY_TIMEOUT: READY_TIMEOUT after the first READY of a step, ranks are missing; the coordinator reports and keeps waiting
(R309). -/
def execReadyTimeout (p : PartIx) (s : State) : Res :=
  if timersHeld s then .next s else
  let q := s.parts[p]
  let missing := (List.range q.ranks).filter (fun r => !q.readySet.contains r)
  if !isCoord q || q.readySet.isEmpty || missing.isEmpty || tokenMade q then .next s
  else .next (partReport s p 0x05 [q.attempt, missing.headD 0, missing.length])

/-- COMMIT_TIMEOUT: the device has been PREPARED for COMMIT_TIMEOUT_MS (table SP-9). -/
def execCommitTimeout (p : PartIx) (s : State) : Res :=
  if timersHeld s then .next s else
  let q := s.parts[p]
  if q.step = .prepared then .next (partReport (modPart s p (fun q => { q with commitTimeoutErr := true })) p 0x06 [q.attempt])
  else .next s

/-- The twin state of a partition becomes LOST (table SP-5). -/
def twinLost (s : State) (p : PartIx) : State :=
  let q := s.parts[p]
  partReport (modPart s p (fun q => { q with twin := .lost, twinLostErr := true, twinLostSent := true })) p 0x07 [q.twinRank]

/-- Report a silent rank of a partition's group (table SP-9). -/
def peerLost (s : State) (p : PartIx) (port rank : Nat) : State := partReport s p 0x04 [port, rank]

/-- PEER_LOST: a link has carried nothing for PEER_TIMEOUT_MS, whatever its port's state, once a peer has been found on it. On a twin port the twin
is LOST; on any other the peer is reported for each partition whose rank map places a rank at the peer's node (R320, table SP-9). The same for a
rank that does not answer, on the port that leads to it (R374), and for a twin that is reported failed (table SP-5). -/
def execPeerLost (x : Silent) (s : State) : Res :=
  if timersHeld s then .next s else
  match x with
  | .link port =>
    let f := s.fab.ports[port]
    let twins := (ixs 8).filter (fun p => decide ((s.parts[p]).twin ≠ .none ∧ (s.parts[p]).twin ≠ .lost ∧ (s.parts[p]).twinPort = port.val))
    if !twins.isEmpty then .next (each twins s twinLost)
    else if f.keyGen = 0 then .next s
    else
      .next (each (ixs 8) s (fun s p =>
        if (s.parts[p]).inGroup then
          match (List.range (s.parts[p]).ranks).find? (fun r => (rankNode s p r).1 == f.peerNode && r != (s.parts[p]).rank) with
          | some r => peerLost s p port.val r
          | none => s
        else s))
  | .rank p rank =>
    let q := s.parts[p]
    if q.inGroup ∧ rank < q.ranks ∧ rank ≠ q.rank then
      let ps := entryPorts s (rankNode s p rank).1 (fun _ => true)
      .next (peerLost s p (match ps.head? with | some f => f.val | none => 31) rank)
    else .next s
  | .twin p =>
    if (s.parts[p]).twin ≠ .none ∧ (s.parts[p]).twin ≠ .lost then .next (twinLost s p) else .next s

/-- Code of a step state (table SP-1). -/
def stepCode : StepSt → Nat
  | .idle => 0 | .waitStart => 1 | .run => 2 | .prepared => 3 | .stopped => 4 | .solo => 5 | .spare => 6

/-- Code of a twin state (table SP-5). -/
def twinCode : TwinSt → Nat
  | .none => 0 | .handshake => 1 | .syncing => 2 | .paired => 3 | .lost => 4

/-- HEARTBEAT: state, committed version, twin state, every HEARTBEAT_MS (table SP-9). It is not queued: a newer one replaces an
unsent one (R387). -/
def execHeartbeat (p : PartIx) (s : State) : Res :=
  if asleep s mgmtDom || timersHeld s then .next s else
  let q := s.parts[p]
  match q.allot with
  | none => .next s
  | some _ =>
    let s := reserveSeq s
    let r : Report := ⟨s.mgmt.nextSeq, 1, p.val, q.epoch, q.stepNo, [stepCode q.step, q.version.toNat, twinCode q.twin]⟩
    .next (emit { s with mgmt := { s.mgmt with nextSeq := s.mgmt.nextSeq + 1, beat := some r } } (.report r))

end Sys2Proof.Machine
end

