-- ==== Sys2Proof/Machine/Fabric.lean ====
section
/-! DEFINITION. Frames on arrival, link frames, port training, lane fences, host read data (R302, R351, R359 to R376, R381, R387, R401;
tables FB-1, FB-6, FB-16). -/

namespace Sys2Proof.Machine

/-! ### Step-tagged frames (R373, table FB-6) -/

/-- How table FB-6 judges a frame's step and attempt: current in a running step, current while waiting for START, a later attempt, the
next step, or anything else. -/
inductive Tag where
  | now | waiting | later | next | stale
  deriving DecidableEq, Repr

/-- Judge step and attempt of a frame against those of a partition (table FB-6). -/
def tagOfFrame (s : State) (p : PartIx) (attempt step : Nat) : Tag :=
  let q := s.parts[p]
  let (a, st) := stepAtt s p
  if step = st ∧ attempt = a then (if q.step = .waitStart then .waiting else .now)
  else if step = st ∧ a < attempt then .later
  else if step = (st + 1) % 2 ^ 56 ∧ attempt = 0 then .next
  else .stale

/-- May a partition take step-tagged frames: ARMED or RUNNING, and in a group (R373)? -/
def taking (s : State) (p : PartIx) : Bool := active s p && (s.parts[p]).inGroup

/-- Discard a frame as NO_TARGET, with its DACK (R373, R374). -/
def noTarget (s : State) (h : Arrival) : State := dackFor (countNoTarget s h) h

/-- Discard a frame as STALE, with its DACK (R373, R374). -/
def stale (s : State) (h : Arrival) : State := dackFor (countStale s h) h

/-- The dies whose hall buffer holds the landing ring of a channel: those with a descriptor or active stream that reads it, else
those with any descriptor of source space 4, else both (log entry 33). -/
def ringDies (s : State) (p : PartIx) (chan : Nat) : List DieIx :=
  let has := fun (d : DieIx) (ok : Desc → Bool) =>
    match (s.parts[p]).image with
    | none => false
    | some im => (List.range im.lcores.length).any (fun l =>
        match im.lcores[l]?, coreOf s p l with
        | some lc, some n => decide (dieOfCore n = d) && lc.descs.any (fun ws => ok (parseDesc ws))
        | _, _ => false)
  let exact := (ixs 2).filter (fun d =>
    has d (fun x => x.src == 4 && decide (x.srcOff.toNat / 2 ^ 40 = chan))
      || (s.sluices[d]).ctxs.any (fun e => decide (e.2.part = p) && e.2.desc.src == 4 && (chanPos (srcAddr e.2 0)).1 == chan))
  if !exact.isEmpty then exact
  else
    let some4 := (ixs 2).filter (fun d => has d (fun x => x.src == 4))
    if some4.isEmpty then ixs 2 else some4

/-- Write the bytes of a PUT into the landing ring of its channel (R370). -/
def ringWrite (s : State) (p : PartIx) (c : ChannelE) (pos : Nat) (bytes : List Byte) : State :=
  let size := max 1 (4096 * c.ringPages)
  let s := each (ringDies s p c.channel) s (fun s d =>
    let put := fun (t : Tbl Byte) (e : Nat × Byte) => tset 0 t ((hallView s p d).1 + c.ring + (pos + e.1) % size) e.2
    let bs := (List.range bytes.length).zip bytes
    { s with hall := s.hall.set d.val (bs.foldl put s.hall[d]) d.isLt })
  modPart s p (fun q => { q with recvs := q.recvs.map (fun r => if r.channel = c.channel then { r with segs := r.segs ++ [(pos, bytes.length)] } else r) })

/-- The bytes of an accepted PUT cross to the hall buffers of their channel; while the region that clocks one is stopped the frame, which its
DACK has answered, stands in the queue of the frames that wait for their delivery (R472). -/
def putAccepted (s : State) (h : Arrival) (c : ChannelE) (pos : Nat) (bytes : List Byte) (b : FBody) : State :=
  if (ringDies s h.dpart c.channel).any (fun d => asleep s (sluiceDom d)) then
    { s with fab := { s.fab with loop := s.fab.loop ++ [⟨vlOf b, 0, h.spart, h.dpart.val, s.fab.node, h.src, h.spd, h.seq, b⟩] } }
  else ringWrite s h.dpart c pos bytes

/-- PUT (R370, R373). -/
def execPut (h : Arrival) (chan pos attempt step : Nat) (bytes : List Byte) (s : State) : Res :=
  match arrive s h (.put chan pos attempt step bytes) false with
  | .error s => .next s
  | .ok s =>
    let p := h.dpart
    if !taking s p then .next (noTarget s h)
    else
      match tagOfFrame s p attempt step with
      | .now =>
        match channelOf s p chan with
        | some c => if c.kind = 0 then .next (dackFor (putAccepted s h c pos bytes (.put chan pos attempt step bytes)) h) else .next (noTarget s h)
        | none => .next (noTarget s h)
      | .waiting => .next (sendRetry s h p (.put chan pos attempt step bytes))
      | .later => .next (sendRetry s h p (.put chan pos attempt step bytes))
      | .next => .next (sendRetry s h p (.put chan pos attempt step bytes))
      | .stale => .next (stale s h)

/-- CREDIT: applied, or held for the step and attempt that it names (R371, R373). -/
def execCredit (h : Arrival) (chan limit attempt step : Nat) (s : State) : Res :=
  match arrive s h (.credit chan limit attempt step) false with
  | .error s => .next s
  | .ok s =>
    let p := h.dpart
    if !taking s p then .next (countNoTarget s h)
    else
      match tagOfFrame s p attempt step with
      | .now => .next (applyCredit s p h.src h.spart chan limit)
      | .waiting => .next (applyCredit s p h.src h.spart chan limit)
      | .stale => .next (countStale s h)
      | _ => .next (modPart s p (fun q => { q with credHeld := q.credHeld ++ [⟨h.src, h.spart, chan, limit, attempt, step⟩] }))

/-- The cellar die whose reduction engine a contribution reaches; one that names no reduction of the plan reaches the die of its granule's number
(log entry 202). -/
def contribDie (s : State) (p : PartIx) (red granule : Nat) : Option CellarIx :=
  match (reductionOf s p red).bind (fun r => tensorOf s p r.target) with
  | some t => deputyOf s (granuleStack s p t granule)
  | none => some (cellarOf s granule)

/-- Count a contribution that no list of the plan has, or one of a wrong step, on the cellar die that it reaches (R274, table UP-7). -/
def countUpd (s : State) (p : PartIx) (red granule : Nat) (unlisted : Bool) : State :=
  modUpd s ((contribDie s p red granule).getD (cellarOf s granule)) (fun u =>
    if unlisted then { u with unlisted := satAdd u.unlisted 1 0xFFFF } else { u with stale := satAdd u.stale 1 0xFFFF })

/-- CONTRIB: to the reduction engine of the die that serves its granule, or parked there for the next step (R270 to R274, R296, R302, R373). -/
def execContrib (h : Arrival) (red fmt : Nat) (e : Int) (rank granule attempt step : Nat) (x : ContribData) (s : State) : Res :=
  let raws := x.raws
  let body := FBody.contrib red fmt e rank granule attempt step raws
  match arrive s h body false with
  | .error s => .next s
  | .ok s =>
    let p := h.dpart
    if !taking s p then .next (noTarget s h)
    else
      let take := fun (soon : Bool) =>
        match contribDie s p red granule with
        | none => .next (sendRetry s h p body)
        | some c =>
          match stagingFault s c p x.staging with
          | (s, true) => .next (sendRetry s h p body)
          | (s, false) =>
            let vals := contribVals fmt e raws
            let keep := fun (s : State) (stepNo : Word) => dackFor (capture s p stepNo attempt (.contrib red granule rank fmt e raws)) h
            let now := (s.parts[p]).stepNo
            if soon then
              match park s c ⟨p, red, granule, rank, now + 1, vals⟩ with
              | (s, true) => .next (updBoundary (keep s (now + 1)) c)
              | (s, false) => .next (sendRetry s h p body)
            else
              match (reductionOf s p red).filter (fun r => listed s p r rank granule) with
              | none => .next (dackFor (countUpd s p red granule true) h)
              | some r =>
                match contribute s c p r granule (r.ranks.idxOf rank) vals with
                | (s, true) => .next (updBoundary (keep s now) c)
                | (s, false) => .next (sendRetry s h p body)
      match tagOfFrame s p attempt step with
      | .now => take false
      | .waiting => take false
      | .later => .next (sendRetry s h p body)
      | .next => take true
      | .stale => .next (stale (countUpd s p red granule false) h)

/-- TOKEN: to the sluices that hold the barrier's waiters (R45, R302, R373, R508). -/
def execToken (h : Arrival) (rank lcore barrier attempt step : Nat) (s : State) : Res :=
  match arrive s h (.token rank lcore barrier attempt step) false with
  | .error s => .next s
  | .ok s =>
    let p := h.dpart
    let q := s.parts[p]
    if !taking s p then .next (noTarget s h)
    else
      match tagOfFrame s p attempt step with
      | .now =>
        match barrierOf s p barrier with
        | none => .next (noTarget s h)
        | some b =>
          if !b.sources.contains (.remote rank lcore) then .next (noTarget s h)
          else
            let s := capture s p q.stepNo q.attempt (.tok barrier rank lcore)
            let s := each (waiterDies s p barrier) s (fun s d => judgeToken s d ⟨p, barrier, .remote rank lcore, q.stepNo, q.attempt⟩)
            .next (dackFor (activate (wakePart s p) p) h)
      | .waiting => .next (sendRetry s h p (.token rank lcore barrier attempt step))
      | .later => .next (sendRetry s h p (.token rank lcore barrier attempt step))
      | .next => .next (sendRetry s h p (.token rank lcore barrier attempt step))
      | .stale => .next (stale s h)

/-! ### Other frames -/

/-- RETRY: it carries the words of the refused frame, whose word 1 names port die and number; the stored frame is to be sent again RETRY_US
later (R363, R374). -/
def execRetry (h : Arrival) (ab w01 : Word × Word) (s : State) : Res :=
  match arrive s h (.retry ab w01) false with
  | .error s => .next s
  | .ok s =>
      let seq := wfield w01.2 61 32
      match toFin 3 (wfield w01.2 63 62) with
      | none => .next s
      | some d => .next (modPortDie s d (fun x => { x with store := x.store.map (fun y => if y.seq = seq then { y with again := true } else y) }))

/-- RETRY_US: the stored frame is sent again under its number (R374). -/
def execRetryUs (die : PortDieIx) (seq : Nat) (s : State) : Res :=
  if timersHeld s then .next s else
  match (s.fab.dies[die]).store.find? (fun y => y.seq == seq && y.again) with
  | none => .next s
  | some y =>
    let s := modPortDie s die (fun x => { x with store := x.store.map (fun z => if z.seq = seq then { z with again := false } else z) })
    match (routePort s y.frame).orElse (fun _ => (entryPorts s y.frame.dest training).head?) with
    | some f => .next (enqueue s f y.frame)
    | none => .next (modPortDie s die (fun d => { d with noRoute := satAdd d.noRoute 1 0xFFFF }))

/-- DIGEST: a peer's shard digest is compared with the own one, held until that is ready, or discarded when its version is older than
the four held (R351). -/
def execDigest (h : Arrival) (group : W32) (sender : Nat) (version : Word) (d : BitVec 256) (s : State) : Res :=
  match arrive s h (.digest group sender version d) false with
  | .error s => .next s
  | .ok s =>
    let p := h.dpart
    let x := s.sed.digests[p]
    if group != (s.parts[p]).group then .next s
    else if x.own.any (fun e => e.1 == version) then .next (compareDigest s p sender version d)
    else if x.own.any (fun e => decide (version.toNat < e.1.toNat)) then .next s
    else .next (modDigests s p (fun x => { x with peers := x.peers.filter (fun y => !(decide (y.1 = sender ∧ y.2.1 = version))) ++ [(sender, version, d)] }))

/-- STORE_DATA: bytes of an object arrive from the store node (R401, R405). A restore's data are part of its command (R408). The frame is all there is
to the command; its last operand carries nothing. -/
def execStoreData (h : Arrival) (off len : Nat) (obj : Word) (bytes : List Byte) (_ : Unit) (s : State) : Res :=
  match arrive s h (.storeData off len obj bytes) false with
  | .error s => .next s
  | .ok s =>
    if h.src != (s.parts[h.dpart]).ckp.cfg.storeNode then .next s
    else .next (manifestData s h.dpart off obj bytes)

/-- One acknowledged frame leaves the retransmit store; one of a checkpoint advances its writer (R374, R405). -/
def dackOne (s : State) (e : Nat × Nat) : State :=
  match toFin 3 e.1 with
  | none => s
  | some d =>
    match (s.fab.dies[d]).store.find? (fun y => y.seq == e.2) with
    | none => s
    | some y =>
      let s := modPortDie s d (fun x => { x with store := x.store.filter (fun z => z.seq != e.2) })
      match y.frame.body, toFin 8 y.frame.spart with
      | .storePut _ obj _, some p =>
        match (s.parts[p]).ckp.wr with
        | some w => if obj = ownObj s p 1 w.cut ∨ obj = ownObj s p 3 w.cut then ckpAck s p else s
        | none => s
      | _, _ => s

/-- DACK (R374). -/
def execDack (h : Arrival) (seqs : List (Nat × Nat)) (s : State) : Res :=
  match arrive s h (.dack seqs) false with
  | .error s => .next s
  | .ok s => .next (each seqs s dackOne)

/-- UNKNOWN_TYPE: discarded and counted as NO_TARGET (R363). -/
def execUnknownType (h : Arrival) (type : Nat) (s : State) : Res :=
  match arrive s h (.other type) false with
  | .error s => .next s
  | .ok s => .next (countNoTarget s h)

/-- Has no HOP_LIMIT report left a port die within the last second (R365)? -/
def hopDue (s : State) (d : PortDieIx) : Bool :=
  match (s.fab.dies[d]).hopAt with
  | some t => decide (t + 10 ^ 9 ≤ s.rtime)
  | none => true

/-- FRAME_FORWARD: a frame for another node leaves on a port of its entry with HOPS raised, or is discarded for its hop limit, a
missing route, or the twin port it came in on (R365, R368, R376). While it waits at its egress it holds its ingress buffer (R365). HOP_LIMIT is reported once per second. -/
def execFrameForward (l : LinkIn) (f : Frame) (s : State) : Res :=
  let port := l.port
  if asleep s (portDom port) then .next s else
  if !portActive s.fab.ports[port] || f.dest == s.fab.node then .next s
  else if !genOk s.fab.ports[port] l.gen then .next (sendNack s port)
  else
    let d := portDieOf port
    let key := 8 * f.vl + f.hops
    let s := received s port l.gen (frameLen f)
    let gone := fun (s : State) => sendVlcredit s port key (frameLen f)
    if isTwinPort s port || decide (f.vl = 3) then .next (gone (modPortDie s d (fun x => { x with noTarget := satAdd x.noTarget 1 0xFFFF })))
    else if 4 ≤ f.hops then
      let s := look (gone <| modPortDie s d (fun x => { x with hopLimit := true, hopCount := satAdd x.hopCount 1 0xFFFF }))
      .next (if hopDue s d then devReport (modPortDie s d (fun x => { x with hopAt := some s.rtime })) 0x43 [port.val, f.dest] else s)
    else
      let f' := { f with hops := f.hops + 1 }
      let s := countG s 15 1
      match (routePort s f).orElse (fun _ => (entryPorts s f.dest training).head?) with
      | some o => .next (enqueue (modPort s port (fun p => { p with held := tset 0 p.held key (tget 0 p.held key + frameLen f) })) o f' (some (port, key)))
      | none => .next (gone (modPortDie s d (fun x => { x with noRoute := satAdd x.noRoute 1 0xFFFF })))

/-! ### Link frames (R361, R364, R365) -/

/-- ACK: frames up to the named one leave the replay buffer, and frames that waited for its room leave (R364). An ACK of a frame from the one on that
the own REKEY named acknowledges the REKEY: the new generation is that of the peer's frames too (R361). -/
def execAck (port : PortIx) (named : Nat) (s : State) : Res :=
  if asleep s (portDom port) then .next s else
  if !portActive s.fab.ports[port] then .next s
  else
    .next (pump (modPort s port (fun p =>
      if p.replay.any (fun e => e.1 == named) then
        let rest := p.replay.drop ((p.replay.map (·.1)).idxOf named + 1)
        let done := p.rekey.filter (fun r => !rest.any (fun e => e.1 == r.fromSeq) && decide (p.txSeq ≠ r.fromSeq))
        { p with replay := rest, nackOf := none, retries := 0
                 rxGen := match done with | some r => r.gen | none => p.rxGen
                 rekey := if done.isSome then none else p.rekey }
      else p)) port)

/-- Send the frames of the replay buffer again from an index on, under their LINK_SEQ. -/
def replayFrom (s : State) (port : PortIx) (ix : Nat) : State :=
  each ((s.fab.ports[port]).replay.drop ix) s (fun s e => emit s (.frame port e.1 e.2))

/-- A port goes to DOWN; the space that its peer granted is gone with the link. -/
def portDown (s : State) (port : PortIx) (locked redetect : Bool) : State :=
  modPort s port (fun p => { p with st := .down, locked := locked, redetect := redetect, nackOf := none, retries := 0, grants := [] })

/-- NACK. A received one names the frame from which the sender resends; after 8 failed retries of one frame the port retrains (R364,
table FB-1). `sent` says that instead a frame failed here and the device sends the NACK: an uncorrectable codeword (true) or a
frame whose tag fails (false). -/
def execNack (port : PortIx) (named : Nat) (sent : Option Bool) (s : State) : Res :=
  if asleep s (portDom port) then .next s else
  let x := s.fab.ports[port]
  if !portActive x then .next s
  else
    match sent with
    | some fec =>
      .next (sendNack (modPort s port (fun p => { p with uncorr := if fec then satAdd p.uncorr 1 0xFFFF else p.uncorr })) port)
    | none =>
      if !x.replay.any (fun e => e.1 == named) then .next s
      else
        let n := if x.nackOf = some named then x.retries + 1 else 1
        if n < 9 then .next (replayFrom (modPort s port (fun p => { p with nackOf := some named, retries := n })) port ((x.replay.map (·.1)).idxOf named))
        else .next (modPort s port (fun p => { p with st := .retrain, nackOf := none, retries := 0 }))

/-- IDLE: the link counts as not silent; `corrected` symbols have been corrected on the port since the last one (R364, table
FB-22). -/
def execIdle (port : PortIx) (corrected : Nat) (s : State) : Res :=
  if asleep s (portDom port) then .next s else
  if portActive s.fab.ports[port] then .next (modPort (countG s 10 corrected) port (fun p => { p with corrected := satAdd p.corrected corrected 0xFFFFFFFF })) else .next s

/-- IDLE_US: a port with no frame to send sends IDLE (R364). -/
def execIdleUs (port : PortIx) (s : State) : Res :=
  if timersHeld s then .next s else
  let x := s.fab.ports[port]
  if portActive x && x.waiting.isEmpty then .next (emit s (.link port 3 x.txSeq [])) else .next s

/-- VLCREDIT: the peer grants buffer space for a virtual lane and hop class, and frames that waited for it leave (R365). -/
def execVlcredit (port : PortIx) (vl hop space : Nat) (s : State) : Res :=
  if asleep s (portDom port) then .next s else
  if portActive s.fab.ports[port] then
    .next (pump (modPort s port (fun p => { p with grants := tset 0 p.grants (8 * vl + hop) (tget 0 p.grants (8 * vl + hop) + space) })) port)
  else .next s

/-- REKEY of the peer: a new key generation that applies from the frame named (R361). -/
def execRekey (port : PortIx) (gen fromSeq : Nat) (s : State) : Res :=
  if asleep s (portDom port) then .next s else
  if portActive s.fab.ports[port] then
    .next (modPort s port (fun p => { p with rxRekey := some ⟨gen, fromSeq⟩ }))
  else .next s

/-! ### Lanes and training (R359, R360; table FB-1) -/

/-- Lanes of a mask. -/
def laneCount (m : BitVec 8) : Nat := ((List.range 8).filter (fun i => m.getLsbD i)).length

/-- A lane of a port is fenced, with the cause of its order: the fence map, FAB_LANES, the reports (R355, R359). -/
def fenceLane (s : State) (port : PortIx) (lane : Fin 8) (cause : Nat) : State :=
  let s := devReport s 0x21 [laneUnit (8 * port.val + lane.val), cause]
  let s := modPort s port (fun p => { p with lanes := p.lanes &&& ~~~ (BitVec.twoPow 8 lane.val) })
  let s := modPortDie s (portDieOf port) (fun d => { d with laneFenced := true })
  let s := markFenced (modPkg s (fun p => { p with fabLanes := p.fabLanes - 1 })) (laneUnit (8 * port.val + lane.val))
  devReport s 0x41 [8 * port.val + lane.val, laneCount (s.fab.ports[port]).lanes]

/-- Code of a port state (table FB-1). -/
def portCode : PortSt → Nat
  | .down => 0 | .detect => 1 | .equalize => 2 | .align => 3 | .auth => 4 | .active => 5 | .retrain => 6

/-- A second lane of a port would be fenced: the port goes to DOWN and stays there (R359). -/
def portHeldDown (s : State) (port : PortIx) : State :=
  let x := s.fab.ports[port]
  let s := modPortDie (portDown s port true false) (portDieOf port) (fun d => { d with portDown := true })
  devReport s 0x40 [port.val, portCode x.st]

/-- A lane is fenced through a retrain of its port; if it would be the second, the port goes to DOWN (R359). -/
def laneFence (s : State) (port : PortIx) (lane : Fin 8) (cause : Nat) : State :=
  let x := s.fab.ports[port]
  if !x.lanes.getLsbD lane.val ∨ portCount s ≤ port.val then s
  else if laneCount x.lanes = 8 then modPort (fenceLane s port lane cause) port (fun p => { p with st := if p.st = .down then .down else .retrain })
  else portHeldDown s port

/-- LANE_FENCE: a lane has shown a number of uncorrectable codewords within one second; above UNCORR_LIMIT it is fenced (R359). -/
def execLaneFence (port : PortIx) (x : LaneErrors) (s : State) : Res :=
  if asleep s (portDom port) || decide ((s.fab.ports[port]).st = .down) || decide (x.codewords ≤ (s.fab.dies[portDieOf port]).uncorrLimit) then .next s
  else .next (laneFence s port x.lane 3)

/-- DETECT: peer signal on at least 7 in-service lanes, or DOWN with a retry 1 s later (table FB-1). -/
def execDetect (port : PortIx) (lanes : BitVec 8) (s : State) : Res :=
  if asleep s (portDom port) then .next s else
  let x := s.fab.ports[port]
  if x.st ≠ .detect then .next s
  else if 7 ≤ laneCount (lanes &&& x.lanes) then .next (modPort s port (fun p => { p with st := .equalize }))
  else .next (portDown s port false true)

/-- DETECT_RETRY: 1 s after a failed DETECT (table FB-1). -/
def execDetectRetry (port : PortIx) (s : State) : Res :=
  if timersHeld s then .next s else
  let x := s.fab.ports[port]
  if x.st = .down ∧ x.redetect ∧ !x.locked then .next (modPort s port (fun p => { p with st := .detect, redetect := false })) else .next s

/-- EQUALIZE: the error ratio is reached on at least 7 lanes; one in-service lane that fails while the others pass is fenced (R359,
table FB-1). RETRAIN repeats the states up to AUTH within itself, and challenges the peer anew. -/
def execEqualize (port : PortIx) (lanes : BitVec 8) (s : State) : Res :=
  if asleep s (portDom port) then .next s else
  let x := s.fab.ports[port]
  if x.st ≠ .equalize ∧ x.st ≠ .retrain then .next s
  else if laneCount (lanes &&& x.lanes) < 7 then .next (if laneCount x.lanes = 7 ∧ laneCount (lanes &&& x.lanes) = 6 then portHeldDown s port else portDown s port false false)
  else
    let s := match (ixs 8).find? (fun l => x.lanes.getLsbD l.val && !lanes.getLsbD l.val) with | some l => fenceLane s port l 3 | none => s
    .next (if x.st = .equalize then modPort s port (fun p => { p with st := .align }) else challenge s port)

/-- ALIGN: all in-service lanes are aligned, and AUTH begins with a challenge of the peer (R431; table FB-1). -/
def execAlign (port : PortIx) (s : State) : Res :=
  if asleep s (portDom port) then .next s else
  if (s.fab.ports[port]).st = .align then .next (challenge (modPort s port (fun p => { p with st := .auth })) port) else .next s

/-- AUTH fails: DOWN, AUTH_FAIL, LINK_AUTH_FAILED (table FB-1, table FB-16). -/
def authFailed (s : State) (port : PortIx) (serial : Word) : State :=
  let s := modPortDie (portDown s port false false) (portDieOf port) (fun d => { d with authFail := true })
  devReport s 0x42 [port.val, serial.toNat]

/-- A link comes up from DOWN: each ingress buffer's free space is granted to the peer (R365). -/
def grantBuffers (s : State) (port : PortIx) : State :=
  each ((List.range 24).filter (fun k => decide (k % 8 ≤ 4))) s (fun s k =>
    sendVlcredit s port k (Config.ingressSpace k - tget 0 (s.fab.ports[port]).held k))

/-- AUTH: the peer answers with its node, serial and attestation report, and gets this device's report (R360, R430). With a peer that R431 accepts and
a node other than 0xFFFF keys are derived, the port is ACTIVE, and a link that was DOWN is granted its buffer space. Frames of the replay buffer are
sent again, and frames that waited leave (R359, R360). Only a device in OWNED passes AUTH (R427). -/
def execAuth (port : PortIx) (peer : PeerReport) (node : Nat) (serial : Word) (s : State) : Res :=
  if asleep s (portDom port) then .next s else
  let x := s.fab.ports[port]
  if (x.st ≠ .auth ∧ x.st ≠ .retrain) ∨ x.nonce.isNone then .next s
  else if lcOf s ≠ 2 then .next (authFailed s port serial)
  else
    let fine := peerOk s x.nonce peer
    let s := giveReport s port peer.asks 0xF
    if !fine ∨ node = 0xFFFF then .next (authFailed s port serial)
    else
    let s := modPort s port (fun p =>
      { p with st := .active, peerNode := node, peerSerial := serial, nonce := none, keyGen := p.keyGen + 1, rxGen := p.keyGen + 1, rekey := none, rxRekey := none })
    let s := if x.st = .auth then grantBuffers s port else s
    .next (pump (replayFrom s port 0) port)

/-- PORT_TRAINING_TIMEOUT: a training state has exceeded its bound (table FB-1). -/
def execPortTrainingTimeout (port : PortIx) (s : State) : Res :=
  if timersHeld s then .next s else
  match (s.fab.ports[port]).st with
  | .detect => .next (portDown s port false true)
  | .equalize => .next (portDown s port false false)
  | .align => .next (portDown s port false false)
  | .retrain => .next (portDown s port false false)
  | .auth => .next (authFailed s port 0)
  | .down => .next s
  | .active => .next s

/-! ### Host reads (R381, R407) -/

/-- HOST_READ_DATA: data of a host read arrive for the stream that asked, or a zero-length read completes for a stream or a
checkpoint (R381, R407). -/
def execHostReadData (p : PartIx) (off : Nat) (bytes : List Byte) (s : State) : Res :=
  if asleep s pcieDom then .next s else
  match s.pcie.reads.find? (fun r => decide (r.part = p ∧ r.off = off ∧ r.len = bytes.length)) with
  | none => .next s
  | some r =>
    if !s.pcie.up then .next s
    else
      let s := countG { s with pcie := { s.pcie with reads := s.pcie.reads.erase r } } 7 bytes.length
      match toFin 2 r.die, r.pos with
      | some d, some pos =>
        .next (hostAskAll (modStream s d r.phys (fun x => { x with inbuf := ((List.range bytes.length).zip bytes).foldl (fun t e => tput t (pos + e.1) e.2) x.inbuf })) d r.phys)
      | some d, none => .next (modStream s d r.phys (fun x => { x with flushed := x.flush }))
      | none, _ => .next (ckpAck s p)

end Sys2Proof.Machine
end

