-- ==== Sys2Proof/Machine/Power.lean ====
section
/-! DEFINITION. Clock levels, stretch, boost, the electrical limiter, heat and wear (R260, R474 to R486, R491, R492; tables PW-1 to PW-3,
CM-8). -/

namespace Sys2Proof.Machine

/-- Change the PWR block. -/
def modPwr (s : State) (f : Pwr → Pwr) : State := { s with pwr := f s.pwr }

/-- Change the level control of a compute die. -/
def modDie (s : State) (d : DieIx) (f : DieClk → DieClk) : State :=
  modPwr s (fun p => { p with dies := p.dies.set d.val (f p.dies[d]) d.isLt })

/-- Change the limiter. -/
def modLim (s : State) (f : Limiter → Limiter) : State := modPwr s (fun p => { p with lim := f p.lim })

/-! ### Levels (R474, R475; table PW-1) -/

/-- Frequency of a level in MHz. -/
def levelMhz (l : Nat) : Nat := [2400, 2100, 1950, 1800, 1650, 1500, 1350, 1200, 1050].getD l 1050

/-- VDD_CORE set point of a level in mV. -/
def levelMv (l : Nat) : Nat := [740, 720, 700, 680, 670, 650, 650, 650, 650].getD l 650

/-- The package target: L0 in boost, else what the limiter and the stack bands hold it to (R475). -/
def pkgLevel (s : State) : Nat := if s.pwr.boost then 0 else s.pwr.lim.level

/-- TDP of the variant in watts (table SC-1). -/
def tdp (s : State) : Nat := if s.fuses.m12 then (if s.fuses.l3 then 2400 else 2250) else (if s.fuses.l3 then 2250 else 2100)

/-- The cap in force: TDP, or CAP_W in P1 (table PW-8). -/
def capNow (s : State) : Nat := if s.pwr.pstate = 1 ∧ s.pwr.cfg.capW ≠ 0 then min s.pwr.cfg.capW (tdp s) else tdp s

/-- The average of the last `n` power samples; what has not been sampled yet counts as no power (log entry 92). -/
def avgPower (s : State) (n : Nat) : Nat := (s.pwr.samples.take n).sum / n

/-- Is the exact average of the last `n` samples, and `m` watts more, at most `w` watts? -/
def avgWithin (s : State) (n m w : Nat) : Bool := decide ((s.pwr.samples.take n).sum + n * m ≤ n * w)

/-- The compute die of a region. -/
def dieOfRegion (r : Fin 8) : DieIx := ⟨r.val / 4, by omega⟩

/-- Does a region run at 1.05 GHz by stretch, E0 or E1 (table PW-9)? -/
def deepNow (s : State) (r : Fin 8) : Bool := s.pwr.stretch[r] == .deep || (s.pwr.dies[dieOfRegion r]).e0 || s.pwr.lim.e1

/-- The frequency of a region in MHz (R477, R478). -/
def regionMhz (s : State) (r : Fin 8) : Nat :=
  let f := levelMhz (s.pwr.dies[dieOfRegion r]).level
  if deepNow s r then min f 1050
  else match s.pwr.stretch[r] with
    | .shallow => min f (max 1050 (3 * f / 4))
    | _ => f

/-- Is a region stretched, by droop or by rule E0 or E1 (R477; table PW-2)? -/
def stretched (s : State) (r : Fin 8) : Bool := s.pwr.stretch[r] != .none || deepNow s r

/-- Trace the starts and ends of stretch that a change has made (R478). -/
def traceStretch (before s : State) : State :=
  each (ixs 8) s (fun s r =>
    if stretched before r ≠ stretched s r ∨ (stretched s r ∧ deepNow before r ≠ deepNow s r) then
      traceEvent s 0x08 (r.val + 16 * b2n (stretched s r) + 65536 * regionMhz s r)
    else s)

/-- Trace the starts and ends of stretch that a change has made, and G11 takes up the time before it (R478). -/
def afterStretch (before s : State) : State := settleTime (traceStretch before s)

/-! ### Boost (R479, R480) -/

/-- The conditions of R479 but for the 100 ms average and the cooldown. -/
def boostHolds (s : State) : Bool :=
  s.pwr.cfg.boostEn && s.pwr.pstate == 0 && (ixs 2).all (fun d => decide ((s.pwr.dies[d]).throttle ≤ 1))
    && (ixs 12).all (fun c => decide (nStacks s ≤ c.val ∨ (s.cellars[c]).band < 2)) && decide (s.pwr.lim.level ≤ 1)

/-- Boost ends: the target returns to L1, the cooldown starts, and G12 takes up the time in boost (R480). -/
def endBoost (s : State) : State :=
  if s.pwr.boost then settleTime (traceEvent (modPwr s (fun p => { p with boost := false, cooldown := true })) 0x09 0) else s

/-- Boost is entered or left at a control tick (R479, R480). -/
def tickBoost (s : State) : State :=
  if s.pwr.boost then (if boostHolds s then s else endBoost s)
  else if boostHolds s && !s.pwr.cooldown && avgWithin s 100000 (10 * s.pwr.cfg.boostMargin) (tdp s) then
    settleTime (traceEvent (modPwr s (fun p => { p with boost := true })) 0x09 1)
  else s

/-- BOOST_LIMIT: boost has lasted 30 s (R480); the time does not advance during a halt (R461). -/
def execBoostLimit (s : State) : Res := if timersHeld s then .next s else .next (endBoost s)

/-- COOLDOWN_END (R480, R461). -/
def execCooldownEnd (s : State) : Res := if timersHeld s then .next s else .next (modPwr s (fun p => { p with cooldown := false }))

/-! ### Level changes (R475, R476) -/

/-- The level that junction throttling holds a die to: none at L1, where a die is not throttled and boost may run it at L0 (R475, R479). -/
def throttleLevel (x : DieClk) : Nat := if x.throttle ≤ 1 then 0 else x.throttle

/-- VDD_CORE in P2, in mV (table PW-4). -/
def retainMv : Nat := 650

/-- A die takes a new target: a slower clock switches at once and the lower set point is requested; a faster one waits for its set
point (R476). In P2 and P3 the clocks stand, and the rail stays where the power state holds it (table PW-4). -/
def setTarget (s : State) (d : DieIx) (t : Nat) : State :=
  let x := s.pwr.dies[d]
  if t = x.target then s
  else if 2 ≤ s.pwr.pstate then modDie s d (fun x => { x with target := t, level := max x.level t })
  else if x.level ≤ t then modDie s d (fun x => { x with target := t, level := t, setPoint := levelMv t, waiting := true })
  else modDie s d (fun x => { x with target := t, setPoint := levelMv t, waiting := true })

/-- CONTROL_TICK: held fields apply, boost is judged, the die targets are resolved and level changes start (R475, R476, R479; table
PW-8). -/
def execControlTick (s : State) : Res :=
  if unclocked s mgmtDom || s.pwr.lost || s.pwr.tripped then .next s
  else
    let s := modPwr s (fun p => { p with cfg := p.held.getD p.cfg, held := none })
    let s := tickBoost s
    .next (each (ixs 2) s (fun s d => setTarget s d (max (pkgLevel s) (throttleLevel s.pwr.dies[d]))))

/-- VR_SET_POINT_REACHED: the regulator reads within 5 mV of the set point requested; a faster level that waited for it switches in (R476,
R496). -/
def execVrSetPointReached (d : DieIx) (mv : Nat) (s : State) : Res :=
  let x := s.pwr.dies[d]
  if x.waiting ∧ mv ≤ x.setPoint + 5 ∧ x.setPoint ≤ mv + 5 then .next (modDie s d (fun x => { x with level := x.target, waiting := false }))
  else .next s

/-- VR_TIMEOUT: the set point has not been reached within 500 µs; the die stays at its slower level (R476). -/
def execVrTimeout (d : DieIx) (s : State) : Res :=
  if (s.pwr.dies[d]).waiting then .next (modPwr (modDie s d (fun x => { x with waiting := false })) (fun p => { p with vrTimeout := true }))
  else .next s

/-! ### Droop stretch (R477, R478) -/

/-- What the comparison of a sense voltage with the set point of a level yields (R477). -/
def droopOf (set mv : Nat) : Stretch := if mv + 60 < set then .deep else if mv + 30 < set then .shallow else .none

/-- DROOP: the voltage at a region crosses below set point − 30 mV or − 60 mV (R477); a stretch in force is only deepened. -/
def execDroop (r : Fin 8) (mv : Nat) (s : State) : Res :=
  let put := fun (x : Stretch) => afterStretch s (modPwr s (fun p => { p with stretch := p.stretch.set r.val x r.isLt }))
  match droopOf (levelMv (s.pwr.dies[dieOfRegion r]).level) mv, s.pwr.stretch[r] with
  | .deep, _ => .next (put .deep)
  | .shallow, .none => .next (put .shallow)
  | _, _ => .next s

/-- STRETCH_HOLD_NS: the voltage has stayed above a threshold for the hold; `clear`: above set point − 30 mV, else above − 60 mV only
(R477). -/
def execStretchHoldNs (r : Fin 8) (clear : Bool) (s : State) : Res :=
  let put := fun (x : Stretch) => afterStretch s (modPwr s (fun p => { p with stretch := p.stretch.set r.val x r.isLt }))
  if clear then .next (put .none)
  else match s.pwr.stretch[r] with
    | .deep => .next (put .shallow)
    | _ => .next s

/-! ### The electrical limiter (R481, R482; table PW-2) -/

/-- Have E1 to E4 all released (R482)? -/
def released (s : State) : Bool :=
  let l := s.pwr.lim
  !l.e1 && decide (l.e2Run < 200 ∧ l.e3Run < 20000 ∧ l.e4Run = 0)

/-- Set the bit of PWR_ERR that a rule sets, count the action and report it (tables PW-7, PW-12). -/
def limitAction (s : State) (rule : Nat) : State :=
  let s := modPwr s (fun p =>
    { p with limitCount := satAdd p.limitCount 1 0xFFFF, current := p.current || rule == 0
             electrical := p.electrical || rule == 1 || rule == 2, sustained := p.sustained || decide (3 ≤ rule) })
  devReport s 0x71 [rule, pkgLevel s]

/-- A rule steps the package target one level down and ends boost; at L8 the device keeps running there: E1 has acted by its stretch, and E2 to
E4 report the floor once (R481, R482; log entry 93). -/
def stepDown (s : State) (rule : Nat) : State :=
  let l := pkgLevel s
  if 8 ≤ l then
    if rule < 2 then limitAction s rule
    else if !s.pwr.lim.floor then devReport (modLim s (fun x => { x with floor := true })) 0x72 [rule] else s
  else limitAction (modLim (endBoost s) (fun x => { x with level := l + 1 })) rule

/-- Rule E0 on a die (table PW-2). -/
def ruleE0 (s : State) (d : DieIx) (amps : Nat) : State :=
  let x := s.pwr.dies[d]
  if x.e0 then
    if amps ≤ 1000 then
      if x.e0Low + 1 < 10 then modDie s d (fun x => { x with e0Low := x.e0Low + 1 })
      else afterStretch s (modDie s d (fun x => { x with e0 := false, e0Low := 0 }))
    else modDie s d (fun x => { x with e0Low := 0 })
  else if 1100 < amps then limitAction (afterStretch s (modDie s d (fun x => { x with e0 := true, e0Low := 0 }))) 0
  else s

/-- Rule E1 (table PW-2): it acts once until it has released (log entry 93). -/
def ruleE1 (s : State) (watts : Nat) : State :=
  let l := s.pwr.lim
  if l.e1 then
    if watts ≤ 2900 then
      if l.e1Low + 1 < 10 then modLim s (fun x => { x with e1Low := x.e1Low + 1 })
      else afterStretch s (modLim s (fun x => { x with e1 := false, e1Low := 0 }))
    else modLim s (fun x => { x with e1Low := 0 })
  else if 3400 < watts then stepDown (afterStretch s (modLim s (fun x => { x with e1 := true, e1Low := 0 }))) 1
  else s

/-- Rule E2: every sample of the last 200 µs above 2,900 W, again every 200 µs. -/
def ruleE2 (s : State) (watts : Nat) : State :=
  let n := if 2900 < watts then s.pwr.lim.e2Run + 1 else 0
  let s := modLim s (fun x => { x with e2Run := n })
  if 200 ≤ n ∧ n % 200 = 0 then stepDown s 2 else s

/-- Rule E3: every sample of the last 20 ms above the cap, again every 1 ms. -/
def ruleE3 (s : State) (watts : Nat) : State :=
  let n := if capNow s < watts then s.pwr.lim.e3Run + 1 else 0
  let s := modLim s (fun x => { x with e3Run := n })
  if 20000 ≤ n ∧ n % 1000 = 0 then stepDown s 3 else s

/-- Rule E4: the 1 s average above the cap, again every 100 ms. -/
def ruleE4 (s : State) : State :=
  let n := if avgWithin s 1000000 0 (capNow s) then 0 else s.pwr.lim.e4Run + 1
  let s := modLim s (fun x => { x with e4Run := n })
  if n % 100000 = 1 then stepDown s 4 else s

/-- LIMITER_SAMPLE: package power and the currents of VDD_CORE0 and VDD_CORE1 are sampled, and every rule is evaluated (R481). -/
def execLimiterSample (watts amps0 amps1 : Nat) (s : State) : Res :=
  if unclocked s mgmtDom then .next s
  else
    let s := modPwr s (fun p => { p with samples := (watts :: p.samples).take 1000000, peak := max p.peak (min watts 0xFFFF) })
    let s := ruleE0 (ruleE0 s 0 amps0) 1 amps1
    let s := ruleE4 (ruleE3 (ruleE2 (ruleE1 s watts) watts) watts)
    .next (if released s then modLim s (fun x => { x with floor := false }) else s)

/-- Is some stack in band B3? -/
def anyB3 (s : State) : Bool := (ixs 12).any (fun c => decide (c.val < nStacks s ∧ (s.cellars[c]).band = 3))

/-- LIMITER_RAISE: for 10 ms the 20 ms average has stayed at most the cap − 50 W after E1 to E4 have released; the target rises one
level, never above L1 (R482), and not while a stack is in B3 (R484). -/
def execLimiterRaise (s : State) : Res :=
  if released s && !anyB3 s && avgWithin s 20000 50 (capNow s) then .next (modLim s (fun x => { x with level := max 1 (x.level - 1) }))
  else .next s

/-! ### Heat (R260, R483 to R485) -/

/-- The thermal trip: THERM_TRIP_N falls, every clock but management and always-on stops, which is seen as STOP packets (R458; log entry 251), the trip is counted and reported, section
WEAR is to be written (R485). The latch holds until power is removed. -/
def thermTrip (s : State) (sensor reading : Nat) : State :=
  if s.pwr.tripped then s
  else
    let s := modPwr (each (packageDoms s) s (fun s d => stopDomain s d 3)) (fun p => { p with tripped := true, wear := { p.wear with trips := satAdd p.wear.trips 1 0xFFFFFFFF } })
    devReport (wantSection (emit s (.pin 0 false)) 5) 0x74 [sensor, reading]

/-- Does the I3C target run: Absuko has started it in stage 7; minimal mode brings up none (R416, R419)? -/
def i3cRuns (s : State) : Bool := decide (8 ≤ s.boot.stage) && !minimal s && !asleep s mgmtDom

/-- A sensor's reading has crossed a threshold: an in-band interrupt, then a PlatformEventMessage with the sensor, the reading and whether the reading has
risen (table FB-12). DESIGN CHOICE (log entry 250): the thresholds are TJ_THROTTLE with its hysteresis for a compute die and the bands of table CM-8 for
a stack, since the manual names none. -/
def sensorEvent (s : State) (sensor reading : Nat) (rises : Bool) : State :=
  if i3cRuns s && s.i3c.dynAddr.isSome then emit (emit s (.i3c 13 [])) (.i3c 14 [sensor, reading, b2n rises]) else s

/-- Note a reading of a die for the wear of the running second (R486). -/
def noteHeat (s : State) (die t : Nat) : State :=
  modPwr s (fun p => { p with wear := { p.wear with max := p.wear.max.set die (max (p.wear.max.getD die 0) t) } })

/-- A junction reading of a compute die starts or ends its throttling (R484), and is told to the board when it does. -/
def setHot (s : State) (d : DieIx) (t : Nat) : State :=
  let old := (s.pwr.dies[d]).hot
  let new := if s.pwr.cfg.tjThrottle ≤ t then true else if t + 3 < s.pwr.cfg.tjThrottle then false else old
  let s := modDie s d (fun x => { x with hot := new })
  if old = new then s else sensorEvent s (2 + d.val) t new

/-- The hottest of a die's readings (R483). -/
def hottest (xs : List Byte) : Nat := (xs.map (·.toNat)).foldl max 0

/-- JUNCTION_READING: every junction sensor is read: eight per region of each compute die, four of each port die, two of the management processor
die; the hottest reading of each die counts (R483 to R486). DEDUCED (log entry 152): sensors are numbered in that order. -/
def execJunctionReading (die0 die1 : Vector Byte 32) (port0 port1 port2 : Vector Byte 4) (mpd : Vector Byte 2) (s : State) : Res :=
  if unclocked s mgmtDom then .next s
  else
    let third := if s.fuses.l3 then port2.toList else List.replicate 4 0
    let hot := [hottest die0.toList, hottest die1.toList, hottest port0.toList, hottest port1.toList, hottest third]
    let s := modPwr s (fun p =>
      { p with tempDie := #v[hottest die0.toList, hottest die1.toList], tempPort := #v[hottest port0.toList, hottest port1.toList, hottest third]
               tempMpd := hottest mpd.toList })
    let s := setHot (setHot s 0 (hottest die0.toList)) 1 (hottest die1.toList)
    let s := each hot.zipIdx s (fun s e => noteHeat s e.2 e.1)
    .next (each (die0.toList ++ die1.toList ++ port0.toList ++ port1.toList ++ third ++ mpd.toList).zipIdx s (fun s e =>
      if 125 ≤ e.1.toNat then thermTrip s e.2 e.1.toNat else s))

/-- The number of a stack's sensor, behind those of the dies (log entry 152). -/
def stackSensor (c : CellarIx) : Nat := 78 + c.val

/-- THROTTLE_STEP: a throttle interval passes. For a compute die the throttle level moves one slower while it is hot, or one faster
while its reading lies below TJ_THROTTLE − 3 °C, up to L1; without a die the package target moves one level slower for a stack in B3 (R484). -/
def execThrottleStep (die : Option DieIx) (s : State) : Res :=
  if unclocked s mgmtDom then .next s
  else
    match die with
    | some d =>
      let x := s.pwr.dies[d]
      if x.hot then
        let l := min 8 (x.throttle + 1)
        .next (devReport (modPwr (modDie s d (fun x => { x with throttle := l })) (fun p => { p with thermal := true })) 0x73 [d.val, s.pwr.tempDie[d], l])
      else if s.pwr.tempDie[d] + 3 < s.pwr.cfg.tjThrottle then .next (modDie s d (fun x => { x with throttle := max 1 (x.throttle - 1) }))
      else .next s
    | none =>
      match (ixs 12).find? (fun c => decide (c.val < nStacks s ∧ (s.cellars[c]).band = 3)) with
      | none => .next s
      | some c =>
        let l := min 8 (pkgLevel s + 1)
        let s := modPwr (modLim (endBoost s) (fun x => { x with level := l })) (fun p => { p with stackB3 := true })
        .next (devReport s 0x73 [cellarDom c, (s.cellars[c]).temp, l])

/-- The band that a reading leads to, one band away at most (table CM-8). -/
def bandAfter (b t : Nat) : Nat :=
  if b < 3 ∧ [85, 95, 105].getD b 256 ≤ t then b + 1
  else if 0 < b ∧ t < [82, 92, 102].getD (b - 1) 0 then b - 1
  else b

/-- TEMP_READING: a cellar die reads its stack's temperature: held fields apply, the band moves one step, work that B2 stopped
resumes, and at 115 °C the package trips (R260, R261, R294, R485; table CM-9). A halted die reads on, since the trip acts whatever the halt
(R460), and its band and fields stay. -/
def execTempReading (c : CellarIx) (temp : Byte) (s : State) : Res :=
  if unclocked s (cellarDom c) then .next s
  else if nStacks s ≤ c.val ∨ !s.pkg.cellarLink[c] then .next s
  else if asleep s (cellarDom c) then
    let s := noteHeat (modCellar s c (fun x => { x with temp := temp.toNat, peak := max x.peak temp.toNat })) (5 + c.val) temp.toNat
    .next (if 115 ≤ temp.toNat then thermTrip s (stackSensor c) temp.toNat else s)
  else
    let t := temp.toNat
    let old := (s.cellars[c]).band
    let s := modCellar s c (fun x =>
      { x with temp := t, peak := max x.peak t, band := bandAfter x.band t
               scrubHours := x.scrubHeld.getD x.scrubHours, scrubHeld := none, runHold := x.runHeld.getD x.runHold, runHeld := none
               writeBatch := x.batchHeld.getD x.writeBatch, batchHeld := none, gatherAge := x.gatherHeld.getD x.gatherAge, gatherHeld := none })
    let new := (s.cellars[c]).band
    let s := if old = new then s else sensorEvent (traceEvent s 0x0B (c.val + 16 * new)) (4 + c.val) t (decide (old < new))
    let s := if 2 ≤ old ∧ new < 2 then each (ixs 8) s (fun s p => if active s p then resumeParked s c p else s) else s
    let s := noteHeat s (5 + c.val) t
    .next (if 115 ≤ t then thermTrip s (stackSensor c) t else s)

/-! ### Wear (R486; table PW-3) -/

/-- Credits that a second at a hottest reading earns (R486). -/
def wearCredit (t : Nat) : Nat := if 120 ≤ t then 8 else if 115 ≤ t then 4 else if 110 ≤ t then 2 else if 105 ≤ t then 1 else 0

/-- WEAR_SECOND: a second of reference time passes (R486). -/
def execWearSecond (s : State) : Res :=
  if asleep s mgmtDom || timersHeld s then .next s
  else
    .next (modPwr s (fun p =>
      let w := p.wear
      { p with wear :=
        { w with
          credits := (w.credits.zip w.max).map (fun e => satAdd e.1 (wearCredit e.2) 0xFFFFFFFF)
          boostS := if p.boost then w.boostS + 1 else w.boostS
          hours := if w.second + 1 = 3600 then satAdd w.hours 1 0xFFFFFFFF else w.hours
          second := (w.second + 1) % 3600
          max := w.max.map (fun _ => 0) } }))

/-- WEAR_WRITE: an hour of reference time passes, and section WEAR is to be written (R486). -/
def execWearWrite (s : State) : Res := if asleep s mgmtDom || timersHeld s then .next s else .next (wantSection s 5)

end Sys2Proof.Machine
end

