-- ==== Sys2Proof/Machine/Record.lean ====
section
/-! DEFINITION. The persistent record: what the sections hold, the hold-up energy of a write, the write itself; the configuration block (R423 to R426,
R433; tables BS-5, BS-6, PW-3, SE-4, SE-8). -/

namespace Sys2Proof.Machine

/-- Change the BOOT block. -/
def modBoot (s : State) (f : Boot → Boot) : State := { s with boot := f s.boot }

/-! ### Fence map (table SE-8) -/

/-- A bit vector from its bits. -/
def bitsOf (n : Nat) (f : Nat → Bool) : BitVec n := (List.range n).foldl (fun b i => if f i then b ||| BitVec.twoPow n i else b) 0

/-- Does the device list a unit as FENCED? -/
def unitFenced (s : State) (u : Nat) : Bool := (unitOf s u).st == .fenced

/-- The fence map of the device (table SE-8). -/
def fenceMapOf (s : State) (gen : Nat) : FenceMap :=
  { gen := gen, arrays := bitsOf 160 (fun i => unitFenced s (0x1000 + i)), groups := bitsOf 320 (fun i => unitFenced s (0x2000 + i))
    cores := bitsOf 40 (fun i => unitFenced s (0x3000 + i)), upd := bitsOf 12 (fun i => unitFenced s (0x4000 + i))
    pcs := (List.range 12).map (fun c => (List.range 32).find? (fun q => unitFenced s (pcUnit c q)))
    lanes := bitsOf 144 (fun i => unitFenced s (0x6000 + i)), suspects := listedUnits s }

/-- An entry of a fence map's suspects, 16 bytes (table SE-8). -/
def suspectBytes (e : Nat × UnitE) : List Byte :=
  leBytes 2 e.1 ++ leBytes 1 (min 255 e.2.blames) ++ leBytes 1 (if e.2.st = .fenceOrdered then 2 else 1) ++ leBytes 4 e.2.clean ++ leBytes 8 e.2.lastStep.toNat

/-- A fence map as its 1,172 bytes (table SE-8). -/
def fenceBytes (m : FenceMap) : List Byte :=
  let sus := (m.suspects.take 64).flatMap suspectBytes
  let body := leBytes 4 0x464E4D50 ++ leBytes 2 1 ++ leBytes 2 0x494 ++ leBytes 8 m.gen ++ leBytes 24 m.arrays.toNat ++ leBytes 40 m.groups.toNat
    ++ leBytes 8 m.cores.toNat ++ leBytes 8 m.upd.toNat
    ++ m.pcs.flatMap (fun q => leBytes 1 (match q with | some q => 0x80 + q | none => 0)) ++ leBytes 4 0
    ++ leBytes 18 m.lanes.toNat ++ leBytes 6 0 ++ leBytes 2 (min 64 m.suspects.length) ++ leBytes 6 0 ++ sus ++ List.replicate (1024 - sus.length) 0
  body ++ leBytes 4 (crc32c body)

/-- What the bytes of a fence map say; none where magic, format, length or CRC are wrong (table SE-8). -/
def parseFence (bs : List Byte) : Option FenceMap :=
  if fieldAt bs 0 4 ≠ 0x464E4D50 ∨ fieldAt bs 4 2 ≠ 1 ∨ fieldAt bs 6 2 ≠ 0x494 ∨ fieldAt bs 0x490 4 ≠ crc32c (bs.take 0x490) then none
  else
    some { gen := fieldAt bs 8 8, arrays := BitVec.ofNat 160 (fieldAt bs 0x10 24), groups := BitVec.ofNat 320 (fieldAt bs 0x28 40)
           cores := BitVec.ofNat 40 (fieldAt bs 0x50 8), upd := BitVec.ofNat 12 (fieldAt bs 0x58 8)
           pcs := (List.range 12).map (fun c => let b := fieldAt bs (0x60 + c) 1; if 0x80 ≤ b then some (b % 32) else none)
           lanes := BitVec.ofNat 144 (fieldAt bs 0x70 18)
           suspects := (List.range (min 64 (fieldAt bs 0x88 2))).map (fun i =>
             let at0 := 0x90 + 16 * i
             (fieldAt bs at0 2, ⟨if fieldAt bs (at0 + 3) 1 = 2 then .fenceOrdered else .suspect, fieldAt bs (at0 + 2) 1, fieldAt bs (at0 + 4) 4,
                                 word (fieldAt bs (at0 + 8) 8), 0, true, []⟩)) }

/-! ### The payloads (table BS-6) -/

/-- A cause record as 16 bytes. -/
def causeBytes (r : CauseRec) : List Byte := leBytes 8 r.count ++ leBytes 1 r.stage ++ leBytes 1 r.cause ++ leBytes 2 r.detail ++ leBytes 4 0

/-- The payload of a list of cause records; places that no record takes are 0 (DESIGN CHOICE, log entry 94). -/
def causesBytes (l : List CauseRec) : List Byte := l.flatMap causeBytes ++ List.replicate (256 - 16 * l.length) 0

/-- The cause records of a payload. -/
def parseCauses (bs : List Byte) : List CauseRec :=
  ((List.range 16).map (fun i => (⟨fieldAt bs (16 * i) 8, fieldAt bs (16 * i + 8) 1, fieldAt bs (16 * i + 9) 1, fieldAt bs (16 * i + 10) 2⟩ : CauseRec))).filter
    (fun r => r.cause != 0)

/-- The cause records of the flash. -/
def storedCauses (s : State) : List CauseRec := match sectBody s 2 with | some bs => parseCauses bs | none => []

/-- The payload of section BOOT. -/
def bootBytes (attempts count base floor : Nat) : List Byte :=
  leBytes 1 attempts ++ leBytes 8 count ++ leBytes 4 base ++ leBytes 4 floor ++ List.replicate 15 0

/-- Attempt counter, BOOT_COUNT, SEQ_BASE and FM_FLOOR of the flash; a section BOOT that fails its check reads as 0 (R418). -/
def storedBoot (s : State) : Nat × Nat × Nat × Nat :=
  match sectBody s 1 with | some bs => (fieldAt bs 0 1, fieldAt bs 1 8, fieldAt bs 9 4, fieldAt bs 13 4) | none => (0, 0, 0, 0)

/-- The payload of section PANTRY_INDEX: VALID and HITS of each record. -/
def indexBytes (s : State) : List Byte :=
  (List.range 256).flatMap (fun i => match pantryRec s i with | some r => leBytes 4 (1 + 65536 * r.hits) | none => leBytes 4 0)

/-- The payload of section WEAR (table PW-3). -/
def wearBytes (w : Wear) : List Byte := (w.credits.take 17).flatMap (leBytes 8) ++ leBytes 8 w.boostS ++ leBytes 4 w.trips ++ leBytes 4 w.hours

/-- The credits and counters of section WEAR (table PW-3). -/
def loadWear (s : State) : State :=
  match sectBody s 5 with
  | some bs =>
    { s with pwr := { s.pwr with wear := { s.pwr.wear with
        credits := (List.range 17).map (fun i => fieldAt bs (8 * i) 8), boostS := fieldAt bs 0x88 8, trips := fieldAt bs 0x90 4, hours := fieldAt bs 0x94 4 } } }
  | none => s

/-- The payload that a write of a section stores now; none where there is nothing to store. -/
def payloadNow (s : State) (k : Nat) : Option (List Byte) :=
  let b := s.boot
  match k with
  | 1 => some (bootBytes b.attempts b.bootCount b.seqBase b.fmFloor)
  | 2 => some (causesBytes b.causes)
  | 3 => some (fenceBytes (fenceMapOf s (b.fenceGen + 1)))
  | 4 => some (indexBytes s)
  | 5 => some (wearBytes s.pwr.wear)
  | _ => if 0x10 ≤ k then (pantryRec s (k - 0x10)).map pantryBytes else tfind b.staged k

/-- LENGTH of a section as a write stores it now (tables BS-6, SE-4, PW-3); that of IDENTITY and OWNER, where no write of them waits, is taken as the
most that a copy holds (log entry 98). -/
def sectLength (s : State) (k : Nat) : Nat :=
  match k with
  | 1 => 32
  | 2 => 256
  | 3 => 1172
  | 4 => 1024
  | 5 => 152
  | _ =>
    if 0x10 ≤ k then match pantryRec s (k - 0x10) with | some r => 64 + r.operands.length + r.expect.length | none => 64
    else match tfind s.boot.staged k with | some bs => bs.length | none => sectSize k - 40

/-! ### Hold-up energy (R426) -/

/-- Twice E_avail, in 10^-16 J, at a bank voltage in hundredths of a millivolt. -/
def availTwice (s : State) (v : Nat) : Nat := s.boot.cfg.huCap * (v ^ 2 - (100 * s.boot.cfg.huVmin) ^ 2)

/-- Clock periods of half a transfer in a microsecond: 2 × XSPI_MHZ. -/
def xspiRate (s : State) : Nat := max 1 (2 * s.boot.cfg.xspiMhz)

/-- E_write of a section, in 10^-16 J ÷ (2 × XSPI_MHZ). -/
def writeEnergy (s : State) (k : Nat) : Nat :=
  let b := 40 + sectLength s k
  s.boot.cfg.huPower * 10 ^ 7 * (ceilDiv b (max 1 s.boot.cfg.page) * s.boot.cfg.tpp * xspiRate s + b)

/-- May a section write start: E_avail ≥ 1.5 × E_write? -/
def energyOk (s : State) (k : Nat) : Bool := decide (3 * writeEnergy s k ≤ availTwice s s.boot.vbank * xspiRate s)

/-- Does a write need more than the configured bank can hold at any voltage? HOLDUP_SENSE reads up to 3.6 V (table SG-4). -/
def neverFits (s : State) (k : Nat) : Bool :=
  decide (availTwice s (3600 * s.boot.cfg.huRatio) * xspiRate s < 2 * writeEnergy s k)

/-- 1.5 × E_write and E_avail in mJ. -/
def requiredMj (s : State) (k : Nat) : Nat := 3 * writeEnergy s k / (2 * xspiRate s * 10 ^ 13)

/-- E_avail in mJ (table BS-16). -/
def availableMj (s : State) : Nat := availTwice s s.boot.vbank / (2 * 10 ^ 13)

/-- HOLDUP_SENSE: the bank voltage is sampled in the always-on domain (R426). -/
def execHoldupSense (mv : Nat) (s : State) : Res :=
  if s.pwr.powered then .next (modBoot s (fun b => { b with vbank := mv * b.cfg.huRatio })) else .next s

/-! ### Section writes (R425) -/

/-- The sections that may be written now: those of the record that stage 2 has read, and CAUSES when a start has failed (R416, R418). -/
def writable (s : State) (k : Nat) : Bool := !neverFits s k && (s.boot.recordRead || (s.boot.awaits == some .fail && k == 2))

/-- The pending write that is next: BOOT and CAUSES first, then FENCE, then the others in the order requested (R425). -/
def nextWant (s : State) : Option Nat :=
  let l := s.boot.wants.filter (writable s)
  (l.find? (fun k => k == 1 || k == 2)).orElse (fun _ => (l.find? (· == 3)).orElse (fun _ => l.head?))

/-- The section whose write waits for hold-up energy (R426). -/
def heldUp (s : State) : Option Nat := (nextWant s).filter (fun k => !energyOk s k)

/-- Is a write of a section still to come? One that never fits the hold-up bank does not come. -/
def comes (s : State) (k : Nat) : Bool := s.boot.wants.contains k && !neverFits s k

/-- The reports that waited for a new reservation leave (R433). -/
def sendHeld (s : State) (old : Nat) : State :=
  each (s.mgmt.queue.filter (fun r => decide (old ≤ r.seq + 1) && r.code != 0x55)) s (fun s r => emit s (.report r))

/-- A write of a section has been read back: the section holds the payload, a fence map has raised its own GENERATION (table SE-8), a reservation of
message numbers stands (R433). -/
def storeSection (s : State) (k : Nat) (payload : List Byte) : State :=
  let old := s.boot.seqLimit
  let s := modBoot (programTarget s k payload) (fun b =>
    { b with staged := terase b.staged k, seqLimit := if k = 1 then b.seqBase else b.seqLimit, fenceGen := if k = 3 then b.fenceGen + 1 else b.fenceGen })
  if k = 1 then sendHeld s old else s

/-- Both read-backs of a write have failed: the target is erased, the current copy stays, and the failure is reported (R425). -/
def loseSection (s : State) (k : Nat) : State :=
  let s := modBoot (eraseTarget s k) (fun b => { b with writeErr := true, staged := terase b.staged k, failed := addOnce k b.failed })
  devReport s 0x53 [k]

/-- The next pending write begins: its target is erased, and where the energy is there it ends (R425, R426); `good`: one of the two read-backs
matches. -/
def writeNext (s : State) (good : Bool) : State :=
  match nextWant s with
  | none => s
  | some k =>
    let s := eraseTarget s k
    if !energyOk s k then s
    else
      let s := modBoot s (fun b => { b with wants := b.wants.filter (· != k), holdupSent := false })
      match payloadNow s k with
      | none => s
      | some payload => if good then storeSection s k payload else loseSection s k

/-- HOLDUP_WAIT: a write has waited 1 s for energy, its target erased; it is reported once (R425, R426). -/
def execHoldupWait (s : State) : Res :=
  if timersHeld s then .next s
  else
    match heldUp s with
    | none => .next s
    | some k =>
      if s.boot.holdupSent then .next s
      else .next (devReport (modBoot (eraseTarget s k) (fun b => { b with holdupSent := true })) 0x54 [k, requiredMj s k, availableMj s])

/-! ### The configuration block (R423; table BS-5) -/

/-- The configuration block of the flash; none where MAGIC, FORMAT, LENGTH or CRC fails. -/
def cfgOf (s : State) : Option Cfg :=
  let bs := flashBytes s 0x400000 0x64
  let f := fieldAt bs
  if f 0 4 ≠ 0x43464742 ∨ f 4 2 ≠ 1 ∨ f 6 2 ≠ 0x64 ∨ f 0x60 4 ≠ crc32c (bs.take 0x60) then none
  else
    some { ipv4 := BitVec.ofNat 32 (f 8 4), prefixLen := f 0xC 1, slaac := f 0xD 1 % 2 == 1, vlanOn := f 0xD 1 / 2 % 2 == 1, vlan := f 0xE 2
           gateway := BitVec.ofNat 32 (f 0x10 4), ipv6 := BitVec.ofNat 128 (f 0x14 16), fmAddr := BitVec.ofNat 128 (f 0x24 16), fmPort := f 0x34 2
           i3cSa := f 0x36 1, xspiMhz := f 0x37 1, huCap := f 0x38 4, huVmin := f 0x3C 2, huRatio := f 0x3E 2, huPower := f 0x40 4, tpp := f 0x44 2
           page := f 0x46 2 }

end Sys2Proof.Machine
end

