-- ==== Sys2Proof/Machine/Boot.lean ====
section
/-! DEFINITION. The boot stages, the section writes that end them, reset, power and its loss, package links (R16, R17, R29, R379, R383, R415 to
R428, R442, R494 to R503; tables BS-1 to BS-8). -/

namespace Sys2Proof.Machine

/-! ### Reset (R417, R428, R444) -/

/-- A reset of the device: a checkpoint that is being written is abandoned (R406); all but fuses, flash, the watchdog's flag, and the pins and latches of the always-on domain is as after
reset; the debug level is D4 in FACTORY and D0 elsewhere, and a change of it is traced while the port still sends and reported once message
numbers are to be had again (R417, R444, R485). What the environment has seen, the counter of free values, and the sample of TEST_EN, which only a
rising edge of RESET_N takes (R494), go on. The last stage reached is kept for the record of the cause (table BS-3), that of a start which the
watchdog ended until it is logged. -/
def deviceReset (s : State) : State :=
  let s := each (ixs 8) s (fun s p => abandon s p 4)
  let old := s.dbg.level
  let new := if isFactory s then 4 else 0
  let last := if s.boot.wdFlag || !s.pwr.powered then s.boot.lastStage else min s.boot.stage 7
  let s := if old = new then s else traceEvent s 0x0F new
  { State.reset with
    fuses := s.fuses, keyEpochs := s.keyEpochs, freeIx := s.freeIx, egress := s.egress, pending := s.pending
    boot := { Boot.reset with flash := s.boot.flash, fuses := s.boot.fuses, wdFlag := s.boot.wdFlag, lastStage := last }
    dbg := { Dbg.reset with level := new, levelOwed := if old = new then none else some old }
    pwr := { Pwr.reset with powered := s.pwr.powered, pwrGood := s.pwr.pwrGood, tripped := s.pwr.tripped, testHold := s.pwr.testHold } }

/-! ### Cause records (R417; table BS-6) -/

/-- The sixteen newest cause records. -/
def addCause (l : List CauseRec) (r : CauseRec) : List CauseRec := (l ++ [r]).drop (l.length + 1 - 16)

/-- A cause record as BOOT_QUERY and MINIMAL_MODE give it (tables BS-12, BS-14). -/
def packCause (r : CauseRec) : Nat := place r.count 47 32 + place r.stage 23 16 + place r.cause 15 8 + place r.detail 7 0

/-- The newest cause records, newest first. -/
def newestCauses (s : State) (n : Nat) : List CauseRec := s.boot.causes.reverse.take n

/-- BOOT_COUNT of the start that runs: until stage 2 has raised it, that of section BOOT (log entry 94). -/
def thisStart (s : State) : Nat := if s.boot.recordRead then s.boot.bootCount else (storedBoot s).2.1

/-- Stages, cause and detail of a failure (table BS-3). -/
def failCode : StartFail → List Nat × Nat × Nat
  | .fuseEcc w => ([0], 0x01, w)
  | .recordRead b => ([2], 0x02, b.toNat)
  | .ucieLink d => ([4], 0x08, d.val)
  | .bridgeLink => ([4], 0x09, 0)
  | .cellarLink c => ([4], 0x0A, c.val)
  | .hbmConfig c => ([4], 0x0B, c.val)
  | .hbmTraining c => ([4], 0x0C, c.val)
  | .portLink d => ([4], 0x0D, d.val)
  | .wipe c => ([5], 0x0E, c.val)
  | .identity => ([6], 0x0F, 0)
  | .absukoFault c => ([4, 5, 6, 7], 0x12, c.val)

/-- Does boot stage `n` run? Minimal mode and a high TEST_EN run none (R419, R494), nor does a start that has failed; from stage 4 on the package must be
clocked. -/
def stageRuns (s : State) (n : Nat) : Bool :=
  decide (s.boot.stage = n) && !minimal s && !s.pwr.testHold && s.boot.awaits != some .fail && !asleep s mgmtDom && (decide (n < 4) || !asleep s 0x30)

/-- May boot stage `n` do its work: it runs, and waits for no section write? -/
def booting (s : State) (n : Nat) : Bool := stageRuns s n && s.boot.awaits.isNone

/-- Go to the next stage. -/
def nextStage (s : State) : State := modBoot s (fun b => { b with stage := b.stage + 1 })

/-! ### Section writes and the stages that wait for them (R416 to R418, R425) -/

/-- Send what waits in the report queue (R387). -/
def flushReports (s : State) : State := each s.mgmt.queue s (fun s r => emit s (.report r))

/-- The sections that the device writes by itself (table BS-6). -/
def ownSections (s : State) : List Nat := [1, 2, 3, 4, 5] ++ (pantry s).map (fun e => 0x10 + e.1)

/-- The link-local address that SLAAC forms from a MAC address: fe80::/64 and the modified EUI-64 of RFC 4291 (PRESUMED, log entry 209). -/
def linkLocal (mac : BitVec 48) : BitVec 128 :=
  let hi := mac.extractLsb' 24 24 ^^^ 0x020000#24
  (0xFE80000000000000#64 ++ hi ++ 0xFFFE#16 ++ mac.extractLsb' 0 24 : BitVec 128)

/-- The management Ethernet starts with the addresses of the configuration block (R384). -/
def startNet (s : State) : State :=
  let g := s.boot.cfg
  { s with mgmt := { s.mgmt with
      ip4 := g.ipv4
      ip6 := if g.ipv6 = 0 ∧ g.slaac then linkLocal s.fuses.mac else g.ipv6
      peer := if g.fmAddr = 0 then none else some (g.fmAddr, g.fmPort) } }

/-- Stage 2 takes SEQ_BASE as the first message number and raises it by 2^18; the reports that wait take the first numbers. Where SEQ_BASE
would pass 2^32 - 2^18 the device reports SEQ_EXHAUSTED (R433). -/
def takeSeqBase (s : State) (base floor : Nat) : State :=
  let spent := decide (2 ^ 32 - 2 ^ 18 < base + 2 ^ 18)
  let s := modBoot s (fun b => { b with seqBase := if spent then base else base + 2 ^ 18, fmFloor := floor })
  let s := { s with mgmt := { s.mgmt with
    queue := s.mgmt.queue.zipIdx.map (fun e => { e.1 with seq := base + e.2 }), nextSeq := base + s.mgmt.queue.length } }
  if spent then exhaustSeq s else s

/-- Begin fabric training on every port of a present die (table FB-1). -/
def startPorts (s : State) : State :=
  each (ixs 18) s (fun s f => if f.val < portCount s then modPort s f (fun p => if p.st = .down ∧ !p.locked then { p with st := .detect } else p) else s)

/-- The end of stage 2: minimal mode, or the watchdog starts and stage 3 follows (R417 to R419). -/
def endRecord (s : State) (low : Bool) : State :=
  if low then devReport (flushReports (startNet (modBoot s (fun b => { b with minimal := true })))) 0x50 ((newestCauses s 3).map packCause)
  else nextStage (modBoot s (fun b => { b with wdRun := true }))

/-- The end of stage 7: the boot self-test is over, management Ethernet, I3C and the fabric start (R416). -/
def endReady (s : State) : State :=
  let s := modSed (modBoot s (fun b => { b with wdRun := false })) (fun x => { x with test := none })
  let s : State := startNet { s with i3c := { s.i3c with staticAddr := s.boot.cfg.i3cSa } }
  flushReports (startPorts (nextStage s))

/-- A stage goes on once the section writes for which it waits have ended, those that never fit the hold-up bank passed over; a failed start resets
the device (R416 to R418, R426; log entry 258). -/
def afterWrites (s : State) : State :=
  let s' := modBoot s (fun b => { b with awaits := none })
  match s.boot.awaits with
  | none => s
  | some .fail => if comes s 2 then s else deviceReset s
  | some .ready => if comes s 1 then s else endReady s'
  | some (.record low) => if comes s 1 || comes s 2 then s else endRecord s' low

/-- SECTION_WRITE: the next pending write runs; `first` and `second` say whether the read-back of each try matches (R425). -/
def execSectionWrite (first second : Bool) (s : State) : Res :=
  if asleep s mgmtDom then .next s else .next (afterWrites (writeNext s (first || second)))

/-- A stage fails: it logs its cause in section CAUSES and then resets the device (R416, R417). -/
def failStage (s : State) (cause detail : Nat) : State :=
  let l := if s.boot.recordRead then s.boot.causes else storedCauses s
  let s := modBoot s (fun b => { b with causes := addCause l ⟨thisStart s, b.stage, cause, detail⟩, awaits := some .fail })
  afterWrites (wantSection s 2)

/-- A boot stage: it fails with a cause of its own, or does its work. -/
def atStage (n : Nat) (fail : Option StartFail) (s : State) (work : State → State) : Res :=
  match fail with
  | none => .next (if booting s n then work s else s)
  | some f =>
    match failCode f with
    | (stages, cause, detail) => .next (if stageRuns s n && stages.contains n then failStage s cause detail else s)

/-! ### The stages (table BS-2) -/

/-- BOOT_STAGE_FUSES: management SRAM is zeroed and reference time starts at 0; the fuse fields read from `State.fuses` (R456). -/
def execBootStageFuses (fail : Option StartFail) (s : State) : Res :=
  atStage 0 fail s (fun s => nextStage { modBoot s (fun b => { b with sram := [] }) with rtime := 0 })

/-- BOOT_STAGE_CONFIG: the configuration block, or the defaults (R423). -/
def execBootStageConfig (fail : Option StartFail) (s : State) : Res :=
  atStage 1 fail s (fun s =>
    let c := cfgOf s
    let s := modBoot s (fun b => { b with cfg := c.getD Cfg.default, cfgDefaults := c.isNone })
    nextStage (if c.isNone then devReport s 0x51 [] else s))

/-- The sections of FENCE, PANTRY_INDEX and the pantry without a valid copy (R424). -/
def lostSections (s : State) : List Nat := ([3, 4] ++ (List.range 256).map (0x10 + ·)).filter (fun k => (sectBody s k).isNone)

/-- Log the cause of the previous start, if it logged none (R417): WATCHDOG or POWER_LOST, with the last stage that it reached. -/
def logPrevious (s : State) (attempts count : Nat) : State × Bool :=
  let add := fun (cause : Nat) =>
    modBoot s (fun b => { b with causes := addCause b.causes ⟨count, b.lastStage, cause, b.lastStage⟩, wdFlag := false })
  if s.boot.wdFlag then (add 0x10, true)
  else if 0 < attempts ∧ !(s.boot.causes.any (fun r => decide (count ≤ r.count))) then (add 0x11, true)
  else (s, false)

/-- The report of the change of level that the reset has made (R444, R470). -/
def owedLevel (s : State) : State :=
  match s.dbg.levelOwed with
  | none => s
  | some old => devReport { s with dbg := { s.dbg with levelOwed := none } } 0x60 [old, s.dbg.level, 0]

/-- The work of stage 2: the record is read, the cause of the previous start is logged, SEQ_BASE is taken, the attempt counter and BOOT_COUNT are raised
(R417, R418, R424, R426, R428, R433). The stage ends with the section writes. -/
def recordStage (s : State) : State :=
  match storedBoot s with
  | (attempts, count, base, floor) =>
    let s := modBoot s (fun b => { b with recordRead := true, causes := storedCauses s, owner := storedOwner s })
    let s := loadWear (owedLevel (takeSeqBase s base floor))
    let lost := lostSections s
    let s := if lost.isEmpty then s else devReport (modBoot s (fun b => { b with recordLost := true })) 0x52 (lost.take 32)
    let (s, logged) := logPrevious s attempts count
    let low := decide (attempts = 3) || decide (lcOf s = 3)
    let s := modBoot s (fun b =>
      { b with attempts := if low then attempts else attempts + 1, bootCount := count + 1, awaits := some (.record low) })
    let s := wantSection (if logged then wantSection s 2 else s) 1
    afterWrites (each ((ownSections s).filter (neverFits s)) s (fun s k => devReport s 0x54 [k, 0xFF]))

/-- BOOT_STAGE_RECORD. -/
def execBootStageRecord (fail : Option StartFail) (s : State) : Res := atStage 2 fail s recordStage

/-! ### The firmware image (R420; tables BS-3, BS-4) -/

/-- Bytes of the image that a reader of the slot or of its copy sees: header, body and both signatures, at most 3 MiB. -/
def imageLen (rd : Nat → Nat → List Byte) : Nat := min (3 * 2 ^ 20) (0x200 + leNat (rd 0x10 8) + signBytes)

/-- The digest of an image: SHA-384 of the bytes 0x000 to 0x1FF + BODY_LEN − 1, as R420 words the range (log entry 245). -/
def imageDigest (rd : Nat → Nat → List Byte) : List Byte := sha384 (rd 0 (0x1FF + leNat (rd 0x10 8)))

/-- The first check of R420 that an image fails, as cause and detail of table BS-3; cause 0 when it is accepted. -/
def imageCause (s : State) (rd : Nat → Nat → List Byte) (x : ImageProof) : Nat × Nat :=
  let key := leNat (rd 6 2)
  let svn := leNat (rd 8 4)
  if leNat (rd 0 4) ≠ 0x4B494D47 then (0x03, 0)
  else if leNat (rd 4 2) ≠ 1 then (0x03, 4)
  else if 3 * 2 ^ 20 < 0x200 + leNat (rd 0x10 8) + signBytes then (0x03, 0x10)
  else
    match s.boot.fuses.keys[key]? with
    | none => (0x04, key)
    | some slot =>
      if slot.revoked || sha384 (rd 0x18 416) != slot.hash then (0x04, key)
      else if svn < s.boot.fuses.svn ∨ 255 < svn then (0x05, svn)
      else if !x.rsa then (0x06, 0)
      else if !x.slh then (0x07, 0)
      else (0, 0)

/-- The bytes of management SRAM. -/
def sramBytes (s : State) (off n : Nat) : List Byte := tgetMany 0 s.boot.sram off n

/-- The image is copied from its slot to the start of management SRAM, as far as it reaches (R416; log entry 112). -/
def copyImage (s : State) : State := modBoot s (fun b => { b with sram := tsetMany 0 b.sram 0 (flashBytes s 0 (imageLen (flashBytes s))) })

/-- The image that runs from the copy in SRAM. -/
def runImage (s : State) : RunImage :=
  let rd := sramBytes s
  ⟨leNat (rd 0xC 4), leNat (rd 6 2), leNat (rd 8 4), imageDigest rd⟩

/-- BOOT_STAGE_IMAGE: the image is copied, the copy verified, and Absuko starts from it (R420). -/
def execBootStageImage (x : ImageProof) (s : State) : Res :=
  atStage 3 none s (fun s =>
    let s := copyImage s
    match imageCause s (sramBytes s) x with
    | (0, _) => nextStage (modBoot s (fun b => { b with image := runImage s }))
    | (cause, detail) => failStage s cause detail)

/-- Every link inside the package comes up (table BS-2, stage 4). -/
def linksUp (s : State) : State :=
  modPkg s (fun p =>
    { p with ucie := Vector.replicate 2 true, ucieTries := Vector.replicate 2 0, bridge := true
             portLink := Vector.ofFn (fun d : Fin 3 => decide (d.val < portDies s))
             cellarLink := Vector.ofFn (fun c : Fin 12 => decide (c.val < nStacks s)) })

/-- BOOT_STAGE_LINKS: the links come up, with the repairs of section REPAIR. -/
def execBootStageLinks (fail : Option StartFail) (s : State) : Res :=
  atStage 4 fail s (fun s => nextStage (linksUp (modBoot s (fun b => { b with repair := (sectBody s 6).getD [] }))))

/-- Zero every SRAM of the package but that of the management processor die (R416, R446): core stores, accumulator banks and tile
registers, hall buffers, cellar SRAM, retransmit stores. -/
def zeroSram (s : State) : State :=
  { s with
    cores := s.cores.map (fun c =>
      { c with store := []
               arrays := c.arrays.map (fun a => { a with half0 := { a.half0 with acc := [] }, half1 := { a.half1 with acc := [] } })
               banks := c.banks.map (fun b => { b with treg := [] }) })
    hall := Vector.replicate 2 []
    cellars := s.cellars.map (fun c => { c with sram := [] })
    fab := { s.fab with dies := s.fab.dies.map (fun d => { d with store := [] }) } }

/-- BOOT_STAGE_WIPE: every stack is wiped and the package SRAM zeroed (R263); the overwrite of each stack ends with WIPE_END. -/
def execBootStageWipe (fail : Option StartFail) (s : State) : Res := atStage 5 fail s (fun s => nextStage (zeroSram (startWipe s)))

/-- Put one unit of the fence map out of service (R346, R348). -/
def loadUnit (s : State) (u : Nat) : State :=
  let i := unitIndex u
  let s := setUnit s u { unitOf s u with st := .fenced }
  match unitKind u with
  | 1 => match toFin 40 (i / 4), toFin 4 (i % 4) with | some n, some k => modCore s n (fun c => modArr c k (fun a => { a with fenced := true })) | _, _ => s
  | 2 => match toFin 40 (i / 8) with | some n => modCore s n (fun c => { c with ve := { c.ve with fenced := c.ve.fenced ||| BitVec.twoPow 8 (i % 8) } }) | none => s
  | 3 => match toFin 40 i with | some n => modCore s n (fun c => { c with fenced := true }) | none => s
  | 4 => match toFin 12 i with | some c => modUpd s c (fun x => { x with fenced := true }) | none => s
  | 5 => match toFin 12 (i / 32) with | some c => modCellar s c (fun x => { x with pcFenced := some (i % 32) }) | none => s
  | 6 => match toFin 18 (i / 8) with | some f => modPort s f (fun p => { p with lanes := p.lanes &&& ~~~ (BitVec.twoPow 8 (i % 8)) }) | none => s
  | _ => s

/-- The units that a fence map lists as fenced. -/
def mapUnits (m : FenceMap) : List Nat :=
  ((List.range 160).filter m.arrays.getLsbD).map (0x1000 + ·) ++ ((List.range 320).filter m.groups.getLsbD).map (0x2000 + ·)
    ++ ((List.range 40).filter m.cores.getLsbD).map (0x3000 + ·) ++ ((List.range 12).filter m.upd.getLsbD).map (0x4000 + ·)
    ++ (m.pcs.zipIdx.filterMap (fun e => e.1.map (fun q => pcUnit e.2 q))) ++ ((List.range 144).filter m.lanes.getLsbD).map (0x6000 + ·)

/-- The counts of units in service (tables PK-10, PK-11). -/
def countUnits (s : State) : State :=
  let live := (ixs 40).filter (fun n => s.fuses.coresPresent.getLsbD n.val && !(s.cores[n]).fenced)
  modPkg s (fun p =>
    { p with
      coreService := bitsOf 40 (fun n => live.any (fun m => m.val == n))
      arrays := (live.map (fun n => (arraysOf s.cores[n]).length)).sum
      laneGroups := (live.map (fun n => groupsOf s.cores[n])).sum
      updUnits := (updUnits s).length
      hbmPc := ((ixs 12).map (fun c => if c.val < nStacks s then 32 - b2n (s.cellars[c]).pcFenced.isSome else 0)).sum
      fabLanes := ((ixs 18).map (fun f => if f.val < portCount s then laneCount (s.fab.ports[f]).lanes else 0)).sum })

/-- Cores that hold too few in-service arrays or lane groups for SED_CTRL.DEGRADED and on which no step runs are fenced (R339). -/
def fenceShort (s : State) : State :=
  each ((ixs 40).filter (fun n => s.fuses.coresPresent.getLsbD n.val)) s (fun s n =>
    match ownerOf s n with
    | some p => if active s p then s else coreFences s n
    | none => coreFences s n)

/-- Load the fence map: fenced units, suspects; a unit found in FENCE_ORDERED is fenced at once and reported, and so is a core that is left too few
units (R339, R347, R348, R355). -/
def loadFence (s : State) : State :=
  match sectBody s 3 with
  | some bs =>
    (match parseFence bs with
     | none => countUnits s
     | some m =>
       let s := modBoot s (fun b => { b with fenceGen := m.gen })
       let s := each (mapUnits m) s loadUnit
       let s := countUnits (each m.suspects s (fun s e => if e.2.st = .fenceOrdered then s else setUnit s e.1 e.2))
       let s := each (m.suspects.filter (fun e => decide (e.2.st = .fenceOrdered))) s (fun s e =>
         markFenced (countUnits (loadUnit (setUnit s e.1 e.2) e.1)) e.1)
       fenceShort s)
  | none => countUnits s

/-- Load the pantry: each record whose CRC verifies (R342; tables BS-6, SE-4). -/
def loadPantry (s : State) : State :=
  each (List.range 256) s (fun s i =>
    match (sectBody s (0x10 + i)).bind parsePantry with
    | some r => putPantry s i r
    | none => s)

/-- Start the self-test of every unit, if the pantry holds a record (R343). -/
def beginTest (s : State) (cmd : Bool) : State := modSed s (fun x => { x with test := some ⟨testPlan s, cmd, 0, 0⟩ })

/-- BOOT_STAGE_STATE: keys unwrapped, fence map and pantry loaded, SED_SEED drawn (R330), the inventory valid,
self-test begun. -/
def execBootStageState (fail : Option StartFail) (s : State) : Res :=
  atStage 6 fail s (fun s =>
    if (ixs 12).any (fun c => (s.cellars[c]).wipeBusy && decide (c.val < nStacks s)) then s
    else
      let s := loadPantry (loadFence s)
      let s := bump (modSed s (fun x => { x with seed := Config.freeWord s.freeIx }))
      nextStage (beginTest (modPkg s (fun p => { p with inventory := true })) false))

/-- Has the self-test nothing left to replay? -/
def testOver (s : State) : Bool := (testLeft s).isEmpty

/-- BOOT_STAGE_READY: the attempt counter is cleared; the stage ends with the write of section BOOT. -/
def execBootStageReady (fail : Option StartFail) (s : State) : Res :=
  atStage 7 fail s (fun s =>
    if testOver s then afterWrites (wantSection (modBoot s (fun b => { b with attempts := 0, awaits := some .ready })) 1) else s)

/-- BOOT_WATCHDOG: 30 s have passed since stage 2 ended (R417). -/
def execBootWatchdog (s : State) : Res :=
  if timersHeld s || !s.boot.wdRun then .next s
  else .next (deviceReset (modBoot s (fun b => { b with wdFlag := true, lastStage := min b.stage 7 })))

/-- MINIMAL_MODE: every 10 s the recovery loader reports the three newest cause records (R419). -/
def execMinimalMode (s : State) : Res :=
  if minimal s && !asleep s mgmtDom && !timersHeld s then .next (devReport s 0x50 ((newestCauses s 3).map packCause)) else .next s

/-! ### Power, reset pins, loss of power (R494, R498 to R503) -/

/-- Without power nothing but fuses and flash is left. -/
def losePower (s : State) : State :=
  let s := if s.pwr.tripped then emit s (.pin 0 true) else s
  let r := deviceReset (modPwr s (fun p => { p with lost := true }))
  { r with dbg := { r.dbg with levelOwed := none }, boot := { r.boot with wdFlag := false }
           pwr := { r.pwr with powered := false, pwrGood := false, tripped := false, testHold := false } }

/-- POWER_UP: the rails come in, PWR_GOOD and RESET_N rise, and boot stage 0 begins; TEST_EN is sampled at the rising edge of
RESET_N (R494, R498). -/
def execPowerUp (testEn : Bool) (s : State) : Res :=
  if s.pwr.powered then .next s
  else
    let r := deviceReset s
    .next { r with pwr := { r.pwr with powered := true, pwrGood := true, testHold := testEn } }

/-- POWER_REMOVAL: the rails fall, the device enters OFF, and the latch of THERM_TRIP_N is released (R485, R487, R502). -/
def execPowerRemoval (s : State) : Res := if s.pwr.powered then .next (losePower s) else .next s

/-- RESET_N: a low pulse of at least 1 µs (R499). A section write is one event here, so none is ever in progress. -/
def execResetN (testEn : Bool) (s : State) : Res :=
  if !s.pwr.powered then .next s
  else
    let r := deviceReset s
    .next { r with pwr := { r.pwr with testHold := testEn } }

/-- PWR_GOOD_FALL: with RESET_N high the path of a power loss is taken (R501); with RESET_N low it is a planned power-down (R500). -/
def execPwrGoodFall (resetHigh : Bool) (s : State) : Res :=
  if !s.pwr.powered || !s.pwr.pwrGood then .next s
  else .next (modPwr s (fun p => { p with pwrGood := false, lost := p.lost || resetHigh }))

/-- PWR_GOOD_RISE: before the hold-up rails fail, PWR_GOOD has been high for 1 ms (R503). -/
def execPwrGoodRise (s : State) : Res :=
  if !s.pwr.powered || s.pwr.pwrGood then .next s
  else
    let s := modPwr s (fun p => { p with pwrGood := true })
    .next (if s.pwr.lost then deviceReset s else s)

/-- CORE_UNDERVOLTAGE: a core rail has stayed below 0.60 V for more than 100 ns (R497). -/
def execCoreUndervoltage (s : State) : Res := if s.pwr.powered then .next (modPwr s (fun p => { p with lost := true })) else .next s

/-- TRST_N resets the test access port only (R499); IDCODE is selected (R449). -/
def execTrstN (s : State) : Res := .next { s with dbg := { s.dbg with tapIr := 1, tapScan := 0 } }

/-! ### Links (R29, R379, R383) -/

/-- Every active stream with an endpoint in space 3 fails with PATH_DOWN (R379; table ST-8). -/
def failHostStreams (s : State) : State :=
  each (ixs 2) s (fun s d =>
    each (((s.sluices[d]).ctxs.filter (fun e => !e.2.ending && (e.2.desc.src == 3 || e.2.desc.dst == 3))).map (·.1)) s
      (fun s phys => streamFault s d phys ⟨0, 3, 3 <<< 44⟩))

/-- The endpoint is reset: link down, IDE stream gone, no host read outstanding, every MSI-X vector masked; a link that was up is reported down
(R390). -/
def pcieReset (s : State) : State :=
  let t := failHostStreams { s with pcie := { s.pcie with
    up := false, speed := 0, width := 0, ide := false, reads := [], table := msixReset, pba := 0, d3hot := false, aer := 0 } }
  if s.pcie.up then devReport t 0x44 [0, 0, 0] else t

/-- PCIE_PERST_N: PERST or a link down resets only the endpoint (R379). -/
def execPciePerstN (s : State) : Res := if asleep s pcieDom then .next s else .next (pcieReset s)

/-- A link is declared down and its PKG_LINK_UP bit clears; accesses in flight on it fail (R29). DESIGN CHOICE (log entry 183): port die 2 has two links and one flag, which
is up while both are (table PK-9); with one of them down, every access to the die fails as link down. -/
def linkDown (s : State) (l : LinkName) : State :=
  match l with
  | .ucie d => modPkg s (fun p => { p with ucie := p.ucie.set d.val false d.isLt })
  | .bridge => modPkg s (fun p => { p with bridge := false })
  | .port d => modPkg s (fun p => { p with portLink := p.portLink.set d.val false d.isLt })
  | .cellar c => failTaken (modPkg s (fun p => { p with cellarLink := p.cellarLink.set c.val false c.isLt })) c

/-- LINK_DOWN. -/
def execLinkDown (l : LinkName) (s : State) : Res := if asleep s mgmtDom then .next s else .next (linkDown s l)

/-- UCIE_TRAINERROR: the module retrains at most 3 times, then its link is down (R383). -/
def execUcieTrainerror (d : DieIx) (s : State) : Res :=
  if asleep s mgmtDom then .next s
  else
    let n := s.pkg.ucieTries[d] + 1
    let s := modPkg s (fun p => { p with ucieTries := p.ucieTries.set d.val n d.isLt })
    .next (if 3 < n then linkDown s (.ucie d) else s)

/-- PCIE_LINK_UP: the link has trained to a speed and a width; it is reported (R378, R390). -/
def execPcieLinkUp (speed : Fin 6) (width : Nat) (s : State) : Res :=
  if asleep s pcieDom || s.boot.stage != 8 || !(width ∈ [1, 2, 4, 8, 16]) then .next s
  else
    let s := { s with pcie := { s.pcie with up := true, speed := speed.val + 1, width := width } }
    .next (devReport s 0x44 [speed.val + 1, width, b2n s.pcie.ide])

end Sys2Proof.Machine
end

