-- ==== Sys2Proof/Machine/PState.lean ====
section
/-! DEFINITION. Power states (R487 to R489; table PW-4), the wipe of a running device (R263, R446). -/

namespace Sys2Proof.Machine

/-- A wipe of a running device begins: keys replaced, the package SRAM zeroed, every stack failing until its WIPE_END (R263, R446, R488); a
checkpoint being written is abandoned (R406). -/
def wipeAll (s : State) : State := zeroSram (startWipe (each (ixs 8) s (fun s p => abandon s p 4)))

/-- The domains that P2 stops: core regions, cellars, PHYs (table PW-4). -/
def idleDoms (s : State) : List Nat :=
  (List.range 8).map (0x30 + ·) ++ (List.range (nStacks s)).map (0x40 + ·) ++ (List.range (nStacks s)).map (0x50 + ·)

/-- The domains that P3 stops: all but management, trace and always-on. -/
def standbyDoms (s : State) : List Nat := idleDoms s ++ (List.range (portCount s)).map (0x60 + ·) ++ [pcieDom]

/-- Change the power state, traced and reported (table PW-7; table DB-7). The event leaves while the trace port sends: before P3 is entered,
else in the new state; counters that hold still from now on take up what they have counted (R450). -/
def setPstate (s : State) (n : Nat) : State :=
  let old := s.pwr.pstate
  let note := fun (s : State) => traceEvent s 0x0A (old + 16 * n)
  let s := if n = 3 then modPwr (note s) (fun p => { p with pstate := n }) else note (modPwr s (fun p => { p with pstate := n }))
  devReport (settleTime s) 0x70 [old, n]

/-- Every set of counters takes up what it has counted, before P2 or P3 holds it still (R450). -/
def accrueAll (s : State) : State := accrue (each (ixs 8) s (fun s p => accrue s (some p))) none

/-- Enter P2: SRAM is retained at 0.65 V, the stacks are in self-refresh (table PW-4). -/
def enterP2 (s : State) : State :=
  let s := setPstate (each (idleDoms s) (accrueAll s) (fun s d => stopDomain s d 1)) 2
  each (ixs 2) s (fun s d => modDie s d (fun x => { x with setPoint := retainMv, waiting := false }))

/-- Enter P3: the counters are sampled, fabric and PCIe go down, the dies lose power, section WEAR is to be written (R450, R486, R487). -/
def enterP3 (s : State) : State :=
  let s := accrueAll s
  let s := wantSection { s with cnt := { s.cnt with pSlept := s.cnt.p, gSlept := s.cnt.g } } 5
  let s := setPstate (each (standbyDoms s) s (fun s d => stopDomain s d 2)) 3
  let s := pcieReset s
  let s := { s with
    dbg := { s.dbg with fresh := standbyDoms s }
    fab := { s.fab with ports := s.fab.ports.map (fun p => { p with st := .down, waiting := [], replay := [], grants := [], nackOf := none, retries := 0 }) } }
  let s := each (ixs 2) s (fun s d => modDie s d (fun x => { x with setPoint := 0, waiting := false }))
  modPkg s (fun p => { p with bridge := false, portLink := Vector.replicate 3 false, cellarLink := Vector.replicate 12 false })

/-- What a stack does (tables PW-4, DB-8). -/
inductive StackMode where
  | service | selfRefresh | railsOff
  deriving DecidableEq, Repr

/-- The mode of a stack: in self-refresh in P2 and once a halt has stopped its PHY, without rails in P3. -/
def stackMode (s : State) (c : CellarIx) : StackMode :=
  if !s.pwr.powered || s.pwr.pstate == 3 then .railsOff
  else if s.pwr.pstate == 2 || (tfind s.dbg.stops (phyDom c)).isSome then .selfRefresh
  else .service

/-- Are the UCIe modules in L1 (table PW-4)? -/
def ucieL1 (s : State) : Bool := decide (2 ≤ s.pwr.pstate)

/-- The dies that P3 has powered off are as after reset; routing, node and host windows are those that commands have set. -/
def freshDies (s : State) : State :=
  { s with
    cores := Vector.replicate 40 Core.reset, hall := Vector.replicate 2 [], sluices := Vector.replicate 2 Sluice.reset, toks := []
    cellars := Vector.replicate 12 Cellar.reset
    pwr := { s.pwr with dies := s.pwr.dies.map (fun x => { x with target := 1, level := 1, setPoint := levelMv 1, waiting := false }) }
    fab := { s.fab with
      ports := s.fab.ports.map (fun p => { Port.reset with keyGen := p.keyGen, rxGen := p.rxGen, locked := p.locked })
      dies := Vector.replicate 3 PortDie.reset } }

/-- Leave P2 for P0: the set points of the levels are back, and a faster level that has been asked for waits for its own (R476, R488). -/
def leaveP2 (s : State) : State :=
  let s := each (ixs 2) s (fun s d => modDie s d (fun x => { x with setPoint := levelMv x.target, waiting := decide (x.level ≠ x.target) }))
  let s := each (idleDoms s) s resumeDomain
  restart (setPstate s 0)

/-- Leave P3, steps 1 to 3 of R488: the links, the domains and the wipe of every stack and SRAM. -/
def wakeP3 (s : State) : State :=
  let s := wipeAll (linksUp (freshDies s))
  each (standbyDoms s) (modPwr s (fun p => { p with waking := true })) resumeDomain

/-- Leave P3, steps 4 and 5 of R488, once every wipe has ended: the fence map, the pantry, P0. -/
def leaveP3 (s : State) : State := startPorts (setPstate (modPwr (loadPantry (loadFence s)) (fun p => { p with waking := false })) 0)

/-- A power state is reached; a change between P2 and P3 passes through P0 (R490). -/
def reach (s : State) (n : Nat) : State :=
  let s := if n = s.pwr.pstate then s else if s.pwr.pstate = 2 then leaveP2 s else if s.pwr.pstate = 3 then leaveP3 s else s
  if n = s.pwr.pstate then s
  else
    match n with
    | 2 => enterP2 s
    | 3 => enterP3 s
    | _ => setPstate s n

/-- PSTATE_CHANGE: the change that PWR_SET_STATE has asked for takes effect; it waits while the device is halted (R460, R488); a self-test record
is one event here, so none is ever running. The exit from P3
begins with the wipe, and ends once that has ended. The command completes with the state reached (table PW-5). -/
def execPstateChange (s : State) : Res :=
  match s.pwr.want with
  | none => .next s
  | some n =>
    if s.dbg.halted || s.dbg.halting || asleep s mgmtDom then .next s
    else if s.pwr.pstate = 3 ∧ n ≠ 3 ∧ !s.pwr.waking then .next (wakeP3 s)
    else if s.pwr.waking && wiping s then .next s
    else
      let s := reach (modPwr s (fun p => { p with want := none })) n
      .next (match s.mbox.run with
        | some c => if c.code = 0xC0 then { s with mbox := { s.mbox with outcome := some ⟨0, [n]⟩ } } else s
        | none => s)

end Sys2Proof.Machine
end

