-- ==== Sys2Proof/Machine/Mailbox.lean ====
section
/-! DEFINITION. The command mailbox: acceptance, who may command, completion, ownership (R46, R49 to R55, R382, R386, R419, R427, R433,
R437 to R439, R489; tables PC-2 to PC-7, BS-11). -/

namespace Sys2Proof.Machine

/-- Change the mailbox. -/
def modMbox (s : State) (f : Mbox → Mbox) : State := { s with mbox := f s.mbox }

/-- What a command comes to: the state it leaves, and its completion; none while it still runs. -/
abbrev CmdRes := State × Option Done

/-- A command completes with OK and results. -/
def okWith (s : State) (results : List Nat) : CmdRes := (s, some ⟨0, results⟩)

/-- A command completes with an error; it has changed nothing. -/
def errWith (s : State) (e : Nat) : CmdRes := (s, some ⟨e, []⟩)

/-- General completion codes (table PC-7). -/
def unknownCode : Nat := 1
/-- Partition absent, or 0xF given to a command of a partition. -/
def badPartition : Nat := 2
/-- The caller lacks the privilege. -/
def notPermitted : Nat := 3
/-- Not accepted in the plan state or mode. -/
def wrongState : Nat := 4
/-- An argument outside its range. -/
def badArgument : Nat := 5
/-- LC_STATE (table BS-13). -/
def lcState : Nat := 0x5003
/-- XFER_RANGE (table BS-13). -/
def xferRange : Nat := 0x500C
/-- POWER_STATE (table PW-6). -/
def powerState : Nat := 0x7001

/-- The assigned command codes (tables PC-8, SP-6, CK-6, SE-10, BS-12, DB-12, PW-5, FB-14). -/
def assigned (code : Nat) : Bool :=
  decide (0x1 ≤ code ∧ code ≤ 0x8) || decide (0x20 ≤ code ∧ code ≤ 0x2E) || decide (0x40 ≤ code ∧ code ≤ 0x43)
    || decide (0x60 ≤ code ∧ code ≤ 0x66) || decide (0x80 ≤ code ∧ code ≤ 0x93) || decide (0xA0 ≤ code ∧ code ≤ 0xA9)
    || code == 0xC0 || code == 0xC1 || decide (0xE0 ≤ code ∧ code ≤ 0xE5)

/-- Do the commands of this code act on a partition (R50; PKG_MBOX_CMD.PARTITION)? The counter commands take 0xF for the global
counters alone. -/
def perPartition (c : Cmd) : Bool :=
  let k := c.code
  decide (0x1 ≤ k ∧ k ≤ 0x8) || decide (0x20 ≤ k ∧ k ≤ 0x2E) || decide (0x40 ≤ k ∧ k ≤ 0x43) || k == 0x65 || k == 0x66
    || decide (0x8D ≤ k ∧ k ≤ 0x92) || (decide (0xA7 ≤ k ∧ k ≤ 0xA9) && c.part != 0xF) || k == 0xE2 || k == 0xE5

/-- The partition that a command names, if it exists. -/
def partOfCmd (s : State) (c : Cmd) : Option PartIx :=
  match toFin 8 c.part with
  | none => none
  | some p => if (s.parts[p]).allot.isSome then some p else none

/-- Does a partition have HOST_PLAN (R437)? -/
def hostPlan (s : State) (c : Cmd) : Bool :=
  match toFin 8 c.part with
  | none => false
  | some p => match (s.parts[p]).allot with | some a => a.hostPlan | none => false

/-- The commands that the host may give to a partition with HOST_PLAN (table BS-11; R468). -/
def hostPlanCode (k : Nat) : Bool := decide (0x1 ≤ k ∧ k ≤ 0x8) || k == 0x25 || k == 0x40 || k == 0xA7 || k == 0xA8

/-- Is the class of the master one that may give commands of this code (table BS-11; R468, R490)? -/
def mayClass (c : Cmd) : Bool :=
  match c.master with
  | .mgmt _ => true
  | .host => hostPlanCode c.code || c.code == 0x80 || c.code == 0xC1

/-- May the master issue the command (table BS-11; R468, R490)? -/
def mayIssue (s : State) (c : Cmd) : Bool :=
  match c.master with
  | .mgmt _ => true
  | .host => mayClass c && (!hostPlanCode c.code || hostPlan s c)

/-- The commands that minimal mode accepts (R419). -/
def minimalCode (k : Nat) : Bool := decide (0x80 ≤ k ∧ k ≤ 0x84) || decide (0x86 ≤ k ∧ k ≤ 0x88)

/-- The commands that P2 and P3 accept (R489); those of debug answer for themselves (R469). -/
def idleCode (k : Nat) : Bool :=
  k == 0xC0 || k == 0xC1 || k == 0x1 || k == 0x6 || k == 0x25 || k == 0x40 || k == 0x60 || k == 0x80 || k == 0x88 || k == 0x86 || k == 0x87
    || decide (0xA0 ≤ k ∧ k ≤ 0xA9)

/-- Does the life-cycle state permit a command (R427; table BS-8)? -/
def lcPermits (s : State) (k : Nat) : Bool :=
  let lc := lcOf s
  if k = 0x88 then lc != 0
  else if k = 0x89 then lc == 1
  else if k = 0x8A then lc == 2
  else if k = 0x8B then lc == 1 || lc == 2
  else if k = 0x8C then lc == 0
  else if decide (0x8D ≤ k ∧ k ≤ 0x92) || decide (0x20 ≤ k ∧ k ≤ 0x24) || k == 0x2A || k == 0x2B then lc == 2
  else true

/-- The commands of the session without an owner (R433). -/
def unownedCode (k : Nat) : Bool := k == 0x80 || k == 0x88 || k == 0x86 || k == 0x87 || k == 0x89

/-- Does the management session's own COMMAND run? -/
def bySession (s : State) (c : Cmd) : Bool :=
  match c.master with
  | .mgmt _ => s.mgmt.running.isSome
  | .host => false

/-- The first general reason to turn a command away (R46, R419, R427, R433, R437, R439, R489; log entry 96 for the order). -/
def turnAway (s : State) (c : Cmd) : Option Nat :=
  if minimal s && !minimalCode c.code then some wrongState
  else if !mayClass c then some notPermitted
  else if !lcPermits s c.code || (bySession s c && lcOf s != 2 && !unownedCode c.code) then some lcState
  else if perPartition c && c.code != 0x91 && (partOfCmd s c).isNone then some badPartition
  else if !mayIssue s c then some notPermitted
  else if 2 ≤ s.pwr.pstate ∧ !idleCode c.code then some powerState
  else none

/-- Does Absuko, or the recovery loader, run commands now? -/
def commandable (s : State) : Bool := !asleep s mgmtDom && (minimal s || decide (4 ≤ s.boot.stage))

/-- Run the command that the mailbox holds, if it has this code and has not come to its end. -/
def runCmd (code : Nat) (s : State) (f : State → Cmd → CmdRes) : Res :=
  match s.mbox.run with
  | none => .next s
  | some c =>
    if c.code ≠ code ∨ s.mbox.outcome.isSome ∨ !commandable s then .next s
    else
      match turnAway s c with
      | some e => .next (modMbox s (fun m => { m with outcome := some ⟨e, []⟩ }))
      | none =>
        let (s, d) := f s c
        .next (modMbox s (fun m => { m with outcome := d, begun := true }))

/-- As `runCmd`, for a command of a partition. -/
def runPartCmd (code : Nat) (s : State) (f : State → Cmd → PartIx → CmdRes) : Res :=
  runCmd code s (fun s c => match partOfCmd s c with | some p => f s c p | none => errWith s badPartition)

/-- UNKNOWN_CODE: a code that no table assigns (R49). -/
def execUnknownCode (s : State) : Res :=
  match s.mbox.run with
  | none => .next s
  | some c =>
    if assigned c.code ∨ s.mbox.outcome.isSome ∨ !commandable s then .next s
    else .next (modMbox s (fun m => { m with outcome := some ⟨unknownCode, []⟩ }))

/-- A write to PKG_MBOX_CMD: accepted while BUSY is clear, else dropped and counted (R50); acceptance may start counter windows
(R466). After a thermal trip none is accepted (R485). -/
def acceptCmd (s : State) (w : Word) (m : Master) : State :=
  if s.pwr.tripped then s
  else if s.mbox.busy then modMbox s (fun x => { x with rejects := satAdd x.rejects 1 255 })
  else
    let c : Cmd := ⟨wfield w 15 0, wfield w 31 28, wfield w 39 32, s.mbox.args, m⟩
    let s := modMbox s (fun x => { x with busy := true, done := false, tag := c.tag, run := some c, outcome := none, begun := false })
    let s : State := match partOfCmd s c with | some p => if s.cnt.win[p] = 2 then newWindow s p else s | none => s
    if s.cnt.gwin = 2 then newGlobalWindow s else s

/-- PKG_MBOX_STATUS (table PC-5). -/
def mboxStatus (s : State) : Nat :=
  let m := s.mbox
  place m.tag 47 40 + place m.rejects 39 32 + place m.error 31 16 + place (b2n m.done) 1 1 + place (b2n m.busy) 0 0

/-- Mailbox ownership passes to MGMT once BUSY is clear (R438). -/
def settleOwner (s : State) : State :=
  modMbox s (fun m => if m.preempt && !m.busy then { m with owner := 1, preempt := false } else m)

/-- A write to SEC_MBOX_OWNER (R438). -/
def writeOwner (s : State) (v : Nat) (m : Master) : State :=
  let own := match m with | .mgmt _ => 1 | .host => 2
  let x := s.mbox
  if v = own ∧ x.owner = 0 then modMbox s (fun x => { x with owner := own })
  else if v = 1 ∧ own = 1 ∧ x.owner = 2 then settleOwner (modMbox s (fun x => { x with preempt := true }))
  else if v = 0 ∧ x.owner = own then
    if own = 2 ∧ x.preempt then settleOwner s else modMbox s (fun x => { x with owner := 0 })
  else s

/-- Issue a COMMAND of the session in the mailbox, as management core 0 (R386). -/
def issueSession (s : State) (w : Word) (args : List Word) : State :=
  acceptCmd (modMbox s (fun m => { m with args := Vector.ofFn (fun i : Fin 8 => args.getD i.val 0) })) w (.mgmt 0)

/-- The response to a COMMAND: its SEQ, PKG_MBOX_STATUS, the results (R386). -/
def respond (s : State) (seq : Nat) (words : List Word) : State :=
  emit { s with mgmt := { s.mgmt with running := none, lastResp := words, lastDone := some seq } } (.response seq words)

/-- Commands that reset the device once they have completed (tables BS-12; R419, R428). -/
def resetsAfter (s : State) (code : Nat) : Bool :=
  code == 0x81 || decide (0x89 ≤ code ∧ code ≤ 0x8C) || (code == 0x84 && minimal s)

/-- MBOX_COMPLETION: results and ERROR are written, then DONE is set and BUSY cleared (R51); vector 0 is signalled (R382), the session
answers (R386), a waiting COMMAND is issued, ownership passes (R438), and a command that ends in a reset resets. Result words that
the command's table does not name are free values. -/
def execMboxCompletion (s : State) : Res :=
  match s.mbox.run, s.mbox.outcome with
  | some c, some d =>
    if asleep s mgmtDom then .next s
    else
      let rs := Vector.ofFn (fun i : Fin 8 => match d.results[i.val]? with | some v => word v | none => Config.freeWord (s.freeIx + i.val))
      let s := { s with freeIx := s.freeIx + 8 }
      let s := modMbox s (fun m => { m with results := rs, error := d.error, done := true, busy := false, run := none, outcome := none })
      let s := msix s 0
      let s := match s.mgmt.running with
        | some seq => if bySession s c then respond s seq (word (mboxStatus s) :: rs.toList) else s
        | none => s
      if d.error = 0 ∧ resetsAfter s c.code then .next (deviceReset s)
      else
        let s := settleOwner s
        match s.mgmt.queued with
        | some (seq, w, args) => .next (issueSession { s with mgmt := { s.mgmt with queued := none, running := some seq } } w args)
        | none => .next s
  | _, _ => .next s

/-! ### Transfer area (R439) -/

/-- Does a range of management SRAM lie in the transfer area? -/
def inXfer (off len : Nat) : Bool := decide (0x300000 ≤ off ∧ off + len ≤ 0x400000)

/-- Read management SRAM. -/
def sramRead (s : State) (off n : Nat) : List Byte := tgetMany 0 s.boot.sram off n

/-- Write management SRAM. -/
def sramWrite (s : State) (off : Nat) (bs : List Byte) : State := modBoot s (fun b => { b with sram := tsetMany 0 b.sram off bs })

/-- An argument of a command. -/
def argOf (c : Cmd) (i : Fin 8) : Nat := (c.args[i]).toNat

end Sys2Proof.Machine
end

