-- ==== Sys2Proof/Machine/BootCmd.lean ====
section
/-! DEFINITION. The boot and security commands, and the BOOT_ and SEC_ registers (R419 to R422, R427 to R436, R439, R440, R442; tables BS-8,
BS-10, BS-12, BS-13, BS-15 to BS-20). -/

namespace Sys2Proof.Machine

/-! ### Registers (tables BS-15 to BS-20) -/

/-- BOOT_STATUS. -/
def bootStatus (s : State) : Nat :=
  let b := s.boot
  place b.bootCount 63 32 + place (match b.causes.getLast? with | some r => r.cause | none => 0) 31 24 + place (min b.stage 7) 19 16
    + place b.attempts 15 14 + place (b2n b.minimal) 13 13 + place (b2n b.cfgDefaults) 12 12 + place (b2n b.recordLost) 11 11
    + place (b2n (heldUp s).isSome) 10 10 + place (b2n b.writeErr) 9 9 + place (b2n b.writeErr) 4 4

/-- BOOT_HOLDUP. -/
def bootHoldup (s : State) : Nat :=
  place (match heldUp s with | some k => requiredMj s k | none => 0) 47 32 + place (availableMj s) 31 16 + place (s.boot.vbank / 100) 15 0

/-- BOOT_IMAGE. -/
def bootImage (s : State) : Nat :=
  let m := s.boot.image
  place m.version 63 32 + place m.keyIndex 16 16 + place m.svn 15 8 + place s.boot.fuses.svn 7 0

/-- SEC_STATUS. -/
def secStatus (s : State) : Nat :=
  place ((ixs 8).map (fun p => if (s.parts[p]).allot.isSome then 2 ^ p.val else 0)).sum 55 48 + place (lcOf s) 10 8

/-- SEC_MBOX_OWNER. -/
def secOwner (s : State) : Nat := place (b2n s.mbox.preempt) 2 2 + place s.mbox.owner 1 0

/-- SEC_PART_CORES of a partition. -/
def secPartCores (s : State) (p : PartIx) : Nat :=
  match (s.parts[p]).allot with
  | none => 0
  | some a => place 1 63 63 + place (b2n a.hostPlan) 62 62 + place a.cores.toNat 39 0

/-- SEC_PART_HBM of a partition. -/
def secPartHbm (s : State) (p : PartIx) : Nat :=
  match (s.parts[p]).allot with
  | none => 0
  | some a => place (a.size / 2 ^ 21) 49 32 + place (a.base / 2 ^ 21) 17 0

/-! ### Free lengths -/

/-- Draw a free length from `lo` up to what the transfer area holds from an offset on. -/
def freeLength (s : State) (off lo : Nat) : State × Nat :=
  (bump s, lo + (Config.freeWord s.freeIx).toNat % (0x400000 - off - lo + 1))

/-! ### Boot commands (R419 to R422; table BS-12) -/

/-- BOOT_QUERY; a cause record that the section does not hold reads as 0. -/
def execBootQuery (s : State) : Res :=
  runCmd 0x80 s (fun s _ =>
    let cs := (newestCauses s 3).map packCause
    okWith s [bootStatus s, s.boot.bootCount, cs.getD 0 0, cs.getD 1 0, cs.getD 2 0, bootImage s])

/-- A command asks for a write of a section and goes on until it has ended (R425). -/
def askWrite (s : State) (k : Nat) : CmdRes := (wantSection (modBoot s (fun b => { b with failed := b.failed.filter (· != k) })) k, none)

/-- A command waits for the write of a section that it has asked for, and then ends; a write that fails, or that never fits the hold-up bank, ends it with
FLASH_FAILED, and what the command had set is taken back (R425, R426, R440). -/
def endWrite (s : State) (k : Nat) (back : State → State) (f : State → CmdRes) : CmdRes :=
  if comes s k then (s, none)
  else if s.boot.failed.contains k || neverFits s k then
    errWith (back (modBoot s (fun b => { b with wants := b.wants.filter (· != k), staged := terase b.staged k }))) 0x5002
  else f s

/-- The attempt counter is written as 0 in section BOOT; a failed write leaves it as the section has it. -/
def clearAttempts (s : State) (results : List Nat) : CmdRes :=
  if !s.mbox.begun then askWrite (modBoot s (fun b => { b with attempts := 0 })) 1
  else endWrite s 1 (fun s => modBoot s (fun b => { b with attempts := (storedBoot s).1 })) (fun s => okWith s results)

/-- BOOT_RESET: ARG0[0] clears the attempt counter first; the reset follows the completion. -/
def execBootReset (s : State) : Res :=
  runCmd 0x81 s (fun s c => if argOf c 0 % 2 = 0 then okWith s [] else clearAttempts s [])

/-- Bytes of the image slot (table BS-1). -/
def slotBytes : Nat := 4 * 2 ^ 20

/-- BOOT_IMAGE_BEGIN erases the slot; `ok`: the erase succeeds. -/
def execBootImageBegin (ok : Bool) (s : State) : Res :=
  runCmd 0x82 s (fun s c =>
    if slotBytes < argOf c 0 then errWith s xferRange
    else if !ok then errWith s 0x5002
    else okWith (modFlash s (fun t => tclear t 0 slotBytes)) [])

/-- BOOT_IMAGE_CHUNK programs the slot; `ok`: the read-back shows what was programmed. -/
def execBootImageChunk (ok : Bool) (s : State) : Res :=
  runCmd 0x83 s (fun s c =>
    let off := argOf c 0
    let len := argOf c 2
    if len % 256 ≠ 0 ∨ 2 ^ 20 < len then errWith s badArgument
    else if slotBytes < off + len ∨ !inXfer (argOf c 1) len then errWith s xferRange
    else if !ok then errWith s 0x5002
    else
      okWith (modFlash s (fun t => tsetMany 0xFF t off (sramRead s (argOf c 1) len))) [])

/-- BOOT_IMAGE_END verifies the slot under R420; in minimal mode an accepted image clears the attempt counter and the device resets. -/
def execBootImageEnd (x : ImageProof) (s : State) : Res :=
  runCmd 0x84 s (fun s _ =>
    if s.mbox.begun then clearAttempts s [0]
    else
      let k := (imageCause s (flashBytes s) x).1
      if k ≠ 0 then (s, some ⟨0x5001, [k]⟩)
      else if !minimal s then okWith s [0]
      else clearAttempts s [0])

/-- BOOT_SVN_COMMIT raises the fused SVN to that of the running image (R421). -/
def execBootSvnCommit (s : State) : Res :=
  runCmd 0x85 s (fun s _ =>
    let v := max s.boot.fuses.svn s.boot.image.svn
    okWith (modBoot s (fun b => { b with fuses := { b.fuses with svn := v } })) [v])

/-- BOOT_CAUSES. -/
def execBootCauses (s : State) : Res :=
  runCmd 0x93 s (fun s c =>
    let bs := s.boot.causes.flatMap causeBytes
    if !inXfer (argOf c 0) (max 1 bs.length) then errWith s xferRange
    else okWith (sramWrite s (argOf c 0) bs) [s.boot.causes.length])

/-- SEC_XFER_WRITE: 56 bytes of ARG1 to ARG7. -/
def execSecXferWrite (s : State) : Res :=
  runCmd 0x86 s (fun s c =>
    if !inXfer (argOf c 0) 56 then errWith s xferRange
    else okWith (sramWrite s (argOf c 0) ((c.args.toList.drop 1).flatMap (fun w => leBytes 8 w.toNat))) [])

/-- SEC_XFER_READ: 56 bytes as RESULT0 to RESULT6. -/
def execSecXferRead (s : State) : Res :=
  runCmd 0x87 s (fun s c =>
    if !inXfer (argOf c 0) 56 then errWith s xferRange
    else okWith s ((List.range 7).map (fun i => leNat (sramRead s (argOf c 0 + 8 * i) 8))))

/-! ### Attestation (R430; table BS-10) -/

/-- The report is written to the transfer area. -/
def writeReport (s : State) (off : Nat) (nonce : Vector Word 4) (p : Nat) : CmdRes :=
  if !inXfer off (reportSize s) then errWith s xferRange
  else
    let (t, bs) := fullReport s nonce p
    okWith (sramWrite t off bs) [reportSize s]

/-- SEC_ATTEST. -/
def execSecAttest (s : State) : Res :=
  runCmd 0x88 s (fun s c => writeReport s (argOf c 4) #v[c.args[0], c.args[1], c.args[2], c.args[3]] c.part)

/-! ### Life cycle (R427, R428; table BS-8). The reset, which wipes everything, follows the completion. -/

/-- A blob or authorisation of a length stands in the transfer area and verifies, or the command has failed. -/
def authorised (s : State) (c : Cmd) (len : Nat) (ok : Bool) (f : State → CmdRes) : CmdRes :=
  if !inXfer (argOf c 0) len then errWith s xferRange else if !ok then errWith s 0x5004 else f s

/-- A payload for a section that only commands write. -/
def stage (s : State) (k : Nat) (bs : List Byte) : State := modBoot s (fun b => { b with staged := tput b.staged k bs })

/-- SEC_TAKE_OWNERSHIP; `ok`: the blob's signatures and encapsulation verify. The blob must name this device's serial; it is written to section OWNER with
its GMAC. -/
def execSecTakeOwnership (ok : Bool) (s : State) : Res :=
  runCmd 0x89 s (fun s c =>
    if s.mbox.begun then
      endWrite s 8 id (fun s => okWith (modBoot s (fun b => { b with owner := (sectBody s 8).map (·.take blobBytes) })) [])
    else
      let blob := sramRead s (argOf c 0) blobBytes
      authorised s c blobBytes (ok && blobSerial blob == s.fuses.serial.toNat) (fun s =>
        match recordKey s with
        | some k => askWrite (stage s 8 (blob ++ ownerMac k blob)) 8
        | none => errWith s 0x5004))

/-- SEC_RELEASE_OWNERSHIP erases OWNER. -/
def execSecReleaseOwnership (x : Erasing) (s : State) : Res :=
  runCmd 0x8A s (fun s c => authorised s c 1 x.ok (fun s =>
    if !x.erased then errWith s 0x5002 else okWith (modBoot (eraseSection s 8) (fun b => { b with owner := none })) []))

/-- SEC_SCRAP erases IDENTITY and OWNER and blows the fuse that locks the UDS. -/
def execSecScrap (x : Erasing) (s : State) : Res :=
  runCmd 0x8B s (fun s c => authorised s c 1 x.ok (fun s =>
    if !x.erased then errWith s 0x5002
    else
      okWith (modBoot (eraseSection (eraseSection s 7) 8) (fun b =>
        { b with owner := none, fuses := { b.fuses with lc := .scrapped, udsLock := true } })) []))

/-- SEC_PROVISION generates the identity and KEM key pairs and writes them, wrapped, with the certificates to IDENTITY. -/
def execSecProvision (x : Provision) (s : State) : Res :=
  runCmd 0x8C s (fun s c =>
    if s.mbox.begun then endWrite s 7 id (fun s => okWith (modBoot s (fun b => { b with fuses := { b.fuses with lc := .provisioned } })) [])
    else
      authorised s c (1 + x.certs.length) x.ok (fun s =>
        if sectSize 7 < 40 + wrappedBytes + x.certs.length then errWith s 0x5002
        else
          let (s, keys) := freeBytes s wrappedBytes
          askWrite (stage s 7 (keys ++ x.certs)) 7))

/-! ### Shared keys (R432) -/

/-- SEC_KEY_REQUEST: a report with a fresh nonce. -/
def execSecKeyRequest (s : State) : Res :=
  runPartCmd 0x8D s (fun s c p =>
    let (t, nonce) := freshSecret s
    let r := writeReport t (argOf c 0) nonce p.val
    match r.2 with
    | some ⟨0, _⟩ => (modBoot r.1 (fun b => { b with keyNonce := some nonce }), r.2)
    | _ => (s, r.2))

/-- Is this the shared key of a partition, kind and identifier? -/
def isKey (p : PartIx) (kind ident : Nat) (k : SharedKey) : Bool := decide (k.part = p ∧ k.kind = kind ∧ k.ident = ident)

/-- A partition takes a shared key; one of the same name is replaced. The table of four may be full. -/
def takeKey (s : State) (p : PartIx) (kind ident : Nat) (secret : Vector Word 4) (results : List Nat) : CmdRes :=
  let others := s.boot.keys.filter (fun k => !isKey p kind ident k)
  if 4 ≤ (others.filter (fun k => decide (k.part = p))).length then errWith s 0x5007
  else okWith (modBoot s (fun b => { b with keys := others ++ [⟨p, kind, ident, secret⟩] })) results

/-- Are these a kind and an identifier: 1 GROUP with a group number, 2 RUN with a RUN of table CK-1? -/
def keyName (kind ident : Nat) : Bool := (kind == 1 && decide (ident < 2 ^ 32)) || (kind == 2 && decide (ident < 2 ^ 12))

/-- SEC_SHARED_CREATE. -/
def execSecSharedCreate (s : State) : Res :=
  runPartCmd 0x8E s (fun s c p =>
    if !keyName (argOf c 0) (argOf c 1) then errWith s badArgument
    else
      let (s, secret) := freshSecret s
      takeKey s p (argOf c 0) (argOf c 1) secret [])

/-- Is a request in the transfer area one that R431 accepts, but for its signatures: a report of an OWNED device of the same owner? The exporting device
has sent no nonce (log entry 247). -/
def requestOk (s : State) (off : Nat) : Bool :=
  let bs := sramRead s off reportHead
  fieldAt bs 0 4 == 0x41545354 && fieldAt bs 4 2 == 1 && fieldAt bs 6 1 == 2 && (bs.drop 106).take 48 == ownerDigest s

/-- SEC_SHARED_EXPORT; `accepted`: both signatures of the request verify under R431. ARG2 of all ones escrows to the owner's KEM key. The blob's bytes and
their number are free. -/
def execSecSharedExport (accepted : Bool) (s : State) : Res :=
  runPartCmd 0x8F s (fun s c p =>
    let escrow := decide (argOf c 2 = 2 ^ 64 - 1)
    if !keyName (argOf c 0) (argOf c 1) then errWith s badArgument
    else if !inXfer (argOf c 3) 1 || (!escrow && !inXfer (argOf c 2) reportHead) then errWith s xferRange
    else if !(s.boot.keys.any (isKey p (argOf c 0) (argOf c 1))) then errWith s 0x5006
    else if !escrow && !(accepted && requestOk s (argOf c 2)) then errWith s 0x5005
    else
      let (s, n) := freeLength s (argOf c 3) 1
      let (s, bs) := freeBytes s n
      okWith (sramWrite s (argOf c 3) bs) [n])

/-- SEC_SHARED_IMPORT: `blob` is what opens of the blob at ARG0; none if it is not encapsulated to this device, or its signatures do not verify. It must
carry the nonce of this device's own request. -/
def execSecSharedImport (blob : Option SharedBlob) (s : State) : Res :=
  runPartCmd 0x90 s (fun s c p =>
    if !inXfer (argOf c 0) 1 then errWith s xferRange
    else
      match blob with
      | some x => if s.boot.keyNonce == some x.nonce && keyName x.kind x.ident then takeKey s p x.kind x.ident x.secret [x.kind, x.ident] else errWith s 0x5004
      | none => errWith s 0x5004)

/-! ### Partitions (R434 to R436) -/

/-- Lowest base at which a range of a length fits below a bound beside ranges in use (base and length). -/
def lowestFit (used : List (Nat × Nat)) (total len : Nat) : Option Nat :=
  if len = 0 then some 0
  else
    let ok := fun b => decide (b + len ≤ total) && used.all (fun (x, n) => decide (n = 0 ∨ b + len ≤ x ∨ x + n ≤ b))
    ((0 :: used.map (fun (x, n) => x + n)).filter ok).min?

/-- The allotments of the partitions that exist. -/
def allots (s : State) : List Allot := (s.parts.toList).filterMap (·.allot)

/-- The stream contexts in use on a die. -/
def usedCtx (s : State) (d : Nat) : List (Nat × Nat) := (allots s).map (fun a => (a.strBase.getD d 0, a.strCount.getD d 0))

/-- The hall buffer in use on a die. -/
def usedHall (s : State) (d : Nat) : List (Nat × Nat) := (allots s).map (fun a => (a.hallBase.getD d 0, a.hallSize.getD d 0))

/-- The reserved area of a share (R434). -/
def reservedArea (share : Nat) : Nat := roundUp (64 * 2 ^ 20 + ceilDiv share 1024) (2 ^ 21)

/-- Is a core there, in service and owned by no partition? -/
def coreFree (s : State) (n : CoreIx) : Bool :=
  s.fuses.coresPresent.getLsbD n.val && !(s.cores[n]).fenced && (ownerOf s n).isNone

/-- What PART_CREATE is asked for: cores, share base and size, pool, vestibule, mirror in bytes, stream contexts and hall buffer bytes by
die, HOST_PLAN (table BS-12). -/
structure AllotReq where
  cores : BitVec 40
  base : Nat
  size : Nat
  pool : Nat
  vest : Nat
  mirror : Nat
  ctx : List Nat
  hall : List Nat
  hostPlan : Bool
  deriving DecidableEq, Repr

/-- The arguments of PART_CREATE. -/
def allotReq (c : Cmd) : AllotReq :=
  let a := argOf c
  { cores := BitVec.ofNat 40 (a 0), base := 2 ^ 21 * field (a 1) 17 0, size := 2 ^ 21 * field (a 1) 49 32
    pool := 2 ^ 20 * field (a 2) 19 0, vest := 2 ^ 20 * field (a 2) 51 32, mirror := 2 ^ 20 * field (a 3) 19 0
    ctx := [field (a 4) 13 0, field (a 4) 29 16], hall := [2 ^ 20 * field (a 5) 6 0, 2 ^ 20 * field (a 5) 14 8]
    hostPlan := field (a 5) 32 32 == 1 }

/-- The contiguous ranges of stream contexts and hall buffer that a request gets, by die; none if cores or ranges are short (check 2 of
R434). -/
def findRanges (s : State) (r : AllotReq) : Option (List Nat × List Nat) :=
  if !((ixs 40).all (fun n => !r.cores.getLsbD n.val || coreFree s n)) then none
  else
    match lowestFit (usedCtx s 0) 8192 (r.ctx.getD 0 0), lowestFit (usedCtx s 1) 8192 (r.ctx.getD 1 0),
        lowestFit (usedHall s 0) (64 * 2 ^ 20) (r.hall.getD 0 0), lowestFit (usedHall s 1) (64 * 2 ^ 20) (r.hall.getD 1 0) with
    | some c0, some c1, some h0, some h1 => some ([c0, c1], [h0, h1])
    | _, _, _, _ => none

/-- Does the layout of a share fail check 3 of R434? -/
def badLayout (s : State) (r : AllotReq) : Bool :=
  decide (4096 * (32 * nStacks s * remapStart) < r.base + r.size)
    || (allots s).any (fun a => decide (r.base < a.base + a.size ∧ a.base < r.base + r.size))
    || decide (r.pool % 2 ^ 21 ≠ 0 ∨ r.vest % 2 ^ 21 ≠ 0 ∨ r.mirror % 2 ^ 21 ≠ 0)
    || decide (r.size ≤ r.pool + r.vest + r.mirror + reservedArea r.size)

/-- The allotment that a request gets. -/
def allotOf (r : AllotReq) (ctx hall : List Nat) : Allot :=
  let res := reservedArea r.size
  { cores := r.cores, base := r.base, size := r.size, data := r.size - (r.pool + r.vest + r.mirror + res), pool := r.pool, vest := r.vest
    mirror := r.mirror, reserved := res, hallBase := hall, hallSize := r.hall, strBase := ctx, strCount := r.ctx, hostPlan := r.hostPlan }

/-- The share of an allotment takes a fresh key: nothing of it reads as before, its tags read UNWRITTEN (R248, R435, R436). -/
def freshShare (s : State) (p : PartIx) (a : Allot) : State :=
  { s with
    hbm := tclear s.hbm a.base (a.base + a.size), tags := tclear s.tags (a.base / 4096) ((a.base + a.size) / 4096)
    vmap := tclear s.vmap (a.base / 4096) ((a.base + a.size) / 4096), freed := s.freed.filter (fun e => decide (e.1 ≠ p))
    keyEpochs := s.keyEpochs.set p.val (s.keyEpochs[p.val] + 1) }

/-- PART_CREATE. -/
def execPartCreate (s : State) : Res :=
  runCmd 0x91 s (fun s c =>
    match toFin 8 c.part with
    | none => errWith s badPartition
    | some p =>
      if s.dbg.level = 4 then errWith s notPermitted
      else if (s.parts[p]).allot.isSome then errWith s 0x5008
      else
        let r := allotReq c
        match findRanges s r with
        | none => errWith s 0x5009
        | some (ctx, hall) =>
          if badLayout s r then errWith s 0x500A
          else
            let a := allotOf r ctx hall
            okWith (modPart (freshShare s p a) p (fun q => { q with allot := some a })) [a.data])

/-- PART_DESTROY (R436). -/
def execPartDestroy (s : State) : Res :=
  runPartCmd 0x92 s (fun s _ p =>
    let q := s.parts[p]
    match q.allot with
    | none => errWith s badPartition
    | some a =>
      if q.st ≠ .empty ∨ q.inGroup ∨ q.twin ≠ .none then errWith s 0x500B
      else
        let s := freshShare s p a
        let s := { s with hall := Vector.ofFn (fun d : Fin 2 => tclear s.hall[d] (a.hallBase.getD d.val 0) (a.hallBase.getD d.val 0 + a.hallSize.getD d.val 0)) }
        let s := modBoot s (fun b => { b with keys := b.keys.filter (fun k => decide (k.part ≠ p)) })
        okWith (modPart s p (fun q => { q with allot := none })) [])

end Sys2Proof.Machine
end

