-- ==== Sys2Proof/Machine/Ctl.lean ====
section
/-! DEFINITION. Meanings of the branch, memory, synchronisation and special instructions of the control core, and of the
events that complete them (R40, R66, R70 to R73, R84 to R94, R100 to R102, R225; tables CC-10 to CC-12). -/

namespace Sys2Proof.Machine

/-! ### Branches (R84) -/

/-- The outcome bit of a branch that its guard stops (R455). -/
def guardBit (s : State) (n : CoreIx) (g : Guard) : State :=
  match runCtx s.cores[n] with
  | some i =>
    if guardOk (ctxOf s n i) g || asleep s (coreDom n) then s else flowResync (flowBit s n i false) n i ((ctxOf s n i).pc + 8)
  | none => s

/-- Jump the context to a target, with the link written to SD. -/
def jump (s : State) (n : CoreIx) (i : CtxIx) (sd : Reg) (target : Word) : State :=
  let link := (ctxOf s n i).pc.setWidth 64 + 8
  let s := result (flowBit s n i true) n i sd link 1
  flowResync (modCtx s n i (fun x => { x with pc := target.setWidth 40 })) n i (target.setWidth 40)

/-- BR: to the instruction's own address plus OFF32 (R84). -/
def execBr (n : CoreIx) (g : Guard) (sd : Reg) (off : W32) (s : State) : Res :=
  .next (issue (guardBit s n g) n g 1 [sd] (fun s i _ _ => jump s n i sd ((ctxOf s n i).pc.setWidth 64 + sext32 off)))

/-- BRI: to SA + OFF32; a target outside the code or not at the start of an instruction raises BAD_TARGET (R84). -/
def execBri (n : CoreIx) (g : Guard) (sd sa : Reg) (off : W32) (s : State) : Res :=
  .next (issue (guardBit s n g) n g 1 [sd, sa] (fun s i _ lc =>
    let t := rd (ctxOf s n i) sa + sext32 off
    if isStart lc t.toNat then flowPc (jump s n i sd t) n i 2 (t.setWidth 40) else raiseHere s n i .badTarget t))

/-! ### Memory (R85 to R88) -/

/-- Code of a space (table CC-10). -/
def spaceCode : Space → Nat
  | .store => 0
  | .hall => 1
  | .hbm => 2

/-- Bytes of the view that a context has of a space (table CC-10). -/
def viewSize (s : State) (n : CoreIx) (b : Bound) (lc : LCoreE) : Space → Nat
  | .store => lc.footprint
  | .hall => (hallView s b.part (dieOfCore n)).2
  | .hbm => hbmView s b.part

/-- What CC_EXC_ADDR holds of a memory exception: the space in [63:62] and the address in [61:0] (table CC-14). -/
def memInfo (sp : Space) (a : Nat) : Word := word (place (spaceCode sp) 63 62 + place a 61 0)

/-- The exception of an access, if it has one: alignment, then range, then a store into the code (R86). -/
def accessFault (s : State) (n : CoreIx) (b : Bound) (lc : LCoreE) (sp : Space) (store : Bool) (a size : Nat) : Option Exc :=
  if a % size ≠ 0 then some .misaligned
  else if viewSize s n b lc sp < a + size then some .outOfRange
  else if store && decide (sp = .store ∧ a < lc.codeLen) then some .codeWrite
  else none

/-- The datum of a load from its little-endian bytes (R85). -/
def datum (bs : List Byte) (signed : Bool) : Word :=
  let v := leNat bs
  let bits := 8 * bs.length
  if signed && decide (2 ^ (bits - 1) ≤ v) then word (v + (2 ^ 64 - 2 ^ bits)) else word v

/-- Queue a scalar access to the hall buffer or HBM3 behind the context's earlier ones; one to HBM3 becomes a request to the
cellar dies under the tensor that the directory gives (R87, R88, R249). -/
def queueAccess (s : State) (n : CoreIx) (i : CtxIx) (b : Bound) (a : Acc) : State :=
  let s := modCtx s n i (fun x => { x with accs := x.accs ++ [a] })
  match a.space with
  | .hbm =>
    let t := match tensorAt s b.part a.addr with | some e => e.id | none => 0
    mkReq s (.scalar n i) b.part t a.store ((List.range a.size).map (a.addr + ·)) (leBytes a.size a.data)
  | _ => s

/-- LOAD. A core store load delivers at once (log entry 12); `bad` says that the word read is uncorrectable (table CC-14). -/
def execLoad (n : CoreIx) (g : Guard) (r sa : Reg) (sp : Space) (size : Fin 4) (signed : Bool) (off : BitVec 28) (bad : Bool)
    (s : State) : Res :=
  .next (issue s n g 1 [r, sa] (fun s i b lc =>
    let a := (rd (ctxOf s n i) sa + off.signExtend 64).toNat
    let k := 2 ^ size.val
    match accessFault s n b lc sp false a k with
    | some e => raiseHere s n i e (memInfo sp a)
    | none =>
      match sp with
      | .store =>
        if bad then raiseHere s n i .storeUncorrectable (word a)
        else result s n i r (datum (readStore s.cores[n] (b.base + a) k) signed) 1
      | _ => advance (queueAccess s n i b ⟨sp, false, a, k, signed, r, 0, (ctxOf s n i).pc⟩) n i 1))

/-- STORE. -/
def execStore (n : CoreIx) (g : Guard) (r sa : Reg) (sp : Space) (size : Fin 4) (off : BitVec 28) (s : State) : Res :=
  .next (issue s n g 1 [r, sa] (fun s i b lc =>
    let x := ctxOf s n i
    let a := (rd x sa + off.signExtend 64).toNat
    let k := 2 ^ size.val
    let v := (rd x r).toNat
    match accessFault s n b lc sp true a k with
    | some e => raiseHere s n i e (memInfo sp a)
    | none =>
      match sp with
      | .store => advance (modCore s n (fun c => writeStore c (b.base + a) (leBytes k v))) n i 1
      | _ => advance (queueAccess s n i b ⟨sp, true, a, k, false, r, v, x.pc⟩) n i 1))

/-- The oldest outstanding access of a context to a space: accesses of one context to one space take effect in program
order (R87). -/
def headAcc (x : Ctx) (sp : Space) : Option Acc := x.accs.find? (fun a => a.space == sp)

/-- Take the oldest access to a space off the context's list. -/
def popAcc (x : Ctx) (sp : Space) : Ctx := { x with accs := x.accs.eraseP (fun a => a.space == sp) }

/-- The physical hall buffer offset of an access. -/
def hallAddr (s : State) (n : CoreIx) (p : PartIx) (a : Nat) : Nat := (hallView s p (dieOfCore n)).1 + a

/-- The request of a context's oldest HBM3 access. -/
def headReq (s : State) (n : CoreIx) (i : CtxIx) : Option Req := s.reqs.find? (fun r => r.who == .scalar n i)

/-- LOAD_DATA: the oldest access of the context to the space is a load whose data are there; they arrive in its register
(R87). A scalar HBM3 load whose tag check failed raises TAG_MISMATCH (R88). -/
def execLoadData (n : CoreIx) (i : CtxIx) (sp : Space) (s : State) : Res :=
  if asleep s (coreDom n) then .next s else
  let x := ctxOf s n i
  match headAcc x sp, boundOf s.cores[n] i with
  | some a, some b =>
    if a.store then .next s
    else
      match sp with
      | .store => .next s
      | .hall =>
        let v := datum (readHall s (dieOfCore n) (hallAddr s n b.part a.addr) a.size) a.signed
        .next (wake (modCtx s n i (fun x => wr (popAcc x sp) a.rd v)) n)
      | .hbm =>
        match headReq s n i with
        | none => .next s
        | some r =>
          if !reqDone s r then .next s
          else
            let s := modCtx (dropReq s r.id) n i (fun x => popAcc x sp)
            if r.failed then .next (raise s n i .tagMismatch a.pc (memInfo sp a.addr))
            else
              let v := datum (tgetMany 0 r.got 0 a.size) a.signed
              .next (wake (modCtx s n i (fun x => wr x a.rd v)) n)
  | _, _ => .next s

/-- STORE_COMPLETE: the oldest access of the context to the space is a store, and its space takes it (R87). -/
def execStoreComplete (n : CoreIx) (i : CtxIx) (sp : Space) (s : State) : Res :=
  if asleep s (coreDom n) then .next s else
  let x := ctxOf s n i
  match headAcc x sp, boundOf s.cores[n] i with
  | some a, some b =>
    if !a.store then .next s
    else
      match sp with
      | .store => .next s
      | .hall =>
        let s := writeHall s (dieOfCore n) (hallAddr s n b.part a.addr) (leBytes a.size a.data)
        .next (wake (modCtx s n i (fun x => popAcc x sp)) n)
      | .hbm =>
        match headReq s n i with
        | none => .next s
        | some r => if reqDone s r then .next (wake (modCtx (dropReq s r.id) n i (fun x => popAcc x sp)) n) else .next s
  | _, _ => .next s

/-! ### SYS, SYNC and SPECIAL (R89 to R94) -/

/-- NOP. -/
def execNop (n : CoreIx) (g : Guard) (s : State) : Res := .next (issue s n g 1 [] (fun s i _ _ => advance s n i 1))

/-- YIELD: the context stays READY and the core switches (R70, R89). -/
def execYield (n : CoreIx) (g : Guard) (s : State) : Res :=
  .next (issue s n g 1 [] (fun s i _ _ => leave (advance s n i 1) n i .ready []))

/-- STEPEND: the context becomes PARKED until the next step starts (R89). -/
def execStepend (n : CoreIx) (g : Guard) (s : State) : Res :=
  .next (issue s n g 1 [] (fun s i _ _ => leave (advance s n i 1) n i .parked []))

/-- FENCE (R87, R89). -/
def execFence (n : CoreIx) (g : Guard) (scope : Fin 8) (s : State) : Res :=
  .next (issue s n g 1 [] (fun s i _ _ => gate s n i [.memDone scope.val] (fun s => advance s n i 1)))

/-- TRAP (R89, table CC-14). -/
def execTrap (n : CoreIx) (g : Guard) (code : BitVec 16) (s : State) : Res :=
  .next (issue s n g 1 [] (fun s i _ _ => raiseHere s n i .trap (code.setWidth 64)))

/-- WAITB (R45, R89). -/
def execWaitb (n : CoreIx) (g : Guard) (b : BitVec 16) (s : State) : Res :=
  .next (issue s n g 1 [] (fun s i _ _ => gate s n i [.barrier b.toNat] (fun s => advance s n i 1)))

/-- SIGB: a barrier that does not list the logical core raises BAD_BARRIER (R91); otherwise the token leaves once every
earlier access and engine instruction of the context is complete (R225). -/
def execSigb (n : CoreIx) (g : Guard) (b : BitVec 16) (s : State) : Res :=
  .next (issue s n g 1 [] (fun s i bd _ =>
    let listed := match barrierOf s bd.part b.toNat with
      | some e => e.sources.contains (.here bd.lcore)
      | none => false
    if !listed then raiseHere s n i .badBarrier (b.setWidth 64)
    else gate s n i [.memDone 7, .engineDone] (fun s => advance (sendToken s bd.part b.toNat bd.lcore) n i 1)))

/-- WAITC (R89). -/
def execWaitc (n : CoreIx) (g : Guard) (c : Cnt) (v : W32) (s : State) : Res :=
  .next (issue s n g 1 [] (fun s i _ _ => gate s n i [.counter c v] (fun s => advance s n i 1)))

/-- SETC (R89). -/
def execSetc (n : CoreIx) (g : Guard) (c : Cnt) (v : W32) (s : State) : Res :=
  .next (issue s n g 1 [] (fun s i _ _ => advance (modCtx s n i (fun x => wrc x c v)) n i 1))

/-- RDSR. Reference time and the cycle count have moved on by amounts that no rule fixes when they are read (R94). -/
def execRdsr (n : CoreIx) (g : Guard) (sd : Reg) (sel : Fin 8) (s : State) : Res :=
  .next (issue s n g 1 [sd] (fun s i b _ =>
    let q := s.parts[b.part]
    match sel with
    | 0 => result s n i sd q.stepNo 1
    | 1 => result s n i sd q.version 1
    | 2 => result s n i sd (word b.lcore) 1
    | 3 => result s n i sd (word (i.val - b.ctxLo)) 1
    | 4 => result s n i sd (match q.image with | some im => im.seed | none => 0) 1
    | 5 => let s := look s; result s n i sd (word s.rtime) 1
    | 6 =>
      let s := bump (modCore s n (fun c => { c with cycles := c.cycles + Config.elapsedCycles s.freeIx }))
      result s n i sd (word (s.cores[n]).cycles) 1
    | 7 => result s n i sd (word q.attempt) 1))

/-- Shape words (R40, table PC-1) of a partition for a logical core. -/
def shapeWord (s : State) (p : PartIx) (l : Nat) (w : Nat) : Word :=
  let q := s.parts[p]
  let nL := match q.image with | some im => im.lcores.length | none => 0
  match w with
  | 0 => word (16 * nStacks s + portDies s)
  | 1 => word nL
  | 6 => word (match q.allot with | some a => a.data | none => 0)
  | 7 => 3
  | _ =>
    if nL ≤ l then 0
    else
      match coreOf s p l with
      | none => 0
      | some n =>
        let c := s.cores[n]
        match w with
        | 2 => word (arraysOf c).length
        | 3 => word (groupsOf c)
        | 4 => word c.bound.length
        | _ =>
          match c.bound.find? (fun b => !(decide (b.part = p ∧ b.lcore = l))) with
          | none => word coreStoreBytes
          | some o =>
            let fp := fun k => match lcoreE s p k with | some e => e.footprint | none => 0
            word (Config.sharedStore (fp l) (fp o.lcore))

/-- QSHAPE (R40, R89). -/
def execQshape (n : CoreIx) (g : Guard) (sd sa : Reg) (w : Fin 8) (s : State) : Res :=
  .next (issue s n g 1 [sd, sa] (fun s i b _ => result s n i sd (shapeWord s b.part (rd (ctxOf s n i) sa).toNat w.val) 1))

/-- BCAST (R89, R92). -/
def execBcast (n : CoreIx) (g : Guard) (sa : Reg) (slot : Fin 8) (s : State) : Res :=
  .next (issue s n g 1 [sa] (fun s i _ _ =>
    advance (modCtx s n i (fun x => { x with b := x.b.set slot.val (rd x sa) slot.isLt })) n i 1))

/-- The place of an element in a tile register bank (R172): 8,192 per register. -/
def tregKey (t entry : Nat) : Nat := 8192 * t + entry

/-- Deliver the TRDs of a context for which no earlier vector instruction is left (R93). -/
def deliverTrds (s : State) (n : CoreIx) (i : CtxIx) : State :=
  let bk := bankOf s.cores[n] i
  modCore s n (fun c =>
    let x := c.ctx[i]
    let rdy := x.trds.filter (fun t => t.after == 0)
    let x := rdy.foldl (fun x t => wr x t.rd ((tget (0 : W32) (c.banks[bk]).treg (tregKey t.treg t.entry)).setWidth 64)) x
    { c with ctx := c.ctx.set i.val { x with trds := x.trds.filter (fun t => t.after != 0) } i.isLt })

/-- TRD: it reads the element after the vector instructions that the context issued earlier (R93). -/
def execTrd (n : CoreIx) (g : Guard) (sd : Reg) (treg : Fin 16) (row : Fin 32) (lane : Fin 256) (s : State) : Res :=
  .next (issue s n g 1 [sd] (fun s i _ _ =>
    let earlier := ((s.cores[n]).vq.filter (fun v => v.ctx == i)).length
    let t : Trd := ⟨sd, treg.val, 256 * row.val + lane.val, earlier⟩
    deliverTrds (advance (modCtx s n i (fun x => { x with trds := x.trds ++ [t] })) n i 1) n i))

/-! ### Events of the control core -/

/-- QUANTUM: the RUN context has issued for q cycles while another was READY, and the core switches (R72). -/
def execQuantum (n : CoreIx) (s : State) : Res :=
  if asleep s (coreDom n) then .next s else
  let c := s.cores[n]
  match runCtx c with
  | none => .next s
  | some i => if c.quantum ≠ 0 ∧ c.quantum ≤ c.issued ∧ anyReady c then .next (leave s n i .ready []) else .next s

/-- What CC_EXC_ADDR holds of WAIT_TIMEOUT: barrier identifier, counter index or scope; none when the context waits for
something that WAIT_LIMIT does not cover (table CC-14). -/
def waitInfo (ks : List Cond) : Option Word :=
  match ks with
  | [.barrier b] => some (word b)
  | [.counter c _] => some (word c.val)
  | [.memDone scope] => some (word scope)
  | _ => none

/-- WAIT_TIMEOUT: WAITB, WAITC or FENCE has blocked longer than WAIT_LIMIT (R101, R102). -/
def execWaitTimeout (n : CoreIx) (i : CtxIx) (s : State) : Res :=
  if timersHeld s || asleep s (coreDom n) then .next s else
  let x := ctxOf s n i
  if x.st = .blocked ∧ (s.cores[n]).waitLimit ≠ 0 then
    match waitInfo x.waits with
    | some v => .next (raiseHere s n i .waitTimeout v)
    | none => .next s
  else .next s

end Sys2Proof.Machine
end

