-- ==== Sys2Proof/Machine/Load.lean ====
section
/-! DEFINITION. The load checks of a plan image in the order of the table (R57, R58, R78, R126, R127, R206, R207, R213, R266 to R269,
R276 to R279, R369, R507; table PC-9). -/

namespace Sys2Proof.Machine

/-- The first place at which a list holds a value that an earlier place holds. -/
def firstRepeat : List Nat → List Nat → Option Nat
  | _, [] => none
  | seen, x :: l => if seen.contains x then some x else firstRepeat (x :: seen) l

/-- Physical cores of a partition in service. -/
def liveCores (s : State) (p : PartIx) : List CoreIx := (coresOf s p).filter (fun n => !(s.cores[n]).fenced)

/-- Logical cores of an image with their numbers. -/
def lcoresIx (im : Image) : List (LCoreE × Nat) := im.lcores.zipIdx

/-- 0x01 IMAGE_FORMAT. -/
def loadFormat (s : State) (p : PartIx) (im : Image) (off len : Nat) : Option Nat :=
  if !im.magicOk || im.contract ≠ 3 || decide (2 ^ 29 < len) || len ≠ im.length || off % 4096 ≠ 0 || decide (hbmView s p < off + len)
      || im.lcores.isEmpty then some 0
  else none

/-- 0x05 CORE_STORE; the footprint is counted with the descriptor table (R213) and the flume area (R193), which lie in it. -/
def loadStore (l : LCoreE) : Bool :=
  decide (coreStoreBytes < l.footprint) || decide (2 ^ 20 < l.codeLen) || l.descOffset % 64 != 0 || decide (32 < l.flumeDepth)
    || (!l.descs.isEmpty && decide (l.footprint < l.descOffset + 128 * l.descs.length))
    || (decide (0 < l.flumeDepth) && (l.flumeOffset % 65536 != 0 || decide (l.footprint < l.flumeOffset + 65536 * l.flumeDepth)))

/-- 0x06 TENSOR_ID: tensors in table order, then the tensors that layers name, 0 among them (R36). -/
def loadIds (im : Image) : Option Nat :=
  let rec go (seen : List Nat) : List TensorE → Option Nat
    | [] => none
    | t :: l => if t.id = 0 ∨ seen.contains t.id then some t.id else go (t.id :: seen) l
  (go [] im.tensors).orElse (fun _ =>
    (im.layers.flatMap (fun l => [l.activation, l.gradient])).find? (fun i => (tensorById im i).isNone))

/-- 0x07 TENSOR_PLACE. -/
def loadPlace (s : State) (p : PartIx) (t : TensorE) : Bool := t.base % 4096 != 0 || decide (hbmView s p < t.base + t.size)

/-- Insert a tensor by identifier. -/
def insTensor (t : TensorE) : List TensorE → List TensorE
  | [] => [t]
  | u :: l => if t.id ≤ u.id then t :: u :: l else u :: insTensor t l

/-- Do the byte ranges of two tensors overlap? -/
def overlap (t u : TensorE) : Bool := decide (0 < t.size ∧ 0 < u.size ∧ t.base < u.base + u.size ∧ u.base < t.base + t.size)

/-- 0x08 TIED_WEIGHTS: the higher identifier of the first overlapping pair in identifier order. -/
def loadTied (im : Image) : Option Nat :=
  let rec go : List TensorE → Option Nat
    | [] => none
    | t :: l => match l.find? (overlap t) with | some u => some u.id | none => go l
  go ((im.tensors.filter (fun t => t.kind == .parameter)).foldr insTensor [])

/-- 0x09 FORMAT. -/
def loadFmt (t : TensorE) : Bool := (fmtOf t.fmt).isNone || (t.bx && t.fmt != 7)

/-- The first block that the image touches whose tag fails, with what fails: each is read whole, its CRC checked without a tracker and its FOLD
against 0 (R250, table CM-5). `reads` is what the hardware does to the reads, in their order. -/
def imageFault (s : State) (p : PartIx) (reads : List ReadErr) (off len : Nat) : Option (Nat × List TagCause) :=
  let b0 := logicalAddr s p off / 4096
  (List.range (ceilDiv (off % 4096 + len) 4096)).findSome? (fun j =>
    match tagCheck s (b0 + j) (reads.getD j .ok) true true false 0 0 with
    | [] => none
    | ks => some (b0 + j, ks))

/-- What the reads of the image leave behind: mismatches that the re-read cured are counted, the block that fails is recorded (R252, table DB-11);
reading ends at that block. -/
def imageRead (s : State) (p : PartIx) (reads : List ReadErr) (off len : Nat) : State :=
  let b0 := logicalAddr s p off / 4096
  let n := ceilDiv (off % 4096 + len) 4096
  let fails := imageFault s p reads off len
  let upTo := match fails with | some (b, _) => b - b0 | none => n
  let s := each (List.range upTo) s (fun s j =>
    let s := countG s 3 4096
    if reads.getD j .ok = .cured then cured s (cellarOf s (b0 + j)) else s)
  match fails with
  | some (b, ks) => readEvents (logTagFail (countG s 3 4096) (cellarOf s b) ks 0 b) (cellarOf s b) b ks
  | none => s

/-- 0x0A GRAD_FORMAT. -/
def loadGrad (im : Image) (l : LayerE) : Option Nat :=
  match tensorById im l.activation, tensorById im l.gradient with
  | some a, some g => if a.fmt = g.fmt ∧ a.bx = g.bx then none else some g.id
  | _, _ => none

/-- 0x0B SEQ_LIMIT. -/
def loadSeq (l : LayerE) : Bool := decide (2 ^ 20 < l.positions ∨ 2 ^ 20 < l.first + l.positions)

/-- Is an extent of a logical tile outside R37? -/
def badDim (v : Nat) : Bool := v == 0 || decide (8192 < v) || v % 16 != 0

/-- 0x0C TILE_SHAPE: an MMA names M, N and K, a WPRE names N and K. -/
def badTile (i : Ins) : Bool :=
  isMmaWpre i && insLen i.w0
    && (match i.w1 with
        | none => false
        | some v => badDim (wfield v 49 36) || badDim (wfield v 35 22) || (insMajor i.w0 == 0x10 && badDim (wfield v 63 50)))

/-- Index of an instruction (R57). -/
def insIndex (l off : Nat) : Nat := 2 ^ 40 * l + off

/-- 0x0C, over the instructions of the image. -/
def loadTiles (im : Image) : Option Nat :=
  (lcoresIx im).findSome? (fun l => ((scan l.1).find? badTile).map (fun i => insIndex l.2 i.off))

/-- Does a channel entry break table FB-5? -/
def badChannel (im : Image) (e : ChannelE) : Bool :=
  decide (255 < e.channel) || decide (1 < (im.channels.filter (fun c => c.channel == e.channel)).length) || decide (2 < e.kind) || e.reserved != 0
    || (if e.kind = 1 then !(decide (1 ≤ e.dcount ∧ e.dcount ≤ 4)) else e.dcount != 1)
    || (e.kind == 0 && (e.ring % 4096 != 0 || !(decide (1 ≤ e.ringPages ∧ e.ringPages ≤ 16384))))

/-- 0x0E STREAMS. -/
def loadStreams (s : State) (p : PartIx) (im : Image) : Option Nat :=
  let total := (im.lcores.map (·.nStreams)).sum
  let allow := match (s.parts[p]).allot with | some a => a.strCount | none => []
  match (lcoresIx im).find? (fun l => decide (64 < l.1.nStreams)) with
  | some l => some (0x200 + l.2)
  | none =>
    match [0, 1].find? (fun d => decide (allow.getD d 0 < total)) with
    | some d => some d
    | none => (im.channels.find? (badChannel im)).map (fun e => 0x100 + e.channel)

/-- The fields that a micro-operation uses, as a mask of D 1, A 2, B 4, C 8, IMM 16; none for an unknown one (table UP-3). -/
def mopFields (op : Nat) : Option Nat :=
  match op with
  | 0x01 => some 17 | 0x02 => some 18 | 0x03 => some 18 | 0x04 => some 3 | 0x05 => some 17 | 0x06 => some 7 | 0x07 => some 7 | 0x08 => some 7
  | 0x09 => some 15 | 0x0A => some 19 | 0x0B => some 19 | 0x0C => some 23 | 0x0D => some 7 | 0x0E => some 7 | 0x0F => some 3 | 0x10 => some 19
  | 0x11 => some 7 | 0x12 => some 3 | 0x13 => some 3 | 0x14 => some 17 | 0x15 => some 3
  | _ => none

/-- Is a micro-operation known, with every field that it does not use 0 (R278)? -/
def mopOk (w : W32) : Bool :=
  match mopFields (mop w 31 26) with
  | none => false
  | some m =>
    (m % 2 == 1 || mop w 25 22 == 0) && (m / 2 % 2 == 1 || mop w 21 18 == 0) && (m / 4 % 2 == 1 || mop w 17 14 == 0)
      && (m / 8 % 2 == 1 || mop w 13 10 == 0) && (m / 16 % 2 == 1 || mop w 3 0 == 0) && mop w 9 4 == 0

/-- Is a program bad on its own (R278)? -/
def badProgram (pr : ProgramE) : Bool := pr.ops.isEmpty || decide (32 < pr.ops.length) || !(pr.ops.all mopOk)

/-- The slots that a program names. -/
def namedSlots (pr : ProgramE) : List Nat := ((pr.ops.filter (fun w => decide (1 ≤ mop w 31 26 ∧ mop w 31 26 ≤ 3))).map (fun w => mop w 3 0)).eraseDups

/-- May a tensor be an operand of the engines by R266 and R267? -/
def operandOk (t : TensorE) : Bool :=
  let r := widthClass t
  r != 0 && elements t % 1024 == 0 && (r == 1 || (t.shape.length == 4 && t.shape.drop 1 == [24, r, 1024]))

/-- Are the base offsets congruent (R268)? -/
def congruent (ts : List TensorE) : Bool :=
  match ts with
  | [] => true
  | t :: l => l.all (fun u => u.base % 98304 == t.base % 98304)

/-- The blocks that a binding writes in one tensor (R279). -/
def writtenBlocks (t : TensorE) (n : Nat) : List Nat :=
  (List.range (n / 1024)).map (fun c => t.base / 4096 + (granulePlace t c).1)

/-- The operand tensors of a binding. -/
def boundTensors (im : Image) (e : BindingE) : List TensorE := (List.range 8).filterMap (slotTensor im e)

/-- Does a binding break R279 on its own? A binding whose program the image does not hold breaks it too (DEDUCED, log entry 63). -/
def badBinding (im : Image) (e : BindingE) : Bool :=
  match im.programs.find? (fun pr => pr.number == e.program) with
  | none => true
  | some pr =>
    let ts := boundTensors im e
    let st := storedTensors im e
    (namedSlots pr).any (fun k => (slotTensor im e k).isNone) || e.elements % 1024 != 0 || !(ts.all operandOk) || !(congruent ts)
      || !(st.all (fun t => versioned t && (widthClass t == 1 || decide ((scaleW t.scale).mode ≤ 1))))

/-- The program of the first binding that is bad or writes a block that an earlier one writes. -/
def loadBindings (im : Image) : Option Nat :=
  let rec go (seen : List Nat) : List BindingE → Option Nat
    | [] => none
    | e :: l =>
      if badBinding im e then some e.program
      else
        let mine := (storedTensors im e).flatMap (fun t => writtenBlocks t e.elements)
        if mine.any seen.contains then some e.program else go (mine ++ seen) l
  go [] im.bindings

/-- Does a reduction entry break table UP-1 or R266 to R269? -/
def badReduction (im : Image) (e : ReductionE) : Bool :=
  let fp32Grad := fun (t : TensorE) => t.fmt == 0 && t.kind == .gradient && elements t % 1024 == 0
  decide (4095 < e.id) || e.ranks.isEmpty || decide (4096 < e.ranks.length) || (firstRepeat [] e.ranks).isSome
    || (match tensorById im e.target with
        | none => true
        | some t =>
          !(fp32Grad t) || scaleMode t != 0
            || (e.loc != 0
                && (match tensorById im e.loc with
                    | none => true
                    | some u => !(fp32Grad u) || !(congruent [t, u]) || decide (e.ranks.length ≤ e.locPos))))

/-- The first bad reduction entry, by its index 0x100 + ID. -/
def loadReductions (im : Image) : Option Nat :=
  let rec go (seen : List Nat) : List ReductionE → Option Nat
    | [] => none
    | e :: l => if badReduction im e || seen.contains e.id || decide (4096 ≤ seen.length) then some (0x100 + e.id) else go (e.id :: seen) l
  go [] im.reductions

/-- 0x0F UPDATE_PROGRAM. -/
def loadUpdates (im : Image) : Option Nat :=
  let rec go (seen : List Nat) : List ProgramE → Option Nat
    | [] => none
    | pr :: l => if badProgram pr || seen.contains pr.number then some pr.number else go (pr.number :: seen) l
  ((go [] im.programs).orElse (fun _ => loadBindings im)).orElse (fun _ => loadReductions im)

/-- 0x10 SCALE_HISTORY. -/
def loadHist (t : TensorE) : Bool := decide (2 ≤ (scaleW t.scale).mode) && ((scaleW t.scale).h == 0 || decide (1024 < (scaleW t.scale).h))

/-- The barrier that an instruction signals: a SIGB, or an SSTART whose descriptor has SIG_EN (R507). The field that names the descriptor
lies in word 1, so an SSTART without one names none. -/
def signals (l : LCoreE) (i : Ins) : Option Nat :=
  if isSigb i then some (insBarrier i)
  else if isSstart i then
    match i.w1 with
    | some v => (l.descs[wfield v 63 48]?).bind (fun d => (parseDesc d).sig)
    | none => none
  else none

/-- Is there an edge from barrier `a` to barrier `b` in the wait graph (R507)? -/
def waitEdge (im : Image) (a : Nat) (b : BarrierE) : Bool :=
  b.sources.any (fun x =>
    match x with
    | .remote _ _ => false
    | .here n =>
      match im.lcores[n]? with
      | none => false
      | some l =>
        let is := scan l
        is.any (fun i => isWaitb i && insBarrier i == a && is.any (fun j => signals l j == some b.id && decide (i.off < j.off))))

/-- The barriers that a wait on `a` holds up, found in `fuel` rounds. -/
def reachBarriers (im : Image) : Nat → List Nat → List Nat
  | 0, l => l
  | fuel + 1, l =>
    let next := (im.barriers.filter (fun b => !l.contains b.id && l.any (fun a => waitEdge im a b))).map (·.id)
    if next.isEmpty then l else reachBarriers im fuel (l ++ next)

/-- Does a barrier lie on a cycle? -/
def onCycle (im : Image) (a : Nat) : Bool :=
  let first := (im.barriers.filter (waitEdge im a)).map (·.id)
  (reachBarriers im im.barriers.length first).contains a

/-- The barriers that the image waits on, in the order of the check. -/
def waitsOf (im : Image) : List Nat :=
  im.lcores.flatMap (fun l => ((scan l).filter isWaitb).map insBarrier)
    ++ (im.bindings.filter (fun e => e.trigger == 1 || e.trigger == 3)).map (·.barrier)

/-- 0x11 BARRIERS (R507). -/
def loadBarriers (im : Image) : Option Nat :=
  match (waitsOf im).find? (fun b => !im.barriers.any (fun e => e.id == b)) with
  | some b => some b
  | none => ((im.barriers.map (·.id)).filter (onCycle im)).min?

/-- 0x12 ENCODING (R78). -/
def loadCode (im : Image) : Option Nat := (lcoresIx im).findSome? (fun l => (codeFault l.1).map (insIndex l.2))

/-- The checks of table PC-9 in their order: number and index of the first that fails. -/
def loadCheck (s : State) (p : PartIx) (im : Image) (off len : Nat) : Option (Nat × Nat) :=
  let check := fun (k : Nat) (r : Option Nat) (rest : Unit → Option (Nat × Nat)) => match r with | some i => some (k, i) | none => rest ()
  let tensor := fun (f : TensorE → Bool) => (im.tensors.find? f).map (·.id)
  let lcore := fun (f : LCoreE → Bool) => ((lcoresIx im).find? (fun l => f l.1)).map (·.2)
  check 0x01 (loadFormat s p im off len) fun _ =>
  check 0x02 (if im.digestOk && (imageFault s p im.reads off len).isNone then none else some 0) fun _ =>
  check 0x03 (if (liveCores s p).length < im.lcores.length then some im.lcores.length else none) fun _ =>
  check 0x04 (lcore (fun l => l.contexts == 0 || decide (4 < l.contexts))) fun _ =>
  check 0x05 (lcore loadStore) fun _ =>
  check 0x06 (loadIds im) fun _ =>
  check 0x07 (tensor (loadPlace s p)) fun _ =>
  check 0x08 (loadTied im) fun _ =>
  check 0x09 (tensor loadFmt) fun _ =>
  check 0x0A (im.layers.findSome? (loadGrad im)) fun _ =>
  check 0x0B ((im.layers.find? loadSeq).map (·.layer)) fun _ =>
  check 0x0C (loadTiles im) fun _ =>
  check 0x0D ((im.ksplits.find? (fun k => k.fp32 && k.order.isNone)).map (·.result)) fun _ =>
  check 0x0E (loadStreams s p im) fun _ =>
  check 0x0F (loadUpdates im) fun _ =>
  check 0x10 (tensor loadHist) fun _ =>
  check 0x11 (loadBarriers im) fun _ =>
  check 0x12 (loadCode im) fun _ => none

end Sys2Proof.Machine
end

