-- ==== Sys2Proof/Machine/Plan.lean ====
section
/-! DEFINITION. The plan commands (R46 to R48, R55 to R58, R66, R173, R177, R213, R262, R264, R290, R291, R389, R399; tables PC-2, PC-8). -/

namespace Sys2Proof.Machine

/-! ### LOAD_PLAN, ARM, HALT_PLAN, RELEASE_PLAN -/

/-- Code of a plan state (table PC-8, QUERY_PLAN). -/
def planCode : PlanSt → Nat
  | .empty => 0 | .loaded => 1 | .armed => 2 | .running => 3 | .halted => 4

/-- Is the plan of a partition resident and at rest, or EMPTY? -/
def atRest (s : State) (p : PartIx) : Bool := !active s p

/-- LOAD_PLAN: the image that the bytes at ARG0 spell is checked; a failed load changes nothing (R57, R58). -/
def execLoadPlan (im : Image) (s : State) : Res :=
  runPartCmd 2 s (fun s c p =>
    if (s.parts[p]).st ≠ .empty then errWith s wrongState
    else
      match loadCheck s p im (argOf c 0) (argOf c 1) with
      | some (k, i) => (if k ≤ 1 then s else imageRead s p im.reads (argOf c 0) (argOf c 1), some ⟨0x1000 + k, [k, i]⟩)
      | none =>
        let s := createHists (modPart (setPlan (imageRead s p im.reads (argOf c 0) (argOf c 1)) p .loaded) p (fun q =>
          { q with image := some im, shadowRec := [], exps := [], bind := [], ranStep := false, haltCause := 0
                   ckp := { q.ckp with restored := false } })) p im
        okWith s [0])

/-- Forget the version map of a partition: every logical block is its own CURRENT again (R290). -/
def dropMap (s : State) (p : PartIx) : State :=
  let keys := (mapped s p).map (·.1)
  { s with vmap := s.vmap.filter (fun e => !keys.contains e.1), freed := s.freed.filter (fun e => decide (e.1 ≠ p)) }

/-- What ARM and RELEASE_PLAN do to a core of the partition: chains empty, tile registers +0, no flume, kept output or preload
(R48, R173, R177). -/
def clearCore (c : Core) : Core :=
  { dropKept c with banks := Vector.replicate 2 VBank.reset, preload := none, mq := [], vq := [], sq := [] }

/-- Place the code and the descriptor table of a logical core in its core store footprint (R86, R213). -/
def placeTables (s : State) (p : PartIx) (l : Nat) : State :=
  match coreOf s p l, lcoreE s p l with
  | some n, some e =>
    modCore s n (fun c =>
      match c.bound.find? (fun b => decide (b.part = p ∧ b.lcore = l)) with
      | none => c
      | some b =>
        let c := writeStore c b.base (e.code.flatMap (fun w => leBytes 8 w.toNat))
        (e.descs.zipIdx).foldl (fun c d => writeStore c (b.base + e.descOffset + 128 * d.2) (d.1.flatMap (fun w => leBytes 8 w.toNat))) c)
  | _, _ => s

/-- The version map at ARM: after LOAD_PLAN a fresh one of version ARG1, from HALTED the old one without SHADOW and RETAINED
blocks (R290); LAST_CUT and ACCUM start over after LOAD_PLAN, unless a checkpoint was restored (R399). -/
def armMap (s : State) (p : PartIx) (v : Nat) : State :=
  let s := abandon s p 3
  if (s.parts[p]).st = .loaded then
    modPart (dropMap s p) p (fun q =>
      { q with mapVer := v % 65536, retention := none
               ckp := if q.ckp.restored then q.ckp else { q.ckp with lastCut := 0, accum := ⟨true, []⟩ } })
  else freeRetained (freeShadows s p) p

/-- ARM with a first step and version: logical cores are bound, contexts zeroed, tables placed (R34, R66, R213). A logical core that
fits on no core halts the plan with CORES_SHORT (R41). -/
def armPlan (s : State) (p : PartIx) (step version : Word) : State :=
  let s := armMap s p version.toNat
  let s := clearDigests (if (s.parts[p]).st = .loaded then clearUpd s p true else s) p
  let s := each (coresOf s p) s (fun s n => modCore s n (fun c => { clearCore c with cycles := 0, lines := [], pins := [] }))
  let s := modPart s p (fun q =>
    { q with stepNo := step, version := version, attempt := 0, haltReq := false, haltCause := 0, made := none, applied := [], readySet := []
             discardedSet := [], failClassP := false, vest := [], vestUsed := 0, vestMark := none, vestAcked := none, shadowRec := []
             excFirst := none, twinLostSent := false })
  match bindAll (unbindAll s p) p with
  | (s, some l) => partReport (haltPlan s p 2) p 0x0E [l]
  | (s, none) =>
    let s := each (List.range (s.parts[p]).bind.length) s (fun s l => placeTables s p l)
    let s := freshChannels (setScales s p) p
    let s := modPart s p (fun q => { q with step := if q.step = .idle ∧ q.inGroup then .waitStart else q.step })
    setPlan s p .armed

/-- ARM; a device with a twin mirrors the version that it begins with, another reads its pages for their digests (R316, R350; log entry 97). -/
def execArm (s : State) : Res :=
  runPartCmd 3 s (fun s c p =>
    if (s.parts[p]).st ≠ .loaded ∧ (s.parts[p]).st ≠ .halted then errWith s wrongState
    else
      let s := armPlan s p c.args[0] c.args[1]
      okWith (if active s p then startMirror s p (shardPages s p) else s) [])

/-- HALT_PLAN: in ARMED the partition is HALTED at once, in RUNNING the request is recorded (R47). -/
def execHaltPlan (s : State) : Res :=
  runPartCmd 4 s (fun s _ p =>
    match (s.parts[p]).st with
    | .armed => okWith (haltPlan s p 1) []
    | .running => okWith (modPart s p (fun q => { q with haltReq := true })) []
    | _ => errWith s wrongState)

/-- A core of a released partition: core store, accumulator banks, flumes and tile registers are zeroed (R48). -/
def releaseCore (c : Core) : Core :=
  { clearCore c with
    store := [], lines := [], pins := [], bound := [], ctx := Vector.replicate 4 Ctx.reset, stopped := false, stopping := false
    arrays := c.arrays.map (fun a => { a with half0 := { a.half0 with acc := [] }, half1 := { a.half1 with acc := [] } }) }

/-- RELEASE_PLAN (R48). -/
def releasePlan (s : State) (p : PartIx) : State :=
  let s := abandon s p 3
  let s := endStreams s p
  let s := each (coresOf s p) s (fun s n => modCore s n releaseCore)
  let s := clearDigests (clearUpd (dropMap s p) p true) p
  let s := { s with toks := s.toks.filter (fun t => decide (t.2.part ≠ p)), sluices := s.sluices.map (fun x => { x with held := x.held.filter (fun t => decide (t.part ≠ p)) }) }
  modPart (setPlan s p .empty) p (fun q =>
    { q with image := none, hists := [], shadowRec := [], exps := [], bind := [], vest := [], vestUsed := 0, recvs := [], sends := [], starts := []
             credHeld := [], mirTodo := [], retention := none, haltCause := 0, ranStep := false })

/-- RELEASE_PLAN. -/
def execReleasePlan (s : State) : Res :=
  runPartCmd 5 s (fun s _ p =>
    if (s.parts[p]).st ≠ .loaded ∧ (s.parts[p]).st ≠ .halted then errWith s wrongState else okWith (releasePlan s p) [])

/-- QUERY_SHAPE: the shape words; a logical core beyond a resident plan's is a bad argument (R40). -/
def execQueryShape (s : State) : Res :=
  runPartCmd 1 s (fun s c p =>
    match (s.parts[p]).image with
    | some im =>
      if im.lcores.length ≤ argOf c 0 then errWith s badArgument
      else okWith s ((List.range 8).map (fun w => (shapeWord s p (argOf c 0) w).toNat))
    | none => okWith s ((List.range 8).map (fun w => (shapeWord s p 0 w).toNat)))

/-- QUERY_PLAN. -/
def execQueryPlan (s : State) : Res :=
  runPartCmd 6 s (fun s _ p =>
    let q := s.parts[p]
    okWith s [planCode q.st, q.stepNo.toNat, q.version.toNat, q.haltCause])

/-! ### PART_WRITE and PART_READ (R56) -/

/-- The pieces of a byte range that lie in one 4 KiB block each: offset and length. -/
def blockPieces (off len : Nat) : List (Nat × Nat) :=
  (List.range ((off + len + 4095) / 4096 - off / 4096)).map (fun i =>
    let lo := max off (4096 * (off / 4096 + i))
    (lo, min (off + len) (4096 * (off / 4096 + i + 1)) - lo))

/-- A window write of the bytes of one block of a partition: the stack's block is written, with the tag's VERSION and FOLD of
R56; no block tracker takes part, so the tag follows the difference whatever the write covers (R249); a page of
a parameter or moment tensor is marked (R398). DESIGN CHOICE (log entry 188): the first byte of the piece says which tensor's FOLD the
block takes and whether it carries a version, where tensors hold only a part of it. -/
def windowWrite (s : State) (p : PartIx) (off : Nat) (bs : List Byte) : State :=
  let a := physAddr s p off
  let b := a / 4096
  if stackDown s (cellarOf s b) then accessError s 2 (hbmControl a)
  else
    let s := settleBlock s (cellarOf s b) b
    let v := versionedAt s p off
    let version := if v then (if (s.parts[p]).st = .halted then storeVersion s p off else (s.cellars[cellarOf s b]).winVersion) else 0
    let fold := match tensorAt s p off with | some t => foldOf t.id | none => 0
    let s := windowStore s a bs version fold
    if v then markPage s p (logicalAddr s p off / 4096) else s

/-- A window read of bytes of one block of a partition, by its CURRENT block (R284). -/
def windowRead (s : State) (p : PartIx) (off len : Nat) : State × List Byte := windowBytes s (physAddr s p off) len

/-- The state and argument checks of PART_WRITE and PART_READ: the error that applies. DESIGN CHOICE (log entry 187): a transfer that
breaks a BAD_ARGUMENT limit and the transfer-area range answers BAD_ARGUMENT. -/
def xferError (s : State) (c : Cmd) (p : PartIx) : Option Nat :=
  let off := argOf c 0
  let side := argOf c 1
  let other := argOf c 2
  let len := argOf c 3
  if active s p then some wrongState
  else if 1 < side ∨ off % 64 ≠ 0 ∨ other % 64 ≠ 0 ∨ len % 64 ≠ 0 ∨ len < 64 ∨ 2 ^ 30 < len ∨ hbmView s p < off + len then some badArgument
  else if side = 0 ∧ !inXfer other len then some xferRange
  else if side = 1 ∧ (s.pcie.wins[p]).size.toNat < other + len then some badArgument
  else none

/-- PART_WRITE: `host` are the bytes that the host window holds at ARG2; the command goes on once all of them have come. While the PCIe
link is down a transfer with the host window makes no progress. -/
def execPartWrite (host : List Byte) (s : State) : Res :=
  runPartCmd 7 s (fun s c p =>
    match xferError s c p with
    | some e => errWith s e
    | none =>
      if argOf c 1 = 1 ∧ (!s.pcie.up ∨ host.length ≠ argOf c 3) then (s, none)
      else
        let len := argOf c 3
        let bs := if argOf c 1 = 0 then sramRead s (argOf c 2) len else host
        let s := if argOf c 1 = 0 then s else emit s (.hostRead p (argOf c 2) len)
        let s := { s with cellars := Vector.ofFn (fun i : Fin 12 =>
          if i.val < nStacks s then { s.cellars[i] with winVersion := argOf c 4 % 65536 } else s.cellars[i]) }
        let s := each (blockPieces (argOf c 0) len) s (fun s e => windowWrite s p e.1 ((bs.drop (e.1 - argOf c 0)).take e.2))
        okWith s [len])

/-- PART_READ: no tag is checked (table CM-5). -/
def execPartRead (s : State) : Res :=
  runPartCmd 8 s (fun s c p =>
    match xferError s c p with
    | some e => errWith s e
    | none =>
      if argOf c 1 = 1 ∧ !s.pcie.up then (s, none)
      else
        let len := argOf c 3
        let (s, bs) := (blockPieces (argOf c 0) len).foldl (fun (x : State × List Byte) e =>
          let (s, bs) := windowRead x.1 p e.1 e.2
          (s, x.2 ++ bs)) (s, [])
        let s := if argOf c 1 = 0 then sramWrite s (argOf c 2) bs
          else each (piecesOf 512 (len / 512 + 1) (argOf c 2) bs) s (fun s e => hostWrite s p e.1 e.2)
        okWith s [len])

end Sys2Proof.Machine
end

