-- ==== Sys2Proof/Machine/StepCmd.lean ====
section
/-! DEFINITION. The step commands (R300, R313 to R326, R376, R399; tables SP-4 to SP-8). -/

namespace Sys2Proof.Machine

/-! ### Twins (R315, R316, R319, R376) -/

/-- The key of a group that a partition holds (R432). -/
def groupKey (s : State) (p : PartIx) (group : Nat) : Bool := s.boot.keys.any (fun k => decide (k.part = p ∧ k.kind = 1 ∧ k.ident = group))

/-- The completion code of a twin handshake; none when it succeeds (R315, R316, R376; table SP-8). -/
def handshakeError (s : State) (p : PartIx) (port : PortIx) (serial : Word) (x : TwinProof) (group : Option W32) : Option Nat :=
  let f := s.fab.ports[port]
  let differ := match group, x.group with | some a, some b => a != b | _, _ => false
  if !peerOk s f.nonce x.report || !portActive f || f.peerSerial != serial || differ then some 0x2002
  else
    match (s.parts[p]).allot with
    | none => some 0x2003
    | some a => if a.mirror < 2 * x.shard + 2 * x.vest then some 0x2003 else none

/-- The twin of a partition is set, and the mirror that it keeps for the partner is empty (R316). -/
def setTwin (s : State) (p : PartIx) (serial : Word) (port part rank : Nat) : State :=
  modPart s p (fun q =>
    { q with twin := .syncing, twinSerial := serial, twinPort := port, twinPart := part, twinRank := rank, twinLostSent := false
             mirror := some Mirror.empty, mirrorVersion := 0, vestAcked := none, vestMark := none, mirTodo := [] })

/-- Send what the vestibule holds to the twin (R316). -/
def sendVest (s : State) (p : PartIx) : State :=
  each (s.parts[p]).vest s (fun s v => sendTwin s p 2 (.mirror (.vest v.step (some v) false)))

/-- Does a partner that attests itself stand in for the lost one: the twin was LOST, and the partner holds its rank in the group (R322)? The mirror
that is kept for that rank then stays (DEDUCED, log entry 210). -/
def standsIn (q : Part) (x : TwinProof) : Bool := q.inGroup && x.group == some q.group && x.rank == q.twinRank && q.mirror.isSome

/-- TWIN_ATTACH: without an answer of the partner the handshake begins; with one it ends, and the copy to the twin begins (R316). A spare that has
assumed the lost partner's identity finds the mirror that this device keeps (R322). -/
def execTwinAttach (answer : Option TwinProof) (s : State) : Res :=
  runPartCmd 0x20 s (fun s c p =>
    let q := s.parts[p]
    let begun := q.twin = .handshake ∧ s.mbox.begun
    if 3 ≤ s.dbg.level then errWith s notPermitted
    else if q.twin ≠ .none ∧ q.twin ≠ .lost ∧ !begun then errWith s wrongState
    else
      match toFin 18 (wfield c.args[1] 20 16) with
      | none => errWith s badArgument
      | some port =>
        if portCount s ≤ port.val then errWith s badArgument
        else if (ixs 8).any (fun r => r != p && decide ((s.parts[r]).twin ≠ .none ∧ (s.parts[r]).twinPort = port.val)) then errWith s 0x8004
        else
          match answer with
          | none =>
            (challenge (modPart s p (fun q =>
              { q with twin := .handshake, twinSerial := c.args[0], twinPort := port.val, twinPart := wfield c.args[1] 2 0 })) port, none)
          | some x =>
            let wrong := handshakeError s p port c.args[0] x (if q.inGroup then some q.group else none)
            let s := giveReport s port x.report.asks p.val
            match wrong with
            | some e => errWith (modPart s p (fun q => { q with twin := .none })) e
            | none =>
              let kept := if standsIn q x then q.mirror else some Mirror.empty
              let s := modPart (setTwin s p c.args[0] port.val (wfield c.args[1] 2 0) x.rank) p (fun q => { q with mirror := kept })
              okWith (startMirror (sendVest s p) p (shardPages s p)) [twinCode .syncing])

/-- The twin is given up: the mirror stops and its region is free (R319). -/
def dropTwin (s : State) (p : PartIx) : State :=
  modPart s p (fun q => { q with twin := .none, mirror := none, mirTodo := [], vestAcked := none, vestMark := none, mirrorVersion := 0 })

/-- TWIN_RELEASE (R319). -/
def execTwinRelease (s : State) : Res :=
  runPartCmd 0x21 s (fun s c p =>
    let q := s.parts[p]
    if q.twin = .none then errWith s wrongState
    else if q.twinSerial ≠ c.args[0] then errWith s badArgument
    else okWith (dropTwin (sendTwin s p 2 (.mirror .release)) p) [])

/-! ### Groups (R298, R315) -/

/-- The identity that GROUP_JOIN and ASSUME_IDENTITY give a partition (table SP-7); digests of another group are none of this one (R351). -/
def joinGroup (s : State) (p : PartIx) (a b : Word) : State :=
  modPart (clearDigests s p) p (fun q =>
    { q with inGroup := true, group := a.extractLsb' 32 32, epoch := a.extractLsb' 0 32, rank := wfield b 15 0, ranks := wfield b 31 16 + 1
             coord := wfield b 47 32, requireTwin := wbit b 48, made := none, applied := [], readySet := [], discardedSet := [], failClassP := false })

/-- Does an identity break its limits: a rank beyond the group, a group of one rank that needs a twin, no key of the group
(R315, R432)? -/
def badIdentity (s : State) (p : PartIx) (a b : Word) : Bool :=
  let n := wfield b 31 16 + 1
  decide (n ≤ wfield b 15 0 ∨ n ≤ wfield b 47 32) || (n == 1 && wbit b 48) || !groupKey s p (wfield a 63 32)

/-- GROUP_JOIN. -/
def execGroupJoin (s : State) : Res :=
  runPartCmd 0x22 s (fun s c p =>
    let q := s.parts[p]
    if 3 ≤ s.dbg.level then errWith s notPermitted
    else if q.st ≠ .empty ∧ q.st ≠ .loaded then errWith s wrongState
    else if badIdentity s p c.args[0] c.args[1] then errWith s badArgument
    else if wbit c.args[1] 48 ∧ q.twin ≠ .syncing ∧ q.twin ≠ .paired then errWith s 0x2001
    else okWith (joinGroup s p c.args[0] c.args[1]) [])

/-- GROUP_LEAVE (R319). -/
def execGroupLeave (s : State) : Res :=
  runPartCmd 0x23 s (fun s _ p =>
    let q := s.parts[p]
    if active s p then errWith s wrongState
    else if q.twin ≠ .none ∧ q.twin ≠ .lost then errWith s 0x2004
    else
      okWith (modPart s p (fun q =>
        { q with inGroup := false, identity := false, group := 0, epoch := 0, rank := 0, ranks := 0, coord := 0, requireTwin := false, made := none })) [])

/-- RECONFIGURE: a higher epoch and a coordinator. A step in RUN or STOPPED is discarded, and the command completes when that has
ended; one that is PREPARED keeps its shadows (R300, R321; table SP-4). -/
def execReconfigure (s : State) : Res :=
  runPartCmd 0x24 s (fun s c p =>
    let q := s.parts[p]
    let done := fun (s : State) => okWith s [stepCode (s.parts[p]).step, (s.parts[p]).stepNo.toNat]
    if s.mbox.begun then (if q.discarding then (s, none) else done s)
    else if !q.inGroup then errWith s wrongState
    else if q.ranks ≤ wfield c.args[1] 15 0 then errWith s badArgument
    else if wfield c.args[0] 31 0 ≤ q.epoch.toNat then errWith s 0x2007
    else
      let s := modPart s p (fun q =>
        { q with epoch := c.args[0].extractLsb' 0 32, coord := wfield c.args[1] 15 0, made := none, readySet := [], discardedSet := [], failClassP := false })
      if q.step = .run ∨ q.step = .stopped then (beginDiscard s p false, none) else done s)

/-! ### Settling a step (R313, R321) -/

/-- The newest COMMIT token that a partition holds: its own or its partner's (R313). -/
def newestCommit (q : Part) : Nat :=
  let own := match q.token with | some t => t.step.toNat | none => 0
  let held := match q.mirror.bind (·.token) with | some t => t.step.toNat | none => 0
  max own held

/-- QUERY_STEP. -/
def execQueryStep (s : State) : Res :=
  runPartCmd 0x25 s (fun s _ p =>
    let q := s.parts[p]
    okWith s [stepCode q.step, q.stepNo.toNat, q.version.toNat, newestCommit q, q.attempt, q.mirrorVersion.toNat, q.epoch.toNat, twinCode q.twin])

/-- The token that six words spell. -/
def parseToken (w : Fin 8 → Word) : Token :=
  { group := (w 0).extractLsb' 32 32, epoch := (w 0).extractLsb' 0 32, step := w 1, version := w 2, kind := wfield (w 3) 63 56
    attempt := wfield (w 3) 55 48, coord := wfield (w 3) 47 32, mac0 := w 4, mac1 := w 5 }

/-- READ_TOKEN. -/
def execReadToken (s : State) : Res :=
  runPartCmd 0x26 s (fun s c p =>
    let q := s.parts[p]
    if 1 < argOf c 0 then errWith s badArgument
    else
      match if argOf c 0 = 0 then q.token else q.mirror.bind (·.token) with
      | none => errWith s wrongState
      | some t => okWith s (tokenWords t))

/-- FLIP: a COMMIT of a survivor; an epoch below the own one is accepted (table SP-7). -/
def execFlip (macOk : Bool) (s : State) : Res :=
  runPartCmd 0x27 s (fun s c p =>
    let q := s.parts[p]
    let t := parseToken (fun i => c.args[i])
    if q.step ≠ .prepared then errWith s wrongState
    else if !macOk || t.group != q.group || t.kind != 2 || decide (q.epoch.toNat < t.epoch.toNat) then errWith s 0x2005
    else if t.step ≠ q.stepNo ∨ t.attempt ≠ q.attempt ∨ t.version ≠ q.version + 1 then errWith s 0x2006
    else okWith (applyCommit s p t) [])

/-- DISCARD of a PREPARED step; the command completes when the discard has ended. -/
def execDiscard (s : State) : Res :=
  runPartCmd 0x28 s (fun s c p =>
    let q := s.parts[p]
    if s.mbox.begun then (if q.discarding then (s, none) else okWith s [])
    else if q.step ≠ .prepared then errWith s wrongState
    else if c.args[0] ≠ q.stepNo then errWith s 0x2006
    else (beginDiscard s p false, none))

/-- GO: the coordinator in WAIT_START sends START (R308, R321). -/
def execGo (s : State) : Res :=
  runPartCmd 0x29 s (fun s c p =>
    let q := s.parts[p]
    if !isCoord q then errWith s 0x2008
    else if q.step ≠ .waitStart then errWith s wrongState
    else if c.args[0] ≠ q.stepNo ∨ argOf c 1 ≠ q.attempt then errWith s 0x2006
    else okWith (sendStart s p) [])

/-- FM_HALT: the plan halts with cause 3; a STOPPED step is discarded first (table SP-4). -/
def execFmHalt (s : State) : Res :=
  runPartCmd 0x2E s (fun s _ p =>
    let q := s.parts[p]
    if s.mbox.begun then (if q.discarding then (s, none) else okWith s [])
    else
      match q.step with
      | .waitStart => okWith (abandon (haltPlan s p 3) p 3) []
      | .stopped =>
        let s := if q.discarding then s else beginDiscard s p false
        (modPart s p (fun q => { q with fmHalt := true }), none)
      | _ => errWith s wrongState)

/-! ### Spares (R322 to R324) -/

/-- BECOME_SPARE: the partition is SPARE once the memory has been wiped (R263; table SP-4). -/
def execBecomeSpare (s : State) : Res :=
  runPartCmd 0x2A s (fun s _ p =>
    let q := s.parts[p]
    if s.mbox.begun then
      (if wiping s then (s, none) else okWith (modPart s p (fun q => { q with step := .spare })) [])
    else if 3 ≤ s.dbg.level then errWith s notPermitted
    else if q.step ≠ .idle ∨ q.st ≠ .empty ∨ q.inGroup then errWith s wrongState
    else (startWipe (each (ixs 8) s (fun s p => abandon s p 4)), none))

/-- ASSUME_IDENTITY: the handshake with the lost device's twin begins, and once it has ended the spare takes the identity of a lost device and its twin (R322). -/
def execAssumeIdentity (x : TwinProof) (s : State) : Res :=
  runPartCmd 0x2B s (fun s c p =>
    let q := s.parts[p]
    if 3 ≤ s.dbg.level then errWith s notPermitted
    else if q.step ≠ .spare then errWith s wrongState
    else if badIdentity s p c.args[1] c.args[2] then errWith s badArgument
    else
      match toFin 18 (wfield c.args[4] 20 16) with
      | none => errWith s badArgument
      | some port =>
        if portCount s ≤ port.val then errWith s badArgument
        else
          if !s.mbox.begun then (challenge s port, none) else
          let wrong := handshakeError s p port c.args[3] x (some (c.args[1].extractLsb' 32 32))
          let s := giveReport s port x.report.asks p.val
          match wrong with
          | some e => errWith s e
          | none =>
            let s := setTwin (joinGroup s p c.args[1] c.args[2]) p c.args[3] port.val (wfield c.args[4] 2 0) x.rank
            okWith (modPart s p (fun q =>
              { q with step := .idle, identity := true, ckp := { q.ckp with lastCut := 0, accum := ⟨true, []⟩, restored := false } })) [])

/-- The step that reads the complete version of a mirror: the COMMIT that made the version is of the step before (R38, R317). -/
def mirrorStep (m : Mirror) (target : Word) : Word :=
  match m.token with
  | some t => t.step + 1 - (t.version - m.version)
  | none => match (m.recs.map (fun r => r.step.toNat)).min? with | some k => word k | none => target

/-- The COMMIT of a step that a list of vestibule records holds. -/
def commitIn (recs : List VestRec) (step : Word) : Option Token :=
  recs.findSome? (fun v => match v.r with | .step t => if t.kind = 2 ∧ t.step = step then some t else none | _ => none)

/-- Write a mirrored block at its place with its version (R247, R290); the ACCUM bit of its page is set (R398). -/
def restoreBlock (s : State) (p : PartIx) (off version : Nat) (bytes : List Byte) : State :=
  let b := physAddr s p off / 4096
  let s := countG (if versionedAt s p off then markPage s p (logicalAddr s p off / 4096) else s) 4 4096
  let fold := match tensorAt s p off with | some t => foldOf t.id | none => 0
  engineWrite s b bytes (if versionedAt s p off then version % 65536 else 0) fold

/-- RESTORE: `got` is what the twin sends; none when the link is lost or a tag check fails (R322). The restored pages are read for their
digests, as at ARM (R350; log entry 97). -/
def execRestore (got : Option Mirror) (s : State) : Res :=
  runPartCmd 0x2C s (fun s c p =>
    let q := s.parts[p]
    if q.step ≠ .idle ∨ !q.identity ∨ q.st ≠ .empty then errWith s wrongState
    else
      match got with
      | none => errWith s 0x200A
      | some m =>
        match m.image with
        | none => errWith s 0x2009
        | some im =>
          match loadCheck s p im 0 im.length with
          | some (k, i) => (s, some ⟨0x1000 + k, [k, i]⟩)
          | none =>
            let target := c.args[0]
            let k := mirrorStep m target
            let solo := if target = k + 1 then commitIn m.recs k else none
            if target ≠ k ∧ solo.isNone then errWith s 0x2009
            else
              let s := modPart (setPlan s p .loaded) p (fun q => { q with image := some im, identity := false })
              let s := loadHists (createHists s p im) p m.hist
              let s := armPlan s p k m.version
              if !active s p then okWith s [m.version.toNat, 0]
              else
                let s := m.pages.foldl (fun s e => restoreBlock s p (4096 * e.1) m.version.toNat e.2) s
                let s := modPart s p (fun q =>
                  { q with mirrorVersion := m.version, vest := m.recs, vestUsed := (m.recs.map (fun v => vestSize v.r)).sum })
                match solo with
                | none =>
                  okWith (freshChannels (modPart (startMirror s p (shardPages s p)) p (fun q => { q with attempt := argOf c 1 })) p) [m.version.toNat, 0]
                | some t =>
                  let s := modPart (setPlan (startMirror s p (shardPages s p)) p .running) p (fun q => { q with step := .solo, attempt := t.attempt, soloAttempt := argOf c 1, ranStep := true })
                  okWith (startStep s p) [m.version.toNat, 1])

/-- What becomes of a lost block: its partition offset and block version when the twin's mirror must give it, the partition offset of a block of
the vestibule, or one that the replay writes anew. -/
inductive LostKind where
  | shard (off version : Nat)
  | vest (off : Nat)
  | replayed
  deriving DecidableEq, Repr

/-- The kind of a lost physical block of a partition (R324). -/
def lostKind (s : State) (p : PartIx) (b : Nat) : LostKind :=
  match (s.parts[p]).allot with
  | none => .replayed
  | some a =>
    match (mapped s p).find? (fun e => e.2.cur.1 == b) with
    | some e => .shard (4096 * e.1 - a.base) e.2.cur.2
    | none =>
      let off := 4096 * b - a.base
      if off < a.data then
        (if versionedAt s p off ∧ (mapOf s p b).cur.1 = b then .shard off (mapOf s p b).cur.2 else .replayed)
      else if a.data + a.pool ≤ off ∧ off < a.data + a.pool + a.vest then .vest off
      else .replayed

/-- The lost blocks of a partition, ascending by stack. -/
def lostOf (s : State) (p : PartIx) : List Nat := (ixs 12).flatMap (fun c => (s.cellars[c]).lostBlocks.filter (fun b => blockOwner s b == some p))

/-- The twin's copy of a lost block: of the shard, if it has the same block version; of the vestibule, from the vestibule mirror (R324). -/
def mirrorCopy (held : Bool) (l : List (Nat × Nat × List Byte)) : LostKind → Option (Nat × Nat × List Byte)
  | .shard off v => if held then l.find? (fun (o, w, bs) => decide (o = off ∧ w = v ∧ bs.length = 4096)) else none
  | .vest off => if held then l.find? (fun (o, _, bs) => decide (o = off ∧ bs.length = 4096)) else none
  | .replayed => none

/-- REPAIR: `got` holds the blocks of the mirror by partition offset with their versions; none when the link is lost (R324). A block that
cannot be restored sets REPAIR_FAILED and is reported with its cause; the others are restored. -/
def execRepair (got : Option (List (Nat × Nat × List Byte))) (s : State) : Res :=
  runPartCmd 0x2D s (fun s _ p =>
    let q := s.parts[p]
    if q.step = .spare then errWith s wrongState
    else
      match got with
      | none => errWith s 0x200A
      | some l =>
        let bs := lostOf s p
        let held := mirroring q
        let find := mirrorCopy held l
        let fails := fun (b : Nat) => decide (lostKind s p b ≠ .replayed) && (find (lostKind s p b)).isNone
        let bad := bs.filter fails
        let good := bs.filter (fun b => !(fails b) && decide (lostKind s p b ≠ .replayed))
        let s' := each good s (fun s b => match find (lostKind s p b) with | some e => restoreBlock s p e.1 e.2.1 e.2.2 | none => s)
        let s' := { s' with cellars := s'.cellars.map (fun x => { x with lostBlocks := x.lostBlocks.filter (fun b => !(bs.contains b && !bad.contains b)) }) }
        if bad.isEmpty then okWith s' [good.length]
        else
          let s' := modPart s' p (fun q => { q with repairFailed := true })
          (partReport s' p 0x0F [replaceRepair], some ⟨0x200B, [good.length]⟩))

end Sys2Proof.Machine
end

