-- ==== Sys2Proof/Machine/CkpCmd.lean ====
section
/-! DEFINITION. The checkpoint commands (R395, R399, R401, R404, R406 to R412; tables CK-6, CK-7, CK-12, CK-14). -/

namespace Sys2Proof.Machine

/-! ### CKP_QUERY, CKP_ABANDON -/

/-- CKP_STATUS (table CK-12). -/
def ckpStatus (q : Part) : Nat :=
  let k := q.ckp
  let state := if k.restoring then 3 else match k.wr with | none => 0 | some w => if w.phase = .sealing then 2 else 1
  place state 63 60 + place k.depth 59 56 + place (b2n q.retention.isSome) 5 5
    + place (b2n (k.restoreFailed || k.abandoned || k.skipped)) 4 4 + place (b2n k.held.isSome) 1 1

/-- CKP_PROGRESS (table CK-14). -/
def ckpProgress (k : Ckp) : Nat := place k.done 63 32 + place k.total 31 0

/-- CKP_QUERY. -/
def execCkpQuery (s : State) : Res :=
  runPartCmd 0x40 s (fun s _ p =>
    let q := s.parts[p]
    okWith s [ckpStatus q, q.ckp.lastSealed.toNat, q.ckp.lastCut.toNat, ckpProgress q.ckp])

/-- CKP_ABANDON (R406). -/
def execCkpAbandon (s : State) : Res :=
  runPartCmd 0x41 s (fun s _ p =>
    match (s.parts[p]).ckp.wr with
    | none => okWith s [0]
    | some w => okWith (abandon s p 2) [w.cut.toNat])

/-! ### Restore (R408 to R411) -/

/-- The manifests of an answer, read under the run checkpoint key (R404). -/
def readManifests (s : State) (p : PartIx) (a : StoreAnswer) : List (Nat × Word × Manifest) :=
  match runSecret s p with
  | none => []
  | some run => a.manifests.map (fun m => (m.1, m.2.1, parseManifest run (objId 3 (s.parts[p]).ckp.cfg.run m.1 m.2.1) m.2.2))

/-- The manifest of a shard and cut, if it is valid (R404). -/
def manifestOf (ms : List (Nat × Word × Manifest)) (k : Nat) (c : Word) : Option Manifest :=
  (ms.find? (fun m => decide (m.1 = k ∧ m.2.1 = c))).bind (fun m => if m.2.2.valid then some m.2.2 else none)

/-- Bytes 0 to 15 of the digest of the loaded plan image (R408; table CK-3). -/
def planDigest (s : State) (p : PartIx) : List Byte :=
  match (s.parts[p]).image with | some im => (im.digest ++ List.replicate 16 0).take 16 | none => List.replicate 16 0

/-- The function complete of R408, with one round of fuel for each manifest of a chain. -/
def complete (ms : List (Nat × Word × Manifest)) (shards : Nat) (image : List Byte) : Nat → Nat → Word → Option Word → Bool
  | 0, _, _, _ => false
  | fuel + 1, k, c, step0 =>
    match manifestOf ms k c with
    | none => false
    | some m =>
      if m.cut ≠ c ∨ m.shard ≠ k ∨ m.shards ≠ shards ∨ m.image ≠ image then false
      else if (match step0 with | some x => m.step != x | none => false) then false
      else if m.kind = 0 then decide (m.depth = 0 ∧ m.base = c)
      else
        match manifestOf ms k m.prev with
        | none => false
        | some p =>
          if p.base ≠ m.base ∨ p.depth + 1 ≠ m.depth ∨ c.toNat ≤ m.prev.toNat then false
          else complete ms shards image fuel k m.prev none

/-- The shards that miss a cut: those not complete, and those whose STEP disagrees with shard 0 (R408). -/
def missingAt (ms : List (Nat × Word × Manifest)) (shards : Nat) (image : List Byte) (c : Word) : List Nat :=
  let step0 := (manifestOf ms 0 c).map (·.step)
  (List.range (shards + 1)).filter (fun k => !complete ms shards image 257 k c step0)

/-- What a search for a complete cut ends with: the cut, and the shards that the newest cut misses. -/
structure Search where
  cut : Option Word
  missing : List Nat
  deriving DecidableEq, Repr

/-- The search of R408 over `n` tries. -/
def searchCut (ms : List (Nat × Word × Manifest)) (shards : Nat) (image : List Byte) (every : Nat) : Nat → Word → Option Word
  | 0, _ => none
  | n + 1, c =>
    if (missingAt ms shards image c).isEmpty then some c
    else if c.toNat < every + every then none
    else searchCut ms shards image every n (word (c.toNat - every))

/-- A record of a data object that has been opened: type, WHERE, plaintext. -/
structure Opened where
  type : Nat
  pos : Nat
  plain : List Byte
  deriving DecidableEq, Repr

/-- The records of a data object, opened in order under the key of the object and of the epoch that each names; none once a header or a tag fails, or
bytes are left over (R402, R403, R408; table CK-2). -/
def openRecords (run : Vector Word 4) (obj : Word) : Nat → Nat → List Byte → Option (List Opened)
  | 0, _, _ => none
  | fuel + 1, index, bs =>
    if bs.isEmpty then some []
    else
      let hd := bs.take 32
      let len := fieldAt hd 0xC 4
      let rest := bs.drop 32
      if bs.length < 48 + len ∨ fieldAt hd 0 4 ≠ 0x434B5052 ∨ fieldAt hd 8 4 ≠ index then none
      else
        match gcmOpen (objectKey run obj.toNat (fieldAt hd 0x18 4)) (recordIv index) hd (rest.take len) ((rest.drop len).take 16) with
        | none => none
        | some plain => (openRecords run obj fuel (index + 1) (rest.drop (len + 16))).map (⟨fieldAt hd 4 1, fieldAt hd 0x10 8, plain⟩ :: ·)

/-- A data object is read: its DATA_DIGEST and every record's tag are checked (R408). -/
def openObject (s : State) (p : PartIx) (c : Word) (m : Manifest) (bs : List Byte) : Option (List Opened) :=
  match runSecret s p with
  | none => none
  | some run => if sha256 bs = m.digest then openRecords run (ownObj s p 1 c) (bs.length / 48 + 1) 0 bs else none

/-- The histories that the HISTORY records of a data object hold (R128, R403). -/
def histsIn (s : State) (p : PartIx) (rs : List Opened) : Tbl (Tbl HistE) :=
  (rs.filter (fun r => r.type == 2)).foldl (fun t r =>
    ((histTensors s p r.pos).foldl (fun (x : Tbl (Tbl HistE) × Nat) te =>
      let h := (scaleW te.scale).h
      (tset [] x.1 te.id ((List.range h).foldl (fun u k => tset HistE.empty u k (parseHist ((r.plain.drop (x.2 + 8 * k)).take 8))) []), x.2 + 8 * h)) (t, 0)).1) []

/-- Write a restored page: full blocks of version c[15:0] (R408, R409). The page's bits of ACCUM and of FROZEN, which holds the set of the pages
written, are set (R398, R408). -/
def restorePage (s : State) (p : PartIx) (off : Nat) (c : Word) (bytes : List Byte) : State :=
  let g := logicalAddr s p off / 65536
  each (List.range 16) (modCkp (markPage s p (16 * g)) p (fun k => { k with frozen := k.frozen.put g true })) (fun s j =>
    let o := off + 4096 * j
    let fold := match tensorAt s p o with | some t => foldOf t.id | none => 0
    engineWrite (countG s 4 4096) (physAddr s p o / 4096) ((bytes.drop (4096 * j)).take 4096) (c.toNat % 65536) fold)

/-- The loop of load in R408: the data objects from cut `c` backward, newest first. The answer holds the pages written, or none once a
digest or tag fails. -/
def loadObjects (ms : List (Nat × Word × Manifest)) (objects : List (Word × List Byte)) (k : Nat) (p : PartIx) (c0 : Word) (total : Nat) :
    Nat → Word → State → List Nat → State × Option (List Nat)
  | 0, _, s, _ => (s, none)
  | fuel + 1, c, s, written =>
    match manifestOf ms k c, objects.find? (fun o => o.1 == c) with
    | some m, some o =>
      match openObject s p c m o.2 with
      | none => (s, none)
      | some rs =>
        let s := if c = c0 then loadHists s p (histsIn s p rs) else s
        let (s, written) := (rs.filter (fun r => r.type == 1)).foldl (fun (x : State × List Nat) r =>
          if x.2.contains r.pos then x else (restorePage x.1 p r.pos c0 r.plain, x.2 ++ [r.pos])) (s, written)
        if m.kind = 0 ∨ written.length = total then (s, some written) else loadObjects ms objects k p c0 total fuel m.prev s written
    | _, _ => (s, none)

/-- Read an object of a shard: STORE_GET frames of up to 4,096 bytes, or reads of the host window (R401, R407). -/
def readObject (s : State) (p : PartIx) (kind shard : Nat) (c : Word) (len : Nat) : State :=
  let k := (s.parts[p]).ckp.cfg
  each (List.range (ceilDiv len 4096)) s (fun s i =>
    let n := min 4096 (len - 4096 * i)
    if k.target then emit s (.hostRead p (slotOff k c (kind == 1) + 4096 * i) n)
    else sendFrame s p.val 0 k.storeNode 0 (.storeGet (4096 * i) n (objId kind k.run shard c)))

/-- Every parameter and moment block holds unspecified data and an unspecified tag (R410). -/
def loseTensors (s : State) (p : PartIx) : State :=
  let blocks := match (s.parts[p]).image with
    | none => []
    | some im => ((im.tensors.filter versioned).flatMap (fun t => (List.range (ceilDiv t.size 4096)).map (t.base / 4096 + ·))).eraseDups
  each blocks s (fun s o =>
    let b := physAddr s p (4096 * o) / 4096
    let (s, bytes) := freeBytes s 4096
    let s := { s with hbm := ((List.range 4096).zip bytes).foldl (fun m e => tput m (4096 * b + e.1) e.2) s.hbm }
    bump (setTag s b (Config.freeWord s.freeIx)))

/-- A restore fails once data may have moved (R410); what it has loaded of the amax histories and set of FROZEN is as it was before (R412). -/
def restoreFail (s : State) (p : PartIx) (hists : Tbl (Tbl HistE)) (frozen : PageSet) (e : Nat) : CmdRes :=
  let s := modCkp (loadHists s p hists) p (fun k => { k with restoreFailed := true, restoring := false, frozen := frozen })
  (loseTensors s p, some ⟨e, []⟩)

/-- The checks of CKP_RESTORE and CKP_FIND (table CK-7): the error that applies. -/
def restoreError (s : State) (c : Cmd) (p : PartIx) : Option Nat :=
  let q := s.parts[p]
  let k := q.ckp.cfg
  if q.st ≠ .loaded then some (if q.ranStep then 0x3006 else wrongState)
  else if argOf c 1 < 1 ∨ 64 < argOf c 1 then some badArgument
  else if !inXfer (argOf c 2) (2 * (k.shards + 1)) then some xferRange
  else if k.shards < k.shard ∨ k.every = 0 then some 0x3005
  else if !runKey s p then some 0x3004
  else none

/-- Read the manifests of the cuts tried, and write the list of the shards that the newest misses. -/
def searchStore (s : State) (c : Cmd) (p : PartIx) (a : StoreAnswer) : State × Search :=
  let k := (s.parts[p]).ckp.cfg
  let ms := readManifests s p a
  let found := searchCut ms k.shards (planDigest s p) k.every (argOf c 1) c.args[0]
  let missing := missingAt ms k.shards (planDigest s p) c.args[0]
  let s := each a.manifests s (fun s m => readObject s p 3 m.1 m.2.1 256)
  (sramWrite s (argOf c 2) (missing.flatMap (fun m => leBytes 2 m)), ⟨found, missing⟩)

/-- A complete cut is loaded, and its pages and content are held to its manifest (R408 to R410). -/
def loadCut (s : State) (p : PartIx) (a : StoreAnswer) (cut : Word) (missing : List Nat) : CmdRes :=
  let k := (s.parts[p]).ckp.cfg
  let ms := readManifests s p a
  let hists := histOf s p
  let frozen := (s.parts[p]).ckp.frozen
  match manifestOf ms k.shard cut with
  | none => restoreFail s p hists frozen 0x3002
  | some m =>
    let s := each a.objects s (fun s o => match manifestOf ms k.shard o.1 with | some m => readObject s p 1 k.shard o.1 m.dataBytes | none => s)
    let s := modCkp s p (fun k => { k with frozen := ⟨false, []⟩ })
    match loadObjects ms a.objects k.shard p cut m.shardPages 257 cut s [] with
    | (s, none) => restoreFail s p hists frozen 0x3002
    | (s, some written) =>
      if written.length ≠ m.shardPages ∨ contentOf (pageDigests s p) ≠ m.content then restoreFail s p hists frozen 0x3002
      else
        let s := modCkp s p (fun k =>
          { k with restoring := false, restored := true, lastCut := cut, lastSealed := cut, accum := ⟨false, []⟩
                   done := written.length, total := m.shardPages })
        okWith s ([cut.toNat, m.step.toNat, written.length, missing.length] ++ missing.take 1)

/-- CKP_RESTORE: without an answer of the store the restore is in progress; with one it ends (R408 to R410). -/
def execCkpRestore (answer : Option StoreAnswer) (s : State) : Res :=
  runPartCmd 0x42 s (fun s c p =>
    match restoreError s c p with
    | some e => errWith s e
    | none =>
      match answer with
      | none => (modCkp s p (fun k => { k with restoring := true }), none)
      | some a =>
        if a.silent then restoreFail s p (histOf s p) (s.parts[p]).ckp.frozen 0x3003
        else
          let (s, x) := searchStore s c p a
          match x.cut with
          | some cut => loadCut s p a cut x.missing
          | none =>
            let free := fun i => (Config.freeWord (s.freeIx + i)).toNat
            ({ modCkp s p (fun k => { k with restoring := false }) with freeIx := s.freeIx + 3 },
              some ⟨0x3001, [free 0, free 1, free 2, x.missing.length, x.missing.headD 0]⟩))

/-- CKP_FIND: as CKP_RESTORE, without the restore. STEP is a free value when no cut is complete. -/
def execCkpFind (a : StoreAnswer) (s : State) : Res :=
  runPartCmd 0x43 s (fun s c p =>
    match restoreError s c p with
    | some e => errWith s e
    | none =>
      if a.silent then errWith s 0x3003
      else
        let k := (s.parts[p]).ckp.cfg
        let ms := readManifests s p a
        let (s, x) := searchStore s c p a
        let free := (Config.freeWord s.freeIx).toNat
        let step := match x.cut.bind (manifestOf ms k.shard) with | some m => m.step.toNat | none => free
        okWith (bump s) ([(match x.cut with | some c => c.toNat | none => 0), step, free, x.missing.length] ++ x.missing.take 1))

end Sys2Proof.Machine
end

