-- ==== Sys2Proof/Machine/Chain.lean ====
section
/-! DEFINITION. Operands in the core store and epilogue chains: definitions, their validity, the checks at issue, and what a
chain does to the elements that run through it (R107, R140, R141, R174 to R191, R198 to R200, R202; tables MA-5, VE-1 to
VE-7, VE-9). -/

namespace Sys2Proof.Machine

/-! ### Operands in the core store (R107, R140, R141) -/

/-- OFFSET of an operand word (table MA-5). -/
def opOff (w : Word) : Nat := wfield w 39 0

/-- Bytes from one stored row to the next. -/
def opPitch (w : Word) : Nat := 16 * wfield w 63 40

/-- Elements of a packed group (R107). -/
def groupLen : Fmt → Nat
  | .e3m2 => 4
  | .e2m3 => 4
  | .e2m1 => 2
  | .bit => 8
  | _ => 1

/-- Bytes of the packed elements of a row (R107). -/
def packedLen (f : Fmt) (cols : Nat) : Nat := roundUp cols (groupLen f) * fmtBits f / 8

/-- Row bytes of an operand (R141). -/
def rowBytes (f : Fmt) (bx : Bool) (cols : Nat) : Nat := packedLen f cols + (if bx then ceilDiv cols 32 else 0)

/-- The end of an operand's extent (R141). -/
def opEnd (w : Word) (rows rb : Nat) : Nat := opOff w + (rows - 1) * opPitch w + rb

/-- Does the extent of an operand break R141? -/
def extentBad (lc : LCoreE) (w : Word) (rows rb : Nat) : Bool :=
  decide (opPitch w < rb ∨ lc.footprint < opEnd w rows rb ∨ opOff w < lc.codeLen)

/-- Is an operand word malformed: OFFSET not a multiple of 64, or PITCH 0 (table MA-5)? -/
def wordBad (w : Word) : Bool := decide (opOff w % 64 ≠ 0 ∨ opPitch w = 0)

/-- The physical core store lines of an extent, as [lo, hi). -/
def extentLines (base lo hi : Nat) : Nat × Nat := ((base + lo) / 1024, ceilDiv (base + hi) 1024)

/-- Physical core store offset of row `m` of an operand. -/
def rowAt (base : Nat) (w : Word) (m : Nat) : Nat := base + opOff w + m * opPitch w

/-- The raw element (m, n) of an operand. -/
def elemRaw (c : Core) (base : Nat) (w : Word) (f : Fmt) (m n : Nat) : Nat :=
  bitsAt (fun j => tget 0 c.store (rowAt base w m + j)) (n * fmtBits f) (fmtBits f)

/-- The exponent byte of the block that holds column `n` of row `m` (R141). -/
def elemExp (c : Core) (base : Nat) (w : Word) (f : Fmt) (m n cols : Nat) : Nat :=
  (tget 0 c.store (rowAt base w m + packedLen f cols + n / 32)).toNat

/-- The value of an element of an operand (R107, R108, R141). -/
def elemVal (c : Core) (base : Nat) (w : Word) (f : Fmt) (bx : Bool) (m n cols : Nat) : Fval :=
  let raw := elemRaw c base w f m n
  if bx then decodeBlockElem (elemExp c base w f m n cols) raw else decodeElem f raw

/-- Write an element of an operand; the last element of a row clears the unused positions of its packed group (R107). -/
def writeElem (c : Core) (base : Nat) (w : Word) (f : Fmt) (m n cols v : Nat) : Core :=
  let bits := fmtBits f
  let width := if n + 1 = cols then bits * (roundUp cols (groupLen f) - n) else bits
  let r := rowAt base w m
  { c with store := (putBits (fun j => tget 0 c.store (r + j)) (n * bits) width (v % 2 ^ bits)).foldl (fun t e => tset 0 t (r + e.1) e.2) c.store }

/-! ### Chain definitions (R177, R178, R199) -/

/-- A stage word (table VE-2). -/
def parseStage (w : Word) : Stage :=
  { op := wfield w 63 58, fmt := wfield w 57 54, src := wfield w 53 51, slot := wfield w 50 48, treg := wfield w 47 44
    param := wfield w 43 32, imm := w.setWidth 32 }

/-- The words of a definition as a chain (R178). -/
def parseChain (ws : List Word) : Chain :=
  let h := dw ws 0
  ⟨wbit h 1, wbit h 0, ((List.range (wfield h 7 4)).map (fun k => parseStage (dw ws (k + 1))))⟩
where dw (ws : List Word) (k : Nat) : Word := ws.getD k 0

/-- Entry 0: one STORE that writes FP32 to the destination word, native reductions (R177). -/
def chainZero : Chain := ⟨false, false, [⟨0x11, 0, 0, 0, 0, 0, 0⟩]⟩

/-- Functions whose KEEP writes a bit (table VE-5). -/
def bitFn (f : Nat) : Bool := decide (1 ≤ f ∧ f ≤ 5)

/-- Functions that KEEP and DACT allow (table VE-5). -/
def keepFn (f : Nat) : Bool := bitFn f || f == 6 || decide (0x10 ≤ f ∧ f ≤ 0x14)

/-- Functions that ACT allows (table VE-5). -/
def actFn (f : Nat) : Bool := decide (f ≤ 6 ∧ f ≠ 4) || decide (8 ≤ f ∧ f ≤ 0xD) || decide (0x10 ≤ f ∧ f ≤ 0x14)

/-- [5:0] of PARAM: a function. -/
def stFn (st : Stage) : Nat := st.param % 64

/-- Does a stage use its FMT (R199): an element operand, STORE, and the value kind of KEEP? -/
def usesFmt (st : Stage) : Bool := st.src == 5 || st.op == 0x11 || (st.op == 0x0C && !bitFn (stFn st))

/-- The sources that an operation allows and the bits of PARAM that it defines (table VE-4; log entry 41). -/
def opRule (op : Nat) : Option (List Nat × Nat) :=
  match op with
  | 0x07 => some ([2, 3, 4], 1)
  | 0x08 => some ([5], 1)
  | 0x09 => some ([0], 1)
  | 0x0A => some ([0], 64)
  | 0x0B => some ([5], 64)
  | 0x0C => some ([0], 64)
  | 0x0D => some ([0], 4096)
  | 0x0E => some ([0], 8)
  | 0x0F => some ([0], 16)
  | 0x10 => some ([0], 1)
  | 0x11 => some ([0, 5], 8)
  | op => if 1 ≤ op ∧ op ≤ 6 then some ([1, 2, 3, 4, 5], 1) else none

/-- Is one stage valid under R199? `dropped`: a DROP stands before it. -/
def stageOk (pack dropped : Bool) (st : Stage) : Bool :=
  (match opRule st.op with | none => false | some (srcs, lim) => srcs.contains st.src && decide (st.param < lim))
    && (match st.op with
        | 0x0A => actFn (stFn st)
        | 0x0B => keepFn (stFn st)
        | 0x0C => keepFn (stFn st) && (stFn st != 4 || dropped)
        | 0x0D => decide (st.slot ≤ 6)
        | 0x0F => decide (st.param % 8 ≤ 5)
        | 0x11 => (st.param % 2 == 0 || st.fmt == 0) && (st.param / 4 % 2 == 0 || st.fmt == 7) && (st.param / 2 % 2 == 0 || decide (st.treg % 8 ≤ 6))
        | _ => true)
    && (!usesFmt st || decide (st.fmt ≤ 8))
    && (!pack
        || (decide (st.op ≤ 8 ∨ st.op = 0x11) && (st.src != 5 || st.fmt == 1)
            && (st.op != 0x11 || decide (st.fmt = 1 ∧ st.imm = 0 ∧ st.param = 0))))

/-- Byte offset of the first failing word of a definition, if one fails (R199, check 0x4 of table VE-9). -/
def chainBad (ws : List Word) : Option Nat :=
  let h := ws.getD 0 0
  let n := wfield h 7 4
  if wfield h 63 8 ≠ 0 ∨ wfield h 3 2 ≠ 0 ∨ n = 0 ∨ 8 < n then some 0
  else
    let ch := parseChain ws
    ((List.range n).find? (fun k =>
      match ch.stages[k]? with
      | none => true
      | some st => !stageOk ch.pack ((ch.stages.take k).any (fun x => x.op == 0x0D)) st)).map (fun k => 8 * (k + 1))

/-- The definition of an entry as the next instruction of a bank sees it: the newest one that waits in the vector queue, else the
table's; none when the entry is empty (R177, R199). -/
def chainNow (c : Core) (bk : Fin 2) (e : Nat) : Option Chain :=
  if e = 0 then some chainZero
  else
    match (c.vq.reverse.filterMap (fun v => match v.kind with | .chdef k ch => if v.bank = bk ∧ k = e then some ch else none | _ => none)).head? with
    | some ch => some ch
    | none => tfind (c.banks[bk]).chains e

/-! ### What a chain needs: operands, checks, lines (R191, R200, R201) -/

/-- An operand that a chain touches: stage, operand word, row bytes, rows, and whether it is read. -/
structure ChOp where
  stage : Nat
  w : Word
  rb : Nat
  rows : Nat
  read : Bool
  deriving DecidableEq, Repr

/-- Format of a stage's FMT field. -/
def stFmt (st : Stage) : Fmt := (fmtOf st.fmt).getD .fp32

/-- The broadcast slot of a stage. -/
def slotW (b : Vector Word 8) (k : Nat) : Word := b.toList.getD k 0

/-- The core store operands of a chain over rows × cols. -/
def chainOps (ch : Chain) (b : Vector Word 8) (out : Word) (rows cols : Nat) : List ChOp :=
  (ch.stages.zipIdx).flatMap (fun (st, i) =>
    let w := slotW b st.slot
    match st.op with
    | 0x11 =>
      if st.param % 2 = 1 then []
      else [⟨i, if st.src = 0 then out else w, rowBytes (stFmt st) (decide (st.param / 4 % 2 = 1)) cols, rows, false⟩]
    | 0x0C => [⟨i, w, packedLen (if bitFn (stFn st) then .bit else stFmt st) cols, rows, false⟩]
    | 0x10 => [⟨i, w, 2 * cols, 1, true⟩]
    | _ => if st.src = 5 then [⟨i, w, packedLen (stFmt st) cols, rows, true⟩] else [])

/-- The tensor identifiers that a stage names (check 0x7). -/
def stageIds (b : Vector Word 8) (st : Stage) : List Nat :=
  let imm := st.imm.toNat % 2 ^ 24
  match st.op with
  | 0x09 => [wfield (slotW b st.slot) 23 0, wfield (slotW b st.slot) 47 24]
  | 0x0D => [wfield (slotW b (st.slot + 1)) 63 40]
  | 0x11 => [imm]
  | 0x0C => if bitFn (stFn st) then [] else [imm]
  | _ => if st.src = 5 ∧ st.fmt ≠ 8 then [imm] else []

/-- A failure at the issue attempt: OPERAND_RANGE with engine code, check and detail, or SEQ_RANGE with its value. -/
inductive IssueFault where
  | range (engine check detail : Nat)
  | seq (v : Nat)
  deriving DecidableEq, Repr

/-- Raise what a check found. -/
def raiseIssue (s : State) (n : CoreIx) (i : CtxIx) : IssueFault → State
  | .range e k d => operandRange s n i e k d
  | .seq v => raiseHere s n i .seqRange (word v)

/-- Check of table VE-9 with its stage and value; a check of no one stage gives stage 0 (log entry 252). -/
def veFault (check stage v : Nat) : IssueFault := .range 2 check (place stage 55 53 + place v 52 0)

/-- The first item that fails, with what fails. -/
def firstFail {α : Type} (l : List α) (f : α → Option IssueFault) : Option IssueFault := l.findSome? f

/-- Check 0x2: the first destination or element operand whose extent breaks R141 (R200). -/
def check2 (lc : LCoreE) (ops : List ChOp) : Option IssueFault :=
  firstFail ops (fun o => if wordBad o.w || extentBad lc o.w o.rows o.rb then some (veFault 2 o.stage (opOff o.w)) else none)

/-- Check 0x5: a tile register range beyond t15 (R185, R198). -/
def check5 (ch : Chain) (src : Option Nat) (rows cols : Nat) : Option IssueFault :=
  let need := ceilDiv (rows * cols) 8192
  let beyond := fun (t : Nat) => decide (16 < t + need)
  match src with
  | some t => if beyond t then some (veFault 5 0 16) else go beyond
  | none => go beyond
where
  go (beyond : Nat → Bool) : Option IssueFault :=
    firstFail ch.stages.zipIdx (fun (st, i) => if st.op = 0x11 ∧ st.param % 2 = 1 ∧ beyond st.treg then some (veFault 5 i 16) else none)

/-- Check 0x7: an identifier absent from the tensor table, or an index descriptor that names another tensor than IMM32
(R185, R200). -/
def check7 (im : Image) (ch : Chain) (b : Vector Word 8) : Option IssueFault :=
  firstFail ch.stages.zipIdx (fun (st, i) =>
    match (stageIds b st).find? (fun t => decide (t ≠ 0) && (tensorById im t).isNone) with
    | some t => some (veFault 7 i t)
    | none =>
      let d := wfield (slotW b (st.treg % 8 + 1)) 63 40
      if st.op = 0x11 ∧ st.param / 2 % 2 = 1 ∧ d ≠ st.imm.toNat % 2 ^ 24 then some (veFault 7 i d) else none)

/-- Check 0x8: a PACK chain elsewhere than under VRUN with BF16, which no one stage breaks, or the first ROPE stage with odd cols
(R190, R199, R200; log entry 252). -/
def check8 (ch : Chain) (e cols : Nat) (packOk : Bool) : Option IssueFault :=
  if ch.pack && !packOk then some (veFault 8 0 e)
  else if cols % 2 = 1 then firstFail ch.stages.zipIdx (fun (st, i) => if st.op = 0x10 then some (veFault 8 i e) else none)
  else none

/-- QBASE, KBASE and P of a position descriptor (R189). -/
def posDesc (w : Word) : Nat × Nat × Nat := (wfield w 20 0, wfield w 41 21, wfield w 62 42)

/-- The position descriptors of a chain, each with the kind of its MASKPOS or none for ROPE. -/
def positions (ch : Chain) (b : Vector Word 8) : List ((Nat × Nat × Nat) × Option Nat) :=
  ch.stages.filterMap (fun st =>
    match st.op with
    | 0x0F => some (posDesc (slotW b st.slot), some (st.param % 8))
    | 0x10 => some (posDesc (slotW b (st.treg % 8)), none)
    | _ => none)

/-- R191: the first offending value in the order of its four cases. -/
def seqCheck (ch : Chain) (b : Vector Word 8) (rows cols : Nat) : Option IssueFault :=
  let ps := positions ch b
  let c1 := ps.findSome? (fun d => if 1048575 < d.1.1 + rows - 1 then some (d.1.1 + rows - 1) else none)
  let c2 := ps.findSome? (fun d => if d.2.isSome ∧ 1048575 < d.1.2.1 + cols - 1 then some (d.1.2.1 + cols - 1) else none)
  let c3 := ps.findSome? (fun d => if 1048576 < d.1.2.2 then some d.1.2.2 else none)
  let c4 := ps.findSome? (fun d => match d.2 with | some k => if 3 ≤ k ∧ d.1.2.2 = 0 then some 0 else none | none => none)
  (c1.or (c2.or (c3.or c4))).map .seq

/-- The checks of table VE-9 and R191 for a chain entry used over rows × cols, in table order; an empty entry is found first,
since its stages are what check 0x2 reads (R200). The answer carries the chain. -/
def chainChecks (im : Image) (lc : LCoreE) (ch : Option Chain) (e : Nat) (b : Vector Word 8) (out : Word) (rows cols : Nat)
    (src : Option Nat) (packOk : Bool) : Except IssueFault Chain :=
  match ch with
  | none => .error (veFault 3 0 e)
  | some ch =>
    match (check2 lc (chainOps ch b out rows cols)).or ((check5 ch src rows cols).or ((check7 im ch b).or ((check8 ch e cols packOk).or (seqCheck ch b rows cols)))) with
    | some f => .error f
    | none => .ok ch

/-- The lines that a chain reads over a whole instruction (R201). -/
def chainLines (base : Nat) (ch : Chain) (b : Vector Word 8) (out : Word) (rows cols : Nat) : List (Nat × Nat) :=
  ((chainOps ch b out rows cols).filter (·.read)).map (fun o => extentLines base (opOff o.w) (opEnd o.w o.rows o.rb))

/-- The lines of the rows `ms` of an operand, between the column offsets `lo` and `hi` in bytes. -/
def rowsLines (base : Nat) (w : Word) (lo hi : Nat) (ms : List Nat) : List (Nat × Nat) :=
  ms.map (fun m => extentLines base (opOff w + m * opPitch w + lo) (opOff w + m * opPitch w + hi))

/-- The lines that a chain reads for one tile (R192, R333). -/
def tileRanges (base : Nat) (ch : Chain) (b : Vector Word 8) (out : Word) (rows cols : Nat) (ms : List Nat) (nb : Nat) : List (Nat × Nat) :=
  ch.stages.flatMap (fun st =>
    ((chainOps { ch with stages := [st] } b out rows cols).filter (·.read)).flatMap (fun o =>
      if st.op = 0x10 then [extentLines base (opOff o.w) (opOff o.w + o.rb)]
      else
        let bits := fmtBits (stFmt st)
        rowsLines base o.w (128 * nb * bits / 8) (min o.rb ((128 * nb + 128) * bits / 8)) ms))

/-! ### Running a chain (R179 to R190) -/

/-- Where a chain runs: device state for scales and seed, partition, core, bank, footprint base, broadcast slots, destination
word, extents of the result, number of the tile in its element stream. -/
structure ChEnv where
  s : State
  p : PartIx
  bk : Fin 2
  base : Nat
  b : Vector Word 8
  out : Word
  rows : Nat
  cols : Nat
  tile : Nat

/-- What a chain has done so far: the core it changes, the values converted into tensors, the elements taken by RED. -/
structure ChSt where
  c : Core
  notes : List (Nat × W32 × Bool)
  reds : List RedEl

/-- An element on its way through a chain: its column, its value, and the decision of the last DROP (R183). -/
structure El where
  n : Nat
  x : W32
  keep : Bool

/-- One as FP32. -/
def f1 : W32 := 0x3F800000#32

/-- Round an FP32 value to BF16 and read it back (R199). -/
def toBf (x : W32) : W32 := toFp32 (decodeFp .bf16 (convert .bf16 none (fp32 x)).raw)

/-- Entry `e` of the tile registers counted from `t` upward (R185, R198). -/
def tregAt (c : Core) (bk : Fin 2) (t e : Nat) : W32 := tget 0 (c.banks[bk]).treg (8192 * t + e)

/-- Write an entry of a tile register bank. -/
def setTreg (c : Core) (bk : Fin 2) (k : Nat) (v : W32) : Core :=
  { c with banks := c.banks.set bk.val { c.banks[bk] with treg := tset 0 (c.banks[bk]).treg k v } bk.isLt }

/-- The operand *a* of a stage (table VE-3). -/
def operandA (e : ChEnv) (c : Core) (st : Stage) (m n : Nat) : W32 :=
  match st.src with
  | 1 => st.imm
  | 2 => (slotW e.b st.slot).setWidth 32
  | 3 => tregAt c e.bk st.treg n
  | 4 => tregAt c e.bk st.treg m
  | _ =>
    let v := toFp32 (decodeElem (stFmt st) (elemRaw c e.base (slotW e.b st.slot) (stFmt st) m n))
    if st.fmt = 8 then v else fscale v (-(expOf e.s e.p (st.imm.toNat % 2 ^ 24)))

/-- x as a number above zero. -/
def fpos (x : W32) : Bool := flt 0 x

/-- ACT (table VE-5). -/
def actFun (code : Nat) (imm x : W32) : W32 :=
  if fisNan x then qnan
  else
    match code with
    | 0 => x
    | 1 => if fpos x then x else 0
    | 2 => if fpos x then x else fmul imm x
    | 3 => fminN (fmaxN x (imm ^^^ 0x80000000#32)) imm
    | 5 => x &&& 0x7FFFFFFF#32
    | 6 => fmul x x
    | _ => (actSmooth code x).getD qnan

/-- f′ of DACT from the element operand (R182). -/
def dactFun (code : Nat) (imm a : W32) : W32 :=
  let bit := decide (a &&& 0x7FFFFFFF#32 ≠ 0) && !fisNan a
  let one := if bit then f1 else 0
  match code with
  | 1 => one
  | 2 => if bit then f1 else imm
  | 3 => one
  | 4 => fmul one imm
  | 5 => if bit then f1 ^^^ 0x80000000#32 else f1
  | 6 => fmul 0x40000000#32 a
  | _ => (dactSmooth code a).getD qnan

/-- The bit that KEEP writes; a NaN gives 0 (table VE-5). -/
def keepBit (code : Nat) (imm x : W32) (dec : Bool) : Bool :=
  match code with
  | 1 => fpos x
  | 2 => fpos x
  | 3 => flt (x &&& 0x7FFFFFFF#32) imm
  | 4 => dec
  | _ => flt x 0

/-- Is an element live under a mask kind (table VE-7)? -/
def maskLive (kind q k p : Nat) : Bool :=
  match kind with
  | 0 => decide (k ≤ q)
  | 1 => decide (k < p)
  | 2 => decide (k ≤ q ∧ k < p)
  | 3 => decide (q / p = k / p)
  | 4 => decide (k / p ≤ q / p)
  | _ => decide (q < k + p ∧ k ≤ q)

/-- The generator word of an element under the index descriptor in b[slot] and b[slot + 1] (R184, R185). -/
def genWord (e : ChEnv) (slot m n : Nat) : Word :=
  let d := slotW e.b (slot + 1)
  let seed := match (e.s.parts[e.p]).image with | some im => im.seed | none => 0
  srWord seed (word (wfield d 63 40)) (e.s.parts[e.p]).stepNo (slotW e.b slot + word (m * wfield d 39 0) + word n)

/-- The random bits of a STORE when PARAM[1] selects stochastic rounding. -/
def storeSr (e : ChEnv) (st : Stage) (m n : Nat) : Option Nat :=
  if st.param / 2 % 2 = 1 then some ((genWord e (st.treg % 8) m n).toNat % 2 ^ 24) else none

/-- Convert and write one element into an operand, with its note for the tensor's amax record (R185). -/
def putElem (e : ChEnv) (q : ChSt) (w : Word) (f : Fmt) (tensor : Nat) (sr : Option Nat) (m n : Nat) (x : W32) : ChSt :=
  let cv := convScaled f (expOf e.s e.p tensor) sr x
  { q with c := writeElem q.c e.base w f m n e.cols cv.raw, notes := q.notes ++ [(tensor, x, cv.sat)] }

/-- STORE with block exponents: the blocks of 32 columns that the row's elements touch (R110, R185). -/
def storeBlocks (e : ChEnv) (q : ChSt) (st : Stage) (w : Word) (m : Nat) (els : List El) : ChSt :=
  let t := st.imm.toNat % 2 ^ 24
  let ex := expOf e.s e.p t
  ((els.map (fun y => y.n / 32)).eraseDups).foldl (fun q blk =>
    let at32 := fun k => els.find? (fun y => y.n == 32 * blk + k)
    let ys := (List.range 32).map (fun k => match at32 k with | some y => fp32 (fscale y.x ex) | none => .fin false 0 0)
    let srs := (List.range 32).map (fun k => match at32 k with | some _ => storeSr e st m (32 * blk + k) | none => none)
    let (b, cs) := encodeBlock srs ys
    let q := ((List.range 32).zip cs).foldl (fun (q : ChSt) (k, cv) =>
      let n := 32 * blk + k
      if n < e.cols then
        { q with c := writeElem q.c e.base w .e2m1 m n e.cols (match at32 k with | some _ => cv.raw | none => 0)
                 notes := match at32 k with | some y => q.notes ++ [(t, y.x, cv.sat)] | none => q.notes }
      else q) q
    { q with c := { q.c with store := tset 0 q.c.store (rowAt e.base w m + packedLen .e2m1 e.cols + blk) (BitVec.ofNat 8 b) } }) q

/-- STORE of a row's elements (R185). -/
def storeRow (e : ChEnv) (q : ChSt) (st : Stage) (m : Nat) (els : List El) : ChSt :=
  let t := st.imm.toNat % 2 ^ 24
  let w := if st.src = 0 then e.out else slotW e.b st.slot
  if st.param % 2 = 1 then
    els.foldl (fun (q : ChSt) y =>
      { q with c := setTreg q.c e.bk (8192 * st.treg + m * e.cols + y.n) (fscale y.x (expOf e.s e.p t)), notes := q.notes ++ [(t, y.x, false)] }) q
  else if st.param / 4 % 2 = 1 then storeBlocks e q st w m els
  else els.foldl (fun q y => putElem e q w (stFmt st) t (storeSr e st m y.n) m y.n y.x) q

/-- KEEP of a row's elements (R181, R185). -/
def keepRow (e : ChEnv) (q : ChSt) (st : Stage) (m : Nat) (els : List El) : ChSt :=
  let w := slotW e.b st.slot
  els.foldl (fun (q : ChSt) y =>
    if bitFn (stFn st) then { q with c := writeElem q.c e.base w .bit m y.n e.cols (b2n (keepBit (stFn st) st.imm y.x y.keep)) }
    else putElem e q w (stFmt st) (st.imm.toNat % 2 ^ 24) none m y.n y.x) q

/-- ROPE of a row's elements (R190): the pairs of which both are present. -/
def ropeRow (e : ChEnv) (c : Core) (st : Stage) (m : Nat) (els : List El) : List El :=
  let q := (posDesc (slotW e.b (st.treg % 8))).1 + m
  let w := slotW e.b st.slot
  els.map (fun y =>
    let k := y.n / 2
    let f := leNat (tgetMany 0 c.store (rowAt e.base w 0 + 4 * k) 4)
    let (co, si) := cosSin (q * f % 2 ^ 32)
    match els.find? (fun z => decide (z.n / 2 = k ∧ z.n ≠ y.n)) with
    | none => y
    | some z =>
      if y.n % 2 = 0 then { y with x := toFp32 (fvAdd (fvMul (fp32 y.x) (fp32 co)) (fvNeg (fvMul (fp32 z.x) (fp32 si)))) }
      else { y with x := toFp32 (fvAdd (fvMul (fp32 z.x) (fp32 si)) (fvMul (fp32 y.x) (fp32 co))) })

/-- What a stage that works on each element alone makes of an element, with its operand *a* (table VE-4); a PACK chain rounds to BF16 (R199). -/
def stageWith (e : ChEnv) (pack : Bool) (c : Core) (st : Stage) (m : Nat) (y : El) (a : W32) : El :=
  let r := fun (v : W32) => if pack then toBf v else v
  let a := r a
  let x := y.x
  match st.op with
  | 0x01 => { y with x := r (fadd x a) }
  | 0x02 => { y with x := r (fmul x a) }
  | 0x03 => { y with x := r (fsub x a) }
  | 0x04 => { y with x := r (fsub a x) }
  | 0x05 => { y with x := r (fmaxN x a) }
  | 0x06 => { y with x := r (fminN x a) }
  | 0x07 => { y with x := r (fminN (fmaxN x a) (r st.imm)) }
  | 0x08 => { y with x := r (toFp32 (fvAdd (fp32 x) (fvNeg (fvMul (fp32 a) (fp32 (r (tregAt c e.bk st.treg m))))))) }
  | 0x09 =>
    let d := slotW e.b st.slot
    { y with x := fscale x (-(expOf e.s e.p (wfield d 23 0) + expOf e.s e.p (wfield d 47 24))) }
  | 0x0A => { y with x := actFun (stFn st) st.imm x }
  | 0x0B => { y with x := fmul x (dactFun (stFn st) st.imm a) }
  | 0x0D =>
    let g := genWord e st.slot m y.n
    let keep := decide (wfield g 63 52 < st.param)
    { y with x := if keep then fmul x st.imm else 0, keep := keep }
  | 0x0F =>
    let d := posDesc (slotW e.b st.slot)
    if maskLive (st.param % 8) (d.1 + m) (d.2.1 + y.n) d.2.2 then y
    else { y with x := if st.param / 8 % 2 = 1 then 0 else 0xFF800000#32 }
  | _ => y

/-- The same with the stage's own operand (table VE-3). -/
def stageVal (e : ChEnv) (pack : Bool) (c : Core) (st : Stage) (m : Nat) (y : El) : El := stageWith e pack c st m y (operandA e c st m y.n)

/-- Does a stage take an element operand (SRC 5, table VE-3)? -/
def elemStage (st : Stage) : Bool := st.src == 5 && st.op != 0x11

/-- One stage over a row's present elements. -/
def runStage (e : ChEnv) (pack : Bool) (k m : Nat) (st : Stage) (q : ChSt) (els : List El) : ChSt × List El :=
  match st.op with
  | 0x0C => (keepRow e q st m els, els)
  | 0x0E => ({ q with reds := q.reds ++ els.map (fun y => ⟨k, e.tile, m, y.n, y.x⟩) }, els)
  | 0x10 => (q, ropeRow e q.c st m els)
  | 0x11 => (storeRow e q st m els, els)
  | _ => (q, els.map (stageVal e pack q.c st m))

/-- A row's present elements, as (column, value), through a chain (R175, R177). -/
def runRow (e : ChEnv) (ch : Chain) (q : ChSt) (m : Nat) (els : List (Nat × W32)) : ChSt :=
  ((ch.stages.zipIdx).foldl (fun (acc : ChSt × List El) (st, k) => runStage e ch.pack k m st acc.1 acc.2)
    (q, els.map (fun y => ⟨y.1, y.2, false⟩))).1

/-- A tile of an element stream through a chain, rows ascending (R174, R175): rows as (row, present elements). -/
def runTile (e : ChEnv) (ch : Chain) (q : ChSt) (rows : List (Nat × List (Nat × W32))) : ChSt :=
  rows.foldl (fun q r => if r.2.isEmpty then q else runRow e ch q r.1 r.2) q

/-- Does a stage write or reduce, so that the values that enter it are compared (table SE-1)? -/
def comparedStage (st : Stage) : Bool := st.op == 0x0C || st.op == 0x0E || st.op == 0x11

/-- The elements of a row that enter each write and RED stage, as (stage, row, column, value), with the state after the row (tables SE-1, SE-5). -/
def rowSeen (e : ChEnv) (ch : Chain) (q : ChSt) (m : Nat) (els : List (Nat × W32)) : ChSt × List (Nat × Nat × Nat × W32) :=
  let r := (ch.stages.zipIdx).foldl (fun (acc : (ChSt × List El) × List (Nat × Nat × Nat × W32)) (st, k) =>
      (runStage e ch.pack k m st acc.1.1 acc.1.2,
       if comparedStage st then acc.2 ++ acc.1.2.map (fun y => (k, m, y.n, y.x)) else acc.2))
    ((q, els.map (fun y => ⟨y.1, y.2, false⟩)), [])
  (r.1.1, r.2)

/-- The values of a tile that enter each write and RED stage, stage by stage in order (tables SE-1, SE-5). -/
def tileSeen (e : ChEnv) (c : Core) (ch : Chain) (rows : List (Nat × List (Nat × W32))) : List (List (Nat × Nat × W32)) :=
  let all := (rows.foldl (fun (acc : ChSt × List (Nat × Nat × Nat × W32)) r =>
    let (q, l) := rowSeen e ch acc.1 r.1 r.2
    (q, acc.2 ++ l)) (⟨c, [], []⟩, [])).2
  ((ch.stages.zipIdx).filter (fun x => comparedStage x.1)).map (fun x => (all.filter (fun y => y.1 == x.2)).map (·.2))

/-- A tile as a sampled item keeps it: its present elements, the values that each stage with an element operand takes there, and those that
are compared (R333, R341). -/
def tileWork (e : ChEnv) (c : Core) (ch : Chain) (rows : List (Nat × List (Nat × W32))) : Work :=
  let els := rows.flatMap (fun r => r.2.map (fun y => (r.1, y.1, y.2)))
  .vector ch e.b els ((ch.stages.filter elemStage).map (fun st => els.map (fun y => (y.1, y.2.1, operandA e c st y.1 y.2.1)))) (tileSeen e c ch rows)

/-! ### Reductions (R186 to R188, table VE-6) -/

/-- One level of a pairwise tree. -/
def treeLevel (f : W32 → W32 → W32) : List (Option W32) → List (Option W32)
  | some u :: some v :: t => some (f u v) :: treeLevel f t
  | some u :: none :: t => some u :: treeLevel f t
  | none :: v :: t => v :: treeLevel f t
  | l => l

/-- A pairwise tree of `d` levels over 2^d positions. -/
def treeSum : Nat → List (Option W32) → Option W32
  | 0, l => l.headD none
  | d + 1, l => treeSum d (treeLevel fadd l)

/-- A sequential combination from the first present value. -/
def seqComb (f : W32 → W32 → W32) : List W32 → Option W32
  | [] => none
  | v :: vs => some (vs.foldl f v)

/-- An element of one row or column: its position along it, its tile, its value. -/
abbrev SumEl := Nat × Nat × W32

/-- Insert a group, named by its position and its tile, into an ascending list of groups. -/
def insKey (a : Nat × Nat) : List (Nat × Nat) → List (Nat × Nat)
  | [] => [a]
  | b :: l => if a = b then b :: l else if a.1 < b.1 ∨ (a.1 = b.1 ∧ a.2 < b.2) then a :: b :: l else b :: insKey a l

/-- The sum of one row or column in the order of table VE-6: a pairwise tree of `d` levels over each group of 2^d positions, then the groups
in ascending order, one after another; `d` = 0 is sequential throughout. DESIGN CHOICE (log entry 195): elements of one position that came
in with several tiles (R194) are groups of their own, in the order of the tiles. -/
def orderedSum (d : Nat) (els : List SumEl) : Option W32 :=
  let g := 2 ^ d
  let keys := els.foldl (fun l y => insKey (y.1 / g, y.2.1) l) []
  seqComb fadd (keys.filterMap (fun k =>
    treeSum d ((List.range g).map (fun j => (els.find? (fun y => decide (y.1 = g * k.1 + j ∧ y.2.1 = k.2))).map (·.2.2)))))

/-- The result of a RED for one entry (R186 to R188). -/
def redResult (kind : Nat) (rmode : Bool) (els : List SumEl) : Option W32 :=
  match kind with
  | 0 => orderedSum (if rmode then 0 else 7) els
  | 2 => orderedSum (if rmode then 5 else 0) els
  | _ => seqComb fmaxN (els.map (·.2.2))

/-- Write the results of every RED stage of a chain into its tile registers, once, after the instruction's last element
(R186). -/
def finishReds (bk : Fin 2) (ch : Chain) (reds : List RedEl) (c : Core) : Core :=
  (ch.stages.zipIdx).foldl (fun c (st, k) =>
    if st.op ≠ 0x0E then c
    else
      let kind := st.param % 4
      let mine := (reds.filter (fun r => r.stage == k)).map (fun r => if kind < 2 then (r.m, r.n, r.tile, r.x) else (r.n, r.m, r.tile, r.x))
      ((mine.map (·.1)).eraseDups).foldl (fun c en =>
        match redResult kind ch.rmode ((mine.filter (fun r => r.1 == en)).map (·.2)) with
        | none => c
        | some v =>
          let o := tregAt c bk st.treg en
          let v := if st.param / 4 % 2 = 1 then (if kind % 2 = 1 then fmaxN o v else fadd o v) else v
          setTreg c bk (8192 * st.treg + en) v) c) c

/-- Put the core that a chain has changed back, and record the values it converted (R129, R185). -/
def chainDone (s : State) (n : CoreIx) (p : PartIx) (q : ChSt) : State :=
  let s := modCore s n (fun _ => q.c)
  let ts := (q.notes.map (·.1)).eraseDups
  each ts s (fun s t =>
    match tensorOf s p t with
    | none => s
    | some e => recordAmax s p e ((q.notes.filter (fun y => y.1 == t)).map (·.2)))

/-- Is a fault one that the vector engine reports: lane parity is checked only while LANE_PARITY is 1 (R204)? -/
def laneReports (c : Core) (f : EngFault) : Bool := f.cause != 1 || c.ve.parity

/-- The VE_ERR bit of a vector engine cause, and ENGINE_FAULT in a context (R204, table VE-12). -/
def vectorFault (s : State) (n : CoreIx) (i : CtxIx) (pc : BitVec 40) (f : EngFault) : State :=
  let s := modCore s n (fun c =>
    { c with ve := { c.ve with lanePar := c.ve.lanePar || f.cause == 1, uncorr := c.ve.uncorr || f.cause == 2, chainPar := c.ve.chainPar || f.cause == 3 } })
  engineFault s n i pc 2 f

/-- A corrected tile register error (R204). -/
def vectorCorr (s : State) (n : CoreIx) : State :=
  modCore s n (fun c => { c with ve := { c.ve with corr := true, corrCount := satAdd c.ve.corrCount 1 0xFFFF } })

/-- A stage as its word (table VE-2). -/
def stageWord (st : Stage) : Word :=
  word (place st.op 63 58 + place st.fmt 57 54 + place st.src 53 51 + place st.slot 50 48 + place st.treg 47 44 + place st.param 43 32 + st.imm.toNat)

/-- A chain as the nine words of its definition (R178). -/
def chainWords (ch : Chain) : List Word :=
  let l := word (place ch.stages.length 7 4 + place (b2n ch.pack) 1 1 + place (b2n ch.rmode) 0 0) :: ch.stages.map stageWord
  l ++ List.replicate (9 - l.length) 0

end Sys2Proof.Machine
end

