-- ==== Sys2Proof/Machine/Matrix.lean ====
section
/-! DEFINITION. Matrix arrays: MMA, WPRE and MRELEASE with their checks and headgate, the fold, passes, duplicate passes,
drains, completion, faults (R117 to R125, R134 to R170, R192, R193, R329 to R332; tables MA-1 to MA-8). -/

namespace Sys2Proof.Machine

/-! ### The accumulator (R117 to R125) -/

/-- VALUE as a word of 96 bits. -/
def accValue (v : Int) : BitVec 96 := BitVec.ofInt 96 v

/-- A product that enters the long accumulator (R118 to R120, R125). -/
def accLong (a b : Fval) (e : AccE) : AccE :=
  let e : AccE := if e.used then e else { e with used := true, mode := false }
  if e.mode then { e with nan := true }
  else
    match fvMul a b with
    | .nan => { e with nan := true }
    | .inf neg => if neg then { e with ninf := true } else { e with pinf := true }
    | .fin neg m x => { e with value := e.value + accValue (alignTo neg m x (-32)) }

/-- A BF16 product that enters the ordered FP32 sum (R124, R125). -/
def accOrdered (a b : Fval) (e : AccE) : AccE :=
  let e : AccE := if e.used then e else { e with used := true, mode := true }
  if !e.mode then { e with nan := true }
  else { e with value := (toFp32 (fvAdd (fp32 (e.value.setWidth 32)) (fvMul a b))).setWidth 96 }

/-- What an entry drains to (R122, R124). -/
def drainVal (e : AccE) : W32 :=
  if e.mode then (if e.nan then qnan else e.value.setWidth 32)
  else if e.nan || e.ovr || (e.pinf && e.ninf) then qnan
  else if e.pinf then 0x7F800000#32
  else if e.ninf then 0xFF800000#32
  else
    let v := e.value.toInt
    toFp32 (.fin (decide (v < 0)) v.natAbs (-32))

/-- A raw record (table NF-5). -/
def rawRecord (e : AccE) : List Byte :=
  leBytes 16 (e.value.toNat + b2n e.nan * 2 ^ 96 + b2n e.pinf * 2 ^ 97 + b2n e.ninf * 2 ^ 98 + b2n e.ovr * 2 ^ 99 + b2n e.mode * 2 ^ 100)

/-! ### Shapes and masks (R143, R145, R146) -/

/-- Stored rows of A: M, or K in the weight-gradient dataflow (table MA-4). -/
def aRows (f : MmaF) : Nat := if f.df = .weightGrad then f.k else f.m

/-- Stored columns of A. -/
def aCols (f : MmaF) : Nat := if f.df = .weightGrad then f.m else f.k

/-- Stored rows and columns of W (table MA-4). -/
def wShape (df : Dataflow) (n k : Nat) : Nat × Nat := if df = .dataGrad then (n, k) else (k, n)

/-- The live stored rows of A (R145). -/
def liveRows (f : MmaF) (c : Core) (base : Nat) (arg : Word) : List Bool :=
  (List.range (aRows f)).map (fun r =>
    match f.mask with
    | .none => true
    | .upTo => decide (r < wfield arg 13 0)
    | .bitmap => (tget 0 c.store (base + arg.toNat + r / 8)).getLsbD (r % 8))

/-- Is every row of a group of 128 stored rows masked (R146)? -/
def groupMasked (live : List Bool) (g : Nat) : Bool := ((live.drop (128 * g)).take 128).all (fun b => !b)

/-- The fold (R149): the passes and drains of an MMA over `na` in-service arrays. -/
def foldPlan (f : MmaF) (live : List Bool) (na : Nat) : List FoldStep :=
  let nb := ceilDiv f.n 128
  let kbs := (List.range (ceilDiv f.k 128)).filter (fun kb => !(f.df == .weightGrad && groupMasked live kb))
  ((List.range (ceilDiv f.m 128)).filter (fun mg => !(f.df != .weightGrad && groupMasked live mg))).flatMap (fun mg =>
    (List.range (ceilDiv nb na)).flatMap (fun g =>
      let blocks := (List.range (min na (nb - g * na))).map (g * na + ·)
      kbs.map (fun kb => .pass mg kb blocks) ++ [.drain mg blocks]))

/-! ### Issue (R137 to R142, R161 to R163) -/

/-- Element (row of the stored operand, column) of A for output row `m` and index `k`. -/
def aPlace (f : MmaF) (m k : Nat) : Nat × Nat := if f.df = .weightGrad then (k, m) else (m, k)

/-- The registers that an MMA uses (table MA-2). -/
def mmaUses (f : MmaF) : List Reg :=
  [f.saA, f.saW] ++ (if f.mask = .none then [] else [f.saMask]) ++ (if f.drain = .keep then [] else [f.saOut])

/-- A check of table MA-7. -/
def maFault (check detail : Nat) : IssueFault := .range 1 check detail

/-- The checks of table MA-7 in the order of R162. -/
def mmaCheck (c : Core) (i : CtxIx) (lc : LCoreE) (f : MmaF) (a w mask out : Word) : Option IssueFault :=
  let mn := place f.m 27 14 + place f.n 13 0
  let mine := match c.kept with | some k => if k.ctx = i then some k else none | none => none
  let ws := wShape f.df f.n f.k
  let bytes := ceilDiv (aRows f) 8
  (if wordBad a then some (maFault 5 f.saA.val) else none).or
    ((if wordBad w then some (maFault 5 f.saW.val) else none).or
    ((if f.drain = .raw ∧ wordBad out then some (maFault 5 f.saOut.val) else none).or
    ((if extentBad lc a (aRows f) (rowBytes f.fmtA f.bxa (aCols f)) then some (maFault 1 (opOff a)) else none).or
    ((if extentBad lc w ws.1 (rowBytes f.fmtW f.bxw ws.2) then some (maFault 2 (opOff w)) else none).or
    ((if f.mask = .bitmap ∧ (lc.footprint < mask.toNat + bytes ∨ mask.toNat < lc.codeLen) then some (maFault 3 mask.toNat) else none).or
    ((if f.drain = .raw ∧ extentBad lc out f.m (16 * f.n) then some (maFault 4 (opOff out)) else none).or
    ((if f.drain = .keep ∧ (128 < f.m ∨ 128 < f.n) then some (maFault 6 mn) else none).or
    ((if f.accIn && (match mine with | some k => decide (k.m ≠ f.m ∨ k.n ≠ f.n) | none => true) then some (maFault 7 mn) else none).or
    (if !f.accIn ∧ mine.isSome then some (maFault 8 0) else none)))))))))

/-- Lines of an operand as a condition of the headgate (R160, R161). -/
def opLines (base : Nat) (w : Word) (rows rb : Nat) : Nat × Nat := extentLines base (opOff w) (opEnd w rows rb)

/-- Place in the plan of the next pass, duplicate passes too, from a place on; the length when none is left. -/
def nextPass (plan : List FoldStep) (k : Nat) : Nat :=
  match (plan.drop k).findIdx? (fun st => match st with | .drain .. => false | _ => true) with
  | some j => k + j
  | none => plan.length

/-- Place in the plan of the next drain from a place on. -/
def nextDrain (plan : List FoldStep) (k : Nat) : Nat :=
  match (plan.drop k).findIdx? (fun st => match st with | .drain .. => true | _ => false) with
  | some j => k + j
  | none => plan.length

/-- Output groups of a plan. -/
def groupsIn (plan : List FoldStep) : Nat := (plan.filter (fun st => match st with | .drain .. => true | _ => false)).length

/-- Queue an MMA that has passed the headgate: it pins its operand lines, the kept output follows issue order (R154 to R157, R163), and it
finds its first blocks preloaded if the WPRE before it has the same fields (R159). DESIGN CHOICE (log entry 192): the bitmap of MASK_MODE 2 is read from the core store once, at issue.
DESIGN CHOICE (log entry 228): an MMA without a pass, which has no last feed and no last load, releases its lines at issue. -/
def queueMma (s : State) (n : CoreIx) (i : CtxIx) (b : Bound) (f : MmaF) (a w mask out : Word) (ch : Chain) : State :=
  let c := s.cores[n]
  let live := liveRows f c b.base mask
  let arrays := arraysOf c
  let plan := foldPlan f live arrays.length
  let ord := tget 0 s.sed.matOrd n.val
  let j : MmaJob :=
    { f := f, a := a, w := w, live := live, out := out, slots := (ctxOf s n i).b, chain := ch, arrays := arrays, plan := plan
      pIx := nextPass plan 0, dIx := if f.drain = .keep then plan.length else nextDrain plan 0, tIx := 0, reds := [], tiles := 0
      placed := [], held := [], dups := [], halves := [], ord := ord, ahead := false, wPin := decide (nextPass plan 0 < plan.length), counted := false
      pre := decide (c.preload = some ⟨b.part, b.lcore, w, f.df, f.fmtW, f.bxw, f.n, f.k⟩) && !f.accIn
        && (match plan.head? with | some (.pass _ kb _) => kb == 0 | _ => false) }
  let la := opLines b.base a (aRows f) (rowBytes f.fmtA f.bxa (aCols f))
  let lw := opLines b.base w (wShape f.df f.n f.k).1 (rowBytes f.fmtW f.bxw (wShape f.df f.n f.k).2)
  let s := modSed s (fun x => { x with matOrd := tset 0 x.matOrd n.val (ord + groupsIn plan) })
  modCore (countP s b.part 2 1) n (fun c =>
    let c := pinLines (pinLines c la.1 la.2) lw.1 lw.2
    let c : Core :=
      { c with mq := c.mq ++ [⟨i, (c.ctx[i]).pc, .mma j⟩], preload := none
               kept := if f.drain = .keep then some ⟨i, f.m, f.n⟩ else if f.accIn then none else c.kept }
    if j.pIx = plan.length then unpinLines (unpinLines c la.1 la.2 f.relA) lw.1 lw.2 f.relW else c)

/-- MMA: run-time checks, then the headgate, then the matrix queue (R161, R162, R200). -/
def execMma (n : CoreIx) (g : Guard) (f : MmaF) (s : State) : Res :=
  .next (issue s n g 2 (mmaUses f) (fun s i b lc =>
    let x := ctxOf s n i
    let c := s.cores[n]
    let (a, w, mask, out) := (rd x f.saA, rd x f.saW, rd x f.saMask, rd x f.saOut)
    match mmaCheck c i lc f a w mask out, (s.parts[b.part]).image with
    | some e, _ => raiseIssue s n i e
    | none, none => s
    | none, some im =>
      let ch := chainNow c (bankOf c i) f.chain.val
      let chain : Except IssueFault Chain :=
        match f.drain with
        | .direct => chainChecks im lc ch f.chain.val x.b out f.m f.n none false
        | .flume => if lc.flumeDepth = 0 then .error (veFault 6 0 0) else .ok (ch.getD chainZero)
        | _ => .ok chainZero
      match chain with
      | .error e => raiseIssue s n i e
      | .ok ch =>
        let la := opLines b.base a (aRows f) (rowBytes f.fmtA f.bxa (aCols f))
        let lw := opLines b.base w (wShape f.df f.n f.k).1 (rowBytes f.fmtW f.bxw (wShape f.df f.n f.k).2)
        let lm := extentLines b.base mask.toNat (mask.toNat + ceilDiv (aRows f) 8)
        headgate s n i b ([.queue .matrix, .lines lw.1 lw.2, .lines la.1 la.2]
            ++ (if f.mask = .bitmap then [.lines lm.1 lm.2] else []) ++ (if f.drain = .keep ∧ !f.accIn then [.keptFree] else []))
          (fun s => advance (queueMma s n i b f a w mask out ch) n i 2)))

/-- Does a context hold the kept output? -/
def keptBy (c : Core) (i : CtxIx) : Bool := match c.kept with | some k => decide (k.ctx = i) | none => false

/-- Queue an MRELEASE. -/
def queueRelease (i : CtxIx) (cnt : Option Cnt) (c : Core) : Core :=
  { c with mq := c.mq ++ [⟨i, (c.ctx[i]).pc, .release cnt (keptBy c i)⟩], kept := if keptBy c i then none else c.kept }

/-- MRELEASE (R157): the kept output of the issuing context goes when the entry reaches the head of the queue. -/
def execMrelease (n : CoreIx) (g : Guard) (cnt : Option Cnt) (s : State) : Res :=
  .next (issue s n g 2 [] (fun s i b _ =>
    headgate s n i b [.queue .matrix] (fun s =>
      advance (modCore s n (queueRelease i cnt)) n i 2)))

/-- WPRE: the checks 0x5 and 0x2 of its operand, then the headgate, then the matrix queue (R159, R161; log entry 42). -/
def execWpre (n : CoreIx) (g : Guard) (f : WpreF) (s : State) : Res :=
  .next (issue s n g 2 [f.saW] (fun s i b lc =>
    let w := rd (ctxOf s n i) f.saW
    let ws := wShape f.df f.n f.k
    let rb := rowBytes f.fmtW f.bxw ws.2
    if wordBad w then raiseIssue s n i (maFault 5 f.saW.val)
    else if extentBad lc w ws.1 rb then raiseIssue s n i (maFault 2 (opOff w))
    else
      let l := opLines b.base w ws.1 rb
      headgate s n i b [.queue .matrix, .lines l.1 l.2] (fun s =>
        advance (modCore s n (fun c =>
          { pinLines c l.1 l.2 with mq := c.mq ++ [⟨i, (c.ctx[i]).pc, .wpre f w false⟩], preload := some ⟨b.part, b.lcore, w, f.df, f.fmtW, f.bxw, f.n, f.k⟩ })) n i 2)))

/-! ### Halves -/

/-- A half of an array. -/
def halfOf (a : Arr) (h : Nat) : Half := if h = 0 then a.half0 else a.half1

/-- Change a half of an array of a core. -/
def modHalf (c : Core) (arr h : Nat) (g : Half → Half) : Core :=
  match toFin 4 arr with
  | none => c
  | some k => modArr c k (fun a => if h = 0 then { a with half0 := g a.half0 } else { a with half1 := g a.half1 })

/-- The half that an MMA's next output tile on an array takes, if it is free now (R151, R155): the free one, half 0 when both
are; then the other half each time; only half 0 while the array holds the kept output. -/
def pickHalf (c : Core) (halves : Tbl Nat) (arr : Nat) : Option Nat :=
  match toFin 4 arr with
  | none => none
  | some k =>
    let a := c.arrays[k]
    let free := fun h => (halfOf a h).st == .free
    if a.half1.st = .kept then (if free 0 then some 0 else none)
    else
      match tfind halves arr with
      | some h => if free (1 - h) then some (1 - h) else none
      | none => if free 0 then some 0 else if free 1 then some 1 else none

/-- Does an MMA work on the kept output (R154, R156)? -/
def onKept (f : MmaF) : Bool := f.drain == .keep || f.accIn

/-- The tile of an output block, placed on an array: it is there, or a half opens for it (R151, R154). -/
def openTile (c : Core) (j : MmaJob) (tiles : List Tile) (mg nb arr : Nat) (hold : Nat) (idle : Bool) : Option (Core × MmaJob × Tile) :=
  match tiles.find? (fun t => decide (t.mg = mg ∧ t.nb = nb)) with
  | some t => some (c, j, t)
  | none =>
    if onKept j.f then
      match toFin 4 arr with
      | none => none
      | some k =>
        let t : Tile := ⟨mg, nb, arr, 1⟩
        if j.f.accIn then some (modHalf c arr 1 (fun h => { h with st := .acc }), j, t)
        else if (c.arrays[k]).half1.st = .free then some (modHalf c arr 1 (fun _ => { Half.reset with st := .acc }), j, t)
        else none
    else
      match pickHalf c j.halves arr with
      | none => none
      | some h =>
        some (modHalf c arr h (fun _ => { Half.reset with st := .acc, hold := hold, idle := idle }), { j with halves := tput j.halves arr h }, ⟨mg, nb, arr, h⟩)

/-- Open the tiles of a group on their arrays, `rot` arrays further on for a duplicate; none if some half is not free yet
(R151). -/
def openTiles (c : Core) (j : MmaJob) (dup : Bool) (mg hold : Nat) : List (Nat × Nat) → Option (Core × MmaJob × List Tile)
  | [] => some (c, j, [])
  | (nb, ix) :: rest =>
    let na := j.arrays.length
    let arr := j.arrays.getD (if dup then (ix + 1) % na else ix) 0
    match openTile c j (if dup then j.dups else j.placed) mg nb arr hold dup with
    | none => none
    | some (c, j, t) =>
      let j : MmaJob :=
        if dup then (if j.dups.contains t then j else { j with dups := j.dups ++ [t] })
        else if j.placed.contains t then j else { j with placed := j.placed ++ [t] }
      match openTiles c j dup mg hold rest with
      | none => none
      | some (c, j, ts) => some (c, j, t :: ts)

/-! ### Passes (R134, R147 to R149, R163, R165, R332) -/

/-- The value of A at output row m and index k. -/
def valA (c : Core) (base : Nat) (j : MmaJob) (m k : Nat) : Fval :=
  let q := aPlace j.f m k
  elemVal c base j.a j.f.fmtA j.f.bxa q.1 q.2 (aCols j.f)

/-- The value in the weight register of the cell at row `k` and column `n` of an array (R134). -/
def valW (f : MmaF) (b : WBlock) (k n : Nat) : Fval :=
  let raw := (b.rows.getD k []).getD n 0
  if f.bxw then decodeBlockElem ((b.exps.getD k []).getD n 0) raw else decodeElem f.fmtW raw

/-- Is stored row `r` of A live? -/
def isLive (j : MmaJob) (r : Nat) : Bool := j.live.getD r false

/-- Accumulate a pass into one entry: ascending k, masked k left out in the weight-gradient dataflow (R124, R147). -/
def accEntry (c : Core) (base : Nat) (j : MmaJob) (b : WBlock) (m n kb : Nat) (e : AccE) : AccE :=
  let ks := ((List.range (min 128 (j.f.k - 128 * kb))).map (128 * kb + ·)).filter (fun k => !(j.f.df == .weightGrad) || isLive j k)
  let add := if j.f.fmtA = .bf16 then accOrdered else accLong
  ks.foldl (fun e k => add (valA c base j m k) (valW j.f b (k % 128) (n % 128)) e) e

/-- One pass over a tile, from a stationary block: every entry of a live row and a column within N (R147, R148). -/
def passTile (c : Core) (base : Nat) (j : MmaJob) (b : WBlock) (mg kb nb : Nat) (h : Half) : Half :=
  let keys := (List.range 128).flatMap (fun r => (List.range 128).map (fun q => 128 * r + q))
  let rows := fun r => decide (128 * mg + r < j.f.m) && (j.f.df == .weightGrad || isLive j (128 * mg + r))
  let es := keys.filterMap (fun key =>
    let e := tget AccE.clear h.acc key
    let e := if rows (key / 128) && decide (128 * nb + key % 128 < j.f.n) then accEntry c base j b (128 * mg + key / 128) (128 * nb + key % 128) kb e else e
    if e = AccE.clear then none else some (key, e))
  { h with acc := es }

/-- The term count of a tile grows by K for the instruction; beyond 2^31 OVR is set in every entry of MODE 0 (R121, R125). -/
def countTerms (f : MmaF) (h : Half) : Half :=
  let t := satAdd h.terms f.k 0xFFFFFFFF
  if 2 ^ 31 < t then
    let keys := (List.range (min 128 f.m)).flatMap (fun r => (List.range (min 128 f.n)).map (fun q => 128 * r + q))
    { h with terms := t, acc := keys.foldl (fun a k => let e := tget AccE.clear a k; if e.mode then a else tput a k { e with ovr := true }) h.acc }
  else { h with terms := t }

/-- The stationary block that a pass loads, raw (R134). -/
def stationary (c : Core) (base : Nat) (w : Word) (df : Dataflow) (fw : Fmt) (bx : Bool) (n k kb nb : Nat) : WBlock :=
  let sh := wShape df n k
  let ks := (List.range (min 128 (k - 128 * kb))).map (128 * kb + ·)
  let ns := (List.range (min 128 (n - 128 * nb))).map (128 * nb + ·)
  let at2 := fun k n => if df = .dataGrad then (n, k) else (k, n)
  ⟨ks.map (fun k => ns.map (fun n => elemRaw c base w fw (at2 k n).1 (at2 k n).2)),
   if bx then ks.map (fun k => ns.map (fun n => elemExp c base w fw (at2 k n).1 (at2 k n).2 sh.2)) else []⟩

/-- The K-block of a pass or duplicate pass, and its N-blocks with the arrays that they are placed on (R149, R332). -/
def passBlocks (j : MmaJob) : FoldStep → Option (Nat × List (Nat × Nat))
  | .pass _ kb blocks => some (kb, blocks.zipIdx.map (fun (nb, ix) => (nb, j.arrays.getD ix 0)))
  | .dup _ kb blocks _ => some (kb, blocks.zipIdx.map (fun (nb, ix) => (nb, j.arrays.getD ((ix + 1) % j.arrays.length) 0)))
  | .drain .. => none

/-- Change the arrays that a list of placed N-blocks names. -/
def modArrs (c : Core) (l : List (Nat × Nat)) (g : Nat → Arr → Arr) : Core :=
  l.foldl (fun c (nb, arr) => match toFin 4 arr with | none => c | some k => modArr c k (g nb)) c

/-- Load stationary blocks into the shadow registers of their arrays (R134). -/
def loadShadow (c : Core) (base : Nat) (w : Word) (df : Dataflow) (fw : Fmt) (bx : Bool) (n k kb : Nat) (l : List (Nat × Nat)) : Core :=
  modArrs c l (fun nb a => { a with idle := false, shadow := stationary c base w df fw bx n k kb nb })

/-- Load the blocks of the pass at a place of a job's plan into the shadow registers (R134, R165). -/
def loadPass (c : Core) (base : Nat) (j : MmaJob) (ix : Nat) : Core :=
  match (j.plan[ix]?).bind (passBlocks j) with
  | some (kb, l) => loadShadow c base j.w j.f.df j.f.fmtW j.f.bxw j.f.n j.f.k kb l
  | none => c

/-- Do the shadow registers hold what a WPRE has loaded for the first pass, just as the load would bring it? A preload never changes a value
(R159). -/
def preloaded (c : Core) (base : Nat) (j : MmaJob) : Bool :=
  j.pre && decide ((loadPass c base j j.pIx).arrays.map (·.shadow) = c.arrays.map (·.shadow))

/-- A pass starts: its blocks have been loaded, and the two register sets of its arrays exchange roles (R134). -/
def startPass (c : Core) (j : MmaJob) : Core :=
  match (j.plan[j.pIx]?).bind (passBlocks j) with
  | some (_, l) => modArrs c l (fun _ a => { a with idle := false, wreg := a.shadow, shadow := a.wreg })
  | none => c

/-- Feed one pass: the products of A's rows with the weight registers enter the tiles (R134, R149). -/
def feed (c : Core) (base : Nat) (j : MmaJob) (kb : Nat) (first : Bool) (ts : List Tile) : Core :=
  ts.foldl (fun c t =>
    let b : WBlock := match toFin 4 t.arr with | none => ⟨[], []⟩ | some k => (c.arrays[k]).wreg
    modHalf c t.arr t.half (fun h =>
      let h := passTile c base j b t.mg kb t.nb h
      if first then countTerms j.f h else h)) c

/-- The passes of an output group in a plan, from the group's drain backwards. -/
def groupPasses (plan : List FoldStep) (mg : Nat) (blocks : List Nat) : List Nat :=
  plan.filterMap (fun st => match st with | .pass g kb bs => if g = mg ∧ bs = blocks then some kb else none | _ => none)

/-- Insert the duplicate passes of a sampled group after its drain (R332). -/
def insertDups (plan : List FoldStep) (mg : Nat) (blocks : List Nat) : List FoldStep :=
  let kbs := groupPasses plan mg blocks
  plan.flatMap (fun st =>
    match st with
    | .drain g bs => if g = mg ∧ bs = blocks then st :: (kbs.zipIdx.map (fun (kb, q) => .dup mg kb blocks (decide (q + 1 = kbs.length)))) else [st]
    | st => [st])

/-- Number of output groups before a place of the plan. -/
def groupNo (plan : List FoldStep) (k : Nat) : Nat := groupsIn (plan.take k)

/-- Does a core hold a kept output in some half (R331)? -/
def keptHeld (c : Core) : Bool := (ixs 4).any (fun k => (c.arrays[k]).half1.st == .kept)

/-- Arrays of a core as units. -/
def jobUnits (n : CoreIx) (j : MmaJob) : List Nat := j.arrays.map (arrayUnit n)

/-- The sampling decision of the output group of N-blocks `blocks` that stands at a place of the plan, as its first pass begins, or its
drain where it has none (R330, R331). -/
def sampleGroup (s : State) (n : CoreIx) (p : PartIx) (j : MmaJob) (ix : Nat) (blocks : List Nat) : State × Bool :=
  let c := s.cores[n]
  if onKept j.f || keptHeld c || decide (j.arrays.length < 2) then (ineligible s p, false)
  else
    let origs := (jobUnits n j).take blocks.length
    (s, sampled s p 1 n.val (j.ord + groupNo j.plan ix) origs)

/-- Put an MMA's changed job back into the matrix queue. -/
def setJob (c : Core) (k : Nat) (j : MmaJob) : Core :=
  { c with mq := c.mq.modify k (fun e => { e with kind := .mma j }) }

/-- Has an MMA no pass at all, so that it only opens and keeps its tile: every stored row of A is masked (R146, R154)? -/
def opensOnly (j : MmaJob) : Bool := j.f.drain == .keep && !j.f.accIn && decide (nextPass j.plan 0 = j.plan.length) && j.placed.isEmpty

/-- Has a queue entry a load or a feed left, or a tile to open (R152)? -/
def loadsLeft (e : MEntry) : Bool :=
  match e.kind with
  | .mma j => decide (j.pIx < j.plan.length) || opensOnly j
  | .wpre _ _ done => !done
  | .release .. => false

/-- The place in the matrix queue of the entry whose turn it is to load and feed, with the entry (R152). -/
def passTurn (c : Core) : Option (Nat × MEntry) :=
  match c.mq.findIdx? loadsLeft with
  | none => none
  | some k => (c.mq[k]?).map (fun e => (k, e))

/-- The MMA whose turn it is, if it has a pass left (R152). -/
def passEntry (c : Core) : Option (Nat × MEntry × MmaJob) :=
  match passTurn c with
  | some (k, e) => (match e.kind with | .mma j => if j.pIx < j.plan.length then some (k, e, j) else none | _ => none)
  | none => none

/-- Physical base of the footprint of a context. -/
def baseOf (c : Core) (i : CtxIx) : Nat := match boundOf c i with | some b => b.base | none => 0

/-- Operand lines of a job: A and W. -/
def jobLines (base : Nat) (j : MmaJob) : (Nat × Nat) × (Nat × Nat) :=
  let ws := wShape j.f.df j.f.n j.f.k
  (opLines base j.a (aRows j.f) (rowBytes j.f.fmtA j.f.bxa (aCols j.f)), opLines base j.w ws.1 (rowBytes j.f.fmtW j.f.bxw ws.2))

/-- The pins of a job's lines of W end, if they last, with its release flag (R163). -/
def unpinW (c : Core) (base : Nat) (j : MmaJob) (rw : Bool) : Core :=
  if j.wPin then unpinLines c (jobLines base j).2.1 (jobLines base j).2.2 rw else c

/-- The pins of a job's operand lines end, with its release flags (R163). -/
def unpinJob (c : Core) (base : Nat) (j : MmaJob) (ra rw : Bool) : Core :=
  unpinW (unpinLines c (jobLines base j).1.1 (jobLines base j).1.2 ra) base j rw

/-- Is an item one of the output groups of a job on a core? -/
def itemOf (n : CoreIx) (j : MmaJob) (i : SedItem) : Bool :=
  i.kind == 1 && i.place == n.val && decide (j.ord ≤ i.ordinal ∧ i.ordinal < j.ord + groupsIn j.plan)

/-- Does an item hold matrix halves of a core? -/
def holdsOn (n : CoreIx) (i : SedItem) : Bool := decide (i.kind ≤ 2) && i.place == n.val

/-- Clear and release every half that a job has written and that still holds its terms, those that a comparison holds too, and take the
job off the queue (R169). -/
def dropJob (s : State) (n : CoreIx) (k : Nat) (e : MEntry) (j : MmaJob) : State :=
  let hs := (j.placed ++ j.held ++ j.dups).map (fun t => (t.arr, t.half)) ++ (s.sed.items.filter (itemOf n j)).flatMap (·.halves)
  let s := modSed s (fun x =>
    { x with items := x.items.map (fun i => if holdsOn n i then { i with halves := i.halves.filter (fun h => !hs.contains h) } else i) })
  modCore s n (fun c =>
    let c := hs.foldl (fun c t => modHalf c t.1 t.2 (fun _ => Half.reset)) c
    let c := if j.pIx < j.plan.length then unpinJob c (baseOf c e.ctx) j false false else c
    { c with mq := c.mq.eraseIdx k })

/-- Is a fault one that the arrays report: parity of the weight registers is checked only while WREG_PARITY is 1 (R168)? -/
def reportsFault (c : Core) (f : EngFault) : Bool :=
  f.cause != 1 || (match toFin 4 f.unit with | some a => (c.arrays[a]).regs.parity | none => true)

/-- A matrix engine fault: the error bit of the array, the MMA's halves cleared, the MMA gone from the queue, ENGINE_FAULT in its
context (R168, R169, table MA-8). -/
def matrixFault (s : State) (n : CoreIx) (k : Nat) (e : MEntry) (j : MmaJob) (f : EngFault) : State :=
  let s := modCore (dropJob s n k e j) n (fun c =>
    match toFin 4 f.unit with
    | none => c
    | some a => modArr c a (fun a => { a with regs := { a.regs with parityErr := a.regs.parityErr || f.cause == 1, uncorr := a.regs.uncorr || f.cause == 2 } }))
  engineFault s n e.ctx e.pc 1 f

/-- A corrected accumulator bank error of an array (R168). -/
def matrixCorr (s : State) (n : CoreIx) (corr : Option (Fin 4)) : State :=
  match corr with
  | none => s
  | some a => modCore s n (fun c => modArr c a (fun a => { a with regs := { a.regs with corr := true, corrCount := satAdd a.regs.corrCount 1 0xFFFF } }))

/-! ### Completion (R152, R153, R157, R159) -/

/-- Does a tile of a DRAIN 0 MMA of a context at a place of the queue stay as the kept output: the context still holds it, or a later
entry of the context continues or releases it (R154, R156, R157)? -/
def keepsTile (c : Core) (k : Nat) (i : CtxIx) : Bool :=
  keptBy c i || (c.mq.drop (k + 1)).any (fun e =>
    decide (e.ctx = i) && (match e.kind with | .mma j => j.f.accIn | .release _ holds => holds | .wpre .. => false))

/-- The half of a kept tile once the last term has entered it: kept, or cleared where a partition stop has discarded it (R157). -/
def keptTile (keep : Bool) (i : CtxIx) (h : Half) : Half := if keep then { h with st := .kept, owner := some i } else Half.reset

/-- An MMA without a pass whose turn it is opens its tile, clear, once half 1 is free (R151, R154). -/
def openOnly (c : Core) : Core :=
  match passTurn c with
  | none => c
  | some (k, e) =>
    match e.kind with
    | .mma j =>
      let arr := j.arrays.headD 0
      if opensOnly j && (match toFin 4 arr with | some a => (c.arrays[a]).half1.st == .free | none => false) then
        setJob (modHalf c arr 1 (fun _ => keptTile (keepsTile c k e.ctx) e.ctx Half.reset)) k { j with placed := [⟨0, 0, arr, 1⟩] }
      else c
    | _ => c

/-- Has a queue entry done all its work: every original pass and every drain of an MMA, its duplicate passes apart (R153)? -/
def entryDone (e : MEntry) : Bool :=
  match e.kind with
  | .mma j =>
    decide (j.plan.length ≤ j.dIx) && !opensOnly j && !((j.plan.drop j.pIx).any (fun st => match st with | .pass .. => true | _ => false))
  | .wpre _ _ done => done
  | .release .. => true

/-- Does a queue entry still feed duplicate passes (R332)? -/
def dupsLeft (e : MEntry) : Bool := match e.kind with | .mma j => decide (j.pIx < j.plan.length) | _ => false

/-- Release the kept output's half (R157). -/
def freeKeptHalf (c : Core) : Core :=
  { c with arrays := c.arrays.map (fun a => if a.half1.st = .kept then { a with half1 := Half.reset } else a) }

/-- Complete the head, whose work is done: its counter is incremented, once, and it leaves the queue, or stays while duplicate passes are left (R90,
R153, R332). An MMA that continues a kept output, drains it and has no row to drain releases it (R146, R156); the output groups without a pass of a
DRAIN 0 MMA count as never sampled (R331). -/
def completeHead (s : State) (n : CoreIx) : State :=
  match (s.cores[n]).mq with
  | [] => s
  | e :: rest =>
    let s := modCore s n (fun c => if dupsLeft e then markCounted c else { c with mq := rest })
    match e.kind with
    | .mma j =>
      if j.counted then s else
      let s := if j.f.accIn ∧ j.f.drain ≠ .keep ∧ j.plan.isEmpty then modCore s n freeKeptHalf else s
      let s := match boundOf s.cores[n] e.ctx with
        | some b => if j.f.drain = .keep ∧ nextPass j.plan 0 = j.plan.length then each j.plan s (fun s _ => ineligible s b.part) else s
        | none => s
      incCnt s n e.ctx j.f.cnt
    | .wpre f _ _ => incCnt s n e.ctx f.cnt
    | .release cnt holds => incCnt (if holds then modCore s n freeKeptHalf else s) n e.ctx cnt
where
  /-- The head's counter has been incremented. -/
  markCounted (c : Core) : Core :=
    { c with mq := c.mq.modify 0 (fun e => match e.kind with | .mma j => { e with kind := .mma { j with counted := true } } | _ => e) }

/-- Complete the heads of the matrix queue in queue order, at most `k` of them (R152). -/
def completeHeads : Nat → CoreIx → State → State
  | 0, _, s => s
  | k + 1, n, s =>
    let s := modCore s n openOnly
    match (s.cores[n]).mq.head? with
    | none => s
    | some e => if !entryDone e then s else if dupsLeft e then completeHead s n else completeHeads k n (completeHead s n)

/-- The matrix queue of a core goes on: complete heads leave, and waiting contexts wake (R71, R152). -/
def settleMq (s : State) (n : CoreIx) : State := wake (completeHeads 8 n s) n

/-- The stored rows of A and W that an output group reads, as the bytes at their places in the core store, kept for a vote on the group (R340, R341). -/
def groupOperands (c : Core) (j : MmaJob) (base mg : Nat) : List (Nat × List Byte) :=
  let f := j.f
  let (lo, hi) := if f.df = .weightGrad then (0, f.k) else (128 * mg, min f.m (128 * mg + 128))
  let shape := wShape f.df f.n f.k
  let rowsOf := fun (w : Word) (lo hi rb : Nat) => (rowAt base w lo, readStore c (rowAt base w lo) ((hi - lo - 1) * opPitch w + rb))
  [rowsOf j.a lo hi (rowBytes f.fmtA f.bxa (aCols f)), rowsOf j.w 0 shape.1 (rowBytes f.fmtW f.bxw shape.2)]

/-- The item of a sampled output group, once its last duplicate pass has run (R332). -/
def groupItem (s : State) (n : CoreIx) (p : PartIx) (j : MmaJob) (base mg : Nat) (blocks : List Nat) (ts : List Tile) (ordinal : Nat) : State :=
  let q := s.parts[p]
  let work : Work := .matrix j.f j.a j.w base j.live mg blocks (groupOperands s.cores[n] j base mg)
  addItem s ⟨1, p, n.val, ordinal, q.stepNo, q.attempt, (List.range blocks.length).map (trio (jobUnits n j)), ts.map (fun t => (t.arr, t.half)), [], work, none⟩

/-- Products that a pass adds up: live rows of the row group, columns of its tiles, live places of the k-block (R147, R148). -/
def passMacs (j : MmaJob) (mg kb : Nat) (blocks : List Nat) : Nat :=
  let within := fun (size i : Nat) => min 128 (size - 128 * i)
  let rows := if j.f.df = .weightGrad then within j.f.m mg else ((List.range (within j.f.m mg)).filter (fun r => isLive j (128 * mg + r))).length
  let ks := if j.f.df = .weightGrad then ((List.range (within j.f.k kb)).filter (fun k => isLive j (128 * kb + k))).length else within j.f.k kb
  rows * ks * (blocks.map (within j.f.n)).sum

/-- Will duplicates follow the pass at which a job stands: it is the first of an output group that is sampled (R330, R332)? -/
def dupsFollow (s : State) (n : CoreIx) (p : PartIx) (j : MmaJob) : Bool :=
  match j.plan[j.pIx]? with
  | some (.pass mg kb blocks) => decide ((groupPasses j.plan mg blocks).head? = some kb) && (sampleGroup s n p j j.pIx blocks).2
  | _ => false

/-- The load of the pass at which a job stands, unless its blocks are there; the last load of the job ends the pins of W (R134, R159, R163,
R165). -/
def loadNext (s : State) (n : CoreIx) (k : Nat) (p : PartIx) (base : Nat) (j : MmaJob) : State × MmaJob :=
  if j.ahead || decide (j.plan.length ≤ j.pIx) then (s, j)
  else
    let c := s.cores[n]
    let c := if preloaded c base j then c else loadPass c base j j.pIx
    let last := decide (nextPass j.plan (j.pIx + 1) = j.plan.length) && !dupsFollow s n p j
    let j' : MmaJob := { j with pre := false, ahead := true, wPin := j.wPin && !last }
    (modCore s n (fun _ => setJob (if last then unpinW c base j j.f.relW else c) k j'), j')

/-- Run one pass of a job that stands at a place of the queue: load its blocks, open its tiles, feed them, go to the next pass, whose blocks load
meanwhile; the lines of A are released after the last feed (R151, R163, R165). While a half is not free the pass is held back once its blocks are
loaded. -/
def onePass (s : State) (n : CoreIx) (k : Nat) (e : MEntry) (j : MmaJob) (p : PartIx) : State :=
  let base := baseOf s.cores[n] e.ctx
  let (s, j) := loadNext s n k p base j
  let c := s.cores[n]
  match j.plan[j.pIx]? with
  | some (.pass mg kb blocks) =>
    let first := decide ((groupPasses j.plan mg blocks).head? = some kb)
    let (s1, pick) := if first then sampleGroup s n p j j.pIx blocks else (s, false)
    match openTiles (startPass c j) j false mg (if pick then 1 else 0) blocks.zipIdx with
    | none => s
    | some (c, j, ts) =>
      let s1 := countG (countP s1 p 3 (passMacs j mg kb blocks)) 2 (passMacs j mg kb blocks)
      let c := feed c base j kb first ts
      let last := decide ((groupPasses j.plan mg blocks).getLast? = some kb)
      let c := if last then ts.foldl (fun c t => modHalf c t.arr t.half (fun h =>
        if j.f.drain = .keep then keptTile (keepsTile c k e.ctx) e.ctx h else { h with st := .draining })) c else c
      let plan := if pick then insertDups j.plan mg blocks else j.plan
      finish { s1 with cores := s1.cores.set n.val c n.isLt } { j with plan := plan, pIx := nextPass plan (j.pIx + 1) } base
  | some (.dup mg kb blocks last) =>
    let first := decide ((groupPasses j.plan mg blocks).head? = some kb)
    match openTiles (startPass c j) j true mg 1 blocks.zipIdx with
    | none => s
    | some (c, j, ts) =>
      let c := feed c base j kb first ts
      let s := modCore (countG s 2 (passMacs j mg kb blocks)) n (fun _ => c)
      let mine := fun (t : Tile) => decide (t.mg = mg) && blocks.contains t.nb
      let j' : MmaJob := { j with pIx := nextPass j.plan (j.pIx + 1) }
      if last then
        let first := fun (l : List Tile) => blocks.filterMap (fun b => l.find? (fun t => decide (t.mg = mg ∧ t.nb = b)))
        let s := groupItem s n p j base mg blocks (first (j.placed ++ j.held) ++ first j.dups) (j.ord + groupNo j.plan j.pIx - 1)
        finish s { j' with held := j.held.filter (fun t => !mine t), dups := j.dups.filter (fun t => !mine t) } base
      else finish s j' base
  | _ => s
where
  /-- The job goes to its next pass, whose blocks load meanwhile (R134, R165). -/
  finish (s : State) (j : MmaJob) (base : Nat) : State :=
    let j : MmaJob := { j with ahead := false }
    if j.pIx < j.plan.length then (loadNext (modCore s n (fun c => setJob c k j)) n k p base j).1
    else modCore s n (fun c => setJob (unpinJob c base j j.f.relA j.f.relW) k { j with wPin := false })

/-- MATRIX_PASS: the arrays load and feed the next pass of the first MMA in the queue that has one (R149, R152, R165); `fault` is
a hardware fault met in it, `corr` a corrected bank error on an array. -/
def execMatrixPass (n : CoreIx) (fault : Option EngFault) (corr : Option (Fin 4)) (s : State) : Res :=
  if asleep s (coreDom n) then .next s else
  let s := matrixCorr s n corr
  match passEntry s.cores[n] with
  | none => .next (settleMq s n)
  | some (k, e, j) =>
    match fault.filter (reportsFault s.cores[n]) with
    | some f => .next (settleMq (matrixFault s n k e j f) n)
    | none =>
      match boundOf s.cores[n] e.ctx with
      | none => .next s
      | some b => .next (settleMq (onePass s n k e j b.part) n)

/-! ### Drains (R122, R150, R152, R164, R192, R193) -/

/-- The half that holds a tile that drains, if some pass has opened it; in the weight-gradient dataflow a group without passes
drains clear tiles (R149), from the kept output where the MMA continues it. -/
def tileHalf (j : MmaJob) (mg nb : Nat) : Option (Nat × Nat) :=
  match j.placed.find? (fun t => decide (t.mg = mg ∧ t.nb = nb)) with
  | some t => some (t.arr, t.half)
  | none => if j.f.accIn then some (j.arrays.headD 0, 1) else none

/-- The entries of a tile. -/
def tileAcc (c : Core) (h : Option (Nat × Nat)) : Tbl AccE :=
  match h with
  | none => []
  | some (arr, half) => match toFin 4 arr with | none => [] | some k => (halfOf c.arrays[k] half).acc

/-- The rows of a tile that drain: within M and not left out by the mask (R146 to R148). -/
def drainRows (j : MmaJob) (mg : Nat) : List Nat :=
  ((List.range 128).map (128 * mg + ·)).filter (fun m => decide (m < j.f.m) && (j.f.df == .weightGrad || isLive j m))

/-- The columns of a tile within N. -/
def drainCols (j : MmaJob) (nb : Nat) : List Nat := ((List.range 128).map (128 * nb + ·)).filter (fun n => decide (n < j.f.n))

/-- The entry of an output element in its tile. -/
def entryAt (acc : Tbl AccE) (m n : Nat) : AccE := tget AccE.clear acc (128 * (m % 128) + n % 128)

/-- Are the lines present that a chain reads for one tile (R192)? -/
def tileLines (c : Core) (base : Nat) (ch : Chain) (b : Vector Word 8) (out : Word) (rows cols : Nat) (ms : List Nat) (nb : Nat) : Bool :=
  (tileRanges base ch b out rows cols ms nb).all (fun l => (List.range (l.2 - l.1)).all (fun q => linePresent c (l.1 + q)))

/-- An output group without a pass is sampled as its drain begins: there is nothing to feed again, and no half is held (R149, R330 to
R332). -/
def sampleClear (s : State) (n : CoreIx) (p : PartIx) (j : MmaJob) (base : Nat) : State :=
  match j.plan[j.dIx]? with
  | some (.drain mg blocks) =>
    if j.tIx = 0 ∧ (groupPasses j.plan mg blocks).isEmpty then
      let (s, pick) := sampleGroup s n p j j.dIx blocks
      if pick then groupItem s n p j base mg blocks [] (j.ord + groupNo j.plan j.dIx) else s
    else s
  | _ => s

/-- The tile has drained: its half is freed, or waits for the comparison that still holds it (R151, R332); then the next tile, and
after the last tile of the last drain of a DIRECT MMA the reductions are written (R186). A drain ends the idleness of its array (R165). -/
def tileDrained (s : State) (n : CoreIx) (p : PartIx) (bk : Fin 2) (base : Nat) (j : MmaJob) (h : Option (Nat × Nat)) (ntiles : Nat) : State :=
  modCore (sampleClear s n p j base) n (fun c =>
    let arr := match h with | some (arr, _) => arr | none => j.arrays.getD j.tIx 0
    let c := modArrs c [(0, arr)] (fun _ a => { a with idle := false })
    let c := match h with
      | none => c
      | some (arr, half) => modHalf c arr half (fun x => if x.hold = 0 then Half.reset else { x with idle := true })
    let lastTile := decide (j.tIx + 1 = ntiles)
    let gone := fun (t : Tile) => some (t.arr, t.half) == h
    let again := fun (t : Tile) => (j.plan.drop j.pIx).any (fun st => match st with | .dup g _ bs _ => g == t.mg && bs.contains t.nb | _ => false)
    let j : MmaJob := { j with placed := j.placed.filter (fun t => !gone t), held := j.held ++ j.placed.filter (fun t => gone t && again t) }
    let j : MmaJob := { j with tiles := j.tiles + 1, tIx := if lastTile then 0 else j.tIx + 1, dIx := if lastTile then nextDrain j.plan (j.dIx + 1) else j.dIx }
    let c := if j.dIx = j.plan.length ∧ j.f.drain = .direct then finishReds bk j.chain j.reds c else c
    setJob c 0 j)

/-- Write a tile of raw records (R123, R142). -/
def rawTile (c : Core) (base : Nat) (j : MmaJob) (acc : Tbl AccE) (ms ns : List Nat) : Core :=
  ms.foldl (fun c m => ns.foldl (fun c q => writeStore c (rowAt base j.out m + 16 * q) (rawRecord (entryAt acc m q))) c) c

/-- Write a tile into the tail slot of a flume (R193). -/
def flumeTile (c : Core) (bk : Fin 2) (b : Bound) (lc : LCoreE) (e : MEntry) (j : MmaJob) (mg nb : Nat) (acc : Tbl AccE) : Core :=
  let q := c.banks[bk]
  let ms := drainRows j mg
  let ns := drainCols j nb
  let slot := q.next % max 1 lc.flumeDepth
  let at0 := b.base + lc.flumeOffset + 65536 * slot
  let c := ms.foldl (fun c m => ns.foldl (fun c k => writeStore c (at0 + 512 * (m % 128) + 4 * (k % 128)) (leBytes 4 (drainVal (entryAt acc m k)).toNat)) c) c
  let f : FSlot := ⟨slot, j.f.m, j.f.n, mg, nb, ms, j.f.chain.val, j.out, e.ctx⟩
  { c with banks := c.banks.set bk.val { c.banks[bk] with flume := q.flume ++ [f], next := q.next + 1, waiting := [] } bk.isLt }

/-- Does a sampled vector tile whose comparison has not settled still pin lines in [lo, hi) of a core (R333)? -/
def tilePinned (s : State) (n : CoreIx) (lo hi : Nat) : Bool :=
  s.sed.items.any (fun i => decide (i.kind = 2 ∧ i.place = n.val) && i.pins.any (fun l => decide (l.1 < hi ∧ lo < l.2)))

/-- Is the tail slot of a flume free: not all are full, and no sampled tile that came from it waits for its comparison (R193, R333; log entry
253)? -/
def flumeRoom (s : State) (n : CoreIx) (bk : Fin 2) (b : Bound) (lc : LCoreE) : Bool :=
  let q := (s.cores[n]).banks[bk]
  let at0 := lc.flumeOffset + 65536 * (q.next % max 1 lc.flumeDepth)
  let ls := extentLines b.base at0 (at0 + 65536)
  decide (q.flume.length < lc.flumeDepth) && !tilePinned s n ls.1 ls.2

/-- The drain that the head of the matrix queue stands at: its entry, job, row group and N-block, and the number of tiles of the
drain; none while a pass of the group is still to run (R152, R165). -/
def drainHead (c : Core) : Option (MEntry × MmaJob × Nat × Nat × Nat) :=
  match c.mq with
  | [] => none
  | e :: _ =>
    match e.kind with
    | .mma j =>
      if j.pIx < j.dIx then none
      else
        match j.plan[j.dIx]? with
        | some (.drain mg blocks) => some (e, j, mg, blocks.getD j.tIx 0, blocks.length)
        | _ => none
    | _ => none

/-- The flume path of a drain: into the tail slot, or waiting while all slots are full (R193). -/
def flumeDrain (s : State) (n : CoreIx) (b : Bound) (lc : LCoreE) (e : MEntry) (j : MmaJob) (mg nb nt : Nat) : State :=
  let c := s.cores[n]
  let bk := bankOf c e.ctx
  let h := tileHalf j mg nb
  if flumeRoom s n bk b lc then tileDrained (modCore s n (fun c => flumeTile c bk b lc e j mg nb (tileAcc c h))) n b.part bk b.base j h nt
  else
    modBank s n bk (fun q => { q with waiting := [(⟨0, j.f.m, j.f.n, mg, nb, drainRows j mg, j.f.chain.val, j.out, e.ctx⟩, [])] })

/-- MATRIX_DRAIN: the next output tile leaves, through its chain, into the flume or as raw records (R122, R164, R192, R193). -/
def execMatrixDrain (n : CoreIx) (fault : Option (Engine × EngFault)) (corr : Option (Fin 4)) (s : State) : Res :=
  if asleep s (coreDom n) then .next s else
  let s := matrixCorr s n corr
  let c := s.cores[n]
  match drainHead c with
  | none => .next (settleMq s n)
  | some (e, j, mg, nb, nt) =>
    match fault.filter (fun x => if x.1 = .matrix then reportsFault c x.2 else laneReports c x.2) with
    | some (.matrix, f) => .next (settleMq (matrixFault s n 0 e j f) n)
    | some (_, f) => .next (settleMq (vectorFault (dropJob s n 0 e j) n e.ctx e.pc f) n)
    | none =>
      match boundOf c e.ctx with
      | none => .next s
      | some b =>
        match lcoreE s b.part b.lcore with
        | none => .next s
        | some lc =>
          let bk := bankOf c e.ctx
          let h := tileHalf j mg nb
          let acc := tileAcc c h
          let ms := drainRows j mg
          let ns := drainCols j nb
          match j.f.drain with
          | .keep => .next s
          | .raw => .next (settleMq (tileDrained (modCore s n (fun c => rawTile c b.base j acc ms ns)) n b.part bk b.base j h nt) n)
          | .flume => .next (settleMq (flumeDrain s n b lc e j mg nb nt) n)
          | .direct =>
            if !tileLines c b.base j.chain j.slots j.out j.f.m j.f.n ms nb then .next s
            else
              let env : ChEnv := ⟨s, b.part, bk, b.base, j.slots, j.out, j.f.m, j.f.n, j.tiles⟩
              let rows := ms.map (fun m => (m, ns.map (fun k => (k, drainVal (entryAt acc m k)))))
              let pins := tileRanges b.base j.chain j.slots j.out j.f.m j.f.n ms nb
              let (s, picked) := sampleTile s n b.part h.toList pins (tileWork env c j.chain rows)
              let s := modCore s n (fun c =>
                match h with
                | some (arr, half) => if picked then modHalf c arr half (fun x => { x with hold := x.hold + 1 }) else c
                | none => c)
              let q := runTile env j.chain ⟨s.cores[n], [], j.reds⟩ rows
              .next (settleMq (tileDrained (chainDone s n b.part q) n b.part bk b.base { j with reds := q.reds } h nt) n)

/-- FLUME_TILE_WRITE: a drained tile that waited for a slot is written once one is free (R193). -/
def execFlumeTileWrite (n : CoreIx) (bank : Fin 2) (s : State) : Res :=
  if asleep s (coreDom n) then .next s else
  let c := s.cores[n]
  match drainHead c with
  | none => .next s
  | some (e, j, mg, nb, nt) =>
    match boundOf c e.ctx with
    | none => .next s
    | some b =>
      match lcoreE s b.part b.lcore with
      | none => .next s
      | some lc =>
        if bankOf c e.ctx ≠ bank ∨ (c.banks[bank]).waiting.isEmpty ∨ !flumeRoom s n bank b lc then .next s
        else .next (settleMq (flumeDrain s n b lc e j mg nb nt) n)

/-- The arrays whose shadow registers a WPRE loads: those of the first pass (R149, R159). -/
def wpreArrays (c : Core) (f : WpreF) : List Nat := (arraysOf c).take (ceilDiv f.n 128)

/-- WPRE_COMPLETE: the shadow registers hold the blocks of the first pass, once the last load of the entries before it has
finished (R159). DESIGN CHOICE (log entry 229): R168 speaks of the context that issued the MMA alone, and the load of a WPRE meets no fault. -/
def execWpreComplete (n : CoreIx) (s : State) : Res :=
  if asleep s (coreDom n) then .next s else
  let c := s.cores[n]
  match c.mq.findIdx? (fun e => match e.kind with | .wpre _ _ done => !done | _ => false) with
  | none => .next s
  | some k =>
    let before := decide ((passTurn c).map (·.1) = some k)
    match c.mq[k]?, before with
    | some ⟨i, pc, .wpre f w _⟩, true =>
      let base := baseOf c i
      let ws := wShape f.df f.n f.k
      let l := opLines base w ws.1 (rowBytes f.fmtW f.bxw ws.2)
      .next (settleMq (modCore s n (fun c =>
        let c := loadShadow c base w f.df f.fmtW f.bxw f.n f.k 0 ((wpreArrays c f).zipIdx.map (fun (a, nb) => (nb, a)))
        let c := unpinLines c l.1 l.2 false
        { c with mq := c.mq.modify k (fun e => { e with kind := .wpre f w true }) })) n)
    | _, _ => .next s

/-- ARRAY_IDLE: the array has done nothing for 1,024 core cycles, so the next first feed ramps (R165). -/
def execArrayIdle (n : CoreIx) (a : Fin 4) (s : State) : Res :=
  if asleep s (coreDom n) then .next s else
  .next (modCore s n (fun c => modArr c a (fun x => { x with idle := true })))

end Sys2Proof.Machine
end

