-- ==== Sys2Proof/Machine/Encode.lean ====
section
/-! DEFINITION. The words of an instruction (R74 to R77, R89, R137 to R139, R198, R209; tables CC-3 to CC-9, CC-11, MA-1, MA-2, VE-8,
ST-1): the command that a code word spells for the core that fetches it, and the words that an instruction has. The command carries
what the words say; whether the word that a LOAD reads turns out uncorrectable stands in no word. -/

namespace Sys2Proof.Machine

/-! ### Fields of word 0 and word 1 -/

/-- A register field of six bits. -/
def regField (w : Word) (lo : Nat) : Reg := ⟨wfield w (lo + 5) lo % 64, by omega⟩

/-- A predicate field of four bits. -/
def predField (w : Word) (lo : Nat) : Pred := ⟨wfield w (lo + 3) lo % 16, by omega⟩

/-- GUARD and GNEG (R75). -/
def guardField (w : Word) : Guard := ⟨predField w 54, wbit w 53⟩

/-- SD, or ST of format M. -/
def sdField (w : Word) : Reg := regField w 39

/-- SA. -/
def saField (w : Word) : Reg := regField w 33

/-- SB of format R. -/
def sbField (w : Word) : Reg := regField w 27

/-- SC of format R. -/
def scField (w : Word) : Reg := regField w 21

/-- IMM32 or OFF32. -/
def immField (w : Word) : W32 := BitVec.ofNat 32 (wfield w 31 0)

/-- The counter index [41:39] of format S. -/
def cntField (w : Word) : Cnt := ⟨wfield w 41 39 % 8, by omega⟩

/-- CNT_EN and CNT of word 1 of an engine instruction. -/
def engCnt (v : Word) : Option Cnt := if wbit v 21 then some ⟨wfield v 20 18 % 8, by omega⟩ else none

/-- SPACE of format M (table CC-10); 3 is no space. -/
def spaceOf : Nat → Space
  | 0 => .store
  | 1 => .hall
  | _ => .hbm

/-- DF of table MA-4. -/
def dfOf : Nat → Dataflow
  | 0 => .forward
  | 1 => .dataGrad
  | _ => .weightGrad

/-- DRAIN of table MA-2. -/
def drainOf : Nat → DrainMode
  | 0 => .keep
  | 1 => .direct
  | 2 => .flume
  | _ => .raw

/-- MASK_MODE of R145. -/
def maskOf : Nat → MaskMode
  | 0 => .none
  | 1 => .upTo
  | _ => .bitmap

/-- A format field. -/
def fmtField (w : Word) (lo : Nat) : Fmt := (fmtOf (wfield w (lo + 3) lo)).getD .fp32

/-! ### Reading an instruction -/

/-- The instruction of a valid 64-bit word, for the core that issues it (tables CC-6 to CC-9, CC-11). -/
def decodeShort (n : CoreIx) (w : Word) : Option Instr :=
  let g := guardField w
  let sd := sdField w
  let sa := saField w
  let sb := sbField w
  let sc := scField w
  let imm := immField w
  let pd := predField w 41
  let op := if wbit w 32 then Op2.imm imm else Op2.reg (regField w 26)
  let pa := predField w 35
  let pb := predField w 31
  match insMajor w, insMinor w with
  | 0x00, 0 => some (.nop n g)
  | 0x00, 1 => some (.yield n g)
  | 0x00, 2 => some (.stepend n g)
  | 0x00, 3 => some (.fence n g ⟨wfield w 2 0 % 8, by omega⟩)
  | 0x00, 4 => some (.trap n g (BitVec.ofNat 16 (wfield w 15 0)))
  | 0x01, 0 => some (.add n g sd sa (.reg sb))
  | 0x01, 1 => some (.sub n g sd sa (.reg sb))
  | 0x01, 2 => some (.and n g sd sa (.reg sb))
  | 0x01, 3 => some (.or n g sd sa (.reg sb))
  | 0x01, 4 => some (.xor n g sd sa (.reg sb))
  | 0x01, 5 => some (.shl n g sd sa (.reg sb))
  | 0x01, 6 => some (.shr n g sd sa (.reg sb))
  | 0x01, 7 => some (.sar n g sd sa (.reg sb))
  | 0x01, 8 => some (.min n g sd sa (.reg sb))
  | 0x01, 9 => some (.max n g sd sa (.reg sb))
  | 0x01, 10 => some (.minu n g sd sa (.reg sb))
  | 0x01, 11 => some (.maxu n g sd sa (.reg sb))
  | 0x01, 12 => some (.sel n g sd sa sb (predField w 21))
  | 0x01, 13 => some (.clz n g sd sa)
  | 0x01, 14 => some (.popc n g sd sa)
  | 0x02, 0 => some (.add n g sd sa (.imm imm))
  | 0x02, 1 => some (.sub n g sd sa (.imm imm))
  | 0x02, 2 => some (.and n g sd sa (.imm imm))
  | 0x02, 3 => some (.or n g sd sa (.imm imm))
  | 0x02, 4 => some (.xor n g sd sa (.imm imm))
  | 0x02, 5 => some (.shl n g sd sa (.imm imm))
  | 0x02, 6 => some (.shr n g sd sa (.imm imm))
  | 0x02, 7 => some (.sar n g sd sa (.imm imm))
  | 0x02, 8 => some (.min n g sd sa (.imm imm))
  | 0x02, 9 => some (.max n g sd sa (.imm imm))
  | 0x02, 10 => some (.minu n g sd sa (.imm imm))
  | 0x02, 11 => some (.maxu n g sd sa (.imm imm))
  | 0x03, 0 => some (.mul n g sd sa sb)
  | 0x03, 1 => some (.mulhu n g sd sa sb)
  | 0x03, 2 => some (.mulh n g sd sa sb)
  | 0x03, 3 => some (.madd n g sd sa sb sc)
  | 0x03, 4 => some (.divu n g sd sa sb)
  | 0x03, 5 => some (.div n g sd sa sb)
  | 0x03, 6 => some (.remu n g sd sa sb)
  | 0x03, 7 => some (.rem n g sd sa sb)
  | 0x04, 0 => some (.fadd n g sd sa sb)
  | 0x04, 1 => some (.fsub n g sd sa sb)
  | 0x04, 2 => some (.fmul n g sd sa sb)
  | 0x04, 3 => some (.ffma n g sd sa sb sc)
  | 0x04, 4 => some (.fmin n g sd sa sb)
  | 0x04, 5 => some (.fmax n g sd sa sb)
  | 0x04, 6 => some (.fcvtif n g sd sa)
  | 0x04, 7 => some (.fcvtfi n g sd sa)
  | 0x05, 0 => some (.eq n g pd sa op)
  | 0x05, 1 => some (.ne n g pd sa op)
  | 0x05, 2 => some (.lt n g pd sa op)
  | 0x05, 3 => some (.ge n g pd sa op)
  | 0x05, 4 => some (.ltu n g pd sa op)
  | 0x05, 5 => some (.geu n g pd sa op)
  | 0x05, 6 => some (.flt n g pd sa (regField w 26))
  | 0x05, 7 => some (.feq n g pd sa (regField w 26))
  | 0x05, 8 => some (.pand n g pd pa pb)
  | 0x05, 9 => some (.por n g pd pa pb)
  | 0x05, 10 => some (.pxor n g pd pa pb)
  | 0x05, 11 => some (.pnot n g pd pa)
  | 0x06, 0 => some (.br n g sd imm)
  | 0x06, 1 => some (.bri n g sd sa imm)
  | 0x07, 0 => some (.load n g sd sa (spaceOf (wfield w 32 31)) ⟨wfield w 30 29 % 4, by omega⟩ (wbit w 28) (BitVec.ofNat 28 (wfield w 27 0)) false)
  | 0x08, 0 => some (.store n g sd sa (spaceOf (wfield w 32 31)) ⟨wfield w 30 29 % 4, by omega⟩ (BitVec.ofNat 28 (wfield w 27 0)))
  | 0x09, 0 => some (.waitb n g (BitVec.ofNat 16 (wfield w 15 0)))
  | 0x09, 1 => some (.sigb n g (BitVec.ofNat 16 (wfield w 15 0)))
  | 0x09, 2 => some (.waitc n g (cntField w) imm)
  | 0x09, 3 => some (.setc n g (cntField w) imm)
  | 0x0a, 0 => some (.rdsr n g sd ⟨wfield w 2 0 % 8, by omega⟩)
  | 0x0a, 1 => some (.qshape n g sd sa ⟨wfield w 2 0 % 8, by omega⟩)
  | 0x0a, 2 => some (.bcast n g sa ⟨wfield w 2 0 % 8, by omega⟩)
  | 0x0a, 3 => some (.trd n g sd ⟨wfield w 3 0 % 16, by omega⟩ ⟨wfield w 8 4 % 32, by omega⟩ ⟨wfield w 16 9 % 256, by omega⟩)
  | _, _ => none

/-- The fields of MMA (table MA-2). -/
def mmaField (w v : Word) : MmaF :=
  { saA := sdField w, saW := saField w, saMask := sbField w, saOut := scField w, df := dfOf (wfield w 20 19)
    fmtA := fmtField w 15, fmtW := fmtField w 11, accIn := wbit w 10, drain := drainOf (wfield w 9 8)
    chain := ⟨wfield w 7 3 % 32, by omega⟩, mask := maskOf (wfield w 2 1), bxa := wbit w 0
    m := wfield v 63 50, n := wfield v 49 36, k := wfield v 35 22, cnt := engCnt v, relA := wbit v 17, relW := wbit v 16, bxw := wbit v 15 }

/-- The fields of WPRE, at the places that they have in MMA (R138). -/
def wpreField (w v : Word) : WpreF :=
  { saW := saField w, df := dfOf (wfield w 20 19), fmtW := fmtField w 11, bxw := wbit v 15, n := wfield v 49 36, k := wfield v 35 22
    cnt := engCnt v }

/-- The fields of VRUN (table VE-8). -/
def vrunField (w v : Word) : VrunF :=
  { saSrc := sdField w, saOut := saField w, fmt := fmtField w 29, srck := wbit w 28, treg := ⟨wfield w 27 24 % 16, by omega⟩
    chain := ⟨wfield w 23 19 % 32, by omega⟩, rows := wfield v 63 50, cols := wfield v 49 36, cnt := engCnt v, rel := wbit v 17 }

/-- The instruction of two valid words (tables CC-11, MA-1, VE-8, ST-1). -/
def decodeLong (n : CoreIx) (w v : Word) : Option Instr :=
  let g := guardField w
  match insMajor w, insMinor w with
  | 0x0B, 0 => some (.li64 n g (sdField w) v)
  | 0x10, 0 => some (.mma n g (mmaField w v))
  | 0x10, 1 => some (.mrelease n g (engCnt v))
  | 0x11, 0 => some (.wpre n g (wpreField w v))
  | 0x14, 0 => some (.vrun n g (vrunField w v))
  | 0x14, 1 => some (.vpop n g (wfield w 44 39) (engCnt v))
  | 0x15, 0 => some (.vchdef n g (sdField w) ⟨wfield w 38 34 % 32, by omega⟩ (engCnt v))
  | 0x18, 0 => some (.sstart n g (sdField w) (saField w) (sbField w) (BitVec.ofNat 16 (wfield v 63 48)) (engCnt v))
  | 0x18, 1 => some (.srelease n g (sdField w) (wfield v 63 50) (engCnt v))
  | _, _ => none

/-- The instruction that stands in a code, for the core that issues it; none for an invalid encoding (R77, R78). -/
def decodeIns (n : CoreIx) (i : Ins) : Option Instr :=
  if !validIns i then none
  else
    match i.w1 with
    | none => decodeShort n i.w0
    | some v => decodeLong n i.w0 v

/-! ### Writing an instruction -/

/-- LEN, MAJOR, GUARD, GNEG and MINOR (table CC-3). -/
def header (len major : Nat) (g : Guard) (minor : Nat) : Nat :=
  place len 63 63 + place major 62 58 + place g.p.val 57 54 + place (b2n g.neg) 53 53 + place minor 52 45

/-- SD and SA. -/
def sdsa (sd sa : Reg) : Nat := place sd.val 44 39 + place sa.val 38 33

/-- A word of format R. -/
def rWord (major : Nat) (g : Guard) (minor : Nat) (sd sa sb sc : Reg) : Word :=
  word (header 0 major g minor + sdsa sd sa + place sb.val 32 27 + place sc.val 26 21)

/-- A word of format I, B or S, whose field [31:0] is `imm`. -/
def iWord (major : Nat) (g : Guard) (minor : Nat) (sd sa : Reg) (imm : Nat) : Word :=
  word (header 0 major g minor + sdsa sd sa + place imm 31 0)

/-- A word of classes 0x01 and 0x02 (R80). -/
def aluWord (g : Guard) (minor : Nat) (sd sa : Reg) : Op2 → Word
  | .reg sb => rWord 1 g minor sd sa sb 0
  | .imm v => iWord 2 g minor sd sa v.toNat

/-- A comparison of class 0x05 (table CC-4). -/
def cmpWord (g : Guard) (minor : Nat) (pd : Pred) (sa : Reg) (op : Op2) : Word :=
  let b := header 0 5 g minor + place pd.val 44 41 + place sa.val 38 33
  match op with
  | .reg sb => word (b + place sb.val 31 26)
  | .imm v => word (b + place 1 32 32 + place v.toNat 31 0)

/-- A logic operation of class 0x05 (table CC-4). -/
def logWord (g : Guard) (minor : Nat) (pd pa pb : Pred) : Word :=
  word (header 0 5 g minor + place pd.val 44 41 + place pa.val 38 35 + place pb.val 34 31)

/-- A word of format M. -/
def mWord (major : Nat) (g : Guard) (st sa : Reg) (sp : Space) (size : Fin 4) (signed : Bool) (off : BitVec 28) : Word :=
  let k := match sp with | .store => 0 | .hall => 1 | .hbm => 2
  word (header 0 major g 0 + sdsa st sa + place k 32 31 + place size.val 30 29 + place (b2n signed) 28 28 + place off.toNat 27 0)

/-- A word of format S with a counter. -/
def sWord (g : Guard) (minor : Nat) (c : Cnt) (imm : Nat) : Word := word (header 0 9 g minor + place c.val 41 39 + place imm 31 0)

/-- CNT_EN and CNT. -/
def cntBits : Option Cnt → Nat
  | none => 0
  | some c => place 1 21 21 + place c.val 20 18

/-- Code of DF. -/
def dfCode : Dataflow → Nat
  | .forward => 0
  | .dataGrad => 1
  | .weightGrad => 2

/-- Code of DRAIN. -/
def drainCode : DrainMode → Nat
  | .keep => 0
  | .direct => 1
  | .flume => 2
  | .raw => 3

/-- Code of MASK_MODE. -/
def maskCode : MaskMode → Nat
  | .none => 0
  | .upTo => 1
  | .bitmap => 2

/-- The words of MMA. -/
def mmaWords (g : Guard) (f : MmaF) : Word × Word :=
  (word (header 1 0x10 g 0 + sdsa f.saA f.saW + place f.saMask.val 32 27 + place f.saOut.val 26 21 + place (dfCode f.df) 20 19
      + place (fmtCode f.fmtA) 18 15 + place (fmtCode f.fmtW) 14 11 + place (b2n f.accIn) 10 10 + place (drainCode f.drain) 9 8
      + place f.chain.val 7 3 + place (maskCode f.mask) 2 1 + place (b2n f.bxa) 0 0),
    word (place f.m 63 50 + place f.n 49 36 + place f.k 35 22 + cntBits f.cnt + place (b2n f.relA) 17 17 + place (b2n f.relW) 16 16
      + place (b2n f.bxw) 15 15))

/-- The words of WPRE. -/
def wpreWords (g : Guard) (f : WpreF) : Word × Word :=
  (word (header 1 0x11 g 0 + place f.saW.val 38 33 + place (dfCode f.df) 20 19 + place (fmtCode f.fmtW) 14 11),
    word (place f.n 49 36 + place f.k 35 22 + cntBits f.cnt + place (b2n f.bxw) 15 15))

/-- The words of VRUN. -/
def vrunWords (g : Guard) (f : VrunF) : Word × Word :=
  (word (header 1 0x14 g 0 + sdsa f.saSrc f.saOut + place (fmtCode f.fmt) 32 29 + place (b2n f.srck) 28 28 + place f.treg.val 27 24
      + place f.chain.val 23 19),
    word (place f.rows 63 50 + place f.cols 49 36 + cntBits f.cnt + place (b2n f.rel) 17 17))

/-- The words of an instruction of the control core; none for a command that is no instruction. -/
def encodeIns (i : Instr) : Option (Word × Option Word) :=
  let one := fun (w : Word) => some (w, (none : Option Word))
  let two := fun (w : Word × Word) => some (w.1, some w.2)
  match i with
  | .nop _ g => one (iWord 0 g 0 0 0 0)
  | .yield _ g => one (iWord 0 g 1 0 0 0)
  | .stepend _ g => one (iWord 0 g 2 0 0 0)
  | .fence _ g scope => one (iWord 0 g 3 0 0 scope.val)
  | .trap _ g code => one (iWord 0 g 4 0 0 code.toNat)
  | .add _ g sd sa op => one (aluWord g 0 sd sa op)
  | .sub _ g sd sa op => one (aluWord g 1 sd sa op)
  | .and _ g sd sa op => one (aluWord g 2 sd sa op)
  | .or _ g sd sa op => one (aluWord g 3 sd sa op)
  | .xor _ g sd sa op => one (aluWord g 4 sd sa op)
  | .shl _ g sd sa op => one (aluWord g 5 sd sa op)
  | .shr _ g sd sa op => one (aluWord g 6 sd sa op)
  | .sar _ g sd sa op => one (aluWord g 7 sd sa op)
  | .min _ g sd sa op => one (aluWord g 8 sd sa op)
  | .max _ g sd sa op => one (aluWord g 9 sd sa op)
  | .minu _ g sd sa op => one (aluWord g 10 sd sa op)
  | .maxu _ g sd sa op => one (aluWord g 11 sd sa op)
  | .sel _ g sd sa sb q => one (rWord 1 g 12 sd sa sb ⟨q.val, by omega⟩)
  | .clz _ g sd sa => one (rWord 1 g 13 sd sa 0 0)
  | .popc _ g sd sa => one (rWord 1 g 14 sd sa 0 0)
  | .mul _ g sd sa sb => one (rWord 3 g 0 sd sa sb 0)
  | .mulhu _ g sd sa sb => one (rWord 3 g 1 sd sa sb 0)
  | .mulh _ g sd sa sb => one (rWord 3 g 2 sd sa sb 0)
  | .madd _ g sd sa sb sc => one (rWord 3 g 3 sd sa sb sc)
  | .divu _ g sd sa sb => one (rWord 3 g 4 sd sa sb 0)
  | .div _ g sd sa sb => one (rWord 3 g 5 sd sa sb 0)
  | .remu _ g sd sa sb => one (rWord 3 g 6 sd sa sb 0)
  | .rem _ g sd sa sb => one (rWord 3 g 7 sd sa sb 0)
  | .fadd _ g sd sa sb => one (rWord 4 g 0 sd sa sb 0)
  | .fsub _ g sd sa sb => one (rWord 4 g 1 sd sa sb 0)
  | .fmul _ g sd sa sb => one (rWord 4 g 2 sd sa sb 0)
  | .ffma _ g sd sa sb sc => one (rWord 4 g 3 sd sa sb sc)
  | .fmin _ g sd sa sb => one (rWord 4 g 4 sd sa sb 0)
  | .fmax _ g sd sa sb => one (rWord 4 g 5 sd sa sb 0)
  | .fcvtif _ g sd sa => one (rWord 4 g 6 sd sa 0 0)
  | .fcvtfi _ g sd sa => one (rWord 4 g 7 sd sa 0 0)
  | .eq _ g pd sa op => one (cmpWord g 0 pd sa op)
  | .ne _ g pd sa op => one (cmpWord g 1 pd sa op)
  | .lt _ g pd sa op => one (cmpWord g 2 pd sa op)
  | .ge _ g pd sa op => one (cmpWord g 3 pd sa op)
  | .ltu _ g pd sa op => one (cmpWord g 4 pd sa op)
  | .geu _ g pd sa op => one (cmpWord g 5 pd sa op)
  | .flt _ g pd sa sb => one (cmpWord g 6 pd sa (.reg sb))
  | .feq _ g pd sa sb => one (cmpWord g 7 pd sa (.reg sb))
  | .pand _ g pd pa pb => one (logWord g 8 pd pa pb)
  | .por _ g pd pa pb => one (logWord g 9 pd pa pb)
  | .pxor _ g pd pa pb => one (logWord g 10 pd pa pb)
  | .pnot _ g pd pa => one (logWord g 11 pd pa 0)
  | .br _ g sd off => one (iWord 6 g 0 sd 0 off.toNat)
  | .bri _ g sd sa off => one (iWord 6 g 1 sd sa off.toNat)
  | .load _ g r sa sp size signed off _ => one (mWord 7 g r sa sp size signed off)
  | .store _ g r sa sp size off => one (mWord 8 g r sa sp size false off)
  | .waitb _ g b => one (sWord g 0 0 b.toNat)
  | .sigb _ g b => one (sWord g 1 0 b.toNat)
  | .waitc _ g c v => one (sWord g 2 c v.toNat)
  | .setc _ g c v => one (sWord g 3 c v.toNat)
  | .rdsr _ g sd sel => one (iWord 10 g 0 sd 0 sel.val)
  | .qshape _ g sd sa w => one (iWord 10 g 1 sd sa w.val)
  | .bcast _ g sa slot => one (iWord 10 g 2 0 sa slot.val)
  | .trd _ g sd treg row lane => one (iWord 10 g 3 sd 0 (treg.val + 16 * row.val + 512 * lane.val))
  | .li64 _ g sd v => two (word (header 1 0x0B g 0 + place sd.val 44 39), v)
  | .mma _ g f => two (mmaWords g f)
  | .mrelease _ g cnt => two (word (header 1 0x10 g 1), word (cntBits cnt))
  | .wpre _ g f => two (wpreWords g f)
  | .vrun _ g f => two (vrunWords g f)
  | .vpop _ g count cnt => two (word (header 1 0x14 g 1 + place count 44 39), word (cntBits cnt))
  | .vchdef _ g sa entry cnt => two (word (header 1 0x15 g 0 + place sa.val 44 39 + place entry.val 38 34), word (cntBits cnt))
  | .sstart _ g saSrc saDst sctx desc cnt => two (word (header 1 0x18 g 0 + sdsa saSrc saDst + place sctx.val 32 27), word (place desc.toNat 63 48 + cntBits cnt))
  | .srelease _ g saOff lines cnt => two (word (header 1 0x18 g 1 + place saOff.val 44 39), word (place lines 63 50 + cntBits cnt))
  | _ => none

/-- The code entry of an instruction at a byte offset: its words as `scan` finds them. -/
def codeOf (off : Nat) (i : Instr) : Option Ins := (encodeIns i).map (fun w => ⟨off, w.1, w.2⟩)

end Sys2Proof.Machine
end

