-- ==== Sys2Proof/Machine/Vector.lean ====
section
/-! DEFINITION. Vector instructions: VRUN, VPOP, VCHDEF, and their completion (R92, R93, R171 to R205; tables VE-8, VE-9). -/

namespace Sys2Proof.Machine

/-- Check 0x1: the extent of a VRUN source in the core store (table VE-9). -/
def check1 (lc : LCoreE) (f : VrunF) (src : Word) : Option IssueFault :=
  if !f.srck && (wordBad src || extentBad lc src f.rows (packedLen f.fmt f.cols)) then some (veFault 1 0 (opOff src)) else none

/-- The lines that a VRUN pins: its source, and the element operands that its chain reads (R163, R201). -/
def runLines (base : Nat) (f : VrunF) (src out : Word) (ch : Chain) (b : Vector Word 8) : List (Nat × Nat) :=
  (if f.srck then [] else [opLines base src f.rows (packedLen f.fmt f.cols)])
    ++ chainLines base ch b out f.rows f.cols

/-- Queue a vector instruction with the broadcast slots as they stand at its issue (R92, R179). -/
def queueVec (c : Core) (i : CtxIx) (cnt : Option Cnt) (k : VKind) : Core :=
  { c with vq := c.vq ++ [⟨i, (c.ctx[i]).pc, bankOf c i, cnt, (c.ctx[i]).b, k⟩] }

/-- VRUN: its checks, the headgate, the vector queue (R198 to R201). -/
def execVrun (n : CoreIx) (g : Guard) (f : VrunF) (s : State) : Res :=
  .next (issue s n g 2 ((if f.srck then [] else [f.saSrc]) ++ [f.saOut]) (fun s i b lc =>
    let x := ctxOf s n i
    let c := s.cores[n]
    let (src, out) := (rd x f.saSrc, rd x f.saOut)
    match check1 lc f src, (s.parts[b.part]).image with
    | some e, _ => raiseIssue s n i e
    | none, none => s
    | none, some im =>
      match chainChecks im lc (chainNow c (bankOf c i) f.chain.val) f.chain.val x.b out f.rows f.cols
          (if f.srck then some f.treg.val else none) (decide (f.fmt = .bf16)) with
      | .error e => raiseIssue s n i e
      | .ok ch =>
        let ls := runLines b.base f src out ch x.b
        headgate s n i b (.queue .vector :: ls.map (fun l => .lines l.1 l.2)) (fun s =>
          advance (modCore s n (fun c => queueVec (ls.foldl (fun c l => pinLines c l.1 l.2) c) i f.cnt (.run f src out ch))) n i 2)))

/-- The element operand lines of a VPOP's slots, each with its chain. -/
def popLines (base : Nat) (b : Vector Word 8) (work : List (FSlot × Chain)) : List (Nat × Nat) :=
  work.flatMap (fun (f, ch) => chainLines base ch b f.out f.m f.n)

/-- VPOP: the chain checks of each slot that it pops, the headgate, the vector queue; the lines that its chains read are pinned (R163, R194,
R200, R201). -/
def execVpop (n : CoreIx) (g : Guard) (count : Nat) (cnt : Option Cnt) (s : State) : Res :=
  .next (issue s n g 2 [] (fun s i b lc =>
    let x := ctxOf s n i
    let c := s.cores[n]
    let bk := bankOf c i
    let slots := ((c.banks[bk]).flume.drop (c.banks[bk]).claimed).take count
    match (s.parts[b.part]).image with
    | none => s
    | some im =>
      let rs := slots.map (fun f => chainChecks im lc (chainNow c bk f.chain) f.chain x.b f.out f.m f.n none false)
      match rs.findSome? (fun r => match r with | .error e => some e | .ok _ => none) with
      | some e => raiseIssue s n i e
      | none =>
        let chs := rs.filterMap (fun r => match r with | .ok ch => some ch | .error _ => none)
        let ls := popLines b.base x.b (slots.zip chs)
        headgate s n i b ([.queue .vector, .flume count] ++ ls.map (fun l => .lines l.1 l.2)) (fun s =>
          let s := modCore s n (fun c => queueVec (ls.foldl (fun c l => pinLines c l.1 l.2) c) i cnt (.pop ls count chs))
          advance (modBank s n bk (fun q => { q with claimed := q.claimed + count })) n i 2)))

/-- VCHDEF: the definition's bytes must be present to be read; check 0x4; the headgate, the vector queue (R178, R199 to R201). A
definition that does not lie on 64 bytes within the footprint fails check 0x4 at its header (log entry 43). -/
def execVchdef (n : CoreIx) (g : Guard) (saDef : Reg) (entry : Fin 32) (cnt : Option Cnt) (s : State) : Res :=
  .next (issue s n g 2 [saDef] (fun s i b lc =>
    let a := (rd (ctxOf s n i) saDef).toNat
    let l := extentLines b.base a (a + 72)
    if a % 64 ≠ 0 ∨ lc.footprint < a + 72 then raiseIssue s n i (veFault 4 0 0)
    else
      headgate s n i b [.lines l.1 l.2] (fun s =>
        let ws := (List.range 9).map (fun k => word (leNat (readStore s.cores[n] (b.base + a + 8 * k) 8)))
        match chainBad ws with
        | some v => raiseIssue s n i (veFault 4 (v / 8 - 1) v)
        | none =>
          headgate s n i b [.queue .vector, .entryFree entry.val] (fun s =>
            advance (modCore s n (fun c => queueVec c i cnt (.chdef entry.val (parseChain ws)))) n i 2))))

/-! ### Completion (R194 to R196, R202, R204) -/

/-- The present elements of a tile of a VRUN, row by row (R174, R175, R198). -/
def runElems (c : Core) (bk : Fin 2) (base : Nat) (f : VrunF) (src : Word) (ti tj : Nat) : List (Nat × List (Nat × W32)) :=
  let ms := ((List.range 128).map (128 * ti + ·)).filter (fun m => decide (m < f.rows))
  let ns := ((List.range 128).map (128 * tj + ·)).filter (fun k => decide (k < f.cols))
  ms.map (fun m => (m, ns.map (fun k =>
    (k, if f.srck then tregAt c bk f.treg.val (m * f.cols + k) else toFp32 (elemVal c base src f.fmt false m k f.cols)))))

/-- The present elements of a flume slot (R193). -/
def slotElems (c : Core) (at0 : Nat) (f : FSlot) : List (Nat × List (Nat × W32)) :=
  let ns := ((List.range 128).map (128 * f.j + ·)).filter (fun k => decide (k < f.n))
  f.rows.map (fun m => (m, ns.map (fun k => (k, BitVec.ofNat 32 (leNat (readStore c (at0 + 512 * (m % 128) + 4 * (k % 128)) 4))))))

/-- The lines of the core store that hold the present elements of a flume slot (R193, R333). -/
def slotLines (base flume : Nat) (f : FSlot) : List (Nat × Nat) :=
  f.rows.map (fun m =>
    let at0 := flume + 65536 * f.slot + 512 * (m % 128)
    extentLines base at0 (at0 + 4 * min 128 (f.n - 128 * f.j)))

/-- Run one tile through a chain, with the lines of its source; the RED elements so far come and go with it. A sampled tile pins these lines and
those of its element operands (R333). -/
def oneTile (s : State) (n : CoreIx) (env : State → ChEnv) (ch : Chain) (src : List (Nat × Nat)) (nb : Nat) (reds : List RedEl) (rows : List (Nat × List (Nat × W32))) : State × List RedEl :=
  let e := env s
  let pins := src ++ tileRanges e.base ch e.b e.out e.rows e.cols (rows.map (·.1)) nb
  let (s, _) := sampleTile s n e.p [] pins (tileWork e s.cores[n] ch rows)
  let q := runTile e ch ⟨s.cores[n], [], reds⟩ rows
  (chainDone s n e.p q, q.reds)

/-- A VRUN over all its tiles, in ascending (i, j) (R174). -/
def runVrun (s : State) (n : CoreIx) (e : VEntry) (b : Bound) (f : VrunF) (src out : Word) (ch : Chain) : State :=
  let tiles := (List.range (ceilDiv f.rows 128)).flatMap (fun i => (List.range (ceilDiv f.cols 128)).map (fun j => (i, j)))
  let (s, reds) := tiles.zipIdx.foldl (fun (acc : State × List RedEl) (ij, k) =>
    let rows := runElems (acc.1.cores[n]) e.bank b.base f src ij.1 ij.2
    let bits := fmtBits f.fmt
    let lines := if f.srck then [] else rowsLines b.base src (128 * ij.2 * bits / 8) (min (packedLen f.fmt f.cols) ((128 * ij.2 + 128) * bits / 8)) (rows.map (·.1))
    oneTile acc.1 n (fun s => ⟨s, b.part, e.bank, b.base, e.slots, out, f.rows, f.cols, k⟩) ch lines ij.2 acc.2 rows) (s, [])
  modCore s n (finishReds e.bank ch reds)

/-- A VPOP over its head slots in FIFO order; slots of one chain entry form one element stream, whose reductions are written after
its last element (R186, R194). DESIGN CHOICE (log entry 234): the streams of several chain entries write their reductions in the order in which
the entries first appear. -/
def runVpop (s : State) (n : CoreIx) (e : VEntry) (b : Bound) (lc : LCoreE) (count : Nat) (chs : List Chain) : State :=
  let slots := ((s.cores[n]).banks[e.bank]).flume.take count
  let work := slots.zip chs
  let ids := (slots.map (·.chain)).eraseDups
  let step := fun (acc : State × List (Nat × List RedEl)) (w : (FSlot × Chain) × Nat) =>
    let (s, m) := acc
    let ((f, ch), k) := w
    let at0 := b.base + lc.flumeOffset + 65536 * f.slot
    let reds := (tfind m f.chain).getD []
    let (s, reds) := oneTile s n (fun s => ⟨s, b.part, e.bank, b.base, e.slots, f.out, f.m, f.n, k⟩) ch (slotLines b.base lc.flumeOffset f) f.j reds (slotElems s.cores[n] at0 f)
    (s, tput m f.chain reds)
  let (s, m) := work.zipIdx.foldl step (s, [])
  let s := each ids s (fun s id =>
    match work.find? (fun w => w.1.chain == id) with
    | none => s
    | some (_, ch) => modCore s n (finishReds e.bank ch ((tfind m id).getD [])))
  modBank s n e.bank (fun q => { q with flume := q.flume.drop count, claimed := q.claimed - count })

/-- The head of the vector queue leaves: its pins end, its counter grows, and the TRDs behind it come nearer (R90, R93, R195). -/
def popVec (s : State) (n : CoreIx) (e : VEntry) (base : Nat) (rel : Bool) (count : Bool) : State :=
  let s := modCore s n (fun c =>
    let c : Core := { c with vq := c.vq.tail }
    match e.kind with
    | .run f src out ch =>
      let ls := runLines base f src out ch e.slots
      (ls.zipIdx).foldl (fun c (l, k) => unpinLines c l.1 l.2 (rel && f.rel && !f.srck && k == 0)) c
    | .pop ls _ _ => ls.foldl (fun c l => unpinLines c l.1 l.2 false) c
    | .chdef .. => c)
  let s := modCtx s n e.ctx (fun x => { x with trds := x.trds.map (fun t => { t with after := t.after - 1 }) })
  let s := deliverTrds s n e.ctx
  wake (if count then incCnt s n e.ctx e.cnt else s) n

/-- VECTOR_COMPLETE: the head of the vector queue has run, written its results and completes (R195, R202); `fault` is a hardware
fault in it, `corr` a corrected tile register error (R204). DESIGN CHOICE (log entry 232): the fault comes before its first write. -/
def execVectorComplete (n : CoreIx) (fault : Option EngFault) (corr : Bool) (s : State) : Res :=
  if asleep s (coreDom n) then .next s else
  let s := if corr then vectorCorr s n else s
  let c := s.cores[n]
  match c.vq with
  | [] => .next s
  | e :: _ =>
    match boundOf c e.ctx with
    | none => .next s
    | some b =>
      match fault.filter (laneReports c), lcoreE s b.part b.lcore with
      | some f, _ => .next (vectorFault (popVec s n e b.base false false) n e.ctx e.pc f)
      | none, none => .next s
      | none, some lc =>
        match e.kind with
        | .run f src out ch => .next (popVec (runVrun s n e b f src out ch) n e b.base true true)
        | .pop _ count chs => .next (popVec (runVpop s n e b lc count chs) n e b.base true true)
        | .chdef k ch => .next (popVec (modBank s n e.bank (fun q => { q with chains := tput q.chains k ch })) n e b.base true true)

end Sys2Proof.Machine
end

