-- ==== Sys2Proof/Machine/Replay.lean ====
section
/-! DEFINITION. Second runs: the checker's run of an update or reduction granule, the pantry patterns of sampled items, and what a unit makes of a
stored pattern (R334, R340, R341, R343; table SE-5). A pattern's expected result and its replay are one function of its placement and operands. -/

namespace Sys2Proof.Machine

/-! ### Update granules (R275, R278, R334) -/

/-- What the lanes have come to: the registers, and the bytes of the outputs so far. -/
structure LaneSt where
  u : List (List W32)
  outs : List (List Byte)

/-- One micro-operation over `n` lanes, on the operands that a checker was sent (R278, R334). -/
def laneMop (w : UpdWork) (n : Nat) (x : LaneSt) (o : W32) : LaneSt :=
  let op := mop o 31 26
  let d := mop o 25 22
  let imm := mop o 3 0
  let reg := fun i => x.u.getD i []
  match op with
  | 0x01 =>
    match w.slots.getD imm none with
    | none => x
    | some t =>
      let f := (fmtOf t.fmt).getD .fp32
      { x with u := x.u.set d ((rawsOf f t.bytes).map (fun r => fscale (toFp32 (decodeElem f r)) (-t.exp))) }
  | 0x02 | 0x03 =>
    match w.slots.getD imm none with
    | none => x
    | some t =>
      let f := (fmtOf t.fmt).getD .fp32
      let sr := fun (lane : Nat) => if op = 3 then some (srBits w.seed (word t.id) w.step (t.first + word lane)) else none
      { x with outs := x.outs ++ [packRaws f ((reg (mop o 21 18)).zipIdx.map (fun v => (convScaled f t.exp (sr v.2) v.1).raw))] }
  | _ =>
    let k := w.consts.getD imm 0
    let t := biasT w.step w.t0
    let (a, b, c) := (reg (mop o 21 18), reg (mop o 17 14), reg (mop o 13 10))
    { x with u := x.u.set d ((List.range n).map (fun l => laneOp op k t (a.getD l 0) (b.getD l 0) (c.getD l 0))) }

/-- The outputs of a program over `n` lanes (R275, R334). -/
def laneRun (w : UpdWork) (n : Nat) : List (List Byte) := (w.ops.foldl (laneMop w n) ⟨w.regs, []⟩).outs

/-- The slice of `n` lanes from lane `lo` of what a checker was sent, with clear registers. -/
def sliceWork (w : UpdWork) (lo n : Nat) : UpdWork :=
  { w with
    regs := List.replicate 16 (List.replicate n 0)
    slots := w.slots.map (fun t => t.map (fun t =>
      let bits := fmtBits ((fmtOf t.fmt).getD .fp32)
      { t with first := t.first + word lo, bytes := (t.bytes.drop (lo * bits / 8)).take (n * bits / 8) })) }

/-- The slots of the STSR operations of a program, in program order. -/
def stsrSlots (ops : List W32) : List Nat := ((ops.filter (fun o => mop o 31 26 == 3)).map (fun o => mop o 3 0)).eraseDups

/-- The operands of an update pattern: the context block, the program, k0 to k15, and each bound slot's elements of the slice (table SE-5). DESIGN
CHOICE (log entry 203): the block's bytes 32 to 63, which the table leaves open, hold the exponents of slots 0 to 7, their format codes (15 unbound)
and the tensors of the first six STSR slots, since a replay needs them; the element index base is that of the first STSR slot, or 0. -/
def updOperands (w : UpdWork) : List Byte :=
  let slot := fun k => w.slots.getD k none
  let sr := stsrSlots w.ops
  let base := match sr.head?.bind slot with | some t => t.first | none => 0
  leBytes 8 w.t0.toNat ++ leBytes 8 w.step.toNat ++ leBytes 8 base.toNat ++ leBytes 8 w.seed.toNat
    ++ (List.range 8).map (fun k => match slot k with | some t => BitVec.ofInt 8 t.exp | none => 0)
    ++ leBytes 4 (((List.range 8).map (fun k => (match slot k with | some t => t.fmt | none => 15) * 16 ^ k)).sum)
    ++ (List.range 6).flatMap (fun i => leBytes 3 (match (sr[i]?).bind slot with | some t => t.id | none => 0)) ++ leBytes 2 0
    ++ w.ops.flatMap (fun o => leBytes 4 o.toNat) ++ (List.range 16).flatMap (fun i => leBytes 4 (w.consts.getD i 0).toNat)
    ++ w.slots.flatMap (fun t => match t with | some t => t.bytes | none => [])

/-- What an update pattern's operands spell, for a program of `len` operations and a slice of 128 lanes. -/
def updParse (bs : List Byte) (len : Nat) : UpdWork :=
  let ops := (List.range len).map (fun i => BitVec.ofNat 32 (fieldAt bs (64 + 4 * i) 4))
  let sr := stsrSlots ops
  let at0 := 64 + 4 * len + 64
  let kinds := (List.range 8).map (fun k => fieldAt bs 40 4 / 16 ^ k % 16)
  let size := fun (f : Nat) => match fmtOf f with | some x => 128 * fmtBits x / 8 | none => 0
  { t0 := word (fieldAt bs 0 8), step := word (fieldAt bs 8 8), seed := word (fieldAt bs 24 8), ops := ops
    consts := (List.range 16).map (fun i => BitVec.ofNat 32 (fieldAt bs (64 + 4 * len + 4 * i) 4))
    regs := List.replicate 16 (List.replicate 128 0)
    slots := kinds.zipIdx.map (fun (f, k) =>
      if (fmtOf f).isNone then none
      else
        let off := at0 + ((kinds.take k).map size).sum
        let id := match sr.findIdx? (· == k) with | some i => if i < 6 then fieldAt bs (44 + 3 * i) 3 else 0 | none => 0
        some ⟨id, f, (BitVec.ofNat 8 (fieldAt bs (32 + k) 1)).toInt, word (fieldAt bs 16 8), (bs.drop off).take (size f)⟩) }

/-! ### Reductions (R271, R334) -/

/-- Sum values in list order (R271). -/
def sumOrdered : List W32 → W32
  | [] => 0
  | v :: vs => vs.foldl fadd v

/-- The contributions of a granule in list order, as the checker takes them: from the vestibule, and the LOCAL granule where the reduction has one
(R334, table UP-1); none where one is missing there. -/
def addendsOf (s : State) (i : SedItem) (e : ReductionE) (g : Nat) (loc : List W32) : Option (List (List W32)) :=
  e.ranks.zipIdx.mapM (fun (rank, k) =>
    if e.loc ≠ 0 ∧ k = e.locPos then some loc
    else
      (s.parts[i.part]).vest.findSome? (fun v =>
        match v.r with
        | .contrib r gr rk fmt x raws => if v.step = i.step ∧ r = e.id ∧ gr = g ∧ rk = rank then some (contribVals fmt x raws) else none
        | _ => none))

/-- The sums that a checker returns for a granule (R334). -/
def sumAddends (adds : List (List W32)) : List W32 := (List.range 1024).map (fun l => sumOrdered (adds.map (fun a => a.getD l 0)))

/-! ### Comparison (R332 to R335) -/

/-- The number of the trio whose two results differ, if the second run of an item does not repeat the first. The halves of a matrix item hold both
results; a vector tile runs through the same chain on the same operands, so two runs agree (R60). -/
def realDiff (s : State) (i : SedItem) : Option Nat :=
  match i.work with
  | .matrix .. =>
    match toFin 40 i.place with
    | none => none
    | some n =>
      let acc := fun (h : Nat × Nat) => match toFin 4 h.1 with | some k => (halfOf (s.cores[n]).arrays[k] h.2).acc | none => []
      let k := i.halves.length / 2
      (List.range k).find? (fun j => decide (acc (i.halves.getD j (4, 0)) ≠ acc (i.halves.getD (k + j) (4, 0))))
  | .vector .. => none
  | .update _ _ w outs => if laneRun w 1024 = outs then none else some 0
  | .reduction r g loc sum =>
    match (reductionOf s i.part r).bind (fun e => addendsOf s i e g loc) with
    | none => none
    | some adds => if sumAddends adds = sum then none else some 0

/-! ### Matrix patterns (R340, R341) -/

/-- A piece of a stored operand, `rows` of it from column `lo` on, `len` columns, packed under R107 and R141; what lies outside the operand is 0. -/
def operandPiece (c : Core) (base : Nat) (w : Word) (f : Fmt) (bx : Bool) (shape : Nat × Nat) (rows : List Nat) (lo len : Nat) : List Byte :=
  rows.flatMap (fun r =>
    let raw := fun j => if r < shape.1 ∧ lo + j < shape.2 then elemRaw c base w f r (lo + j) else 0
    leBytes (packedLen f len) (((List.range len).map (fun j => raw j <<< (j * fmtBits f))).sum)
      ++ (if bx then (List.range (ceilDiv len 32)).map (fun b =>
            if r < shape.1 ∧ lo + 32 * b < shape.2 then BitVec.ofNat 8 (elemExp c base w f r (lo + 32 * b) shape.2) else 0) else []))

/-- The element (r, j) of a packed piece of `len` columns (R107, R108, R141). -/
def pieceElem (bs : List Byte) (f : Fmt) (bx : Bool) (len r j : Nat) : Fval :=
  let at0 := r * rowBytes f bx len
  let raw := bitsAt (fun i => bs.getD (at0 + i) 0) (j * fmtBits f) (fmtBits f)
  if bx then decodeBlockElem (bs.getD (at0 + packedLen f len + j / 32) 0).toNat raw else decodeElem f raw

/-- PLACE and operands of a matrix pattern: the sixteen rows of A and the sixteen columns of W around the entry that differs, over the live places of
its K-block (table SE-5), from a core store that holds the operand rows as the item kept them. -/
def matrixPattern (c : Core) (f : MmaF) (a w : Word) (base : Nat) (live : List Bool) (mg : Nat) (d : DiffAt) : Nat × List Byte :=
  let m0 := 128 * mg + d.m % 128 / 16 * 16
  let n0 := d.n / 16 * 16
  let ks := ((List.range (min 128 (f.k - 128 * d.kb))).map (128 * d.kb + ·)).filter (fun k => f.df != .weightGrad || live.getD k false)
  let rows := (List.range 16).map (m0 + ·)
  let cols := (List.range 16).map (n0 + ·)
  let ashape := (aRows f, aCols f)
  let wshape := wShape f.df f.n f.k
  let pa := if f.df = .weightGrad then operandPiece c base a f.fmtA f.bxa ashape ks m0 16
    else operandPiece c base a f.fmtA f.bxa ashape rows (128 * d.kb) ks.length
  let pw := if f.df = .dataGrad then operandPiece c base w f.fmtW f.bxw wshape cols (128 * d.kb) ks.length
    else operandPiece c base w f.fmtW f.bxw wshape ks n0 16
  (place (dfCode f.df) 1 0 + place (fmtCode f.fmtA) 5 2 + place (fmtCode f.fmtW) 9 6 + place (b2n f.bxa) 10 10 + place (b2n f.bxw) 11 11
    + place (m0 % 128) 18 12 + place (n0 % 128) 25 19 + place (ks.length - 1) 32 26, pa ++ pw)

/-- The raw records of a K-block alone, from a clear half (R340; tables SE-5, NF-5). -/
def matrixReplay (pl : Word) (bs : List Byte) : List Byte :=
  let df := dfOf (wfield pl 1 0)
  let fa := (fmtOf (wfield pl 5 2)).getD .fp32
  let fw := (fmtOf (wfield pl 9 6)).getD .fp32
  let nk := wfield pl 32 26 + 1
  let (alen, arows) := if df = .weightGrad then (16, nk) else (nk, 16)
  let wlen := if df = .dataGrad then nk else 16
  let ws := bs.drop (arows * rowBytes fa (wbit pl 10) alen)
  let va := fun r k => if df = .weightGrad then pieceElem bs fa (wbit pl 10) alen k r else pieceElem bs fa (wbit pl 10) alen r k
  let vw := fun k q => if df = .dataGrad then pieceElem ws fw (wbit pl 11) wlen q k else pieceElem ws fw (wbit pl 11) wlen k q
  let add := if fa = .bf16 then accOrdered else accLong
  (List.range 16).flatMap (fun r => (List.range 16).flatMap (fun q =>
    rawRecord ((List.range nk).foldl (fun e k => add (va r k) (vw k q) e) AccE.clear)))

/-! ### Vector patterns (R340, R341) -/

/-- The values of the 32 positions of the row pair around the element that differs; an absent element is 0 (R175, table SE-5). -/
def at32 (d : DiffAt) (l : List (Nat × Nat × W32)) : List Byte :=
  (List.range 32).flatMap (fun k =>
    leBytes 4 (match l.find? (fun y => decide (y.1 = d.m ∧ y.2.1 = d.n / 32 * 32 + k)) with | some y => y.2.2.toNat | none => 0))

/-- PLACE and operands of a vector pattern: the 32 chain inputs around the element that differs, and what each stage with an element operand
takes there (table SE-5). -/
def vectorPattern (unit : Nat) (ch : Chain) (b : Vector Word 8) (els : List (Nat × Nat × W32)) (srcs : List (List (Nat × Nat × W32))) (d : DiffAt) :
    Nat × List Byte :=
  let first := (d.m % 2 * 128 + d.n % 128) / 32 * 32
  (place (unit % 8) 2 0 + place first 10 3 + place (b2n ch.rmode) 11 11 + place (b2n ch.pack) 12 12,
   (chainWords ch).flatMap (fun w => leBytes 8 w.toNat) ++ b.toList.flatMap (fun w => leBytes 8 w.toNat) ++ at32 d els ++ srcs.flatMap (at32 d))

/-- Does a pattern's payload hold all that a chain computes with: no tile register, exponent, seed or position (tables VE-3, VE-4, SE-5)? -/
def selfContained (ch : Chain) : Bool :=
  ch.stages.all (fun st => st.src != 3 && st.src != 4 && st.op != 0x08 && st.op != 0x09 && st.op != 0x0D && st.op != 0x0F && st.op != 0x10)

/-- The chain of a vector pattern. -/
def patternChain (bs : List Byte) : Chain := parseChain ((List.range 9).map (fun i => word (fieldAt bs (8 * i) 8)))

/-- What a replay of a chain has come to: the chain's own state, the elements, the element operands still to come, the values compared so far. -/
structure ReplaySt where
  q : ChSt
  els : List El
  srcs : List (List W32)
  out : List Byte

/-- The values that enter each write and RED stage of a self-contained chain, from the 32 inputs and the element operands of a pattern (R343). -/
def vectorReplay (pl : Word) (bs : List Byte) : List Byte :=
  let ch := patternChain bs
  let b : Vector Word 8 := Vector.ofFn (fun i : Fin 8 => word (fieldAt bs (72 + 8 * i.val) 8))
  let vals := fun (k : Nat) => (List.range 32).map (fun i => BitVec.ofNat 32 (fieldAt bs (136 + 128 * k + 4 * i) 4))
  let first := wfield pl 10 3
  let m := first / 128
  let e : ChEnv := ⟨State.reset, 0, 0, 0, b, 0, 2, 128, 0⟩
  let els : List El := (vals 0).zipIdx.map (fun (x, i) => ⟨first % 128 + i, x, false⟩)
  let step := fun (x : ReplaySt) (sk : Stage × Nat) =>
    let (st, k) := sk
    let out := if comparedStage st then x.out ++ x.els.flatMap (fun y => leBytes 4 y.x.toNat) else x.out
    if elemStage st then
      { x with els := (x.els.zip (x.srcs.headD [])).map (fun (y, a) => stageWith e ch.pack x.q.c st m y a), srcs := x.srcs.tail, out := out }
    else
      let (q, els) := runStage e ch.pack k m st x.q x.els
      { x with q := q, els := els, out := out }
  (ch.stages.zipIdx.foldl step ⟨⟨Core.reset, [], []⟩, els, (List.range (ch.stages.filter elemStage).length).map (fun k => vals (k + 1)), []⟩).out

/-! ### Patterns and replays (R340 to R343) -/

/-- What a unit makes of a pattern, as self-test compares it with the expected result (R343; table SE-5). -/
def replayOf (kind : Nat) (pl : Word) (bs : List Byte) : List Byte :=
  match kind with
  | 1 => matrixReplay pl bs
  | 2 => vectorReplay pl bs
  | 3 => ((laneRun (updParse bs (wfield pl 15 10 + 1)) 128).flatMap id).take 4096
  | _ => leBytes 4 (sumOrdered ((List.range (wfield pl 21 10 + 1)).map (fun i => BitVec.ofNat 32 (fieldAt bs (4 * i) 4)))).toNat

/-- PLACE and operands of the pattern of an item whose results differ at `d` (R340, R341). -/
def patternOf (s : State) (i : SedItem) (unit : Nat) (d : DiffAt) : Nat × List Byte :=
  match i.work with
  | .matrix f a w base live mg _ held => matrixPattern (held.foldl (fun c e => writeStore c e.1 e.2) Core.reset) f a w base live mg d
  | .vector ch b els srcs _ => vectorPattern unit ch b els srcs d
  | .update _ _ w _ =>
    let lo := d.n % 1024 / 128 * 128
    (place lo 9 0 + place (w.ops.length - 1) 15 10, updOperands (sliceWork w lo 128))
  | .reduction r g loc _ =>
    let adds := (((reductionOf s i.part r).bind (fun e => addendsOf s i e g loc)).getD []).take 2048
    (place (d.n % 1024) 9 0 + place (adds.length - 1) 21 10, adds.flatMap (fun a => leBytes 4 (a.getD (d.n % 1024) 0).toNat))

/-- Store the pattern of an item on the blamed unit; the expected result of a vector tile is its values as they were compared (R341, R342). -/
def storeItem (s : State) (i : SedItem) (unit : Nat) (d : DiffAt) : State :=
  let (pl, ops) := patternOf s i unit d
  let expect := match i.work with
    | .vector _ _ _ _ seen => seen.flatMap (at32 d)
    | _ => replayOf i.kind (word pl) ops
  (storePattern s ⟨i.kind, false, 1, unit, i.step, s.fuses.serial, word pl, ops, expect⟩).1

/-- Does a unit that replays a record show another result than the one stored (R343)? DESIGN CHOICE (log entry 203): a chain that computes
with more than its payload holds shows the stored result. -/
def replayFails (r : PanRec) : Bool :=
  (r.kind != 2 || selfContained (patternChain r.operands)) && replayOf r.kind r.place r.operands != r.expect

/-! ### Localisation (R340) -/

/-- The place of the first pair of values that differ. -/
def firstDiff {α : Type} [DecidableEq α] (a b : List α) : Option Nat := (a.zip b).findIdx? (fun x => decide (x.1 ≠ x.2))

/-- The 1,024 raw elements of an output of an update granule. -/
def outRaws (out : List Byte) : List Nat :=
  let bits := out.length / 128
  (List.range 1024).map (fun k => bitsAt (fun j => out.getD j 0) (k * bits) bits)

/-- The first differing element of an update or reduction granule in the compared order, where the model holds both results: the outputs in program
order, each from element 0; the sums from element 0 (R340, table SE-1). -/
def granuleDiff (s : State) (i : SedItem) : Option DiffAt :=
  match i.work with
  | .update _ _ w outs => ((outs.zip (laneRun w 1024)).findSome? (fun x => firstDiff (outRaws x.1) (outRaws x.2))).map (⟨0, 0, ·⟩)
  | .reduction r g loc sum =>
    (((reductionOf s i.part r).bind (fun e => addendsOf s i e g loc)).bind (fun adds => firstDiff sum (sumAddends adds))).map (⟨0, 0, ·⟩)
  | _ => none

/-- May the results of trio `k` of an item differ at a place: a live entry of its tile and a K-block of its K, a present element of the tile,
an element of the granule (R340)? -/
def diffWithin (i : SedItem) (k : Nat) (d : DiffAt) : Bool :=
  match i.work with
  | .matrix f _ _ _ live mg blocks _ =>
    decide (128 * d.kb < f.k ∧ d.m < f.m ∧ d.m / 128 = mg ∧ d.n < f.n ∧ some (d.n / 128) = blocks[k]?)
      && (f.df == .weightGrad || live.getD d.m false)
  | .vector _ _ els _ _ => els.any (fun y => decide (y.1 = d.m ∧ y.2.1 = d.n))
  | _ => decide (d.n < 1024)

/-- Where the localisation on the blamed unit and an agreeing one finds the first difference: where the two held results of a granule first differ,
else where the units' runs show one, `shown`, if that lies within the item (R340; log entry 254). -/
def localise (s : State) (i : SedItem) (k : Nat) (shown : Option DiffAt) : Option DiffAt :=
  (granuleDiff s i).or (shown.filter (diffWithin i k))

/-! ### COMPARE, VOTE and self-test (R335 to R338, R340, R343) -/

/-- An item has settled: its halves and lines are free, and an update granule that it held up is reported done (R332 to R334). -/
def settleItem (s : State) (ix : Nat) (i : SedItem) : State :=
  let s := releaseItem (dropItem s ix) i
  match i.work, toFin 12 i.place with
  | .update k g _ _, some c => granuleDone s c i.part k g
  | _, _ => s

/-- Every unit that took part in an agreeing comparison of an item counts it once (R338). -/
def agreeAll (s : State) (i : SedItem) : State :=
  each ((i.trios.flatMap (fun t => [t.orig, t.check])).eraseDups) s agree

/-- COMPARE: both compare copies compare a sampled item (R334, R335). `fault` says whether they disagree with each other, and whether a unit of a
trio has made its result differ without an error (R60). DESIGN CHOICE (log entry 236): the first trio that differs alone is put to the vote,
and its verdict settles the whole item. -/
def execCompare (ix : Nat) (fault : CompareFault) (same : Bool) (s : State) : Res :=
  match s.sed.items[ix]? with
  | none => .next s
  | some i =>
    if i.differ.isSome || itemAsleep s i then .next s
    else
      let d := (fault.diff.filter (fun k => decide (k < i.trios.length))).or (realDiff s i)
      let t := i.trios.getD (d.getD 0) ⟨0, 0, none⟩
      let s := modCounts s i.part (fun c => { c with compared := satAdd c.compared 1 0xFFFFFF })
      if fault.copies then .next (voteFail (verdict (releaseItem (dropItem s ix) i) 5 i t false false same) i 0x63)
      else
        match d with
        | none => .next (agreeAll (settleItem s ix i) i)
        | some k =>
          let s := modCounts s i.part (fun c => { c with disagreed := satAdd c.disagreed 1 0xFFFF })
          if t.vote.isSome then .next (modSed s (fun x => { x with items := x.items.set ix { i with differ := some k } }))
          else
            let s := blame (blame (releaseItem (dropItem s ix) i) t.orig i) t.check i
            .next (voteFail (verdict s 4 i t false false same) i 0x62)

/-- VOTE: the voter's result settles a disagreement (R336, table SE-2). `at0` is where the runs of the localisation first show a difference; where it
finds none, no pattern is stored and the vote is reported NOT_REPRODUCED (R340). -/
def execVote (ix : Nat) (res : VoteResult) (at0 : Option DiffAt) (s : State) : Res :=
  match s.sed.items[ix]? with
  | none => .next s
  | some i =>
    match i.differ with
    | none => .next s
    | some k =>
      if itemAsleep s i then .next s else
      let t := i.trios.getD k ⟨0, 0, none⟩
      let d := localise s i k at0
      let missing := d.isNone
      let store := fun (s : State) (u : Nat) => match d with | some d => storeItem s i u d | none => s
      let same := res.same
      match res.third with
      | 0 => .next (settleItem (verdict (store (blame s t.check i) t.check) 1 i t true missing same) ix i)
      | 1 => .next (voteFail (verdict (releaseItem (dropItem (store (blame s t.orig i) t.orig) ix) i) 2 i t true missing same) i 0x60)
      | 2 =>
        let s := suspect (suspect (releaseItem (dropItem s ix) i) t.orig) t.check
        let s := match t.vote with | some v => suspect s v | none => s
        .next (voteFail (verdict s 3 i t true false same) i 0x61)

/-- A self-test has replayed a record on a unit. -/
def testDone (s : State) (unit record run failed : Nat) : State :=
  modSed s (fun x => { x with test := x.test.map (fun t => { t with todo := t.todo.erase (unit, record), run := t.run + run, failed := t.failed + failed }) })

/-- A unit replays a pantry record (R343); `fault`: it shows another result than its operands give. A unit that fails is blamed once, enters
FENCE_ORDERED whatever its count, and raises the record's HITS. A record that is gone leaves the plan; one whose unit a step runs on now is run later. The
multiply-accumulates of a replay on an array, 256 a K-block, count in G2 (table DB-11; log entry 151). -/
def selftestRecord (unit record : Nat) (fault : Bool) (s : State) : State :=
  match pantryRec s record with
  | none => testDone s unit record 0 0
  | some r =>
    if !(unitsFor s r.kind).contains unit then s
    else
      let fails := fault || replayFails r
      let s := if r.kind = 1 then countG s 2 (256 * (wfield r.place 32 26 + 1)) else s
      let s := testDone (countG s 14 1) unit record 1 (b2n fails)
      if !fails then s
      else
        let e := unitOf s unit
        let s := setUnit s unit { e with blames := e.blames + 1, clean := 0 }
        let s := putPantry s record { r with hits := satAdd r.hits 1 0xFFFF }
        let s := wantSection (wantSection s (0x10 + record)) 4
        fenceNow (orderFence s unit 1) unit

end Sys2Proof.Machine
end

