-- ==== Sys2Proof/Machine/SedCmd.lean ====
section
/-! DEFINITION. The events and commands of the defence against silent errors (R332 to R336, R340 to R354; tables SE-4, SE-10, SE-11). -/

namespace Sys2Proof.Machine

/-- SELFTEST_RECORD: a unit replays a pantry record; it must be clocked (R343). -/
def execSelftestRecord (unit record : Nat) (fault : Bool) (s : State) : Res :=
  let i := unitIndex unit
  let dom := match unitKind unit with
    | 1 => (toFin 40 (i / 4)).map coreDom
    | 2 => (toFin 40 (i / 8)).map coreDom
    | 4 => (toFin 12 i).map cellarDom
    | _ => none
  match dom with
  | none => .next s
  | some d => if asleep s d || asleep s mgmtDom then .next s else .next (selftestRecord unit record fault s)

/-- SED_QUERY_UNIT. -/
def execSedQueryUnit (s : State) : Res :=
  runCmd 0x60 s (fun s c =>
    let u := argOf c 0 % 65536
    if !unitKnown s u then errWith s 0x4001
    else
      let e := unitOf s u
      okWith s [(match e.st with | .inService => 0 | .suspect => 1 | .fenceOrdered => 2 | .fenced => 3), e.blames, e.clean, e.lastStep.toNat])

/-- Order a unit fenced by command: a lane at once through a retrain (R359), a pseudo-channel after its copy (R243), the others at a step
boundary, or at once where no step runs (table SE-7; R343). -/
def commandFence (s : State) (u : Nat) : State :=
  let i := unitIndex u
  let idle := fun (n : CoreIx) => match ownerOf s n with | some p => !active s p | none => true
  match unitKind u with
  | 1 => match toFin 40 (i / 4) with | some n => (let s' := orderFence s u 4; if idle n then coreFences s' n else s') | none => s
  | 2 => match toFin 40 (i / 8) with | some n => (let s' := orderFence s u 4; if idle n then coreFences s' n else s') | none => s
  | 3 => match toFin 40 i with | some n => (let s' := orderFence s u 4; if idle n then coreFences s' n else s') | none => s
  | 4 => match toFin 12 i with | some c => updFence (orderFence s u 4) c | none => s
  | 5 => match toFin 12 (i / 32) with | some c => orderPcFence s c (i % 32) 4 | none => s
  | _ => match toFin 18 (i / 8), toFin 8 (i % 8) with | some f, some l => laneFence s f l 4 | _, _ => s

/-- SED_FENCE. -/
def execSedFence (s : State) : Res :=
  runCmd 0x61 s (fun s c =>
    let u := argOf c 0 % 65536
    if !unitKnown s u then errWith s 0x4001
    else if (unitOf s u).st = .fenced ∨ (unitOf s u).st = .fenceOrdered then errWith s 0x4002
    else okWith (commandFence s u) [])

/-- SED_SELFTEST: it completes once every record has been replayed on every unit that may be tested (R343). -/
def execSedSelftest (s : State) : Res :=
  runCmd 0x62 s (fun s _ =>
    let s := if s.mbox.begun then s else beginTest s true
    match s.sed.test with
    | some t => if (testLeft s).isEmpty then okWith (modSed s (fun x => { x with test := none })) [t.run, t.failed] else (s, none)
    | none => okWith s [0, 0])

/-- SED_PANTRY_READ. -/
def execSedPantryRead (s : State) : Res :=
  runCmd 0x63 s (fun s c =>
    if 256 ≤ argOf c 0 then errWith s 0x4004
    else if !inXfer (argOf c 1) 16384 then errWith s xferRange
    else if argOf c 1 % 16384 ≠ 0 then errWith s badArgument
    else
      match pantryRec s (argOf c 0) with
      | none => okWith s [0]
      | some r => okWith (sramWrite s (argOf c 1) (pantryBytes r)) [1])

/-- SED_PANTRY_LOAD (R344). -/
def execSedPantryLoad (s : State) : Res :=
  runCmd 0x64 s (fun s c =>
    if !inXfer (argOf c 0) 16384 then errWith s xferRange
    else if argOf c 0 % 16384 ≠ 0 then errWith s badArgument
    else
      match parsePantry (sramRead s (argOf c 0) 16384) with
      | none => errWith s 0x4003
      | some r =>
        let (s, ix) := storePattern s { r with imported := true }
        okWith s [ix])

/-- SED_REPLICAS (R351). -/
def execSedReplicas (s : State) : Res :=
  runPartCmd 0x65 s (fun s c p =>
    let q := s.parts[p]
    let ranks := (((c.args.toList.drop 1).take (argOf c 0)).map (fun w => wfield w 15 0))
    if 7 < argOf c 0 then errWith s badArgument
    else if ranks.any (fun r => decide (q.ranks ≤ r ∨ r = q.rank)) then errWith s 0x4006
    else okWith (modDigests s p (fun x => { x with replicas := ranks })) [])

/-- The page digests of a version that the device holds: one of the last four exchanged, or the committed one (R350, R351). -/
def heldDigests (s : State) (p : PartIx) (v : Word) : Option (List (BitVec 256)) :=
  match (s.sed.digests[p]).own.find? (fun e => e.1 == v) with
  | some e => some e.2
  | none => if v = (s.parts[p]).version ∧ active s p ∧ (s.parts[p]).mirTodo.isEmpty then some (keptDigests s p) else none

/-- SED_DIGEST (R352). -/
def execSedDigest (s : State) : Res :=
  runPartCmd 0x66 s (fun s c p =>
    match heldDigests s p c.args[0] with
    | none => errWith s 0x4005
    | some ds =>
      let n := if argOf c 2 = 0 then ds.length - argOf c 1 else argOf c 2
      if ds.length < argOf c 1 + n ∨ ds.length < argOf c 1 then errWith s badArgument
      else
        let d := (contentOf ((ds.drop (argOf c 1)).take n)).toNat
        okWith s ((List.range 4).map (fun i => d / 2 ^ (64 * i) % 2 ^ 64)))

end Sys2Proof.Machine
end

