-- ==== Sys2Proof/Machine/RegRead.lean ====
section
/-! DEFINITION. The register map and what each register reads as (R9, R11, R19 to R22, R26, R31, R53; tables PK-5 to PK-13, PC-3 to PC-6,
CC-15 to CC-20, MA-9 to MA-12, VE-13 to VE-16, ST-9 to ST-16, CM-9 to CM-15, UP-4 to UP-9, SP-10 to SP-20, SE-13 to SE-19, FB-17 to FB-25,
CK-9 to CK-15, BS-15 to BS-20, DB-14 to DB-21, PW-8 to PW-13). The counters of table DB-22 read as samples and stand in Debug. -/

namespace Sys2Proof.Machine

/-! ### The control address map (R19, R21; table PK-5) -/

/-- A block of registers. -/
inductive Block where
  | pkg | boot | sec
  | stp (p : PartIx)
  | sed
  | ckp (p : PartIx)
  | dbg | trc | cnt | pwr
  | slc (d : DieIx)
  | cc (n : CoreIx)
  | ma (n : CoreIx) (k : Fin 4)
  | ve (n : CoreIx)
  | cel (c : CellarIx)
  | upd (c : CellarIx)
  | fab (d : PortDieIx)
  | pci
  deriving DecidableEq, Repr

/-- A memory window of table PK-5. -/
inductive Window where
  | rom | sram | flash
  | hall (d : DieIx)
  | core (n : CoreIx)
  | cellar (c : CellarIx)
  | hbm
  deriving DecidableEq, Repr

/-- What an address reaches: a register block with the offset in it, a window with the offset in it, or nothing. -/
inductive Target where
  | reg (b : Block) (off : Nat)
  | mem (w : Window) (off : Nat)
  | none
  deriving DecidableEq, Repr

/-- The blocks of the 16 MiB at 0x00_0200_0000. -/
def mgmtBlock (o : Nat) : Target :=
  match o / 2 ^ 20 with
  | 0 => .reg .boot o
  | 1 => .reg .sec (o % 2 ^ 20)
  | 2 => match toFin 8 (o % 2 ^ 20 / 4096) with | some p => .reg (.stp p) (o % 4096) | none => .none
  | 3 => .reg .sed (o % 2 ^ 20)
  | 4 => match toFin 8 (o % 2 ^ 20 / 4096) with | some p => .reg (.ckp p) (o % 4096) | none => .none
  | 5 => .reg .dbg (o % 2 ^ 20)
  | 6 => .reg .trc (o % 2 ^ 20)
  | 7 => .reg .cnt (o % 2 ^ 20)
  | 8 => .reg .pwr (o % 2 ^ 20)
  | _ => .none

/-- The registers of a compute die's window (R21). -/
def dieBlock (d : DieIx) (o : Nat) : Target :=
  if o < 0x100000 then .reg (.slc d) o
  else
    match toFin 20 ((o - 0x100000) / 0x10000) with
    | none => .none
    | some i =>
      let n : CoreIx := ⟨20 * d.val + i.val, by omega⟩
      let w := o % 0x10000
      if w < 0x4000 then .reg (.cc n) w
      else if w < 0x8000 then (match toFin 4 ((w - 0x4000) / 0x1000) with | some k => .reg (.ma n k) (w % 0x1000) | none => .none)
      else .reg (.ve n) (w - 0x8000)

/-- Bytes of the HBM3 data space (R22). -/
def dataSpace (s : State) : Nat := 511 * (2 ^ 30 * (36 * nStacks s) / 512)

/-- The target of a control address (table PK-5). -/
def targetOf (s : State) (a : Nat) : Target :=
  if a < 0x40000 then .mem .rom a
  else if a < 0x400000 then .none
  else if a < 0x800000 then .mem .sram (a - 0x400000)
  else if a < 0x1000000 then .none
  else if a < 0x1010000 then .reg .pkg (a - 0x1000000)
  else if a < 0x2000000 then .none
  else if a < 0x3000000 then mgmtBlock (a - 0x2000000)
  else if a < 0x10000000 then .none
  else if a < 0x20000000 then .mem .flash (a - 0x10000000)
  else if a < 0x100000000 then .none
  else if a < 0x200000000 then (match toFin 2 ((a - 0x100000000) / 2 ^ 24) with | some d => dieBlock d (a % 2 ^ 24) | none => .none)
  else if a < 0x300000000 then
    (match toFin 12 ((a - 0x200000000) / 2 ^ 24) with
     | some c => if a % 2 ^ 24 < 0x10000 then .reg (.cel c) (a % 2 ^ 24) else .reg (.upd c) (a % 2 ^ 24 - 0x10000)
     | none => .none)
  else if a < 0x400000000 then
    (match toFin 3 ((a - 0x300000000) / 2 ^ 24) with
     | some d => if a % 2 ^ 24 < 0x100000 then .reg (.fab d) (a % 2 ^ 24) else if d = 0 then .reg .pci (a % 2 ^ 24 - 0x100000) else .none
     | none => .none)
  else if a < 0x1000000000 then .none
  else if a < 0x1100000000 then
    (match toFin 2 ((a - 0x1000000000) / 2 ^ 28) with
     | some d => if a % 2 ^ 28 < 2 ^ 26 then .mem (.hall d) (a % 2 ^ 28) else .none
     | none => .none)
  else if a < 0x1200000000 then
    (match toFin 40 ((a - 0x1100000000) / 2 ^ 23) with
     | some n => if a % 2 ^ 23 < coreStoreBytes then .mem (.core n) (a % 2 ^ 23) else .none
     | none => .none)
  else if a < 0x8000000000 then
    (match toFin 12 ((a - 0x1200000000) / 2 ^ 25) with | some c => .mem (.cellar c) (a % 2 ^ 25) | none => .none)
  else if a < 0x8000000000 + dataSpace s then .mem .hbm (a - 0x8000000000)
  else .none

/-! ### PKG (tables PK-6 to PK-13, PC-3 to PC-6) -/

/-- A number whose bit `i` is `f i`. -/
def bitSet (n : Nat) (f : Nat → Bool) : Nat := ((List.range n).map (fun i => if f i then 2 ^ i else 0)).sum

/-- PKG_STATUS. -/
def pkgStatus (s : State) : Nat :=
  place s.pkg.errCount 11 4 + place (b2n s.pkg.inventory) 3 3 + place (b2n s.pkg.accessErr) 2 2

/-- PKG_LINK_UP. -/
def pkgLinkUp (s : State) : Nat :=
  place (bitSet 2 (fun d => s.pkg.ucie.toList.getD d false)) 19 18 + place (b2n s.pkg.bridge) 17 17
    + place (bitSet 3 (fun d => s.pkg.portLink.toList.getD d false)) 16 14 + place (bitSet 12 (fun c => s.pkg.cellarLink.toList.getD c false)) 13 2

/-- The PKG_ registers; X fields read 0 until the inventory is valid (R31). -/
def pkgRead (s : State) (off : Nat) : Option Nat :=
  let x := fun (v : Nat) => if s.pkg.inventory then v else 0
  let f := s.fuses
  if off = 0x0 then
    some (place 0x554C 47 32 + 0x0720
      + x (place (b2n f.m12) 30 30 + place (portDies s) 29 28 + place (nStacks s) 27 24 + place f.stepping 23 16))
  else if off = 0x8 then some (x f.serial.toNat)
  else if off = 0x10 then some (2 ^ 17 + 3 + x (place (2 ^ portDies s - 1) 16 14 + place (2 ^ nStacks s - 1) 13 2))
  else if off = 0x18 then some (pkgLinkUp s)
  else if off = 0x20 then some (x f.coresPresent.toNat)
  else if off = 0x28 then some (x s.pkg.coreService.toNat)
  else if off = 0x30 then
    some (x (place s.pkg.fabLanes 55 48 + place s.pkg.hbmPc 47 39 + place s.pkg.updUnits 38 35 + place s.pkg.laneGroups 34 26 + place s.pkg.arrays 7 0))
  else if off = 0x38 then some (pkgStatus s)
  else if off = 0x40 then some (place s.pkg.errKind 41 40 + place s.pkg.errAddr 39 0)
  else if off = 0x1000 then some 0
  else if 0x1008 ≤ off ∧ off < 0x1048 then some ((s.mbox.args.toList.getD ((off - 0x1008) / 8) 0).toNat)
  else if off = 0x1048 then some (mboxStatus s)
  else if 0x1050 ≤ off ∧ off < 0x1090 then some ((s.mbox.results.toList.getD ((off - 0x1050) / 8) 0).toNat)
  else if off = 0x1090 then some (secOwner s)
  else none

/-! ### Cores (tables CC-15 to CC-20, MA-9 to MA-12, VE-13 to VE-16) -/

/-- Code of a context state (table CC-1). -/
def ctxCode : CtxSt → Nat
  | .none => 0 | .run => 1 | .ready => 2 | .blocked => 3 | .parked => 4 | .stopped => 5 | .faulted => 6

/-- CC_STATUS. -/
def ccStatus (c : Core) : Nat :=
  place ((ixs 4).map (fun i => ctxCode (c.ctx[i]).st * 8 ^ i.val)).sum 27 16 + place c.current.val 5 4 + place (b2n c.stopped) 3 3
    + place (b2n ((ixs 4).any (fun i => (c.ctx[i]).st == .faulted))) 2 2 + place (b2n (c.waitHeld.isSome || c.quantumHeld.isSome)) 1 1

/-- CC_BIND. -/
def ccBind (c : Core) : Nat :=
  match c.bound with
  | [] => 0
  | [a] => place (a.ctxN - 1) 19 18 + place 1 16 16 + place a.lcore 5 0
  | a :: b :: _ => place (a.ctxN - 1) 19 18 + place 1 17 17 + place 1 16 16 + place b.lcore 13 8 + place a.lcore 5 0

/-- CC_EXC of a context. -/
def ccExc (e : ExcRec) : Nat :=
  place e.code 63 56 + place e.cls 55 54 + place (b2n e.secondary) 41 41 + place (b2n e.valid) 40 40 + place e.pc.toNat 39 0

/-- The CC_ registers. -/
def ccRead (c : Core) (off : Nat) : Option Nat :=
  if off = 0x0 then some (place c.waitLimit 47 32 + place c.quantum 15 0)
  else if off = 0x8 then some (ccStatus c)
  else if off = 0x10 then some (ccBind c)
  else if 0x20 ≤ off ∧ off < 0x80 then
    match toFin 4 (off % 0x20 / 8) with
    | none => none
    | some i =>
      let x := c.ctx[i]
      some (if off < 0x40 then x.pc.toNat else if off < 0x60 then ccExc x.exc else x.exc.info.toNat)
  else none

/-- Code of a half's state (table MA-10). -/
def halfCode : HalfSt → Nat
  | .free => 0 | .acc => 1 | .draining => 2 | .kept => 3

/-- MA_ERR. -/
def maErr (r : MaRegs) : Nat :=
  place r.corrCount 47 32 + place (b2n r.uncorr) 2 2 + place (b2n r.corr) 1 1 + place (b2n r.parityErr) 0 0

/-- Is a load, feed or drain in progress on an array: one of the pass or WPRE whose turn it is, or of the drain that the queue stands at
(table MA-10)? -/
def arrayBusy (c : Core) (k : Nat) : Bool :=
  (match passTurn c with
    | some (_, ⟨_, _, .mma j⟩) => (match (j.plan[j.pIx]?).bind (passBlocks j) with | some (_, l) => l.any (fun e => e.2 == k) | none => false)
    | some (_, ⟨_, _, .wpre f _ _⟩) => (wpreArrays c f).contains k
    | _ => false)
  || (match drainHead c with
    | some (_, j, mg, nb, _) => (match tileHalf j mg nb with | some (arr, _) => arr == k | none => j.arrays.getD j.tIx 0 == k)
    | none => false)

/-- MA_TERMS of a half. -/
def maTerms (h : Half) : Nat := place (b2n (decide (2 ^ 31 < h.terms))) 32 32 + min h.terms 0xFFFFFFFF

/-- The MA_ registers of an array. -/
def maRead (c : Core) (k : Fin 4) (off : Nat) : Option Nat :=
  let a := c.arrays[k]
  let r := a.regs
  if off = 0x0 then some (place r.ramp 23 16 + place (b2n r.parity) 1 1)
  else if off = 0x8 then
    let keep := match a.half1.owner with | some i => if a.half1.st = .kept then i.val else 0 | none => 0
    some (place (halfCode a.half1.st) 15 14 + place (halfCode a.half0.st) 13 12 + place keep 11 10 + place (b2n a.fencePending) 7 7
      + place (b2n a.fenced) 6 6 + place (b2n (arrayBusy c k.val)) 5 5 + place (b2n (r.uncorr || r.corr || r.parityErr)) 4 4
      + place (b2n r.rampHeld.isSome) 1 1 + place (b2n r.refused) 0 0)
  else if off = 0x10 then some (maErr r)
  else if off = 0x18 then some (maTerms a.half0)
  else if off = 0x20 then some (maTerms a.half1)
  else none

/-- VE_ERR. -/
def veErr (r : VeRegs) : Nat :=
  place r.corrCount 47 32 + place (b2n r.chainPar) 3 3 + place (b2n r.uncorr) 2 2 + place (b2n r.corr) 1 1 + place (b2n r.lanePar) 0 0

/-- The depth that the image declares for the flume of the `b`-th logical core bound to a core. -/
def flumeDepth (s : State) (n : CoreIx) (b : Nat) : Nat :=
  match (s.cores[n]).bound[b]? with
  | none => 0
  | some x => match lcoreE s x.part x.lcore with | some e => e.flumeDepth | none => 0

/-- Is the chain of a DIRECT drain in progress: does the matrix queue stand at such a drain (table VE-14)? -/
def chainDrains (c : Core) : Bool := match drainHead c with | some (_, j, _) => j.f.drain == .direct | none => false

/-- The VE_ registers of a core. -/
def veRead (s : State) (n : CoreIx) (off : Nat) : Option Nat :=
  let c := s.cores[n]
  let r := c.ve
  if off = 0x0 then some (place r.share 11 8 + place (b2n r.parity) 1 1)
  else if off = 0x8 then
    some (place r.fencePending.toNat 31 24 + place r.fenced.toNat 23 16 + place (b2n (!c.vq.isEmpty || chainDrains c)) 5 5
      + place (b2n (r.chainPar || r.uncorr || r.corr || r.lanePar)) 4 4 + place (b2n r.shareHeld.isSome) 1 1 + place (b2n r.refused) 0 0)
  else if off = 0x10 then some (veErr r)
  else if off = 0x18 then
    some (place (c.banks[1]).flume.length 29 24 + place (flumeDepth s n 1) 21 16 + place (c.banks[0]).flume.length 13 8 + place (flumeDepth s n 0) 5 0)
  else none

/-! ### Sluices (tables ST-9 to ST-16) -/

/-- SLC_CTX_INFO0 of a physical context as a snapshot takes it. -/
def ctxInfo0 (s : State) (d : DieIx) (i : Nat) : Nat :=
  match streamAt s d i with
  | none => 0
  | some x =>
    place (if eligible s d i x then 2 else 1) 63 62 + place x.desc.kind 61 61 + place x.part.val 60 58 + place x.lcore 57 52 + place x.sctx 51 46
      + place (effTte s x) 31 0

/-- SLC_CTX_INFO1 of a physical context. -/
def ctxInfo1 (s : State) (d : DieIx) (i : Nat) : Nat :=
  match streamAt s d i with
  | none => 0
  | some x => place (fillOf s x) 63 40 + place (x.total - 256 * x.granted) 39 0

/-- SLC_ERR. -/
def slcErr (q : Sluice) : Nat :=
  place (b2n q.descUnc) 3 3 + place (b2n q.pathDown) 2 2 + place (b2n q.srcUnc) 1 1 + place (b2n q.tagMis) 0 0

/-- SLC_ALLOW of a partition on a die. -/
def slcAllow (s : State) (d : DieIx) (p : PartIx) : Nat :=
  match (s.parts[p]).allot with
  | none => 0
  | some a => place (a.strBase.getD d.val 0) 29 16 + place (a.strCount.getD d.val 0) 13 0

/-- The SLC_ registers. -/
def slcRead (s : State) (d : DieIx) (off : Nat) : Option Nat :=
  let q := s.sluices[d]
  if off = 0x0 then some (place q.grants 23 20 + place q.ageLimit 15 0)
  else if off = 0x8 then some (place q.ctxs.length 45 32 + place (b2n (decide (slcErr q ≠ 0))) 4 4)
  else if off = 0x10 then some (slcErr q)
  else if off = 0x18 then some (place q.dup 47 32 + place q.stale 15 0)
  else if 0x20 ≤ off ∧ off < 0x60 then (toFin 8 ((off - 0x20) / 8)).map (slcAllow s d)
  else if off = 0x60 then some q.sel
  else if off = 0x68 then some q.info0.toNat
  else if off = 0x70 then some q.info1.toNat
  else none

/-! ### Cellar dies (tables CM-9 to CM-15, UP-4 to UP-9) -/

/-- CEL_ERR. -/
def celErr (x : Cellar) : Nat :=
  place x.retryOk 47 32 + place (b2n x.pcExhausted) 7 7 + place (b2n x.scrubCrc) 6 6 + place (b2n x.hbmUncorr) 5 5 + place (b2n x.unwritten) 4 4
    + place (b2n x.versionErr) 3 3 + place (b2n x.foldErr) 2 2 + place (b2n x.crcErr) 1 1 + place (b2n x.lost) 0 0

/-- The CEL_ registers. -/
def celRead (x : Cellar) (off : Nat) : Option Nat :=
  if off = 0x0 then some (place x.scrubHours 47 32 + place x.runHold 23 16 + place x.writeBatch 15 8 + place x.gatherAge 7 0)
  else if off = 0x8 then
    some (place x.band 11 10 + place (b2n (match x.remap with | some r => !r.copied | none => false)) 8 8 + place (b2n x.wipeBusy) 7 7
      + place (b2n (x.scrubbing && decide (x.scrubHours ≠ 0))) 6 6 + place (b2n (decide (1 ≤ x.band))) 5 5 + place (b2n (decide (celErr x % 2 ^ 8 ≠ 0))) 4 4
      + place (b2n (x.scrubHeld.isSome || x.runHeld.isSome || x.batchHeld.isSome || x.gatherHeld.isSome)) 1 1)
  else if off = 0x10 then some (celErr x)
  else if off = 0x18 then
    some (place (b2n x.tagLog.valid) 63 63 + place x.tagLog.cause 62 60 + place x.tagLog.source 59 57 + place x.tagLog.offset 39 0)
  else if off = 0x20 then some (place x.peak 23 16 + place x.temp 7 0)
  else if off = 0x28 then
    some (place (match x.remap with | some r => 2 ^ r.pc | none => 0) 63 32 + place (match x.pcFenced with | some q => 2 ^ q | none => 0) 31 0)
  else if off = 0x30 then some x.winVersion
  else none

/-- UPD_ERR. -/
def updErr (u : Upd) : Nat :=
  place u.corrCount 47 32 + place (b2n u.poolExhausted) 3 3 + place (b2n u.lanePar) 2 2 + place (b2n u.stagingUnc) 1 1 + place (b2n u.stagingCorr) 0 0

/-- UPD_POOL of a partition on a stack. -/
def updPool (s : State) (c : CellarIx) (p : PartIx) : Nat :=
  let (lo, n) := poolArea s p
  let blocks := ((List.range n).map (lo + ·)).filter (fun b => b % nStacks s == c.val)
  let retained := (mapped s p).filter (fun e => match e.2.retained with | some x => x.1 % nStacks s == c.val | none => false)
  place retained.length 59 40 + place (blocks.filter (blockFree s p)).length 39 20 + place blocks.length 19 0

/-- The UPD_ registers, by offset in the block. -/
def updRead (s : State) (c : CellarIx) (off : Nat) : Option Nat :=
  let x := s.cellars[c]
  let u := x.upd
  if off = 0x0 then some (place u.reportMs 31 16 + place u.reserve 11 0)
  else if off = 0x8 then
    let dep := match deputyOf s c.val with | some d => d.val | none => c.val
    let red := redBusy u
    some (place dep 15 12 + place (b2n u.fenced) 11 11 + place (b2n (s.freed.any (fun e => e.2 % nStacks s == c.val))) 10 10
      + place (b2n u.poolWait) 9 9 + place (min x.band 2) 8 7 + place (b2n red) 6 6 + place (b2n (unitBusy s c)) 5 5
      + place (b2n (decide (updErr u % 2 ^ 4 ≠ 0))) 4 4 + place (b2n (u.reportHeld.isSome || u.reserveHeld.isSome)) 1 1)
  else if off = 0x10 then some (updErr u)
  else if off = 0x18 then some (place u.refused 63 48 + place u.unlisted 47 32 + place u.stale 31 16 + place u.dup 15 0)
  else if 0x20 ≤ off ∧ off < 0x60 then (toFin 8 ((off - 0x20) / 8)).map (updPool s c)
  else if off = 0x60 then some (place u.granules.sum 63 32 + place u.parked.length 27 16 + place u.sums.length 11 0)
  else none

/-! ### Steps and checkpoints (tables SP-10 to SP-20, CK-9 to CK-15) -/

/-- STP_ERR. -/
def stpErr (q : Part) : Nat :=
  place q.staleCount 63 48 + place q.badTokenCount 47 32 + place (b2n q.repairFailed) 4 4 + place (b2n q.vestFull) 3 3 + place (b2n q.twinLostErr) 2 2
    + place (b2n q.commitTimeoutErr) 1 1 + place (b2n q.badToken) 0 0

/-- The STP_ registers of a partition. -/
def stpRead (q : Part) (off : Nat) : Option Nat :=
  if off = 0x0 then
    some (place q.peerTimeout 63 56 + place q.heartbeat 55 48 + place q.maxAttempts 35 32 + place q.readyTimeout 31 16 + place q.commitTimeout 15 0)
  else if off = 0x8 then
    some (place q.attempt 63 56 + place (stepCode q.step) 50 48 + place (twinCode q.twin) 44 42 + place (b2n (q.inGroup && q.twin != .paired)) 41 41
      + place (b2n (isCoord q)) 40 40 + place (b2n (decide (stpErr q % 2 ^ 5 ≠ 0))) 4 4 + place (b2n q.maxAttHeld.isSome) 1 1)
  else if off = 0x10 then some q.stepNo.toNat
  else if off = 0x18 then some q.version.toNat
  else if off = 0x20 then some (place q.group.toNat 63 32 + q.epoch.toNat)
  else if off = 0x28 then some (place (b2n q.requireTwin) 48 48 + place q.coord 47 32 + place (q.ranks - 1) 31 16 + place q.rank 15 0)
  else if off = 0x30 then some q.twinSerial.toNat
  else if off = 0x38 then some (place q.twinRank 47 32 + place q.twinPort 20 16 + place q.twinPart 2 0)
  else if off = 0x40 then some q.mirrorVersion.toNat
  else if 0x48 ≤ off ∧ off < 0x78 then some (match q.token with | some t => (tokenWords t).getD ((off - 0x48) / 8) 0 | none => 0)
  else if off = 0x78 then some (stpErr q)
  else if off = 0x80 then
    some (place (ceilDiv q.vestUsed (2 ^ 20)) 63 32 + place (match q.allot with | some a => a.vest / 2 ^ 20 | none => 0) 31 0)
  else none

/-- CKP_ERR. -/
def ckpErr (k : Ckp) : Nat :=
  place k.skipCount 47 32 + place (b2n k.restoreFailed) 2 2 + place (b2n k.abandoned) 1 1 + place (b2n k.skipped) 0 0

/-- The CKP_ registers of a partition. -/
def ckpRead (q : Part) (off : Nat) : Option Nat :=
  let k := q.ckp
  let c := k.cfg
  if off = 0x0 then
    some (place c.run 63 52 + place c.baseEvery 51 48 + place k.timeoutS 47 40 + place (b2n c.target) 36 36 + place (b2n c.enable) 32 32 + place c.every 31 0)
  else if off = 0x8 then some (place c.slotGib 47 32 + place c.storeNode 15 0)
  else if off = 0x10 then some (place c.shards 31 16 + place c.shard 15 0)
  else if off = 0x18 then some (ckpStatus q)
  else if off = 0x20 then some k.lastSealed.toNat
  else if off = 0x28 then some k.lastCut.toNat
  else if off = 0x30 then some (ckpProgress k)
  else if off = 0x38 then some (ckpErr k)
  else none

/-! ### Silent errors (tables SE-13 to SE-19) -/

/-- SED_ERR. -/
def sedErr (x : Sed) : Nat :=
  place (b2n x.overflow) 5 5 + place (b2n x.digestErr) 4 4 + place (b2n x.comparator) 3 3 + place (b2n x.novote) 2 2 + place (b2n x.split) 1 1
    + place (b2n x.blameErr) 0 0

/-- SED_COUNT of a partition. -/
def sedCount (k : SedCount) : Nat := place k.compared 63 40 + place k.ineligible 39 16 + place k.disagreed 15 0

/-- The SED_ registers. -/
def sedRead (s : State) (off : Nat) : Option Nat :=
  let x := s.sed
  if off = 0x0 then some (place x.clearCount 55 32 + place x.fenceAfter 31 28 + place x.pcErrLimit 23 16 + place (b2n x.degraded) 8 8)
  else if off = 0x8 then
    some (place x.items.length 47 32 + place (x.units.filter (fun e => e.2.st == .suspect)).length 31 24 + place (pantry s).length 16 8
      + place (b2n x.test.isSome) 5 5 + place (b2n (decide (sedErr x ≠ 0))) 4 4
      + place (b2n ((ixs 8).any (fun p => (x.rates[p]).everyHeld.isSome || (x.rates[p]).shiftHeld.isSome))) 1 1 + place (b2n x.refused) 0 0)
  else if off = 0x10 then some (sedErr x)
  else if off = 0x18 then some x.seed.toNat
  else if 0x20 ≤ off ∧ off < 0x60 then (toFin 8 ((off - 0x20) / 8)).map (fun p => place (x.rates[p]).every 31 16 + place (x.rates[p]).shift 3 0)
  else if 0x60 ≤ off ∧ off < 0xA0 then (toFin 8 ((off - 0x60) / 8)).map (fun p => sedCount x.counts[p])
  else if off = 0xA0 then
    let v := x.last
    some (place (b2n v.valid) 63 63 + place v.verdict 62 60 + place v.part 59 57 + place v.voter 47 32 + place v.checker 31 16 + place v.original 15 0)
  else none

/-! ### Fabric and PCIe (tables FB-17 to FB-25) -/

/-- FAB_ERR. -/
def fabErr (d : PortDie) : Nat :=
  place (b2n d.reportsLost) 13 13 + place (b2n d.hopLimit) 12 12 + place (b2n d.authFail) 11 11 + place (b2n d.portDown) 10 10 + place (b2n d.laneFenced) 9 9

/-- The key generation that a port uses: the low 16 bits of FAB_PORT.KEY_GEN. -/
def portWord (s : State) (f : PortIx) : Nat :=
  let p := s.fab.ports[f]
  place p.peerNode 63 48 + place p.keyGen 47 32 + place p.lanes.toNat 23 16 + place (b2n (isTwinPort s f)) 4 4 + place (portCode p.st) 2 0

/-- FAB_FEC of a port. -/
def fecWord (p : Port) : Nat := place p.corrected 63 32 + place p.uncorr 31 16 + place p.nacks 15 0

/-- FAB_DISCARDS. -/
def fabDiscards (d : PortDie) : Nat := place d.stale 63 48 + place d.noRoute 47 32 + place d.hopCount 31 16 + place d.noTarget 15 0

/-- The port of a local number on a port die. -/
def localPort (d : PortDieIx) (j : Nat) : Option PortIx := if j < 6 then toFin 18 (6 * d.val + j) else none

/-- The FAB_ registers of a port die. -/
def fabRead (s : State) (d : PortDieIx) (off : Nat) : Option Nat :=
  let x := s.fab.dies[d]
  if off = 0x0 then some (place x.retryUs 63 48 + place x.uncorrLimit 47 40 + place x.vl1Share 39 36 + place x.idleUs 15 0)
  else if off = 0x8 then some (place s.fab.node 63 48 + place (ceilDiv (storeUsed x) 1024) 47 24 + place (b2n (decide (fabErr x ≠ 0))) 4 4)
  else if off = 0x10 then some (fabErr x)
  else if off = 0x18 then some (fabDiscards x)
  else if 0x40 ≤ off ∧ off < 0x70 then (localPort d ((off - 0x40) / 8)).map (portWord s)
  else if 0x80 ≤ off ∧ off < 0xB0 then (localPort d ((off - 0x80) / 8)).map (fun f => fecWord s.fab.ports[f])
  else if off = 0xC0 then some x.routeSel
  else if off = 0xC8 then some x.routeData
  else none

/-- The PCI_ registers. -/
def pciRead (s : State) (off : Nat) : Option Nat :=
  let x := s.pcie
  if off = 0x0 then some (place (b2n x.ide) 11 11 + place x.width 10 6 + place x.speed 5 3 + place (b2n x.up) 2 2)
  else if 0x40 ≤ off ∧ off < 0x80 then (toFin 8 ((off - 0x40) / 8)).map (fun p => (x.wins[p]).base.toNat)
  else if 0x80 ≤ off ∧ off < 0xC0 then (toFin 8 ((off - 0x80) / 8)).map (fun p => (x.wins[p]).size.toNat)
  else none

/-! ### BOOT, SEC, DBG, TRC, CNT, PWR -/

/-- The BOOT_ registers. -/
def bootRead (s : State) (off : Nat) : Option Nat :=
  if off = 0x0 then some (bootStatus s) else if off = 0x8 then some (bootHoldup s) else if off = 0x10 then some (bootImage s) else none

/-- The SEC_ registers. -/
def secRead (s : State) (off : Nat) : Option Nat :=
  if off = 0x0 then some (secStatus s)
  else if off = 0x8 then some (secOwner s)
  else if 0x40 ≤ off ∧ off < 0x80 then (toFin 8 ((off - 0x40) / 8)).map (secPartCores s)
  else if 0x80 ≤ off ∧ off < 0xC0 then (toFin 8 ((off - 0x80) / 8)).map (secPartHbm s)
  else none

/-- DBG_STATUS (table DB-15). -/
def dbgStatus (s : State) : Nat :=
  let d := s.dbg
  place d.level 63 61 + place d.unlockSrc 60 58 + place (b2n d.halted) 57 57 + place (b2n d.halting) 56 56 + place d.haltCause 39 32
    + place (b2n d.tapDenied) 5 5 + place (b2n d.tapDenied) 4 4 + place (b2n d.refused) 0 0

/-- The registers of a dump trigger (tables DB-17, DB-18). -/
def dumpRead (d : Dump) (off : Nat) : Option Nat :=
  if off = 0x0 then
    some (place d.tensor 63 40 + place d.partition 39 37 + place d.lcore 35 30 + place d.attempt 29 22 + place (b2n d.halt) 3 3 + place (b2n d.mode) 2 2
      + place (b2n d.target) 1 1 + place (b2n d.enable) 0 0)
  else if off = 0x8 then some d.step.toNat
  else if off = 0x10 then some (place d.state 63 61 + place d.occurrence 31 0)
  else if off = 0x18 then some (place d.host 39 0)
  else none

/-- The DBG_ registers. -/
def dbgRead (s : State) (off : Nat) : Option Nat :=
  let d := s.dbg
  if off = 0x0 then some (place (b2n d.haltOnExc) 7 7 + place (b2n d.haltMgmt) 6 6)
  else if off = 0x8 then some (dbgStatus s)
  else if off = 0x10 then some d.stopSel
  else if off = 0x18 then some d.stopCount
  else if off = 0x20 then some d.stopTime
  else if off = 0x28 then some s.rtime
  else if 0x100 ≤ off ∧ off < 0x180 then
    match toFin 4 ((off - 0x100) / 0x20) with
    | some i => dumpRead d.dumps[i] (off % 0x20)
    | none => none
  else none

/-- The TRC_ registers. -/
def trcRead (s : State) (off : Nat) : Option Nat :=
  let t := s.trc
  if off = 0x0 then some (place t.cfg.cntPeriod 39 32 + place t.cfg.events 31 16 + place t.cfg.syncUs 15 8 + place (b2n t.enable) 0 0)
  else if off = 0x8 then
    some (place (ceilDiv (8 * (t.queue.map (fun q => q.2.length)).sum) 1024) 23 12 + place (if tracing s then 15 else 0) 11 8
      + place (b2n (decide (t.lostFlow ≠ 0 ∨ t.lostEvent ≠ 0 ∨ t.lostCounter ≠ 0))) 4 4 + place (b2n t.held.isSome) 1 1)
  else if off = 0x10 then some t.cfg.cores.toNat
  else if off = 0x18 then some (place t.lostCounter 47 32 + place t.lostEvent 31 16 + place t.lostFlow 15 0)
  else none

/-- The CNT_ registers of table DB-21. -/
def cntRead (k : CntBlk) (off : Nat) : Option Nat :=
  if off = 0x0 then some k.gwin
  else if 0x40 ≤ off ∧ off < 0x80 then (toFin 8 ((off - 0x40) / 8)).map (fun p => k.win[p])
  else none

/-- PWR_STATUS (table PW-9). DEDUCED (log entry 226): STRETCH counts every stretch, those of E0 and E1 too, and DEEP every stretch that
runs the region at 1.05 GHz. -/
def pwrStatus (s : State) : Nat :=
  let p := s.pwr
  place p.pstate 63 62 + place (pkgLevel s) 59 56 + place (p.dies[1]).target 55 52 + place (p.dies[0]).target 51 48
    + place ((ixs 8).map (fun r => if stretched s r then 2 ^ r.val else 0)).sum 47 40
    + place ((ixs 8).map (fun r => if stretched s r && regionMhz s r == 1050 then 2 ^ r.val else 0)).sum 39 32
    + place (b2n p.cooldown) 8 8 + place (b2n p.boost) 7 7 + place (b2n (!released s || (p.dies[0]).e0 || (p.dies[1]).e0)) 6 6
    + place (b2n (decide (1 < (p.dies[0]).throttle ∨ 1 < (p.dies[1]).throttle) || anyB3 s)) 5 5
    + place (b2n (p.vrTimeout || p.current || p.electrical || p.sustained || p.thermal || p.stackB3)) 4 4 + place (b2n p.held.isSome) 1 1

/-- PWR_POWER (table PW-10). -/
def pwrPower (s : State) : Nat :=
  place s.pwr.peak 63 48 + place (avgPower s 1000000) 47 32 + place (avgPower s 1000) 31 16 + place (s.pwr.samples.headD 0) 15 0

/-- PWR_TEMP (table PW-11). -/
def pwrTemp (s : State) : Nat :=
  let p := s.pwr
  let stack := ((ixs 12).map (fun c => if c.val < nStacks s then (s.cellars[c]).temp else 0)).foldl max 0
  place stack 55 48 + place p.tempMpd 47 40
    + place ((ixs 3).map (fun d => if d.val < portDies s then p.tempPort[d] % 256 * 256 ^ d.val else 0)).sum 39 16
    + place p.tempDie[1] 15 8 + place p.tempDie[0] 7 0

/-- PWR_ERR (table PW-12). -/
def pwrErr (p : Pwr) : Nat :=
  place p.limitCount 47 32 + place (b2n p.vrTimeout) 5 5 + place (b2n p.current) 4 4 + place (b2n p.electrical) 3 3 + place (b2n p.sustained) 2 2
    + place (b2n p.thermal) 1 1 + place (b2n p.stackB3) 0 0

/-- The PWR_ registers. -/
def pwrRead (s : State) (off : Nat) : Option Nat :=
  let p := s.pwr
  if off = 0x0 then
    some (place p.cfg.capW 63 48 + place p.cfg.boostMargin 47 40 + place p.cfg.tjThrottle 39 32 + place p.stretchHold 31 16 + place (b2n p.cfg.boostEn) 0 0)
  else if off = 0x8 then some (pwrStatus s)
  else if off = 0x10 then some (pwrPower s)
  else if off = 0x18 then some (pwrTemp s)
  else if off = 0x20 then some (pwrErr p)
  else if off = 0x28 then some (place (p.wear.credits.getD 1 0) 63 32 + place (p.wear.credits.getD 0 0) 31 0)
  else none

/-! ### Any register -/

/-- Is a counter of table DB-22 at this offset of the CNT block: the partition it counts for (none: global) and its index? -/
def counterAt (off : Nat) : Option (Option PartIx × Nat) :=
  if off % 8 ≠ 0 then none
  else if 0x1000 ≤ off ∧ off < 0x1800 ∧ off % 0x100 < 0x80 then (toFin 8 ((off - 0x1000) / 0x100)).map (fun p => (some p, off % 0x100 / 8))
  else if 0x2000 ≤ off ∧ off < 0x2080 then some (none, (off - 0x2000) / 8)
  else none

/-- The counter that a register of a block holds. -/
def counterOf (b : Block) (off : Nat) : Option (Option PartIx × Nat) :=
  match b with
  | .cnt => counterAt off
  | _ => none

/-- What a register reads as; none where the block has no register. A read of a counter is a sample, taken where the access
is made (R467): here only its place is known. -/
def regRead (s : State) (b : Block) (off : Nat) : Option Nat :=
  if off % 8 ≠ 0 then none
  else
    match b with
    | .pkg => pkgRead s off
    | .boot => bootRead s off
    | .sec => secRead s off
    | .stp p => stpRead s.parts[p] off
    | .sed => sedRead s off
    | .ckp p => ckpRead s.parts[p] off
    | .dbg => dbgRead s off
    | .trc => trcRead s off
    | .cnt => if (counterAt off).isSome then some 0 else cntRead s.cnt off
    | .pwr => pwrRead s off
    | .slc d => slcRead s d off
    | .cc n => ccRead s.cores[n] off
    | .ma n k => maRead s.cores[n] k off
    | .ve n => veRead s n off
    | .cel c => celRead s.cellars[c] off
    | .upd c => updRead s c off
    | .fab d => fabRead s d off
    | .pci => pciRead s off

/-- The registers of a block in ascending order of address, below a bound, as bytes (R463). -/
def regBytes (s : State) (b : Block) (top : Nat) : List Byte :=
  (List.range (top / 8)).flatMap (fun i => match regRead s b (8 * i) with | some v => leBytes 8 v | none => [])

end Sys2Proof.Machine
end

