-- ==== Sys2Proof/Machine/Registers.lean ====
section
/-! DEFINITION. Register writes and accesses that clear (R7 to R11, R20, R23 to R26, R30, R50, R53, R235, R237, R247, R260, R379, R392, R438, R465,
R471, R492; tables SC-3, SC-4). -/

namespace Sys2Proof.Machine

/-! ### Failing accesses (R20, R23; table PK-13) -/

/-- Does the link to what an address reaches stand down? In P3 the dies have no power (table PW-4). DESIGN CHOICE (log entry 180): of a
cellar or port die its own link alone counts, whatever the UCIe module or the die bridge on the way to it does; R23 does not say. -/
def linkIsDown (s : State) (t : Target) : Bool :=
  let die := fun (d : DieIx) => !s.pkg.ucie[d] || s.pwr.pstate == 3
  match t with
  | .reg (.slc d) _ => die d
  | .reg (.cc n) _ => die (dieOfCore n)
  | .reg (.ma n _) _ => die (dieOfCore n)
  | .reg (.ve n) _ => die (dieOfCore n)
  | .mem (.hall d) _ => die d
  | .mem (.core n) _ => die (dieOfCore n)
  | .reg (.cel c) _ => !s.pkg.cellarLink[c]
  | .reg (.upd c) _ => !s.pkg.cellarLink[c]
  | .mem (.cellar c) _ => !s.pkg.cellarLink[c]
  | .reg (.fab d) _ => !s.pkg.portLink[d]
  | .reg .pci _ => !s.pkg.portLink[0]
  | .mem .hbm o => stackDown s (cellarOf s (o / 4096))
  | _ => false

/-- Is an address in the range of a die that the variant does not contain: the register windows of cellar dies and port dies, the SRAM of
cellar dies (table PK-5)? -/
def dieAbsent (s : State) (a : Nat) : Bool :=
  let inRange := fun (base size n lo : Nat) => decide (base + size * lo ≤ a ∧ a < base + size * n)
  inRange 0x200000000 (2 ^ 24) 12 (nStacks s) || inRange 0x300000000 (2 ^ 24) 3 (portDies s) || inRange 0x1200000000 (2 ^ 25) 12 (nStacks s)

/-- Do width and alignment obey R20? DESIGN CHOICE (log entry 181): a burst is any access of 9 to 256 bytes, at any byte address; R20 bounds
a burst from above alone and names no alignment for it. -/
def widthOk (t : Target) (a len : Nat) : Bool :=
  match t with
  | .reg .. => decide (len = 8 ∧ a % 8 = 0)
  | .mem .. => decide ((len = 4 ∧ a % 4 = 0) ∨ (len = 8 ∧ a % 8 = 0) ∨ (8 < len ∧ len ≤ 256 ∧ a / 4096 = (a + len - 1) / 4096))
  | .none => false

/-- Has the target a register, or memory, at that place? -/
def populated (s : State) (t : Target) : Bool :=
  match t with
  | .none => false
  | .reg b off => (regRead s b (off / 8 * 8)).isSome
  | .mem .. => true

/-- The kind of failure of an access of a management core (table PK-13); none when it succeeds. -/
def accessFail (s : State) (a len : Nat) : Option Nat :=
  let t := targetOf s a
  if dieAbsent s a then some 1
  else if !populated s t then some 0
  else if linkIsDown s t then some 2
  else if !widthOk t a len then some 3
  else none

/-! ### Fields by class (R11; table SC-4) -/

/-- A class B field: its active and its held value after a write. DESIGN CHOICE (log entry 182): a value that is still held when its block
stops running short of the boundary stays held; a write of the field while the block is idle takes effect at once and ends the hold
(R11 judges holds of a running block alone). -/
def bField {α : Type} [DecidableEq α] (running : Bool) (active v : α) : α × Option α :=
  if running then (active, if v = active then none else some v) else (v, none)

/-- A class S field: its value after a write, and whether the write was dropped. -/
def sField {α : Type} [DecidableEq α] (running : Bool) (active v : α) : α × Bool :=
  if running then (active, decide (v ≠ active)) else (v, false)

/-- The class B fields of a block with several registers: the active and the held values after a write of one register, whose fields `put`
sets. While the block is idle the write leaves what another register's fields hold (R11). -/
def bGroup {α : Type} [DecidableEq α] (running : Bool) (active : α) (held : Option α) (put : α → α) : α × Option α :=
  let a := if running then active else put active
  match (if running then some (put (held.getD active)) else held.map put) with
  | none => (a, none)
  | some h => (a, if h = a then none else some h)

/-- A W1C bit after a write. -/
def w1c (old : Bool) (v : Word) (bit : Nat) : Bool := old && !wbit v bit

/-- A value, or a default where it lies outside a range. -/
def orElse (lo hi dflt v : Nat) : Nat := if lo ≤ v ∧ v ≤ hi then v else dflt

/-- Is the partition that owns a core ARMED or RUNNING? -/
def coreRuns (s : State) (n : CoreIx) : Bool := match ownerOf s n with | some p => active s p | none => false

/-! ### Writes, block by block -/

/-- The PKG_ registers. -/
def pkgWrite (s : State) (off : Nat) (v : Word) (m : Master) : State :=
  if off = 0x38 then modPkg s (fun p => { p with accessErr := w1c p.accessErr v 2 })
  else if off = 0x1000 then acceptCmd s v m
  else if 0x1008 ≤ off ∧ off < 0x1048 then
    match toFin 8 ((off - 0x1008) / 8) with
    | some i => modMbox s (fun x => { x with args := x.args.set i.val v i.isLt })
    | none => s
  else if off = 0x1090 then writeOwner s (wfield v 1 0) m
  else s

/-- The CC_ registers. DESIGN CHOICE (log entry 190): clearing VALID discards the record by that bit alone, and the other fields of CC_EXC
keep what they held. -/
def ccWrite (s : State) (n : CoreIx) (off : Nat) (v : Word) : State :=
  if off = 0x0 then
    let run := coreRuns s n
    modCore s n (fun c =>
      let w := bField run c.waitLimit (wfield v 47 32)
      let q := bField run c.quantum (wfield v 15 0)
      { c with waitLimit := w.1, waitHeld := w.2, quantum := q.1, quantumHeld := q.2 })
  else if 0x40 ≤ off ∧ off < 0x60 then
    match toFin 4 ((off - 0x40) / 8) with
    | some i => modCtx s n i (fun x => { x with exc := { x.exc with valid := w1c x.exc.valid v 40 } })
    | none => s
  else s

/-- The MA_ registers of an array. -/
def maWrite (s : State) (n : CoreIx) (k : Fin 4) (off : Nat) (v : Word) : State :=
  let run := coreRuns s n
  modCore s n (fun c => modArr c k (fun a =>
    let r := a.regs
    { a with regs :=
      if off = 0x0 then
        let ramp := bField run r.ramp (wfield v 23 16)
        let par := sField run r.parity (wbit v 1)
        { r with ramp := ramp.1, rampHeld := ramp.2, parity := par.1, refused := r.refused || par.2 }
      else if off = 0x8 then { r with refused := w1c r.refused v 0 }
      else if off = 0x10 then { r with uncorr := w1c r.uncorr v 2, corr := w1c r.corr v 1, parityErr := w1c r.parityErr v 0 }
      else r }))

/-- The VE_ registers of a core. -/
def veWrite (s : State) (n : CoreIx) (off : Nat) (v : Word) : State :=
  let run := coreRuns s n
  modCore s n (fun c =>
    let r := c.ve
    { c with ve :=
      if off = 0x0 then
        let share := bField run r.share (wfield v 11 8)
        let par := sField run r.parity (wbit v 1)
        { r with share := share.1, shareHeld := share.2, parity := par.1, refused := r.refused || par.2 }
      else if off = 0x8 then { r with refused := w1c r.refused v 0 }
      else if off = 0x10 then
        { r with chainPar := w1c r.chainPar v 3, uncorr := w1c r.uncorr v 2, corr := w1c r.corr v 1, lanePar := w1c r.lanePar v 0 }
      else r })

/-- The SLC_ registers; a write to SLC_CTX_SEL takes the snapshot (R235). -/
def slcWrite (s : State) (d : DieIx) (off : Nat) (v : Word) : State :=
  if off = 0x0 then modSluice s d (fun q => { q with grants := orElse 1 12 12 (wfield v 23 20), ageLimit := wfield v 15 0 })
  else if off = 0x10 then
    modSluice s d (fun q =>
      { q with descUnc := w1c q.descUnc v 3, pathDown := w1c q.pathDown v 2, srcUnc := w1c q.srcUnc v 1, tagMis := w1c q.tagMis v 0 })
  else if off = 0x60 then
    let i := wfield v 12 0
    modSluice s d (fun q => { q with sel := i, info0 := word (ctxInfo0 s d i), info1 := word (ctxInfo1 s d i) })
  else s

/-- The CEL_ registers: the block always runs when it is written; any write to CEL_TEMP sets PEAK to the current reading. -/
def celWrite (s : State) (c : CellarIx) (off : Nat) (v : Word) : State :=
  modCellar s c (fun x =>
    if off = 0x0 then
      { x with
        scrubHeld := (bField true x.scrubHours (wfield v 47 32)).2, runHeld := (bField true x.runHold (wfield v 23 16)).2
        batchHeld := (bField true x.writeBatch (orElse 8 64 32 (wfield v 15 8))).2, gatherHeld := (bField true x.gatherAge (wfield v 7 0)).2 }
    else if off = 0x10 then
      { x with
        pcExhausted := w1c x.pcExhausted v 7, scrubCrc := w1c x.scrubCrc v 6, hbmUncorr := w1c x.hbmUncorr v 5, unwritten := w1c x.unwritten v 4
        versionErr := w1c x.versionErr v 3, foldErr := w1c x.foldErr v 2, crcErr := w1c x.crcErr v 1, lost := w1c x.lost v 0 }
    else if off = 0x18 then { x with tagLog := if wbit v 63 then ⟨false, 0, 0, 0⟩ else x.tagLog }
    else if off = 0x20 then { x with peak := x.temp }
    else if off = 0x30 then { x with winVersion := wfield v 15 0 }
    else x)

/-- The UPD_ registers. -/
def updWrite (s : State) (c : CellarIx) (off : Nat) (v : Word) : State :=
  let run := updBusy s c
  modUpd s c (fun u =>
    if off = 0x0 then
      let ms := bField run u.reportMs (wfield v 31 16)
      let res := bField run u.reserve (min 2048 (wfield v 11 0))
      { u with reportMs := ms.1, reportHeld := ms.2, reserve := res.1, reserveHeld := res.2 }
    else if off = 0x10 then
      { u with poolExhausted := w1c u.poolExhausted v 3, lanePar := w1c u.lanePar v 2, stagingUnc := w1c u.stagingUnc v 1
               stagingCorr := w1c u.stagingCorr v 0 }
    else u)

/-- The STP_ registers of a partition. -/
def stpWrite (s : State) (p : PartIx) (off : Nat) (v : Word) : State :=
  let run := active s p
  modPart s p (fun q =>
    if off = 0x0 then
      let att := bField run q.maxAttempts (orElse 1 15 3 (wfield v 35 32))
      { q with peerTimeout := wfield v 63 56, heartbeat := orElse 1 255 100 (wfield v 55 48), maxAttempts := att.1, maxAttHeld := att.2
               readyTimeout := wfield v 31 16, commitTimeout := wfield v 15 0 }
    else if off = 0x78 then
      { q with repairFailed := w1c q.repairFailed v 4, vestFull := w1c q.vestFull v 3, twinLostErr := w1c q.twinLostErr v 2
               commitTimeoutErr := w1c q.commitTimeoutErr v 1, badToken := w1c q.badToken v 0 }
    else q)

/-- The class B fields of a CKP register written. -/
def ckpFields (c : CkpCfg) (off : Nat) (v : Word) : CkpCfg :=
  if off = 0x0 then
    { c with run := wfield v 63 52, baseEvery := orElse 1 15 8 (wfield v 51 48), target := wbit v 36, enable := wbit v 32, every := wfield v 31 0 }
  else if off = 0x8 then { c with slotGib := wfield v 47 32, storeNode := wfield v 15 0 }
  else { c with shards := wfield v 31 16, shard := wfield v 15 0 }

/-- The CKP_ registers of a partition. -/
def ckpWrite (s : State) (p : PartIx) (off : Nat) (v : Word) : State :=
  let run := active s p
  modCkp s p (fun k =>
    if off = 0x0 ∨ off = 0x8 ∨ off = 0x10 then
      let c := bGroup run k.cfg k.held (fun c => ckpFields c off v)
      { k with cfg := c.1, held := c.2, timeoutS := if off = 0x0 then orElse 1 255 30 (wfield v 47 40) else k.timeoutS }
    else if off = 0x38 then
      { k with restoreFailed := w1c k.restoreFailed v 2, abandoned := w1c k.abandoned v 1, skipped := w1c k.skipped v 0 }
    else k)

/-- The SED_ registers; the block runs while any partition is ARMED or RUNNING. -/
def sedWrite (s : State) (off : Nat) (v : Word) : State :=
  let run := (ixs 8).any (active s)
  (if off = 0x0 then fenceShort else id) (modSed s (fun x =>
    if off = 0x0 then
      let d := sField run x.degraded (wbit v 8)
      { x with clearCount := orElse 1 0xFFFFFF 1000000 (wfield v 55 32), fenceAfter := orElse 1 15 2 (wfield v 31 28), pcErrLimit := wfield v 23 16
               degraded := d.1, refused := x.refused || d.2 }
    else if off = 0x8 then { x with refused := w1c x.refused v 0 }
    else if off = 0x10 then
      { x with overflow := w1c x.overflow v 5, digestErr := w1c x.digestErr v 4, comparator := w1c x.comparator v 3, novote := w1c x.novote v 2
               split := w1c x.split v 1, blameErr := w1c x.blameErr v 0 }
    else if 0x20 ≤ off ∧ off < 0x60 then
      match toFin 8 ((off - 0x20) / 8) with
      | some p =>
        let r := x.rates[p]
        let e := bField run r.every (wfield v 31 16)
        let h := bField run r.shift (orElse 2 12 6 (wfield v 3 0))
        { x with rates := x.rates.set p.val ⟨e.1, h.1, e.2, h.2⟩ p.isLt }
      | none => x
    else if off = 0xA0 then { x with last := if wbit v 63 then ⟨false, false, 0, 0, 0, 0, 0⟩ else x.last }
    else x))

/-- The FAB_ registers of a port die; a write to FAB_ROUTE_SEL copies the routing entry (R392). -/
def fabWrite (s : State) (d : PortDieIx) (off : Nat) (v : Word) : State :=
  let s := modPortDie s d (fun x =>
    if off = 0x0 then
      { x with retryUs := orElse 1 0xFFFF 20 (wfield v 63 48), uncorrLimit := wfield v 47 40, vl1Share := wfield v 39 36
               idleUs := orElse 1 0xFFFF 10 (wfield v 15 0) }
    else if off = 0x10 then
      { x with reportsLost := w1c x.reportsLost v 13, hopLimit := w1c x.hopLimit v 12, authFail := w1c x.authFail v 11
               portDown := w1c x.portDown v 10, laneFenced := w1c x.laneFenced v 9 }
    else if off = 0xC0 then { x with routeSel := wfield v 31 0, routeData := tget 0 s.fab.routes (wfield v 15 0) }
    else x)
  if off = 0x0 then each ((ixs 18).filter (fun f => portDieOf f == d)) s pump else s

/-- Writing ENABLE of a trigger (R465): 0 to 1 arms it; 0 disarms it and ends a capture as INCOMPLETE. -/
def setEnable (s : State) (i : Fin 4) (en : Bool) : State :=
  let d := s.dbg.dumps[i]
  if en = d.enable then s
  else if en then modDump s i (fun d => { d with enable := true, state := 1, seen := [], lost := 0 })
  else
    let s := modDump s i (fun d => { d with enable := false })
    if d.state = 2 then endDump s i 4 else if d.state = 1 then modDump s i (fun d => { d with state := 0, seen := [] }) else s

/-- The class S fields of a trigger that a register carries. -/
def dumpFields (d : Dump) (off : Nat) (v : Word) : Dump :=
  if off = 0x0 then
    { d with tensor := wfield v 63 40, partition := wfield v 39 37, lcore := wfield v 35 30, attempt := wfield v 29 22, halt := wbit v 3
             mode := wbit v 2, target := wbit v 1 }
  else if off = 0x8 then { d with step := v }
  else if off = 0x10 then { d with occurrence := max 1 (wfield v 31 0) }
  else if off = 0x18 then { d with host := wfield v 39 0 }
  else d

/-- A register of a dump trigger, whose class S fields are fixed while it is armed or capturing. -/
def dumpWrite (s : State) (i : Fin 4) (off : Nat) (v : Word) : State :=
  let d := s.dbg.dumps[i]
  let r := sField (d.state == 1 || d.state == 2) d (dumpFields d off v)
  let s := modDump s i (fun _ => r.1)
  let s := if r.2 then { s with dbg := { s.dbg with refused := true } } else s
  if off = 0x0 then setEnable s i (wbit v 0) else s

/-- The DBG_ registers; a write to DBG_STOP_SEL loads COUNT and TIME (R471). -/
def dbgWrite (s : State) (off : Nat) (v : Word) : State :=
  if off = 0x0 then { s with dbg := { s.dbg with haltOnExc := wbit v 7, haltMgmt := wbit v 6 } }
  else if off = 0x8 then { s with dbg := { s.dbg with tapDenied := w1c s.dbg.tapDenied v 5, refused := w1c s.dbg.refused v 0 } }
  else if off = 0x10 then
    let e := s.dbg.stops[wfield v 7 0]?
    { s with dbg := { s.dbg with
      stopSel := v.toNat, stopCount := (match e with | some x => x.2.count | none => 0), stopTime := (match e with | some x => x.2.time | none => 0) } }
  else if 0x100 ≤ off ∧ off < 0x180 then
    match toFin 4 ((off - 0x100) / 0x20) with
    | some i => dumpWrite s i (off % 0x20) v
    | none => s
  else s

/-- The TRC_ registers; the block runs while ENABLE is 1, and enabling makes the next SYNC the first (table DB-6). -/
def trcWrite (s : State) (off : Nat) (v : Word) : State :=
  let t := s.trc
  if off = 0x0 then
    let c := bGroup t.enable t.cfg t.held (fun f =>
      { f with cntPeriod := wfield v 39 32, events := wfield v 31 16, syncUs := orElse 1 100 100 (wfield v 15 8) })
    { s with trc := { t with cfg := c.1, held := c.2, enable := wbit v 0, first := t.first || (wbit v 0 && !t.enable) } }
  else if off = 0x10 then
    let c := bGroup t.enable t.cfg t.held (fun f => { f with cores := BitVec.ofNat 40 v.toNat })
    { s with trc := { t with cfg := c.1, held := c.2 } }
  else s

/-- The CNT_ registers; the block runs from boot stage 7. DESIGN CHOICE (log entry 230): from the end of that stage. -/
def cntWrite (s : State) (off : Nat) (v : Word) : State :=
  let run := decide (8 ≤ s.boot.stage)
  let w := wfield v 1 0
  if off = 0x0 then
    let g := bField run s.cnt.gwin (if w = 2 then 2 else 0)
    { s with cnt := { s.cnt with gwin := g.1, gwinHeld := g.2 } }
  else if 0x40 ≤ off ∧ off < 0x80 then
    match toFin 8 ((off - 0x40) / 8) with
    | some p =>
      let g := bField run s.cnt.win[p] w
      { s with cnt := { s.cnt with win := s.cnt.win.set p.val g.1 p.isLt, winHeld := s.cnt.winHeld.set p.val g.2 p.isLt } }
    | none => s
  else s

/-- The PWR_ registers; the block runs from boot stage 7 (DESIGN CHOICE, log entry 230: from the end of that stage); any write to PWR_POWER sets PEAK to the current sample. -/
def pwrWrite (s : State) (off : Nat) (v : Word) : State :=
  let run := decide (8 ≤ s.boot.stage)
  if off = 0x0 then
    let cap := wfield v 63 48
    let want : PwrCfg := ⟨min cap (tdp s), wfield v 47 40, orElse 85 115 100 (wfield v 39 32), wbit v 0⟩
    let c := bField run s.pwr.cfg want
    modPwr s (fun p => { p with cfg := c.1, held := c.2, stretchHold := orElse 1 0xFFFF 100 (wfield v 31 16) })
  else if off = 0x10 then modPwr s (fun p => { p with peak := min (p.samples.headD 0) 0xFFFF })
  else if off = 0x20 then
    modPwr s (fun p =>
      { p with vrTimeout := w1c p.vrTimeout v 5, current := w1c p.current v 4, electrical := w1c p.electrical v 3, sustained := w1c p.sustained v 2
               thermal := w1c p.thermal v 1, stackB3 := w1c p.stackB3 v 0 })
  else s

/-- A write to a register, judged field by field. -/
def writeReg (s : State) (b : Block) (off : Nat) (v : Word) (m : Master) : State :=
  match b with
  | .pkg => pkgWrite s off v m
  | .boot => if off = 0x0 then modBoot s (fun x => { x with writeErr := w1c x.writeErr v 9 }) else s
  | .sec => if off = 0x8 then writeOwner s (wfield v 1 0) m else s
  | .stp p => stpWrite s p off v
  | .sed => sedWrite s off v
  | .ckp p => ckpWrite s p off v
  | .dbg => dbgWrite s off v
  | .trc => trcWrite s off v
  | .cnt => cntWrite s off v
  | .pwr => pwrWrite s off v
  | .slc d => slcWrite s d off v
  | .cc n => ccWrite s n off v
  | .ma n k => maWrite s n k off v
  | .ve n => veWrite s n off v
  | .cel c => celWrite s c off v
  | .upd c => updWrite s c off v
  | .fab d => fabWrite s d off v
  | .pci => s

/-! ### Memory windows -/

/-- Where an address of the HBM3 data space lies for a window access: in a block of a parameter or moment tensor it lies in the CURRENT block
(R247, R284). -/
def dataPlace (s : State) (a : Nat) : Nat :=
  match blockOwner s (a / 4096) with
  | none => a
  | some p => physAddr s p (a - logicalAddr s p 0)

/-- A window write to the HBM3 data space: the tag follows the difference, with VERSION of CEL_WIN_VERSION in blocks of parameter and
moment tensors, else 0, and the FOLD that the directory gives (R247, R249, R264). -/
def dataWrite (s : State) (a : Nat) (bs : List Byte) : State :=
  let x := dataPlace s a
  let b := x / 4096
  let s := settleBlock s (cellarOf s b) b
  match blockOwner s (a / 4096) with
  | none => windowStore s x bs 0 0
  | some p =>
    let off := a - logicalAddr s p 0
    let v := versionedAt s p off
    let fold := match tensorAt s p off with | some t => foldOf t.id | none => 0
    let s := windowStore s x bs (if v then (s.cellars[cellarOf s b]).winVersion else 0) fold
    if v then markPage s p (a / 4096) else s

/-- A bit of a dirty-page map by page: ACCUM, or FROZEN, of the partition whose share holds the page (R398). DESIGN CHOICE (log entry
194): a bit whose page lies in no share is dropped. -/
def putDirty (s : State) (frozen : Bool) (g : Nat) (v : Bool) : State :=
  match blockOwner s (16 * g) with
  | none => s
  | some p => modCkp s p (fun k => if frozen then { k with frozen := k.frozen.put g v } else { k with accum := k.accum.put g v })

/-- A window write to the dirty-page maps of a cellar die: bit `i` of a map is the page of ordinal `i` that the die owns (R397, R398). -/
def dirtyWrite (s : State) (c : CellarIx) (off : Nat) (bs : List Byte) : State :=
  each bs.zipIdx s (fun s e =>
    let at0 := off - 0x1E00000 + e.2
    each (List.range 8) s (fun s i => putDirty s (0x80000 ≤ at0) ((8 * (at0 % 0x80000) + i) * nStacks s + c.val) (e.1.getLsbD i)))

/-- A bit of a dirty-page map by page (R398). -/
def getDirty (s : State) (frozen : Bool) (g : Nat) : Bool :=
  match blockOwner s (16 * g) with
  | none => false
  | some p => let k := (s.parts[p]).ckp; if frozen then k.frozen.has g else k.accum.has g

/-- The values that a slot of the reduction half of the staging region holds: first the running sums, then what is parked, in the order of their
opening (R273). DESIGN CHOICE (log entry 136): the upper half, in that order. -/
def stagingVals (u : Upd) (k : Nat) : Option (List W32) := (u.sums.map (·.sum) ++ u.parked.map (·.vals))[k]?

/-- Place of an offset in the slots of the reduction half: slot, value, byte. -/
def stagingPlace (i : Nat) : Nat × Nat × Nat := ((i - 0x800000) / 4096, i % 4096 / 4, i % 4)

/-- A management write of a byte to a slot of the reduction half: into the running sum or the parked contribution that the slot holds, if it holds
one (R237, R273). -/
def stagingPut (u : Upd) (i : Nat) (b : Byte) : Upd :=
  let (k, v, j) := stagingPlace i
  let put := fun (l : List W32) => l.modify v (fun w => BitVec.ofNat 32 (leNat ((leBytes 4 w.toNat).set j b)))
  let n := u.sums.length
  if k < n then { u with sums := u.sums.modify k (fun z => { z with sum := put z.sum }) }
  else { u with parked := u.parked.modify (k - n) (fun y => { y with vals := put y.vals }) }

/-- A byte of a cellar die's SRAM as management sees it: the two caches read 0, the dirty-page maps show the bits of their pages, the slots of the
reduction half what the engine holds there (R237, R273, R398). -/
def cellarByte (s : State) (c : CellarIx) (i : Nat) : Byte :=
  if 0x1800000 ≤ i ∧ i < 0x1C00000 then 0
  else if 0x1E00000 ≤ i ∧ i < 0x1F00000 then
    let at0 := i - 0x1E00000
    BitVec.ofNat 8 (((List.range 8).map (fun j =>
      2 ^ j * b2n (getDirty s (0x80000 ≤ at0) ((8 * (at0 % 0x80000) + j) * nStacks s + c.val)))).sum)
  else
    let (k, v, j) := stagingPlace i
    match if 0x800000 ≤ i ∧ i < 0x1000000 then stagingVals (s.cellars[c]).upd k else none with
    | some l => (leBytes 4 (l.getD v 0).toNat).getD j 0
    | none => tget 0 (s.cellars[c]).sram i

/-- A window read of the HBM3 data space: in a block of a parameter or moment tensor the CURRENT block (R247, R284). -/
def dataRead (s : State) (a len : Nat) : State × List Byte := windowBytes s (dataPlace s a) len

/-- A read of a memory window (R20, R237, R415). The contents of the boot ROM are no part of the manual: a free value. -/
def memRead (s : State) (w : Window) (off len : Nat) : State × List Byte :=
  match w with
  | .rom => (s, (List.range len).map (fun i => Config.romByte (off + i)))
  | .flash => (s, flashBytes s off len)
  | .sram => (s, sramRead s off len)
  | .hall d => (s, readHall s d off len)
  | .core n => (s, readStore s.cores[n] off len)
  | .cellar c => (s, (List.range len).map (fun i => cellarByte s c (off + i)))
  | .hbm => dataRead s off len

/-- A write to a memory window (R20, R237, R415): ROM and flash discard it, so do the tag cache and the directory cache; a write to the
dirty-page maps changes the bits of their pages. -/
def memWrite (s : State) (w : Window) (off : Nat) (bs : List Byte) : State :=
  match w with
  | .rom => s
  | .flash => s
  | .sram => sramWrite s off bs
  | .hall d => writeHall s d off bs
  | .core n => modCore s n (fun c => writeStore c off bs)
  | .cellar c =>
    if 0x1800000 ≤ off ∧ off < 0x1C00000 then s
    else if 0x1E00000 ≤ off ∧ off < 0x1F00000 then dirtyWrite s c off bs
    else if 0x800000 ≤ off ∧ off < 0x1000000 ∧ (stagingVals (s.cellars[c]).upd (stagingPlace off).1).isSome then
      each bs.zipIdx s (fun s e => modUpd s c (fun u => stagingPut u (off + e.2) e.1))
    else modCellar s c (fun x => { x with sram := tsetMany 0 x.sram off bs })
  | .hbm => dataWrite s off bs

/-! ### Reads that clear (table SC-3, RC) -/

/-- The RC fields of a register return to 0 once it has been read. -/
def clearRc (s : State) (b : Block) (off : Nat) : State :=
  match b, off with
  | .pkg, 0x38 => modPkg s (fun p => { p with errCount := 0 })
  | .pkg, 0x1048 => modMbox s (fun m => { m with rejects := 0 })
  | .ma n k, 0x10 => modCore s n (fun c => modArr c k (fun a => { a with regs := { a.regs with corrCount := 0 } }))
  | .ve n, 0x10 => modCore s n (fun c => { c with ve := { c.ve with corrCount := 0 } })
  | .slc d, 0x18 => modSluice s d (fun q => { q with dup := 0, stale := 0 })
  | .cel c, 0x10 => modCellar s c (fun x => { x with retryOk := 0 })
  | .upd c, 0x10 => modUpd s c (fun u => { u with corrCount := 0 })
  | .upd c, 0x18 => modUpd s c (fun u => { u with refused := 0, unlisted := 0, stale := 0, dup := 0 })
  | .stp p, 0x78 => modPart s p (fun q => { q with staleCount := 0, badTokenCount := 0 })
  | .sed, _ =>
    if 0x60 ≤ off ∧ off < 0xA0 then
      match toFin 8 ((off - 0x60) / 8) with
      | some p => modSed s (fun x => { x with counts := x.counts.set p.val ⟨0, 0, 0⟩ p.isLt })
      | none => s
    else s
  | .fab d, 0x18 => modPortDie s d (fun x => { x with stale := 0, noRoute := 0, hopCount := 0, noTarget := 0 })
  | .fab d, _ =>
    if 0x80 ≤ off ∧ off < 0xB0 then
      match localPort d ((off - 0x80) / 8) with
      | some f => modPort s f (fun p => { p with corrected := 0, uncorr := 0, nacks := 0 })
      | none => s
    else s
  | .ckp p, 0x38 => modCkp s p (fun k => { k with skipCount := 0 })
  | .trc, 0x18 => { s with trc := { s.trc with lostFlow := 0, lostEvent := 0, lostCounter := 0 } }
  | .pwr, 0x20 => modPwr s (fun p => { p with limitCount := 0 })
  | _, _ => s

/-! ### Accesses -/

/-- All ones, the answer of a failing read of 64 bits (R23, R379). -/
def allOnes : Word := BitVec.allOnes 64

/-- What a failing read answers: all ones in the width of the access (R23). -/
def onesOut (len : Nat) : Out := if len = 8 then .answer allOnes else .bytes (List.replicate len 0xFF)

/-- The host-view address of BAR2: the 16 KiB of MSI-X table and pending-bit array stand after the 40-bit addresses (DESIGN CHOICE, log entry
207). -/
def bar2 : Nat := 2 ^ 40

/-- A host write to BAR2: the 16-byte entries of the MSI-X table as the PCIe base specification lays them out; the pending-bit array at offset
0x2000 is read-only. A vector that is no longer masked sends its pending message (PRESUMED, log entry 207). -/
def msixWrite (s : State) (off : Nat) (bytes : List Byte) : State :=
  match toFin 16 (off / 16) with
  | none => s
  | some i =>
    if off % bytes.length ≠ 0 ∨ ¬(bytes.length = 4 ∨ bytes.length = 8) then s
    else
      let e := s.pcie.table[i]
      let old := leBytes 8 e.addr.toNat ++ leBytes 4 e.data.toNat ++ leBytes 4 (b2n e.masked)
      let new := old.take (off % 16) ++ bytes ++ old.drop (off % 16 + bytes.length)
      let e : MsixEntry := ⟨word (fieldAt new 0 8), BitVec.ofNat 32 (fieldAt new 8 4), decide (fieldAt new 12 4 % 2 = 1)⟩
      let s := { s with pcie := { s.pcie with table := s.pcie.table.set i.val e i.isLt } }
      if s.pcie.pba.getLsbD i.val && !e.masked then
        msix { s with pcie := { s.pcie with pba := s.pcie.pba &&& ~~~ (BitVec.twoPow 16 i.val) } } i.val
      else s

/-- The host's access to the PKG_ window through BAR0 (R53, R379): outside its registers a read answers all ones and a write is dropped. -/
def hostAccess (s : State) (a : Nat) (x : Access) : State :=
  if !s.pcie.up then s
  else
    let off := a - 0x1000000
    let known := decide (0x1000000 ≤ a ∧ a % 8 = 0) && (pkgRead s off).isSome
    match x with
    | .read => if known then clearRc (emit s (.answer (word ((pkgRead s off).getD 0)))) .pkg off else emit s (.answer allOnes)
    | .write v => if known then pkgWrite s off v .host else s

/-- A register access of a management core or the host. -/
def access (s : State) (m : Master) (a : Nat) (x : Access) : State :=
  match m with
  | .host => hostAccess s a x
  | .mgmt _ =>
    match accessFail s a 8, targetOf s a with
    | none, .reg b off =>
      (match x with
       | .read =>
         (match counterOf b off with
          | some (part, i) =>
            let x := sample (bump s) part i (Config.coincident s.freeIx)
            emit x.1 (.answer (word x.2))
          | none => clearRc (emit s (.answer (word ((regRead s b off).getD 0)))) b off)
       | .write v => writeReg s b off v m)
    | some k, _ =>
      let s := accessError s k a
      (match x with
       | .read => emit s (.answer allOnes)
       | .write _ => s)
    | none, _ => s

/-- The control address of a register. -/
def addrOf : Block → Nat
  | .pkg => 0x1000000
  | .boot => 0x2000000
  | .sec => 0x2100000
  | .stp p => 0x2200000 + 0x1000 * p.val
  | .sed => 0x2300000
  | .ckp p => 0x2400000 + 0x1000 * p.val
  | .dbg => 0x2500000
  | .trc => 0x2600000
  | .cnt => 0x2700000
  | .pwr => 0x2800000
  | .slc d => 0x100000000 + 0x1000000 * d.val
  | .cc n => 0x100000000 + 0x1000000 * (n.val / 20) + 0x100000 + 0x10000 * (n.val % 20)
  | .ma n k => 0x100000000 + 0x1000000 * (n.val / 20) + 0x100000 + 0x10000 * (n.val % 20) + 0x4000 + 0x1000 * k.val
  | .ve n => 0x100000000 + 0x1000000 * (n.val / 20) + 0x100000 + 0x10000 * (n.val % 20) + 0x8000
  | .cel c => 0x200000000 + 0x1000000 * c.val
  | .upd c => 0x200000000 + 0x1000000 * c.val + 0x10000
  | .fab d => 0x300000000 + 0x1000000 * d.val
  | .pci => 0x300100000

/-- Is the management processor die in no state to make or take an access? A device that TEST_EN holds in stage 0 accepts only the TAP
(R494). -/
def barred (s : State) : Bool := asleep s mgmtDom || s.pwr.testHold

/-- An access to one register, by block and offset. -/
def accessReg (s : State) (m : Master) (b : Block) (off : Nat) (x : Access) : Res :=
  if barred s then .next s else .next (access s m (addrOf b + off) x)

/-- REGISTER_WRITE: a write through the control address map, to a register or to a memory window (R11, R20, R23). -/
def execRegisterWrite (m : Master) (addr : Nat) (bytes : List Byte) (s : State) : Res :=
  if barred s then .next s
  else
    match m with
    | .host =>
      .next (if bar2 ≤ addr then (if s.pcie.up then msixWrite s (addr - bar2) bytes else s)
        else if bytes.length = 8 then hostAccess s addr (.write (word (leNat bytes))) else s)
    | .mgmt _ =>
      .next (match accessFail s addr bytes.length, targetOf s addr with
        | some k, _ => accessError s k addr
        | none, .reg b off => writeReg s b off (word (leNat bytes)) m
        | none, .mem w off => memWrite s w off bytes
        | none, .none => s)

/-- What a read of bytes answers, in the width of the access. -/
def bytesOut (bs : List Byte) : Out := if bs.length = 8 then .answer (word (leNat bs)) else .bytes bs

/-- FAILING_READ: a read of a management core. One that fails answers all ones in the width of the access (R23); any other answers what the register
or the memory window holds (R20, R237, R415). -/
def execFailingRead (addr len : Nat) (s : State) : Res :=
  if barred s then .next s
  else
    .next (match accessFail s addr len, targetOf s addr with
      | some k, _ => emit (accessError s k addr) (onesOut len)
      | none, .reg .. => access s (.mgmt 0) addr .read
      | none, .mem w off => let x := memRead s w off len; emit x.1 (bytesOut x.2)
      | none, .none => s)

/-- PKG_STATUS. -/
def execPkgStatus (m : Master) (x : Access) (s : State) : Res := accessReg s m .pkg 0x38 x

/-- PKG_MBOX_STATUS. -/
def execPkgMboxStatus (m : Master) (s : State) : Res := accessReg s m .pkg 0x1048 .read

/-- SEC_MBOX_OWNER, or PKG_MBOX_OWNER, which is the host's address for it (R53, R438). -/
def execSecMboxOwner (m : Master) (v : Word) (s : State) : Res :=
  match m with
  | .mgmt i => accessReg s (.mgmt i) .sec 0x8 (.write v)
  | .host => accessReg s .host .pkg 0x1090 (.write v)

/-- SLC_CTX_SEL. -/
def execSlcCtxSel (d : DieIx) (v : Word) (s : State) : Res := accessReg s (.mgmt 0) (.slc d) 0x60 (.write v)

/-- FAB_ROUTE_SEL. -/
def execFabRouteSel (d : PortDieIx) (v : Word) (s : State) : Res := accessReg s (.mgmt 0) (.fab d) 0xC0 (.write v)

/-- DBG_STOP_SEL. -/
def execDbgStopSel (v : Word) (s : State) : Res := accessReg s (.mgmt 0) .dbg 0x10 (.write v)

/-- CEL_TEMP. -/
def execCelTemp (c : CellarIx) (v : Word) (s : State) : Res := accessReg s (.mgmt 0) (.cel c) 0x20 (.write v)

/-- PWR_POWER. -/
def execPwrPower (v : Word) (s : State) : Res := accessReg s (.mgmt 0) .pwr 0x10 (.write v)

/-- DBG_DUMP_CFG. -/
def execDbgDumpCfg (i : Fin 4) (v : Word) (s : State) : Res := accessReg s (.mgmt 0) .dbg (0x100 + 0x20 * i.val) (.write v)

/-- MA_ERR. -/
def execMaErr (n : CoreIx) (k : Fin 4) (x : Access) (s : State) : Res := accessReg s (.mgmt 0) (.ma n k) 0x10 x

/-- VE_ERR. -/
def execVeErr (n : CoreIx) (x : Access) (s : State) : Res := accessReg s (.mgmt 0) (.ve n) 0x10 x

/-- SLC_TOKENS. -/
def execSlcTokens (d : DieIx) (s : State) : Res := accessReg s (.mgmt 0) (.slc d) 0x18 .read

/-- CEL_ERR. -/
def execCelErr (c : CellarIx) (x : Access) (s : State) : Res := accessReg s (.mgmt 0) (.cel c) 0x10 x

/-- UPD_ERR. -/
def execUpdErr (c : CellarIx) (x : Access) (s : State) : Res := accessReg s (.mgmt 0) (.upd c) 0x10 x

/-- UPD_DISCARDS. -/
def execUpdDiscards (c : CellarIx) (s : State) : Res := accessReg s (.mgmt 0) (.upd c) 0x18 .read

/-- STP_ERR. -/
def execStpErr (p : PartIx) (x : Access) (s : State) : Res := accessReg s (.mgmt 0) (.stp p) 0x78 x

/-- SED_COUNT. -/
def execSedCount (p : PartIx) (s : State) : Res := accessReg s (.mgmt 0) .sed (0x60 + 8 * p.val) .read

/-- FAB_DISCARDS. -/
def execFabDiscards (d : PortDieIx) (s : State) : Res := accessReg s (.mgmt 0) (.fab d) 0x18 .read

/-- FAB_FEC. -/
def execFabFec (f : PortIx) (s : State) : Res := accessReg s (.mgmt 0) (.fab (portDieOf f)) (0x80 + 8 * (f.val % 6)) .read

/-- CKP_ERR. -/
def execCkpErr (p : PartIx) (x : Access) (s : State) : Res := accessReg s (.mgmt 0) (.ckp p) 0x38 x

/-- TRC_LOST. -/
def execTrcLost (s : State) : Res := accessReg s (.mgmt 0) .trc 0x18 .read

/-- PWR_ERR. -/
def execPwrErr (x : Access) (s : State) : Res := accessReg s (.mgmt 0) .pwr 0x20 x

end Sys2Proof.Machine
end

