-- ==== Sys2Proof/Machine/Debug.lean ====
section
/-! DEFINITION. Debug levels and unlocking, the test access port, scan-out, trace and counter commands (R443 to R450, R453, R459 to R469; tables
DB-1 to DB-4, DB-9, DB-11 to DB-13). -/

namespace Sys2Proof.Machine

/-! ### SYNC and counter samples (R453, R466, R467; tables DB-6, DB-22) -/

/-- Packets that waited while the port sent nothing leave (R454). -/
def flushTrace (s : State) : State :=
  if tracing s then each s.trc.queue { s with trc := { s.trc with queue := [] } } (fun s q => emit s (.trace q.1 q.2)) else s

/-- A SYNC packet. -/
def syncPacket (s : State) : State :=
  if tracing s then
    let s := look s
    flushTrace (if s.trc.first then leadPackets s else packetNow s 0x01 0x7E 0 [s.rtime])
  else s

/-- A SYNC of the assembler: it is the boundary of the TRC block, whose held class B fields apply (R10, table DB-19), and its packet leaves
where the trace port sends. -/
def syncNow (s : State) : State :=
  if !s.trc.enable || !s.pwr.powered || s.pwr.lost then s
  else syncPacket { s with trc := { s.trc with cfg := s.trc.held.getD s.trc.cfg, held := none } }

/-- SYNC: the assembler's period of SYNC_US ends. -/
def execSync (s : State) : Res := .next (syncNow s)

/-- Do partition counters exist to be read now (table DB-4: letter C)? -/
def cAllowed (s : State) : Bool := decide (lcOf s = 2 ∧ s.dbg.level ≤ 3)

/-- COUNTER packets of one set of counters. -/
def counterPackets (s : State) (part : Option PartIx) (coin : Bool) : State :=
  let (s, vs) := sampleAll s part coin
  each vs.zipIdx s (fun s e =>
    lossyPacket s .counter 0x21 mgmtDom (match part with | some p => 32 * p.val + e.2 | none => 16 + e.2) [e.1])

/-- COUNTER_SAMPLE: every CNT_PERIOD_MS, COUNTER packets for every counter permitted (table DB-19); in P2 the port sends none (R450). -/
def execCounterSample (coin : Bool) (s : State) : Res :=
  if timersHeld s || !tracing s || s.trc.cfg.cntPeriod == 0 || decide (2 ≤ s.pwr.pstate) || asleep s mgmtDom then .next s
  else
    let ps := (ixs 8).filter (fun p => cAllowed s && (s.parts[p]).allot.isSome)
    .next (counterPackets (each ps s (fun s p => counterPackets s (some p) coin)) none coin)

/-! ### Debug levels (R444, R446, R470) -/

/-- Change the debug level: reported, traced, with what leaving a level ends (table DB-12). Leaving D3 ends a wave that is still in progress as it
ends a halt (log entry 225), and the captures that leaving D2 ends start no wave, since that is a feature of D3. -/
def setLevel (s : State) (new src : Nat) : State :=
  let old := s.dbg.level
  if new = old then s
  else
    let s := if new < 3 ∧ 3 ≤ old then
        (let s := resumeAll { s with dbg := { s.dbg with halted := s.dbg.halted || s.dbg.halting, halting := false } }
         { s with dbg := { s.dbg with level := 2 } }) else s
    let s := if new < 2 ∧ 2 ≤ old then (let s := dumpAbort s; { s with trc := { s.trc with bits := [] } }) else s
    let s := if new < old then traceEvent s 0x0F new else s
    let s := if new = 0 then syncNow s else s
    let s := { s with dbg := { s.dbg with level := new, unlockSrc := src } }
    let s := if new = 4 then wipeAll s else s
    let s := if old < new then traceEvent s 0x0F new else s
    devReport s 0x60 [old, new, src]

/-- An authorisation record, table DB-2, with what the key engine finds of it. -/
structure AuthRec where
  magic : Nat
  format : Nat
  level : Nat
  signer : Nat
  serial : Nat
  count : Nat
  nonce : List Word
  proof : AuthProof
  deriving DecidableEq, Repr

/-- Bytes of an authorisation record. -/
def authBytes : Nat := 8720

/-- The record that bytes spell. -/
def parseAuth (bs : List Byte) (x : AuthProof) : AuthRec :=
  { magic := fieldAt bs 0 4, format := fieldAt bs 4 2, level := fieldAt bs 6 1, signer := fieldAt bs 7 1, serial := fieldAt bs 8 8
    count := fieldAt bs 0x10 8, nonce := (List.range 4).map (fun i => word (fieldAt bs (0x18 + 8 * i) 8)), proof := x }

/-- The signers, in order, that may unlock a level (R450; table DB-4); none where it cannot be reached so. -/
def signersFor (s : State) (level : Nat) (tap : Bool) : Option (List Nat) :=
  let lc := lcOf s
  if level = 0 ∨ 4 < level then none
  else if lc = 3 then (if tap ∧ level = 4 then some [1] else none)
  else if s.boot.minimal then (if !tap then none else if level = 4 then some [1] else if lc = 1 then some [1] else if lc = 2 then some [2] else none)
  else if lc = 1 then some [1]
  else if lc = 2 then (if level = 4 then some [1, 2] else some [2])
  else none

/-- Does one record pass the checks of R445, but for the signers? -/
def recordOk (s : State) (level : Nat) (r : AuthRec) : Bool :=
  decide (r.magic = 0x44424155 ∧ r.format = 1 ∧ r.level = level ∧ r.serial = s.fuses.serial.toNat ∧ r.count = s.boot.bootCount)
    && s.dbg.nonce == some r.nonce && r.proof.keys && r.proof.sigs

/-- Does entry into a level break R446? -/
def levelBusy (s : State) (level : Nat) : Bool :=
  decide (s.dbg.level < level) && decide (3 ≤ level)
    && ((ixs 8).any (fun p => (s.parts[p]).inGroup || (s.parts[p]).twin != .none)
      || (level == 4 && (ixs 8).any (fun p => (s.parts[p]).allot.isSome)))

/-- An unlock: the state, and the error that ends it. The nonce is spent by the first unlock that presents it (R445). -/
def unlock (s : State) (rs : List AuthRec) (src : Nat) : State × Nat :=
  let level := match rs with | r :: _ => r.level | [] => 0
  let good := signersFor s level (src == 2) == some (rs.map (·.signer)) && rs.all (recordOk s level)
  let spent := rs.any (fun r => s.dbg.nonce == some r.nonce)
  let s := if spent then { s with dbg := { s.dbg with nonce := none } } else s
  if !good then (s, 0x6001)
  else if levelBusy s level then (s, 0x6003)
  else (if s.dbg.level < level then setLevel s level src else s, 0)

/-! ### Debug commands (table DB-12) -/

/-- LEVEL_LOW (table DB-13). -/
def levelLow : Nat := 0x6002

/-- DBG_CHALLENGE: a fresh nonce, which spends the last one. -/
def execDbgChallenge (s : State) : Res :=
  runCmd 0xA0 s (fun s _ =>
    let nonce := (List.range 4).map (fun i => Config.freeWord (s.freeIx + i))
    okWith { s with freeIx := s.freeIx + 4, dbg := { s.dbg with nonce := some nonce } } (nonce.map (·.toNat)))

/-- DBG_UNLOCK: `x` and `y` are what the key engine finds of the first and the second record. -/
def execDbgUnlock (x y : AuthProof) (s : State) : Res :=
  runCmd 0xA1 s (fun s c =>
    let off := argOf c 0
    let n := argOf c 1
    if n = 0 ∨ 2 < n then errWith s badArgument
    else if !inXfer off (authBytes * n) then errWith s xferRange
    else
      let rs := ([x, y].take n).zipIdx.map (fun e => parseAuth (sramRead s (off + authBytes * e.2) authBytes) e.1)
      let (s, e) := unlock s rs 1
      if e = 0 then okWith s [s.dbg.level] else errWith s e)

/-- DBG_LOCK accepts any level not above the current one. -/
def execDbgLock (s : State) : Res :=
  runCmd 0xA2 s (fun s c =>
    if s.dbg.level < argOf c 0 then errWith s badArgument
    else
      let s := setLevel s (argOf c 0) s.dbg.unlockSrc
      okWith s [s.dbg.level])

/-- DBG_HALT starts the halt wave; no chain of a device in P3 can be halted (table DB-4). -/
def execDbgHalt (s : State) : Res :=
  runCmd 0xA3 s (fun s _ =>
    if s.dbg.level < 3 then errWith s levelLow
    else if s.pwr.pstate = 3 then errWith s 0x6005
    else if s.dbg.halted || s.dbg.halting then okWith s []
    else
      let s := look s
      okWith (haltWave s 1) [s.rtime])

/-- DBG_RESUME; the cells of table DB-4 for P3 have no halt wave. -/
def execDbgResume (s : State) : Res :=
  runCmd 0xA4 s (fun s _ =>
    if s.dbg.level < 3 then errWith s levelLow
    else if s.pwr.pstate = 3 then errWith s 0x6005
    else okWith (resumeAll s) [])

/-- TRC_MARK. -/
def execTrcMark (s : State) : Res :=
  runCmd 0xA6 s (fun s c =>
    if s.dbg.level < 1 then errWith s levelLow
    else if s.pwr.pstate = 3 then errWith s 0x6005
    else okWith (traceEvent s 0x0E (argOf c 0 % 2 ^ 48)) [])

/-- CNT_READ: a global counter for MGMT only (R468), a partition counter while the table of combinations has them (R450). -/
def execCntRead (coin : Bool) (s : State) : Res :=
  runCmd 0xA7 s (fun s c =>
    let i := argOf c 0 % 16
    if argOf c 0 / 16 % 2 = 1 then
      if c.master = .host then errWith s notPermitted
      else
        let (s, v) := sample s none i coin
        okWith s [v]
    else
      match partOfCmd s c with
      | none => errWith s badPartition
      | some p =>
        if !cAllowed s then errWith s 0x6005
        else
          let (s, v) := sample s (some p) i coin
          okWith s [v])

/-- CNT_SNAPSHOT: the counters of the partition named, then to MGMT the global ones (log entry 100). -/
def execCntSnapshot (coin : Bool) (s : State) : Res :=
  runCmd 0xA8 s (fun s c =>
    let p := partOfCmd s c
    if p.isSome && !cAllowed s then errWith s 0x6005
    else
      let sets := (match p with | some p => [some p] | none => []) ++ (if c.master = .host then [] else [none])
      if !inXfer (argOf c 0) (128 * sets.length) then errWith s xferRange
      else
        let (s, vs) := sets.foldl (fun (x : State × List Nat) k => let (s, l) := sampleAll x.1 k coin; (s, x.2 ++ l)) (s, [])
        okWith (sramWrite s (argOf c 0) (vs.flatMap (leBytes 8))) [128 * sets.length])

/-- CNT_CLEAR: [0] the partition's counters, [1] the global ones (R466). -/
def execCntClear (s : State) : Res :=
  runCmd 0xA9 s (fun s c =>
    let part := decide (argOf c 0 % 2 = 1)
    let glob := decide (argOf c 0 / 2 % 2 = 1)
    match partOfCmd s c, part with
    | none, true => errWith s badPartition
    | some p, true => okWith (if glob then newGlobalWindow (newWindow s p) else newWindow s p) []
    | _, false => okWith (if glob then newGlobalWindow s else s) [])

/-! ### Chains (R447, R448, R463; table DB-9) -/

/-- Kind and number of a domain in the stop table. -/
def stopKind (dom : Nat) : Nat :=
  if dom < 0x40 then 0x100 + (dom - 0x30) else if dom < 0x50 then 0x200 + (dom - 0x40) else if dom < 0x60 then 0x300 + (dom - 0x50)
  else if dom < 0x78 then 0x400 + (dom - 0x60) else 0x500

/-- The stop table. -/
def stopTable (s : State) : List Byte :=
  s.dbg.stops.flatMap (fun e => leBytes 4 (stopKind e.1) ++ leBytes 4 0 ++ leBytes 8 e.2.count ++ leBytes 8 e.2.time)

/-- Chain 0x1000 of a core: contexts, then CC_ registers. s0 shows 0 and p0 shows 1, as they read (R65). -/
def controlChain (s : State) (n : CoreIx) : List Byte :=
  (ixs 4).flatMap (fun i =>
    let x := ctxOf s n i
    leBytes 8 x.pc.toNat ++ leBytes 8 (ctxCode x.st) ++ x.s.toList.flatMap (fun w => leBytes 8 w.toNat)
      ++ leBytes 8 (bitSet 16 (fun k => k == 0 || x.p.toList.getD k false)) ++ x.b.toList.flatMap (fun w => leBytes 8 w.toNat)
      ++ x.c.toList.flatMap (fun w => leBytes 4 w.toNat))
    ++ regBytes s (.cc n) 0x80

/-- The registers of a stationary block, 2 bytes a cell, row-major. -/
def weightBytes (b : WBlock) : List Byte :=
  (List.range 128).flatMap (fun r => (List.range 128).flatMap (fun k => leBytes 2 ((b.rows.getD r []).getD k 0)))

/-- Both halves of an accumulator bank as raw records, half 0 first. -/
def bankBytes (a : Arr) : List Byte :=
  ([a.half0, a.half1]).flatMap (fun h => (List.range 16384).flatMap (fun e => rawRecord (tget AccE.clear h.acc e)))

/-- t0 to t15 of both banks as FP32. -/
def tregBytes (c : Core) : List Byte :=
  c.banks.toList.flatMap (fun b => (List.range (16 * 8192)).flatMap (fun e => leBytes 4 (tget 0 b.treg e).toNat))

/-- SLC_CTX_INFO0 and SLC_CTX_INFO1 of every physical context. -/
def infoBytes (s : State) (d : DieIx) : List Byte := (List.range 8192).flatMap (fun i => leBytes 8 (ctxInfo0 s d i) ++ leBytes 8 (ctxInfo1 s d i))

/-- The chain entries of both banks as 72-byte definitions. -/
def entryBytes (c : Core) : List Byte :=
  c.banks.toList.flatMap (fun b => (List.range 32).flatMap (fun k =>
    match tfind b.chains k with
    | some ch => (chainWords ch).flatMap (fun w => leBytes 8 w.toNat)
    | none => List.replicate 72 0))

/-- u0 to u15 and k0 to k15 of an update unit. -/
def unitBytes (u : Upd) : List Byte :=
  (List.range 16384).flatMap (fun e => leBytes 4 (tget 0 u.u e).toNat) ++ (List.range 16).flatMap (fun i => leBytes 4 (u.k.getD i 0).toNat)

/-- A stretch of a chain: bytes that the manual lays out, bytes of a length alone, bytes of which it gives neither layout nor length (log entry
101). -/
inductive ChainPart where
  | known (bs : List Byte)
  | sized (n : Nat)
  | free
  deriving DecidableEq, Repr

/-- The content of a chain in the order of table DB-9; none where the package has no such chain. -/
def chainKnown (s : State) (k : Nat) : Option (List ChainPart) :=
  if k = 0 then some [.known (stopTable s)]
  else if 0x100 ≤ k ∧ k < 0x102 then
    (toFin 2 (k - 0x100)).map (fun d => [.known (infoBytes s d), .free, .known (regBytes s (.slc d) 0x1000)])
  else if 0x1000 ≤ k ∧ k < 0x1280 then
    (toFin 40 ((k - 0x1000) / 16)).bind (fun n =>
      let c := s.cores[n]
      let j := k % 16
      if j = 0 then some [.known (controlChain s n)]
      else if j ≤ 4 then
        (toFin 4 (j - 1)).map (fun a =>
          [.known (weightBytes (c.arrays[a]).wreg ++ weightBytes (c.arrays[a]).shadow ++ regBytes s (.ma n a) 0x28)])
      else if j ≤ 8 then (toFin 4 (j - 5)).map (fun a => [.known (bankBytes c.arrays[a])])
      else if j = 9 then some [.known (tregBytes c ++ entryBytes c), .free, .known (regBytes s (.ve n) 0x1000)]
      else if j = 10 then some [.known (readStore c 0 coreStoreBytes)]
      else none)
  else if 0x2000 ≤ k ∧ k < 0x2000 + 16 * nStacks s then
    (toFin 12 ((k - 0x2000) / 16)).bind (fun c =>
      if k % 16 = 0 then some [.free, .known (regBytes s (.cel c) 0x1000 ++ regBytes s (.upd c) 0x1000)]
      else if k % 16 = 1 then some [.known ((List.range (2 ^ 25)).map (cellarByte s c))]
      else if k % 16 = 2 then some [.known (unitBytes (s.cellars[c]).upd)]
      else none)
  else if 0x3000 ≤ k ∧ k < 0x3000 + 16 * portDies s then
    (toFin 3 ((k - 0x3000) / 16)).bind (fun d =>
      if k % 16 = 0 then some [.free, .known (regBytes s (.fab d) 0x1000)]
      else if k % 16 = 1 then some [.sized (2 ^ 24)]
      else none)
  else if 0x3100 ≤ k ∧ k < 0x3102 then (toFin 2 (k - 0x3100)).map (fun d => [.known (readHall s d 0 (2 ^ 26))])
  else if k = 0x4000 ∧ asleep s mgmtDom then some [.free, .known (sramRead s 0 (2 ^ 22))]
  else if 0x8000 ≤ k ∧ k ≤ 0xFFFF ∧ s.dbg.level = 4 then some [.free]
  else none

/-- Chains that only another variant has, or that lie beyond the level or the halt. -/
def chainBarred (s : State) (k : Nat) : Bool :=
  (chainKnown s k).isNone
    && (decide (0x2000 ≤ k ∧ k < 0x20C0 ∧ k % 16 ≤ 2) || decide (0x3000 ≤ k ∧ k < 0x3030 ∧ k % 16 ≤ 1) || k == 0x4000 || decide (0x8000 ≤ k))

/-- Chains of state that P2 retains: the stop table, the compute dies and the cellar dies, whose clocks stand; port dies and the management
processor die run (tables PW-4, DB-9; log entry 256). -/
def retained (k : Nat) : Bool := decide (k < 0x3000 ∨ 0x3100 ≤ k ∧ k < 0x3102)

/-- Does the device stand as R463, R450 and R448 require for a chain? -/
def scannable (s : State) (k : Nat) : Bool :=
  (s.dbg.halted || (s.pwr.pstate == 2 && retained k)) && s.pwr.pstate != 3 && !(s.boot.minimal && decide (k < 0x4000))

/-- The bytes of one stretch; those that the manual does not lay out are free, but for the bits of keys and secrets, which appear as 0 in every
chain wherever they stand (R447). -/
def stretchBytes (s : State) (k : Nat) : ChainPart → State × List Byte
  | .known bs => (s, bs)
  | .sized n =>
    let (s, bs) := freeBytes s n
    (s, bs.zipIdx.map (fun e => e.1 &&& ~~~ (Config.secretBits k e.2)))
  | .free => (bump s, (Config.chainRest s.freeIx k).zipIdx.map (fun e => e.1 &&& ~~~ (Config.secretBits k e.2)))

/-- The bytes of a chain. -/
def chainBytes (s : State) (k : Nat) : State × List Byte :=
  ((chainKnown s k).getD []).foldl (fun (x : State × List Byte) y =>
    let (s, bs) := stretchBytes x.1 k y
    (s, x.2 ++ bs)) (s, [])

/-- The SCAN packets of a chain: byte offset and up to six words (table DB-6). -/
def scanPackets (s : State) (k : Nat) (bs : List Byte) : State :=
  each (piecesOf 48 (bs.length / 48 + 1) 0 bs) s (fun s e => packet s 0x32 0x7E k (e.1 :: wordsOf (ceilDiv e.2.length 8) e.2))

/-- DBG_SCAN sends a range of chains in ascending index; indexes that name no chain are passed over. -/
def execDbgScan (s : State) : Res :=
  runCmd 0xA5 s (fun s c =>
    let lo := argOf c 0
    let hi := argOf c 1
    if s.dbg.level < 3 then errWith s levelLow
    else if hi < lo ∨ 0xFFFF < hi then errWith s badArgument
    else if s.pwr.pstate = 3 then errWith s 0x6005
    else if !s.dbg.halted && s.pwr.pstate != 2 then errWith s 0x6004
    else if !tracing s then errWith s 0x6007
    else
      let ks := (List.range (hi + 1 - lo)).map (lo + ·)
      if ks.any (chainBarred s) || ks.all (fun k => (chainKnown s k).isNone) then errWith s 0x6006
      else if !s.dbg.halted && ks.any (fun k => (chainKnown s k).isSome && !retained k) then errWith s 0x6005
      else
        let (s, n) := ks.foldl (fun (x : State × Nat) k =>
          let (s, bs) := chainBytes x.1 k
          (scanPackets s k bs, x.2 + bs.length)) (s, 0)
        okWith s [n])

/-! ### The test access port (R449; table DB-3) -/

/-- The bits of bytes, least significant first. -/
def bitsOfBytes (bs : List Byte) : List Bool := bs.flatMap (fun b => (List.range 8).map b.getLsbD)

/-- The TAP selects an instruction: one whose level has not been reached selects bypass and sets TAP_DENIED; else its data register acts. -/
def tapSelect (s : State) (code level : Nat) (act : State → State) : Res :=
  if !s.pwr.powered then .next s
  else if s.dbg.level < level then .next { s with dbg := { s.dbg with tapIr := 0xFF, tapDenied := true } }
  else .next (act { s with dbg := { s.dbg with tapIr := code } })

/-- Free bits: what the pins and the IEEE 1500 port show. -/
def freeBits (s : State) (n : Nat) : State :=
  let (s, bs) := freeBytes s (ceilDiv n 8)
  emit s (.tdo ((bitsOfBytes bs).take n))

/-- A scan of the boundary register: what its cells have captured from the pins leaves, and the bits shifted in are its value at Update-DR (R449;
IEEE 1149.1). -/
def boundaryScan (s : State) (bits : List Bool) : State :=
  let s := freeBits s bits.length
  { s with dbg := { s.dbg with boundary := bits } }

/-- EXTEST: the boundary register is shifted, and drives the pins. -/
def execExtest (bits : List Bool) (s : State) : Res := tapSelect s 0x00 4 (fun s => emit (boundaryScan s bits) (.pins (some bits)))

/-- SAMPLE/PRELOAD: the boundary register is shifted and drives no pin. -/
def execSamplePreload (bits : List Bool) (s : State) : Res := tapSelect s 0x02 0 (fun s => boundaryScan s bits)

/-- SEL1500: `n` bits of the IEEE 1500 port of stack SCAN_SEL[3:0]. -/
def execSel1500 (n : Nat) (s : State) : Res := tapSelect s 0x16 4 (fun s => freeBits s n)

/-- IDCODE: stepping, part 0x0720, the manufacturer identity, which is a free value of the part, and 1. -/
def execIdcode (s : State) : Res :=
  tapSelect s 0x01 0 (fun s =>
    let id := place 1 31 28 + place 0x0720 27 12 + place Config.manufacturer.toNat 11 1 + 1
    emit s (.tdo (bitsOfBytes (leBytes 4 id))))

/-- CLAMP selects bypass; the boundary register drives the pins. -/
def execClamp (s : State) : Res := tapSelect s 0x03 4 (fun s => emit (emit s (.pins (some s.dbg.boundary))) (.tdo [false]))

/-- HIGHZ selects bypass; no pin is driven. -/
def execHighz (s : State) : Res := tapSelect s 0x04 4 (fun s => emit (emit s (.pins none)) (.tdo [false]))

/-- BYPASS: its own code, and every code that table DB-3 does not list. -/
def execBypass (s : State) : Res := tapSelect s 0xFF 0 (fun s => emit s (.tdo [false]))

/-- DBG_AUTH: Update-DR presents the records of both positions; one whose MAGIC is 0 holds none. -/
def execDbgAuth (bytes : List Byte) (x y : AuthProof) (s : State) : Res :=
  tapSelect s 0x10 0 (fun s =>
    let rs := [parseAuth (bytes.take authBytes) x, parseAuth (bytes.drop authBytes) y].filter (fun r => r.magic != 0)
    if rs.isEmpty then s else (unlock s rs 2).1)

/-- DBG_STATUS, the 64-bit copy. -/
def execTapDbgStatus (s : State) : Res := tapSelect s 0x11 0 (fun s => emit s (.tdo (bitsOfBytes (leBytes 8 (dbgStatus s)))))

/-- HALT: Update-DR with 1 starts the halt wave. -/
def execHalt (v : Bool) (s : State) : Res := tapSelect s 0x12 3 (fun s => if v then haltWave s 2 else s)

/-- RESUME: Update-DR with 1 resumes. -/
def execResume (v : Bool) (s : State) : Res := tapSelect s 0x13 3 (fun s => if v then resumeAll s else s)

/-- SCAN_SEL. -/
def execScanSel (k : BitVec 16) (s : State) : Res := tapSelect s 0x14 3 (fun s => { s with dbg := { s.dbg with tapScan := k.toNat } })

/-- SCAN_DATA: `n` bits of the selected chain leave, each shifted back in (R463). -/
def execScanData (n : Nat) (s : State) : Res :=
  tapSelect s 0x15 3 (fun s =>
    if !scannable s s.dbg.tapScan then emit s (.tdo [false])
    else
      let (s, bs) := chainBytes s s.dbg.tapScan
      let bits := bitsOfBytes bs
      emit s (.tdo ((List.range n).map (fun i => bits.getD (i % bits.length) false))))

end Sys2Proof.Machine
end

