-- ==== Sys2Proof/Machine/PwrLinkCmd.lean ====
section
/-! DEFINITION. The commands of power (R487 to R490; tables PW-4 to PW-6) and of the links (R367, R368, R376, R389; tables FB-1, FB-14,
FB-15). -/

namespace Sys2Proof.Machine

/-! ### Power -/

/-- ENTRY_BLOCKED (table PW-6). -/
def entryBlocked : Nat := 0x7002

/-- Does partition `p` bar the entry to P2: ARMED or RUNNING, a twin, a checkpoint being written or restored (table PW-4)? -/
def barsIdle (s : State) (p : PartIx) : Bool :=
  let q := s.parts[p]
  active s p || decide (q.twin ≠ .none) || q.ckp.wr.isSome || q.ckp.restoring

/-- Does partition `p` bar the entry to P3: as for P2, a plan that is not EMPTY, membership of a group (table PW-4)? -/
def barsStandby (s : State) (p : PartIx) : Bool :=
  barsIdle s p || decide ((s.parts[p]).st ≠ .empty) || (s.parts[p]).inGroup

/-- Do the conditions of table PW-4 for entering a power state hold? -/
def mayEnter (s : State) (n : Nat) : Bool :=
  if n < 2 then true
  else if n = 2 then (ixs 8).all (fun p => !barsIdle s p)
  else (ixs 8).all (fun p => !barsStandby s p)

/-- PWR_SET_STATE: the current state answers at once; another is entered by PSTATE_CHANGE, with which the command completes. -/
def execPwrSetState (s : State) : Res :=
  runCmd 0xC0 s (fun s c =>
    let n := argOf c 0
    if s.mbox.begun then (s, none)
    else if 3 < n then errWith s badArgument
    else if n = s.pwr.pstate then okWith s [n]
    else if !mayEnter s n then errWith s entryBlocked
    else (modPwr s (fun p => { p with want := some n }), none))

/-- PWR_QUERY. -/
def execPwrQuery (s : State) : Res :=
  runCmd 0xC1 s (fun s _ => okWith s [pwrStatus s, pwrPower s, pwrTemp s, pwrErr s.pwr])

/-! ### Links -/

/-- BAD_NODE (table FB-15). -/
def badNode : Nat := 0x8001
/-- BAD_RANK_RANGE. -/
def badRankRange : Nat := 0x8002
/-- PORT_ABSENT. -/
def portAbsent : Nat := 0x8003
/-- TWIN_PORT_BUSY. -/
def twinPortBusy : Nat := 0x8004
/-- HOSTWIN_ALIGN. -/
def hostwinAlign : Nat := 0x8005
/-- PARTITIONS_ACTIVE. -/
def partitionsActive : Nat := 0x8006

/-- A port trains anew: one that is up retrains, one that trains starts its training again, one that is DOWN stays so. -/
def retrainPort (p : Port) : Port :=
  match p.st with
  | .down => p
  | .detect => p
  | _ => { p with st := .retrain, nackOf := none, retries := 0 }

/-- FAB_SET_NODE: the node changes and every port retrains. -/
def execFabSetNode (s : State) : Res :=
  runCmd 0xE0 s (fun s c =>
    let n := argOf c 0 % 65536
    if 0xFFFE ≤ n then errWith s badNode
    else if (ixs 8).any (active s) then errWith s partitionsActive
    else okWith { s with fab := { s.fab with node := n, ports := s.fab.ports.map retrainPort } } [])

/-- The 32-bit entries at an offset of management SRAM. -/
def sramWords (s : State) (off n : Nat) : List Nat := (List.range n).map (fun i => leNat (sramRead s (off + 4 * i) 4))

/-- Write consecutive entries of a table. -/
def tsetFrom (t : Tbl Nat) : Nat → List Nat → Tbl Nat
  | _, [] => t
  | k, v :: vs => tsetFrom (tset 0 t k v) (k + 1) vs

/-- A routing entry as the table holds it: VALID and PORTS (R368). -/
def routeEntry (v : Nat) : Nat := v % 2 ^ 18 + 2 ^ 31 * (v / 2 ^ 31 % 2)

/-- FAB_ROUTE_SET: entries of the routing table from management SRAM, each as one update (R368). -/
def execFabRouteSet (s : State) : Res :=
  runCmd 0xE1 s (fun s c =>
    let n := argOf c 1
    if n = 0 ∨ 4096 < n then errWith s badArgument
    else if 0x10000 < argOf c 0 + n then errWith s badNode
    else if !inXfer (argOf c 2) (4 * n) then errWith s xferRange
    else
      let t := tsetFrom s.fab.routes (argOf c 0) ((sramWords s (argOf c 2) n).map routeEntry)
      okWith { s with fab := { s.fab with routes := t } } [])

/-- FAB_RANKMAP_SET: entries of the partition's rank map (R367). -/
def execFabRankmapSet (s : State) : Res :=
  runPartCmd 0xE2 s (fun s c p =>
    let n := argOf c 1
    if n = 0 ∨ 4096 < n then errWith s badArgument
    else if 0x10000 < argOf c 0 + n then errWith s badRankRange
    else if !inXfer (argOf c 2) (4 * n) then errWith s xferRange
    else
      let t := tsetFrom s.fab.ranks[p] (argOf c 0) ((sramWords s (argOf c 2) n).map (· % 2 ^ 19))
      okWith { s with fab := { s.fab with ranks := s.fab.ranks.set p.val t p.isLt } } [])

/-- A command on a port: those of the variant's port dies exist. -/
def onPort (s : State) (c : Cmd) (f : PortIx → CmdRes) : CmdRes :=
  match toFin 18 (argOf c 0) with
  | none => errWith s badArgument
  | some i => if portCount s ≤ i.val then errWith s portAbsent else f i

/-- FAB_PORT: action 0 takes the port down, 1 trains it from DOWN, 2 retrains it from ACTIVE (table FB-1). -/
def execFabPort (s : State) : Res :=
  runCmd 0xE3 s (fun s c =>
    onPort s c (fun i =>
      if 2 < argOf c 1 then errWith s badArgument
      else if isTwinPort s i then errWith s twinPortBusy
      else
        let s := match argOf c 1 with
          | 0 => portDown s i (s.fab.ports[i]).locked false
          | 1 => modPort s i (fun p => if p.st = .down ∧ !p.locked then { p with st := .detect, redetect := false } else p)
          | _ => modPort s i (fun p => if p.st = .active then { p with st := .retrain, nackOf := none, retries := 0 } else p)
        okWith s [portCode (s.fab.ports[i]).st]))

/-- FAB_QUERY_PORT. -/
def execFabQueryPort (s : State) : Res :=
  runCmd 0xE4 s (fun s c =>
    onPort s c (fun i =>
      let x := s.fab.ports[i]
      okWith s [portCode x.st, x.lanes.toNat, x.peerNode, x.peerSerial.toNat, x.keyGen]))

/-- HOSTWIN_SET: the host window of the partition, at its next step boundary while it is ARMED or RUNNING. -/
def execHostwinSet (s : State) : Res :=
  runPartCmd 0xE5 s (fun s c p =>
    if argOf c 0 % 4096 ≠ 0 ∨ argOf c 1 % 4096 ≠ 0 then errWith s hostwinAlign
    else
      let w : HostWin :=
        if active s p then { s.pcie.wins[p] with held := some (c.args[0], c.args[1]) } else ⟨c.args[0], c.args[1], none⟩
      okWith { s with pcie := { s.pcie with wins := s.pcie.wins.set p.val w p.isLt } } [])

end Sys2Proof.Machine
end

