-- ==== Sys2Proof/Machine/Mgmt.lean ====
section
/-! DEFINITION. The management Ethernet with its session, I3C with MCTP and PLDM, SPDM and IDE_KM (R378, R384 to R388, R422, R430, R433;
tables FB-9, FB-11 to FB-13). -/

namespace Sys2Proof.Machine

/-! ### The session (R385 to R387, R433) -/

/-- Does the management Ethernet hear messages now? -/
def hears (s : State) : Bool := netUp s && !asleep s mgmtDom && s.pwr.powered && !s.pwr.lost

/-- SESSION_BUSY (table FB-15). -/
def sessionBusy : Nat := 0x8007

/-- The response to a COMMAND that arrives while another is running (R386). -/
def answerBusy (s : State) (seq : Nat) : State :=
  let words := word (mboxStatus (modMbox s (fun m => { m with error := sessionBusy }))) :: s.mbox.results.toList
  emit { s with mgmt := { s.mgmt with lastResp := words, lastDone := some seq } } (.response seq words)

/-- The SEQ of a COMMAND is above FM_FLOOR and above every one accepted since boot (R433). -/
def freshSeq (s : State) (seq : Nat) : Bool :=
  decide (s.boot.fmFloor < seq) && (match s.mgmt.lastSeq with | some n => decide (n < seq) | none => true)

/-- May a packet with this 802.1Q tag be taken: untagged, or with the identifier of the configuration block (R384; table BS-5)? -/
def tagOk (s : State) (tag : Option Nat) : Bool := tag.isNone || (s.boot.cfg.vlanOn && tag == some s.boot.cfg.vlan)

/-- Is a message one of the fault manager for this device: the header of table FB-11 with the kind and the length that it must have, and the
session key verifies it (R385)? -/
def goodMsg (s : State) (m : MsgIn) (kind bodyLen : Nat) : Bool :=
  hears s && m.auth && tagOk s m.tag && m.magic.toNat == mgmtMagic && m.version == 1 && m.kind.toNat == kind && m.bodyLen == bodyLen && m.serial == s.fuses.serial

/-- The first valid COMMAND names the fault manager where the configuration block does not (table BS-5). -/
def learnPeer (s : State) (m : MsgIn) : State :=
  if s.mgmt.peer.isSome then s else { s with mgmt := { s.mgmt with peer := some (m.source, m.port) } }

/-- COMMAND, of 72 body bytes. It is issued in the mailbox, or waits until the command of another
master has completed (R386). -/
def execCommand (m : MsgIn) (seq : W32) (w : Word) (args : Vector Word 8) (s : State) : Res :=
  let n := seq.toNat
  if !goodMsg s m 1 72 then .next s
  else if s.mgmt.lastDone = some n then .next (emit s (.response n s.mgmt.lastResp))
  else if !freshSeq s n then .next s
  else
    let s := learnPeer { s with mgmt := { s.mgmt with lastSeq := some n } } m
    if s.mgmt.running.isSome || s.mgmt.queued.isSome then .next (answerBusy s n)
    else if s.mbox.busy then .next { s with mgmt := { s.mgmt with queued := some (n, w, args.toList) } }
    else .next (issueSession { s with mgmt := { s.mgmt with running := some n } } w args.toList)

/-- MGMT_ACK, without a body: the acknowledged report leaves the queue (R387). -/
def execMgmtAck (m : MsgIn) (acked : W32) (s : State) : Res :=
  if !goodMsg s m 4 0 then .next s
  else
    let m := s.mgmt
    let lost := m.queue.any (fun r => decide (r.seq = acked.toNat ∧ r.code = 0x45))
    .next { s with mgmt := { m with queue := m.queue.filter (fun r => decide (r.seq ≠ acked.toNat)), lostCount := if lost then 0 else m.lostCount } }

/-- REPORT_RESEND: every report in the queue is sent again (R387). -/
def execReportResend (s : State) : Res :=
  if timersHeld s || asleep s mgmtDom then .next s else .next (flushReports s)

/-! ### The network protocols (R384) -/

/-- Is a packet addressed to this device? -/
def addressed (s : State) (a : NetAddr) : Bool :=
  match a with
  | .v4 x => x != 0 && x == s.mgmt.ip4
  | .v6 x => x != 0 && x == s.mgmt.ip6

/-- Answer a packet; the answer carries the device's tag where it has one (R384; table BS-5). -/
def netAnswer (s : State) (kind : Nat) (words : List Nat) : State :=
  emit s (.net kind (words ++ (if s.boot.cfg.vlanOn then [s.boot.cfg.vlan] else [])))

/-- Does a packet reach the device: the port hears, its tag may be taken, and it names an address of the device (R384)? -/
def reachesNet (s : State) (tag : Option Nat) (a : NetAddr) : Bool := hears s && tagOk s tag && addressed s a

/-- ARP_REQUEST: answered with the address asked for and the MAC address. -/
def execArpRequest (x : NetIn W32) (s : State) : Res :=
  .next (if reachesNet s x.tag (.v4 x.what) then netAnswer s 0 [x.what.toNat, s.fuses.mac.toNat] else s)

/-- NDP_REQUEST: answered with the MAC address. -/
def execNdpRequest (x : NetIn NetAddr) (s : State) : Res :=
  match x.what with
  | .v4 _ => .next s
  | .v6 a => .next (if reachesNet s x.tag (.v6 a) then netAnswer s 1 [a.toNat, s.fuses.mac.toNat] else s)

/-- ICMP_ECHO: answered with its own data. -/
def execIcmpEcho (x : NetIn NetAddr) (bytes : List Byte) (s : State) : Res :=
  .next (if reachesNet s x.tag x.what then netAnswer s 2 (bytes.map BitVec.toNat) else s)

/-- DHCPV4: an address lease, where the configuration block gives no static address (table BS-5). -/
def execDhcpv4 (x : NetIn W32) (s : State) : Res :=
  if hears s && tagOk s x.tag && s.boot.cfg.ipv4 == 0 then .next { s with mgmt := { s.mgmt with ip4 := x.what, dhcp := true } } else .next s

/-! ### I3C (table FB-12) -/

/-- Change the I3C target. -/
def modI3c (s : State) (f : I3c → I3c) : State := { s with i3c := f s.i3c }

/-- ENTDAA: a target without a dynamic address takes the one assigned. -/
def execEntdaa (addr : BitVec 7) (s : State) : Res :=
  .next (if i3cRuns s && s.i3c.dynAddr.isNone then modI3c s (fun x => { x with dynAddr := some addr.toNat }) else s)

/-- SETDASA: a target whose static address is named takes the dynamic address; 0 means ENTDAA only (table BS-5). -/
def execSetdasa (static addr : BitVec 7) (s : State) : Res :=
  .next (if i3cRuns s && s.i3c.dynAddr.isNone && s.i3c.staticAddr != 0 && s.i3c.staticAddr == static.toNat then
    modI3c s (fun x => { x with dynAddr := some addr.toNat }) else s)

/-- A message over MCTP reaches the target once it has a dynamic address. -/
def onMctp (s : State) (f : State → State) : Res := .next (if i3cRuns s && s.i3c.dynAddr.isSome then f s else s)

/-- Answer a message: its kind, in the order of table FB-12, and the words of the answer. -/
def mctpAnswer (s : State) (kind : Nat) (words : List Nat) : State := emit s (.i3c kind words)

/-- Answer with one free value: a version that table FB-12 does not state. -/
def freeAnswer (s : State) (kind : Nat) (words : List Nat) : State :=
  mctpAnswer (bump s) kind (words ++ [(Config.freeWord s.freeIx).toNat])

/-- SET_ENDPOINT_ID. -/
def execSetEndpointId (eid : Byte) (s : State) : Res := onMctp s (fun s => mctpAnswer (modI3c s (fun x => { x with eid := eid.toNat })) 0 [eid.toNat])

/-- GET_ENDPOINT_ID. -/
def execGetEndpointId (s : State) : Res := onMctp s (fun s => mctpAnswer s 1 [s.i3c.eid])

/-- GET_MCTP_VERSION_SUPPORT: the version is not stated. -/
def execGetMctpVersionSupport (s : State) : Res := onMctp s (fun s => freeAnswer s 2 [])

/-- GET_MESSAGE_TYPE_SUPPORT: control, PLDM and SPDM. -/
def execGetMessageTypeSupport (s : State) : Res := onMctp s (fun s => mctpAnswer s 3 [0, 1, 5])

/-- GETTID. -/
def execGettid (s : State) : Res := onMctp s (fun s => mctpAnswer s 4 [s.i3c.tid])

/-- SETTID. -/
def execSettid (tid : Byte) (s : State) : Res := onMctp s (fun s => mctpAnswer (modI3c s (fun x => { x with tid := tid.toNat })) 5 [tid.toNat])

/-- GETPLDMTYPES: types 0, 2 and 5. -/
def execGetpldmtypes (s : State) : Res := onMctp s (fun s => mctpAnswer s 6 [0, 2, 5])

/-- GETPLDMCOMMANDS of a type: its commands by their place in the type's row of table FB-12; those of type 5 are not named there. -/
def execGetpldmcommands (type : Byte) (s : State) : Res :=
  onMctp s (fun s =>
    match type.toNat with
    | 0 => mctpAnswer s 7 [0, 0, 1, 2, 3, 4]
    | 2 => mctpAnswer s 7 [2, 0, 1, 2]
    | 5 => freeAnswer s 7 [5]
    | t => mctpAnswer s 7 [t])

/-- GETPLDMVERSION of a type: the version is not stated. -/
def execGetpldmversion (type : Byte) (s : State) : Res :=
  onMctp s (fun s => if type = 0 ∨ type = 2 ∨ type = 5 then freeAnswer s 8 [type.toNat] else mctpAnswer s 8 [type.toNat])

/-! ### Sensors (table FB-13) -/

/-- The reading of a numeric sensor; none for a sensor of an absent die or an unassigned identifier. -/
def sensorOf (s : State) (id : Nat) : Option Nat :=
  if id = 1 then some (avgPower s 1000)
  else if id = 2 then some s.pwr.tempDie[0]
  else if id = 3 then some s.pwr.tempDie[1]
  else if 4 ≤ id ∧ id < 4 + nStacks s then (toFin 12 (id - 4)).map (fun c => (s.cellars[c]).temp)
  else if 16 ≤ id ∧ id < 16 + portDies s then (toFin 3 (id - 16)).map (fun d => s.pwr.tempPort[d])
  else if id = 19 then some s.pwr.tempMpd
  else none

/-- GETSENSORREADING: 0 and the reading, or 1 for a sensor that does not exist. -/
def execGetsensorreading (id : BitVec 16) (s : State) : Res :=
  onMctp s (fun s => mctpAnswer s 9 (match sensorOf s id.toNat with | some v => [0, v] | none => [1]))

/-- PDR_REPOSITORY: the sensors of present dies. -/
def execPdrRepository (s : State) : Res := onMctp s (fun s => mctpAnswer s 10 ((List.range 20).filter (fun i => (sensorOf s i).isSome)))

/-! ### Firmware over PLDM type 5 (R422; table FB-12) -/

/-- The image slot, erased, with an image programmed into it. -/
def withSlot (s : State) (image : List Byte) : State := modFlash s (fun t => programmed t 0 slotBytes image)

/-- PLDM_FIRMWARE_UPDATE: both signatures are checked, then the slot is erased, programmed and verified; `ok`: the flash takes the image.
The answer is the cause of table BS-3, 0 when the image is accepted, or 0xFF when the image does not fit or the flash fails. -/
def execPldmFirmwareUpdate (image : List Byte) (x : ImageProof) (ok : Bool) (s : State) : Res :=
  onMctp s (fun s =>
    if !x.rsa then mctpAnswer s 11 [0x06]
    else if !x.slh then mctpAnswer s 11 [0x07]
    else if slotBytes < image.length || !ok then mctpAnswer s 11 [0xFF]
    else
      let s := withSlot s image
      mctpAnswer s 11 [(imageCause s (flashBytes s) x).1])

/-! ### SPDM (R378, R430) -/

/-- SPDM_REQUEST over PCIe DOE or I3C: the attestation report with signatures and certificates. A device in FACTORY holds no identity
keys yet (table BS-8), so that it gives none. -/
def execSpdmRequest (doe : Bool) (nonce : Vector Word 4) (s : State) : Res :=
  let reached := if doe then s.pcie.up && !asleep s pcieDom && !asleep s mgmtDom else i3cRuns s && s.i3c.dynAddr.isSome
  if !reached || lcOf s == 0 then .next s
  else
    let (s, bs) := fullReport s nonce 0xF
    let words := bs.map BitVec.toNat
    .next (emit s (if doe then .pcie 0 words else .i3c 12 words))

/-- IDE_KM: keys of the link IDE stream are programmed, and the stream is active, which is reported (R390; tables FB-9, FB-24, BS-9). -/
def execIdeKm (s : State) : Res :=
  if s.pcie.up && !asleep s pcieDom && lcOf s != 0 then
    let t : State := { s with pcie := { s.pcie with ide := true } }
    .next (if s.pcie.ide then t else devReport t 0x44 [s.pcie.speed, s.pcie.width, 1])
  else .next s

end Sys2Proof.Machine
end

