-- ==== Sys2Proof/Machine/Dispatch.lean ====
section
/-! DEFINITION. One arm per command: its meaning. -/

namespace Sys2Proof.Machine

open Sys2Proof

/-- The effect of a command on everything but the queue. -/
def exec (i : Instr) (s : State) : Host.Outcome State Fault Refusal :=
  match i with
  | .add n g sd sa op => Sys2Proof.Machine.execAdd n g sd sa op s
  | .sub n g sd sa op => Sys2Proof.Machine.execSub n g sd sa op s
  | .and n g sd sa op => Sys2Proof.Machine.execAnd n g sd sa op s
  | .or n g sd sa op => Sys2Proof.Machine.execOr n g sd sa op s
  | .xor n g sd sa op => Sys2Proof.Machine.execXor n g sd sa op s
  | .shl n g sd sa op => Sys2Proof.Machine.execShl n g sd sa op s
  | .shr n g sd sa op => Sys2Proof.Machine.execShr n g sd sa op s
  | .sar n g sd sa op => Sys2Proof.Machine.execSar n g sd sa op s
  | .min n g sd sa op => Sys2Proof.Machine.execMin n g sd sa op s
  | .max n g sd sa op => Sys2Proof.Machine.execMax n g sd sa op s
  | .minu n g sd sa op => Sys2Proof.Machine.execMinu n g sd sa op s
  | .maxu n g sd sa op => Sys2Proof.Machine.execMaxu n g sd sa op s
  | .sel n g sd sa sb q => Sys2Proof.Machine.execSel n g sd sa sb q s
  | .clz n g sd sa => Sys2Proof.Machine.execClz n g sd sa s
  | .popc n g sd sa => Sys2Proof.Machine.execPopc n g sd sa s
  | .mul n g sd sa sb => Sys2Proof.Machine.execMul n g sd sa sb s
  | .mulhu n g sd sa sb => Sys2Proof.Machine.execMulhu n g sd sa sb s
  | .mulh n g sd sa sb => Sys2Proof.Machine.execMulh n g sd sa sb s
  | .madd n g sd sa sb sc => Sys2Proof.Machine.execMadd n g sd sa sb sc s
  | .divu n g sd sa sb => Sys2Proof.Machine.execDivu n g sd sa sb s
  | .div n g sd sa sb => Sys2Proof.Machine.execDiv n g sd sa sb s
  | .remu n g sd sa sb => Sys2Proof.Machine.execRemu n g sd sa sb s
  | .rem n g sd sa sb => Sys2Proof.Machine.execRem n g sd sa sb s
  | .fadd n g sd sa sb => Sys2Proof.Machine.execFadd n g sd sa sb s
  | .fsub n g sd sa sb => Sys2Proof.Machine.execFsub n g sd sa sb s
  | .fmul n g sd sa sb => Sys2Proof.Machine.execFmul n g sd sa sb s
  | .ffma n g sd sa sb sc => Sys2Proof.Machine.execFfma n g sd sa sb sc s
  | .fmin n g sd sa sb => Sys2Proof.Machine.execFmin n g sd sa sb s
  | .fmax n g sd sa sb => Sys2Proof.Machine.execFmax n g sd sa sb s
  | .fcvtif n g sd sa => Sys2Proof.Machine.execFcvtif n g sd sa s
  | .fcvtfi n g sd sa => Sys2Proof.Machine.execFcvtfi n g sd sa s
  | .eq n g pd sa op => Sys2Proof.Machine.execEq n g pd sa op s
  | .ne n g pd sa op => Sys2Proof.Machine.execNe n g pd sa op s
  | .lt n g pd sa op => Sys2Proof.Machine.execLt n g pd sa op s
  | .ge n g pd sa op => Sys2Proof.Machine.execGe n g pd sa op s
  | .ltu n g pd sa op => Sys2Proof.Machine.execLtu n g pd sa op s
  | .geu n g pd sa op => Sys2Proof.Machine.execGeu n g pd sa op s
  | .flt n g pd sa sb => Sys2Proof.Machine.execFlt n g pd sa sb s
  | .feq n g pd sa sb => Sys2Proof.Machine.execFeq n g pd sa sb s
  | .pand n g pd pa pb => Sys2Proof.Machine.execPand n g pd pa pb s
  | .por n g pd pa pb => Sys2Proof.Machine.execPor n g pd pa pb s
  | .pxor n g pd pa pb => Sys2Proof.Machine.execPxor n g pd pa pb s
  | .pnot n g pd pa => Sys2Proof.Machine.execPnot n g pd pa s
  | .br n g sd off => Sys2Proof.Machine.execBr n g sd off s
  | .bri n g sd sa off => Sys2Proof.Machine.execBri n g sd sa off s
  | .load n g r sa sp size signed off bad => Sys2Proof.Machine.execLoad n g r sa sp size signed off bad s
  | .store n g r sa sp size off => Sys2Proof.Machine.execStore n g r sa sp size off s
  | .nop n g => Sys2Proof.Machine.execNop n g s
  | .yield n g => Sys2Proof.Machine.execYield n g s
  | .stepend n g => Sys2Proof.Machine.execStepend n g s
  | .fence n g scope => Sys2Proof.Machine.execFence n g scope s
  | .trap n g code => Sys2Proof.Machine.execTrap n g code s
  | .waitb n g b => Sys2Proof.Machine.execWaitb n g b s
  | .sigb n g b => Sys2Proof.Machine.execSigb n g b s
  | .waitc n g c v => Sys2Proof.Machine.execWaitc n g c v s
  | .setc n g c v => Sys2Proof.Machine.execSetc n g c v s
  | .rdsr n g sd sel => Sys2Proof.Machine.execRdsr n g sd sel s
  | .qshape n g sd sa w => Sys2Proof.Machine.execQshape n g sd sa w s
  | .bcast n g sa slot => Sys2Proof.Machine.execBcast n g sa slot s
  | .trd n g sd treg row lane => Sys2Proof.Machine.execTrd n g sd treg row lane s
  | .li64 n g sd v => Sys2Proof.Machine.execLi64 n g sd v s
  | .mma n g f => Sys2Proof.Machine.execMma n g f s
  | .mrelease n g cnt => Sys2Proof.Machine.execMrelease n g cnt s
  | .wpre n g f => Sys2Proof.Machine.execWpre n g f s
  | .vrun n g f => Sys2Proof.Machine.execVrun n g f s
  | .vpop n g count cnt => Sys2Proof.Machine.execVpop n g count cnt s
  | .vchdef n g saDef entry cnt => Sys2Proof.Machine.execVchdef n g saDef entry cnt s
  | .sstart n g saSrc saDst sctx desc cnt => Sys2Proof.Machine.execSstart n g saSrc saDst sctx desc cnt s
  | .srelease n g saOff lines cnt => Sys2Proof.Machine.execSrelease n g saOff lines cnt s
  | .loadData n j sp => Sys2Proof.Machine.execLoadData n j sp s
  | .storeComplete n j sp => Sys2Proof.Machine.execStoreComplete n j sp s
  | .quantum n => Sys2Proof.Machine.execQuantum n s
  | .waitTimeout n j => Sys2Proof.Machine.execWaitTimeout n j s
  | .matrixPass n fault corr => Sys2Proof.Machine.execMatrixPass n fault corr s
  | .matrixDrain n fault corr => Sys2Proof.Machine.execMatrixDrain n fault corr s
  | .wpreComplete n => Sys2Proof.Machine.execWpreComplete n s
  | .arrayIdle n a => Sys2Proof.Machine.execArrayIdle n a s
  | .flumeTileWrite n bank => Sys2Proof.Machine.execFlumeTileWrite n bank s
  | .vectorComplete n fault corr => Sys2Proof.Machine.execVectorComplete n fault corr s
  | .sluiceGrant d => Sys2Proof.Machine.execSluiceGrant d s
  | .ageLimit d phys => Sys2Proof.Machine.execAgeLimit d phys s
  | .chunkWritten d phys fault => Sys2Proof.Machine.execChunkWritten d phys fault s
  | .streamComplete d phys => Sys2Proof.Machine.execStreamComplete d phys s
  | .sreleaseRecord n => Sys2Proof.Machine.execSreleaseRecord n s
  | .localToken d ix => Sys2Proof.Machine.execLocalToken d ix s
  | .cellarRequest c req => Sys2Proof.Machine.execCellarRequest c req s
  | .burstIssue c pc err reread => Sys2Proof.Machine.execBurstIssue c pc err reread s
  | .gatherAge c pc => Sys2Proof.Machine.execGatherAge c pc s
  | .runHold c pc => Sys2Proof.Machine.execRunHold c pc s
  | .trackerExpiry c ix => Sys2Proof.Machine.execTrackerExpiry c ix s
  | .scrubBlock c err => Sys2Proof.Machine.execScrubBlock c err s
  | .scrubRetry c x => Sys2Proof.Machine.execScrubRetry c x s
  | .tempReading c temp => Sys2Proof.Machine.execTempReading c temp s
  | .remapCopy x => Sys2Proof.Machine.execRemapCopy x s
  | .wipeEnd c => Sys2Proof.Machine.execWipeEnd c s
  | .updGranule c staging reads => Sys2Proof.Machine.execUpdGranule c staging reads s
  | .poolReportMs c => Sys2Proof.Machine.execPoolReportMs c s
  | .sweepEntry c => Sys2Proof.Machine.execSweepEntry c s
  | .localContribution c p red x => Sys2Proof.Machine.execLocalContribution c p red x s
  | .ready p => Sys2Proof.Machine.execReady p s
  | .coordReady h group epoch sender step attempt unpaired => Sys2Proof.Machine.execCoordReady h group epoch sender step attempt unpaired s
  | .fail h group epoch sender step attempt classH cause => Sys2Proof.Machine.execFail h group epoch sender step attempt classH cause s
  | .discarded h group epoch sender step attempt => Sys2Proof.Machine.execDiscarded h group epoch sender step attempt s
  | .start h group epoch sender t macOk => Sys2Proof.Machine.execStart h group epoch sender t macOk s
  | .commit h group epoch sender t macOk => Sys2Proof.Machine.execCommit h group epoch sender t macOk s
  | .abort h group epoch sender t macOk => Sys2Proof.Machine.execAbort h group epoch sender t macOk s
  | .discardComplete p => Sys2Proof.Machine.execDiscardComplete p s
  | .mirrorPage p x => Sys2Proof.Machine.execMirrorPage p x s
  | .mirror h m => Sys2Proof.Machine.execMirror h m s
  | .mirrorAck h group epoch sender kind value => Sys2Proof.Machine.execMirrorAck h group epoch sender kind value s
  | .twinSyncDone p => Sys2Proof.Machine.execTwinSyncDone p s
  | .soloCommit p => Sys2Proof.Machine.execSoloCommit p s
  | .readyTimeout p => Sys2Proof.Machine.execReadyTimeout p s
  | .commitTimeout p => Sys2Proof.Machine.execCommitTimeout p s
  | .peerLost x => Sys2Proof.Machine.execPeerLost x s
  | .heartbeat p => Sys2Proof.Machine.execHeartbeat p s
  | .compare ix fault same => Sys2Proof.Machine.execCompare ix fault same s
  | .vote ix res at0 => Sys2Proof.Machine.execVote ix res at0 s
  | .selftestRecord unit record fault => Sys2Proof.Machine.execSelftestRecord unit record fault s
  | .sectionWrite first second => Sys2Proof.Machine.execSectionWrite first second s
  | .holdupSense mv => Sys2Proof.Machine.execHoldupSense mv s
  | .holdupWait => Sys2Proof.Machine.execHoldupWait s
  | .powerUp testEn => Sys2Proof.Machine.execPowerUp testEn s
  | .resetN testEn => Sys2Proof.Machine.execResetN testEn s
  | .pwrGoodFall resetHigh => Sys2Proof.Machine.execPwrGoodFall resetHigh s
  | .pwrGoodRise => Sys2Proof.Machine.execPwrGoodRise s
  | .coreUndervoltage => Sys2Proof.Machine.execCoreUndervoltage s
  | .pciePerstN => Sys2Proof.Machine.execPciePerstN s
  | .trstN => Sys2Proof.Machine.execTrstN s
  | .bootStageFuses fail => Sys2Proof.Machine.execBootStageFuses fail s
  | .bootStageConfig fail => Sys2Proof.Machine.execBootStageConfig fail s
  | .bootStageRecord fail => Sys2Proof.Machine.execBootStageRecord fail s
  | .bootStageImage x => Sys2Proof.Machine.execBootStageImage x s
  | .bootStageLinks fail => Sys2Proof.Machine.execBootStageLinks fail s
  | .bootStageWipe fail => Sys2Proof.Machine.execBootStageWipe fail s
  | .bootStageState fail => Sys2Proof.Machine.execBootStageState fail s
  | .bootStageReady fail => Sys2Proof.Machine.execBootStageReady fail s
  | .bootWatchdog => Sys2Proof.Machine.execBootWatchdog s
  | .minimalMode => Sys2Proof.Machine.execMinimalMode s
  | .linkDown l => Sys2Proof.Machine.execLinkDown l s
  | .ucieTrainerror d => Sys2Proof.Machine.execUcieTrainerror d s
  | .controlTick => Sys2Proof.Machine.execControlTick s
  | .vrSetPointReached d mv => Sys2Proof.Machine.execVrSetPointReached d mv s
  | .vrTimeout d => Sys2Proof.Machine.execVrTimeout d s
  | .droop r mv => Sys2Proof.Machine.execDroop r mv s
  | .stretchHoldNs r clear => Sys2Proof.Machine.execStretchHoldNs r clear s
  | .limiterSample watts amps0 amps1 => Sys2Proof.Machine.execLimiterSample watts amps0 amps1 s
  | .limiterRaise => Sys2Proof.Machine.execLimiterRaise s
  | .boostLimit => Sys2Proof.Machine.execBoostLimit s
  | .cooldownEnd => Sys2Proof.Machine.execCooldownEnd s
  | .junctionReading die0 die1 port0 port1 port2 mpd => Sys2Proof.Machine.execJunctionReading die0 die1 port0 port1 port2 mpd s
  | .throttleStep die => Sys2Proof.Machine.execThrottleStep die s
  | .wearSecond => Sys2Proof.Machine.execWearSecond s
  | .wearWrite => Sys2Proof.Machine.execWearWrite s
  | .pstateChange => Sys2Proof.Machine.execPstateChange s
  | .sync => Sys2Proof.Machine.execSync s
  | .counterSample coin => Sys2Proof.Machine.execCounterSample coin s
  | .domainStop dom => Sys2Proof.Machine.execDomainStop dom s
  | .put h chan pos attempt step bytes => Sys2Proof.Machine.execPut h chan pos attempt step bytes s
  | .credit h chan limit attempt step => Sys2Proof.Machine.execCredit h chan limit attempt step s
  | .contrib h red fmt e rank granule attempt step x => Sys2Proof.Machine.execContrib h red fmt e rank granule attempt step x s
  | .retry h ab w01 => Sys2Proof.Machine.execRetry h ab w01 s
  | .retryUs die seq => Sys2Proof.Machine.execRetryUs die seq s
  | .token h rank lcore barrier attempt step => Sys2Proof.Machine.execToken h rank lcore barrier attempt step s
  | .digest h group sender version d => Sys2Proof.Machine.execDigest h group sender version d s
  | .storeData h off len obj bytes u => Sys2Proof.Machine.execStoreData h off len obj bytes u s
  | .dack h seqs => Sys2Proof.Machine.execDack h seqs s
  | .ckpPageSend x => Sys2Proof.Machine.execCkpPageSend x s
  | .ckpTimeout p => Sys2Proof.Machine.execCkpTimeout p s
  | .unknownType h type => Sys2Proof.Machine.execUnknownType h type s
  | .frameForward l f => Sys2Proof.Machine.execFrameForward l f s
  | .ack port named => Sys2Proof.Machine.execAck port named s
  | .nack port named sent => Sys2Proof.Machine.execNack port named sent s
  | .idle port corrected => Sys2Proof.Machine.execIdle port corrected s
  | .idleUs port => Sys2Proof.Machine.execIdleUs port s
  | .vlcredit port vl hop space => Sys2Proof.Machine.execVlcredit port vl hop space s
  | .rekey port gen fromSeq => Sys2Proof.Machine.execRekey port gen fromSeq s
  | .laneFence port x => Sys2Proof.Machine.execLaneFence port x s
  | .detect port lanes => Sys2Proof.Machine.execDetect port lanes s
  | .detectRetry port => Sys2Proof.Machine.execDetectRetry port s
  | .equalize port lanes => Sys2Proof.Machine.execEqualize port lanes s
  | .align port => Sys2Proof.Machine.execAlign port s
  | .auth port peer node serial => Sys2Proof.Machine.execAuth port peer node serial s
  | .portTrainingTimeout port => Sys2Proof.Machine.execPortTrainingTimeout port s
  | .hostReadData p off bytes => Sys2Proof.Machine.execHostReadData p off bytes s
  | .command m seq w args => Sys2Proof.Machine.execCommand m seq w args s
  | .mgmtAck m acked => Sys2Proof.Machine.execMgmtAck m acked s
  | .reportResend => Sys2Proof.Machine.execReportResend s
  | .arpRequest x => Sys2Proof.Machine.execArpRequest x s
  | .ndpRequest x => Sys2Proof.Machine.execNdpRequest x s
  | .icmpEcho x bytes => Sys2Proof.Machine.execIcmpEcho x bytes s
  | .entdaa addr => Sys2Proof.Machine.execEntdaa addr s
  | .setdasa static addr => Sys2Proof.Machine.execSetdasa static addr s
  | .setEndpointId eid => Sys2Proof.Machine.execSetEndpointId eid s
  | .getEndpointId => Sys2Proof.Machine.execGetEndpointId s
  | .getMctpVersionSupport => Sys2Proof.Machine.execGetMctpVersionSupport s
  | .getMessageTypeSupport => Sys2Proof.Machine.execGetMessageTypeSupport s
  | .gettid => Sys2Proof.Machine.execGettid s
  | .settid tid => Sys2Proof.Machine.execSettid tid s
  | .getpldmtypes => Sys2Proof.Machine.execGetpldmtypes s
  | .getpldmcommands type => Sys2Proof.Machine.execGetpldmcommands type s
  | .getpldmversion type => Sys2Proof.Machine.execGetpldmversion type s
  | .getsensorreading id => Sys2Proof.Machine.execGetsensorreading id s
  | .pldmFirmwareUpdate image x ok => Sys2Proof.Machine.execPldmFirmwareUpdate image x ok s
  | .spdmRequest doe nonce => Sys2Proof.Machine.execSpdmRequest doe nonce s
  | .ideKm => Sys2Proof.Machine.execIdeKm s
  | .queryShape => Sys2Proof.Machine.execQueryShape s
  | .loadPlan im => Sys2Proof.Machine.execLoadPlan im s
  | .arm => Sys2Proof.Machine.execArm s
  | .haltPlan => Sys2Proof.Machine.execHaltPlan s
  | .releasePlan => Sys2Proof.Machine.execReleasePlan s
  | .queryPlan => Sys2Proof.Machine.execQueryPlan s
  | .partWrite host => Sys2Proof.Machine.execPartWrite host s
  | .partRead => Sys2Proof.Machine.execPartRead s
  | .unknownCode => Sys2Proof.Machine.execUnknownCode s
  | .mboxCompletion => Sys2Proof.Machine.execMboxCompletion s
  | .twinAttach answer => Sys2Proof.Machine.execTwinAttach answer s
  | .twinRelease => Sys2Proof.Machine.execTwinRelease s
  | .groupJoin => Sys2Proof.Machine.execGroupJoin s
  | .groupLeave => Sys2Proof.Machine.execGroupLeave s
  | .reconfigure => Sys2Proof.Machine.execReconfigure s
  | .queryStep => Sys2Proof.Machine.execQueryStep s
  | .readToken => Sys2Proof.Machine.execReadToken s
  | .flip macOk => Sys2Proof.Machine.execFlip macOk s
  | .discard => Sys2Proof.Machine.execDiscard s
  | .go => Sys2Proof.Machine.execGo s
  | .becomeSpare => Sys2Proof.Machine.execBecomeSpare s
  | .assumeIdentity x => Sys2Proof.Machine.execAssumeIdentity x s
  | .restore got => Sys2Proof.Machine.execRestore got s
  | .repair got => Sys2Proof.Machine.execRepair got s
  | .fmHalt => Sys2Proof.Machine.execFmHalt s
  | .ckpQuery => Sys2Proof.Machine.execCkpQuery s
  | .ckpAbandon => Sys2Proof.Machine.execCkpAbandon s
  | .ckpRestore answer => Sys2Proof.Machine.execCkpRestore answer s
  | .ckpFind a => Sys2Proof.Machine.execCkpFind a s
  | .sedQueryUnit => Sys2Proof.Machine.execSedQueryUnit s
  | .sedFence => Sys2Proof.Machine.execSedFence s
  | .sedSelftest => Sys2Proof.Machine.execSedSelftest s
  | .sedPantryRead => Sys2Proof.Machine.execSedPantryRead s
  | .sedPantryLoad => Sys2Proof.Machine.execSedPantryLoad s
  | .sedReplicas => Sys2Proof.Machine.execSedReplicas s
  | .sedDigest => Sys2Proof.Machine.execSedDigest s
  | .bootQuery => Sys2Proof.Machine.execBootQuery s
  | .bootReset => Sys2Proof.Machine.execBootReset s
  | .bootImageBegin ok => Sys2Proof.Machine.execBootImageBegin ok s
  | .bootImageChunk ok => Sys2Proof.Machine.execBootImageChunk ok s
  | .bootImageEnd x => Sys2Proof.Machine.execBootImageEnd x s
  | .bootSvnCommit => Sys2Proof.Machine.execBootSvnCommit s
  | .secXferWrite => Sys2Proof.Machine.execSecXferWrite s
  | .secXferRead => Sys2Proof.Machine.execSecXferRead s
  | .secAttest => Sys2Proof.Machine.execSecAttest s
  | .secTakeOwnership ok => Sys2Proof.Machine.execSecTakeOwnership ok s
  | .secReleaseOwnership x => Sys2Proof.Machine.execSecReleaseOwnership x s
  | .secScrap x => Sys2Proof.Machine.execSecScrap x s
  | .secProvision x => Sys2Proof.Machine.execSecProvision x s
  | .secKeyRequest => Sys2Proof.Machine.execSecKeyRequest s
  | .secSharedCreate => Sys2Proof.Machine.execSecSharedCreate s
  | .secSharedExport accepted => Sys2Proof.Machine.execSecSharedExport accepted s
  | .secSharedImport blob => Sys2Proof.Machine.execSecSharedImport blob s
  | .partCreate => Sys2Proof.Machine.execPartCreate s
  | .partDestroy => Sys2Proof.Machine.execPartDestroy s
  | .bootCauses => Sys2Proof.Machine.execBootCauses s
  | .dbgChallenge => Sys2Proof.Machine.execDbgChallenge s
  | .dbgUnlock x y => Sys2Proof.Machine.execDbgUnlock x y s
  | .dbgLock => Sys2Proof.Machine.execDbgLock s
  | .dbgHalt => Sys2Proof.Machine.execDbgHalt s
  | .dbgResume => Sys2Proof.Machine.execDbgResume s
  | .dbgScan => Sys2Proof.Machine.execDbgScan s
  | .trcMark => Sys2Proof.Machine.execTrcMark s
  | .cntRead coin => Sys2Proof.Machine.execCntRead coin s
  | .cntSnapshot coin => Sys2Proof.Machine.execCntSnapshot coin s
  | .cntClear => Sys2Proof.Machine.execCntClear s
  | .pwrSetState => Sys2Proof.Machine.execPwrSetState s
  | .pwrQuery => Sys2Proof.Machine.execPwrQuery s
  | .fabSetNode => Sys2Proof.Machine.execFabSetNode s
  | .fabRouteSet => Sys2Proof.Machine.execFabRouteSet s
  | .fabRankmapSet => Sys2Proof.Machine.execFabRankmapSet s
  | .fabPort => Sys2Proof.Machine.execFabPort s
  | .fabQueryPort => Sys2Proof.Machine.execFabQueryPort s
  | .hostwinSet => Sys2Proof.Machine.execHostwinSet s
  | .extest n => Sys2Proof.Machine.execExtest n s
  | .idcode => Sys2Proof.Machine.execIdcode s
  | .samplePreload n => Sys2Proof.Machine.execSamplePreload n s
  | .clamp => Sys2Proof.Machine.execClamp s
  | .highz => Sys2Proof.Machine.execHighz s
  | .dbgAuth bytes x y => Sys2Proof.Machine.execDbgAuth bytes x y s
  | .tapDbgStatus => Sys2Proof.Machine.execTapDbgStatus s
  | .halt v => Sys2Proof.Machine.execHalt v s
  | .resume v => Sys2Proof.Machine.execResume v s
  | .scanSel k => Sys2Proof.Machine.execScanSel k s
  | .scanData n => Sys2Proof.Machine.execScanData n s
  | .sel1500 n => Sys2Proof.Machine.execSel1500 n s
  | .bypass => Sys2Proof.Machine.execBypass s
  | .registerWrite m addr bytes => Sys2Proof.Machine.execRegisterWrite m addr bytes s
  | .pkgStatus m x => Sys2Proof.Machine.execPkgStatus m x s
  | .pkgMboxStatus m => Sys2Proof.Machine.execPkgMboxStatus m s
  | .secMboxOwner m v => Sys2Proof.Machine.execSecMboxOwner m v s
  | .slcCtxSel d v => Sys2Proof.Machine.execSlcCtxSel d v s
  | .fabRouteSel d v => Sys2Proof.Machine.execFabRouteSel d v s
  | .dbgStopSel v => Sys2Proof.Machine.execDbgStopSel v s
  | .celTemp c v => Sys2Proof.Machine.execCelTemp c v s
  | .pwrPower v => Sys2Proof.Machine.execPwrPower v s
  | .dbgDumpCfg j v => Sys2Proof.Machine.execDbgDumpCfg j v s
  | .maErr n k x => Sys2Proof.Machine.execMaErr n k x s
  | .veErr n x => Sys2Proof.Machine.execVeErr n x s
  | .slcTokens d => Sys2Proof.Machine.execSlcTokens d s
  | .celErr c x => Sys2Proof.Machine.execCelErr c x s
  | .updErr c x => Sys2Proof.Machine.execUpdErr c x s
  | .updDiscards c => Sys2Proof.Machine.execUpdDiscards c s
  | .stpErr p x => Sys2Proof.Machine.execStpErr p x s
  | .sedCount p => Sys2Proof.Machine.execSedCount p s
  | .fabDiscards d => Sys2Proof.Machine.execFabDiscards d s
  | .fabFec f => Sys2Proof.Machine.execFabFec f s
  | .ckpErr p x => Sys2Proof.Machine.execCkpErr p x s
  | .trcLost => Sys2Proof.Machine.execTrcLost s
  | .pwrErr x => Sys2Proof.Machine.execPwrErr x s
  | .powerRemoval => Sys2Proof.Machine.execPowerRemoval s
  | .pcieLinkUp speed width => Sys2Proof.Machine.execPcieLinkUp speed width s
  | .failingRead addr len => Sys2Proof.Machine.execFailingRead addr len s
  | .dhcpv4 x => Sys2Proof.Machine.execDhcpv4 x s
  | .pdrRepository => Sys2Proof.Machine.execPdrRepository s

end Sys2Proof.Machine
end

