-- ==== Sys2Proof/Safety.lean ====
section
/-! DEFINITION. What counts as a safe run, and the words in which claims are made: when a control core issues an instruction, when a
mailbox command runs, what a command leaves unchanged. -/

namespace Sys2Proof.Machine

/-- A command answers a next state. -/
def completes (c : Instr) (s : State) : Prop := ∃ t, exec c s = .next t

/-- The RUN context of a core issues an instruction that uses the listed scalar registers: the core's region runs, no partition stop is on its
way to the core, the pc lies within the code, the guard holds, no used register awaits a load or TRD (R70, R75, R84, R97; table CC-2). -/
structure Issues (s : State) (n : CoreIx) (g : Guard) (uses : List Reg) (i : CtxIx) (b : Bound) (lc : LCoreE) : Prop where
  awake : asleep s (coreDom n) = false
  calm : (s.cores[n]).stopping = false
  run : runCtx s.cores[n] = some i
  bound : boundOf s.cores[n] i = some b
  plan : lcoreE s b.part b.lcore = some lc
  code : (ctxOf s n i).pc.toNat < lc.codeLen
  guard : guardOk (ctxOf s n i) g = true
  regs : condHolds s n i (.regs uses) = true

/-- Nothing of the state but one task context, and the issue count of its core, differs. -/
structure OnlyCtx (s t : State) (n : CoreIx) (i : CtxIx) : Prop where
  rest : t = { s with cores := t.cores }
  others : ∀ m, m ≠ n → t.cores[m] = s.cores[m]
  core : t.cores[n] = { s.cores[n] with ctx := (t.cores[n]).ctx, issued := (t.cores[n]).issued }
  ctxs : ∀ j, j ≠ i → ctxOf t n j = ctxOf s n j

/-- The instruction writes a value to a scalar register, s0 excepted, and goes on `words` words further; the context's other scalar
registers, its predicates, slots and counters, and everything outside the context stay as they are. -/
def WritesReg (s : State) (n : CoreIx) (i : CtxIx) (sd : Reg) (v : Word) (words : Nat) (r : Res) : Prop :=
  ∃ t, r = .next t ∧ OnlyCtx s t n i
    ∧ ctxOf t n i = { ctxOf s n i with s := (ctxOf t n i).s, pc := (ctxOf s n i).pc + BitVec.ofNat 40 (8 * words) }
    ∧ rd (ctxOf t n i) sd = (if sd = 0 then 0 else v)
    ∧ ∀ q, q ≠ sd → rd (ctxOf t n i) q = rd (ctxOf s n i) q

/-- The instruction writes a predicate, p0 excepted, and goes on; nothing else of the context but its pc changes. -/
def WritesPred (s : State) (n : CoreIx) (i : CtxIx) (pd : Pred) (v : Bool) (r : Res) : Prop :=
  ∃ t, r = .next t ∧ OnlyCtx s t n i
    ∧ ctxOf t n i = { ctxOf s n i with p := (ctxOf t n i).p, pc := (ctxOf s n i).pc + 8 }
    ∧ rdp (ctxOf t n i) pd = (if pd = 0 then true else v)
    ∧ ∀ q, q ≠ pd → rdp (ctxOf t n i) q = rdp (ctxOf s n i) q

/-- The newest report in the queue for the fault manager has this code, partition and detail (R327, R387). -/
def reported (t : State) (code part : Nat) (detail : List Nat) : Prop :=
  ∃ r, t.mgmt.queue.getLast? = some r ∧ r.code = code ∧ r.part = part ∧ r.detail = detail

/-- Of the state nothing but the parts that a report touches differs: the report queue and its numbers, the section that reserves
them, the bits of port die 0, what has left the device. -/
def OnlyReports (s t : State) : Prop := t = { s with mgmt := t.mgmt, boot := t.boot, fab := t.fab, egress := t.egress }

/-- The core, the guard and the length in words of a command that a control core issues; none for every other command. -/
def coreInstr : Instr → Option (CoreIx × Guard × Nat)
  | .add n g _ _ _ | .sub n g _ _ _ | .and n g _ _ _ | .or n g _ _ _ | .xor n g _ _ _ | .shl n g _ _ _ | .shr n g _ _ _ | .sar n g _ _ _
  | .min n g _ _ _ | .max n g _ _ _ | .minu n g _ _ _ | .maxu n g _ _ _ => some (n, g, 1)
  | .sel n g _ _ _ _ | .clz n g _ _ | .popc n g _ _ => some (n, g, 1)
  | .mul n g _ _ _ | .mulhu n g _ _ _ | .mulh n g _ _ _ | .madd n g _ _ _ _ | .divu n g _ _ _ | .div n g _ _ _ | .remu n g _ _ _
  | .rem n g _ _ _ => some (n, g, 1)
  | .fadd n g _ _ _ | .fsub n g _ _ _ | .fmul n g _ _ _ | .ffma n g _ _ _ _ | .fmin n g _ _ _ | .fmax n g _ _ _ | .fcvtif n g _ _
  | .fcvtfi n g _ _ => some (n, g, 1)
  | .eq n g _ _ _ | .ne n g _ _ _ | .lt n g _ _ _ | .ge n g _ _ _ | .ltu n g _ _ _ | .geu n g _ _ _ | .flt n g _ _ _ | .feq n g _ _ _
  | .pand n g _ _ _ | .por n g _ _ _ | .pxor n g _ _ _ | .pnot n g _ _ => some (n, g, 1)
  | .br n g _ _ | .bri n g _ _ _ | .load n g _ _ _ _ _ _ _ | .store n g _ _ _ _ _ => some (n, g, 1)
  | .nop n g | .yield n g | .stepend n g | .fence n g _ | .trap n g _ | .waitb n g _ | .sigb n g _ | .waitc n g _ _ | .setc n g _ _
  | .rdsr n g _ _ | .qshape n g _ _ _ | .bcast n g _ _ | .trd n g _ _ _ _ => some (n, g, 1)
  | .li64 n g _ _ => some (n, g, 2)
  | .mma n g _ | .wpre n g _ | .vrun n g _ | .mrelease n g _ | .vpop n g _ _ | .vchdef n g _ _ _ | .sstart n g _ _ _ _ _
  | .srelease n g _ _ _ => some (n, g, 2)
  | _ => none

/-- Of the state nothing but the task contexts of one core, its issue count and cycle count, its last context in RUN, and what
observation adds (trace, counters, the moments at which it looks), differs. -/
structure OnlyCore (s t : State) (n : CoreIx) : Prop where
  rest : t = { s with cores := t.cores, trc := t.trc, cnt := t.cnt, egress := t.egress, rtime := t.rtime, freeIx := t.freeIx }
  others : ∀ m, m ≠ n → t.cores[m] = s.cores[m]
  core : t.cores[n] = { s.cores[n] with ctx := (t.cores[n]).ctx, issued := (t.cores[n]).issued, current := (t.cores[n]).current
                                        cycles := (t.cores[n]).cycles }

/-- The mailbox holds a command with this code that has not come to its end, Absuko runs commands, and no general check turns it away
(R46, R49, R50, R437). -/
structure RunsCmd (s : State) (code : Nat) (c : Cmd) : Prop where
  held : s.mbox.run = some c
  code : c.code = code
  fresh : s.mbox.outcome = none
  able : commandable s = true
  admitted : turnAway s c = none

/-- The running command leaves the state `u`, and its completion code and results wait for the mailbox to complete it (R51). -/
def Ends (r : Res) (u : State) (error : Nat) (results : List Nat) : Prop :=
  r = .next { u with mbox := { u.mbox with outcome := some ⟨error, results⟩, begun := true } }

/-- The running command leaves the state `u` and goes on running. -/
def GoesOn (r : Res) (u : State) : Prop := r = .next { u with mbox := { u.mbox with outcome := none, begun := true } }

/-- A state as after a reset (R417, R428, R444): the fuses and the flash stay, boot stands at stage 0, the life-cycle state gives the
debug level, and cores, memory, partitions, mailbox and links are as `State.reset` has them. -/
structure AfterReset (s t : State) : Prop where
  fuses : t.fuses = s.fuses ∧ t.boot.fuses = s.boot.fuses
  flash : t.boot.flash = s.boot.flash
  stage : t.boot.stage = 0
  level : t.dbg.level = if s.boot.fuses.lc = .factory then 4 else 0
  cores : t.cores = State.reset.cores ∧ t.hall = State.reset.hall ∧ t.sluices = State.reset.sluices
  memory : t.hbm = [] ∧ t.tags = [] ∧ t.vmap = []
  parts : t.parts = State.reset.parts ∧ t.mbox = State.reset.mbox ∧ t.fab = State.reset.fab ∧ t.mgmt = State.reset.mgmt
  queue : t.pending = s.pending

/-- The memories of the device are in their canonical form: keys rise strictly, and no entry equals what an unlisted place reads as. What an unlisted byte
of HBM3 reads as is a free value, so there the keys alone are bound. -/
def Memory.wf (s : State) : Bool :=
  tsorted s.hbm && twf unwrittenTag s.tags && s.hall.toList.all (fun t => twf 0 t) && s.cores.toList.all (fun c => twf 0 c.store)
    && s.cellars.toList.all (fun c => twf 0 c.sram) && twf 0 s.boot.sram && twf 0xFF s.boot.flash

/-- What holds of the mailbox in every state that a run reaches (R49 to R51, R438; tables PC-5, BS-19): BUSY is set while a command runs and only
then, a completion waits only for a running command, DONE and BUSY are never set together, the owner is no one, MGMT or the host,
MGMT waits only for a host that owns a busy mailbox, and the count of rejected writes saturates. -/
structure MailboxInv (s : State) : Prop where
  busy : s.mbox.busy = s.mbox.run.isSome
  outcome : s.mbox.outcome.isSome = true → s.mbox.busy = true
  done : ¬ (s.mbox.busy = true ∧ s.mbox.done = true)
  owner : s.mbox.owner ≤ 2
  preempt : s.mbox.preempt = true → s.mbox.owner = 2 ∧ s.mbox.busy = true
  rejects : s.mbox.rejects ≤ 255

end Sys2Proof.Machine
end

