-- ==== Sys2Proof/Certificates/Slice0/Obligations.lean ====
section
/-! DEFINITION. The statements for the provers: what the numbered rules of the manual say that the device does, family by family. -/

open Sys2Proof Sys2Proof.Machine

/-- A command at the front of the queue runs with the rest of the queue, in every state; the block's counterpart of a step that runs
the decoded instruction. On an empty queue every partition stop under way ends, and nothing else happens. The queue and that moment are the
model's own (DESIGN CHOICE of log entries 1 and 189). -/
def Obligations.FrontCommandRuns : Prop :=
  (∀ (c : Instr) (rest : List Instr) (s : State), s.pending = c :: rest → step s = exec c { s with pending := rest })
  ∧ ∀ s : State, s.pending = [] → step s = .next (settleStops s) ∧ ((∀ n : CoreIx, (s.cores[n]).stopping = false) → step s = .next s)

/-- No command faults or is refused, in any state and with any operands. -/
def Obligations.EveryCommandCompletes : Prop := ∀ (c : Instr) (s : State), completes c s

/-- The two-operand instructions of table CC-6, both operand forms: result and frame. The count of a shift is bits [5:0] of the second
operand, comparisons are signed for MIN and MAX and unsigned for MINU and MAXU.
SEL, CLZ and POPC of table CC-6: result and frame. The leading zeros are as many as the word can be shifted left before its top
bit is set. -/
def Obligations.AluResults : Prop :=
  (∀ (s : State) (n : CoreIx) (g : Guard) (sd sa : Reg) (op : Op2) (i : CtxIx) (b : Bound) (lc : LCoreE),
    Issues s n g (sd :: sa :: op2Uses op) i b lc →
      let a := rd (ctxOf s n i) sa
      let v := op2 (ctxOf s n i) op
      let w := fun (r : Word) (c : Instr) => WritesReg s n i sd r 1 (exec c s)
      w (a + v) (.add n g sd sa op) ∧ w (a - v) (.sub n g sd sa op)
      ∧ w (a &&& v) (.and n g sd sa op) ∧ w (a ||| v) (.or n g sd sa op) ∧ w (a ^^^ v) (.xor n g sd sa op)
      ∧ w (a <<< (v.toNat % 64)) (.shl n g sd sa op) ∧ w (a >>> (v.toNat % 64)) (.shr n g sd sa op)
      ∧ w (a.sshiftRight (v.toNat % 64)) (.sar n g sd sa op)
      ∧ w (BitVec.ofInt 64 (min a.toInt v.toInt)) (.min n g sd sa op) ∧ w (BitVec.ofInt 64 (max a.toInt v.toInt)) (.max n g sd sa op)
      ∧ w (BitVec.ofNat 64 (min a.toNat v.toNat)) (.minu n g sd sa op) ∧ w (BitVec.ofNat 64 (max a.toNat v.toNat)) (.maxu n g sd sa op))
  ∧ (∀ (s : State) (n : CoreIx) (g : Guard) (sd sa sb : Reg) (q : Pred) (i : CtxIx) (b : Bound) (lc : LCoreE),
    let x := ctxOf s n i
    (Issues s n g [sd, sa, sb] i b lc → WritesReg s n i sd (if rdp x q then rd x sa else rd x sb) 1 (exec (.sel n g sd sa sb q) s))
    ∧ (Issues s n g [sd, sa] i b lc →
        (∃ k : Nat, k ≤ 64 ∧ (∀ j, j < k → (rd x sa).getMsbD j = false) ∧ (k < 64 → (rd x sa).getMsbD k = true)
          ∧ WritesReg s n i sd (BitVec.ofNat 64 k) 1 (exec (.clz n g sd sa) s))
        ∧ WritesReg s n i sd (BitVec.ofNat 64 ((List.range 64).filter (fun j => (rd x sa).getLsbD j)).length) 1 (exec (.popc n g sd sa) s)))


/-- The products of table CC-7: low and high halves, signed and unsigned, and multiply-add.
The divisions of table CC-7: quotients truncate toward zero, a remainder has the sign of the dividend; a zero divisor gives all
ones and the dividend; −2⁶³ ÷ −1 gives −2⁶³ and remainder 0. The quotient and remainder are determined by the division identity and
the bound of the remainder. -/
def Obligations.MultiplyDivideResults : Prop :=
  (∀ (s : State) (n : CoreIx) (g : Guard) (sd sa sb sc : Reg) (i : CtxIx) (b : Bound) (lc : LCoreE),
    let x := rd (ctxOf s n i)
    (Issues s n g [sd, sa, sb] i b lc →
      WritesReg s n i sd (x sa * x sb) 1 (exec (.mul n g sd sa sb) s)
      ∧ WritesReg s n i sd (BitVec.ofNat 64 ((x sa).toNat * (x sb).toNat / 2 ^ 64)) 1 (exec (.mulhu n g sd sa sb) s)
      ∧ WritesReg s n i sd (BitVec.ofInt 64 ((x sa).toInt * (x sb).toInt / 2 ^ 64)) 1 (exec (.mulh n g sd sa sb) s))
    ∧ (Issues s n g [sd, sa, sb, sc] i b lc → WritesReg s n i sd (x sa * x sb + x sc) 1 (exec (.madd n g sd sa sb sc) s)))
  ∧ (∀ (s : State) (n : CoreIx) (g : Guard) (sd sa sb : Reg) (i : CtxIx) (b : Bound) (lc : LCoreE),
    Issues s n g [sd, sa, sb] i b lc →
      let a := rd (ctxOf s n i) sa
      let v := rd (ctxOf s n i) sb
      ∃ q r qu ru : Word,
        WritesReg s n i sd q 1 (exec (.div n g sd sa sb) s) ∧ WritesReg s n i sd r 1 (exec (.rem n g sd sa sb) s)
        ∧ WritesReg s n i sd qu 1 (exec (.divu n g sd sa sb) s) ∧ WritesReg s n i sd ru 1 (exec (.remu n g sd sa sb) s)
        ∧ (if v = 0 then q = BitVec.allOnes 64 ∧ r = a ∧ qu = BitVec.allOnes 64 ∧ ru = a
           else
             (qu.toNat * v.toNat + ru.toNat = a.toNat ∧ ru.toNat < v.toNat)
             ∧ (if a = BitVec.intMin 64 ∧ v = BitVec.allOnes 64 then q = BitVec.intMin 64 ∧ r = 0
                else q.toInt * v.toInt + r.toInt = a.toInt ∧ r.toInt.natAbs < v.toInt.natAbs ∧ (r = 0 ∨ (r.toInt < 0 ↔ a.toInt < 0)))))


/-- The FP32 instructions of table CC-8: the result fills bits [31:0], bits [63:32] are 0, FCVTFI fills all 64 bits; a NaN result is
0x7FC0_0000. The rounding itself is that of `toFp32` applied to the exact sum, product or fused product.
FMIN and FMAX of table CC-8: a NaN operand loses to a number, −0 is below +0, and of two numbers the result is one that is not
above (below) either under the order of their real values. -/
def Obligations.FloatResults : Prop :=
  (∀ (s : State) (n : CoreIx) (g : Guard) (sd sa sb sc : Reg) (i : CtxIx) (b : Bound) (lc : LCoreE),
    let x := rdf (ctxOf s n i)
    let w := fun (r : W32) (c : Instr) => WritesReg s n i sd (r.setWidth 64) 1 (exec c s) ∧ (fisNan r = true → r = 0x7FC00000#32)
    (Issues s n g [sd, sa, sb] i b lc →
      w (toFp32 (fvAdd (fp32 (x sa)) (fp32 (x sb)))) (.fadd n g sd sa sb) ∧ w (toFp32 (fvAdd (fp32 (x sa)) (fvNeg (fp32 (x sb))))) (.fsub n g sd sa sb)
      ∧ w (toFp32 (fvMul (fp32 (x sa)) (fp32 (x sb)))) (.fmul n g sd sa sb)
      ∧ w (fmin (x sa) (x sb)) (.fmin n g sd sa sb) ∧ w (fmax (x sa) (x sb)) (.fmax n g sd sa sb))
    ∧ (Issues s n g [sd, sa, sb, sc] i b lc → w (toFp32 (fvAdd (fvMul (fp32 (x sa)) (fp32 (x sb))) (fp32 (x sc)))) (.ffma n g sd sa sb sc))
    ∧ (Issues s n g [sd, sa] i b lc →
      w (fofInt (rd (ctxOf s n i) sa).toInt) (.fcvtif n g sd sa) ∧ WritesReg s n i sd (fcvtfi (x sa)) 1 (exec (.fcvtfi n g sd sa) s)))
  ∧ (∀ a b : W32,
    (fisNan a = true → fisNan b = false → fmin a b = b ∧ fmax a b = b)
    ∧ (fisNan a = false → fisNan b = true → fmin a b = a ∧ fmax a b = a)
    ∧ (fisNan a = true → fisNan b = true → fmin a b = 0x7FC00000#32 ∧ fmax a b = 0x7FC00000#32)
    ∧ (fisNan a = false → fisNan b = false →
        (fmin a b = a ∨ fmin a b = b) ∧ (fmax a b = a ∨ fmax a b = b)
        ∧ fkey (fmin a b) ≤ fkey a ∧ fkey (fmin a b) ≤ fkey b ∧ fkey a ≤ fkey (fmax a b) ∧ fkey b ≤ fkey (fmax a b))
    ∧ fmin 0x80000000#32 0#32 = 0x80000000#32 ∧ fmin 0#32 0x80000000#32 = 0x80000000#32
    ∧ fmax 0x80000000#32 0#32 = 0#32 ∧ fmax 0#32 0x80000000#32 = 0#32)


/-- s0 and p0 (R65): each reads as its constant and discards a write. The predicate instructions of table CC-9: result and frame, both operand
forms of the comparisons. -/
def Obligations.PredicateResults : Prop :=
  (∀ (x : Ctx) (v : Word) (q : Bool), rd x 0 = 0 ∧ wr x 0 v = x ∧ rdp x 0 = true ∧ wrp x 0 q = x)
  ∧ ∀ (s : State) (n : CoreIx) (g : Guard) (pd pa pb : Pred) (sa sb : Reg) (op : Op2) (i : CtxIx) (b : Bound) (lc : LCoreE),
    let x := ctxOf s n i
    let w := fun (r : Bool) (c : Instr) => WritesPred s n i pd r (exec c s)
    (Issues s n g (sa :: op2Uses op) i b lc →
      let a := rd x sa
      let v := op2 x op
      w (decide (a = v)) (.eq n g pd sa op) ∧ w (decide (a ≠ v)) (.ne n g pd sa op)
      ∧ w (decide (a.toInt < v.toInt)) (.lt n g pd sa op) ∧ w (decide (v.toInt ≤ a.toInt)) (.ge n g pd sa op)
      ∧ w (decide (a.toNat < v.toNat)) (.ltu n g pd sa op) ∧ w (decide (v.toNat ≤ a.toNat)) (.geu n g pd sa op))
    ∧ (Issues s n g [sa, sb] i b lc →
      w (!fisNan (rdf x sa) && !fisNan (rdf x sb) && decide (fkey (rdf x sa) < fkey (rdf x sb))) (.flt n g pd sa sb)
      ∧ w (!fisNan (rdf x sa) && !fisNan (rdf x sb) && decide (fkey (rdf x sa) = fkey (rdf x sb))) (.feq n g pd sa sb))
    ∧ (Issues s n g [] i b lc →
      w (rdp x pa && rdp x pb) (.pand n g pd pa pb) ∧ w (rdp x pa || rdp x pb) (.por n g pd pa pb)
      ∧ w (xor (rdp x pa) (rdp x pb)) (.pxor n g pd pa pb) ∧ w (!rdp x pa) (.pnot n g pd pa))

/-- BR and BRI (R84): the target, the link in SD (discarded for s0), and the frame. A BRI whose target lies outside the code or not at
the start of an instruction raises BAD_TARGET with the target. -/
def Obligations.BranchResults : Prop :=
  ∀ (s : State) (n : CoreIx) (g : Guard) (sd sa : Reg) (off : W32) (i : CtxIx) (b : Bound) (lc : LCoreE),
    let x := ctxOf s n i
    let goes := fun (target : Word) (r : Res) => ∃ t, r = .next t ∧ OnlyCore s t n ∧ (∀ j, j ≠ i → ctxOf t n j = ctxOf s n j)
      ∧ ctxOf t n i = { x with s := (ctxOf t n i).s, pc := target.setWidth 40 }
      ∧ rd (ctxOf t n i) sd = (if sd = 0 then 0 else x.pc.setWidth 64 + 8) ∧ ∀ q, q ≠ sd → rd (ctxOf t n i) q = rd x q
    (Issues s n g [sd] i b lc → goes (x.pc.setWidth 64 + off.signExtend 64) (exec (.br n g sd off) s))
    ∧ (Issues s n g [sd, sa] i b lc →
        let target := rd x sa + off.signExtend 64
        if isStart lc target.toNat then goes target (exec (.bri n g sd sa off) s)
        else exec (.bri n g sd sa off) s = .next (raise s n i .badTarget x.pc target))

/-- LI64, RDSR, QSHAPE, BCAST, SETC (R89, R90, R92, R94; tables CC-11, CC-12, PC-1): what each writes, and the frame. Each of them completes whenever
the RUN context issues it. Reference time and the cycle count have moved on by an amount that no rule fixes when RDSR reads them (log entry 3); they
never run backwards.
TRD (R93): with no earlier vector instruction of the context in the queue the element arrives at once, in bits [31:0]; otherwise
SD awaits it, and the transfer waits for as many vector instructions as the context has issued. -/
def Obligations.SpecialResults : Prop :=
  (∀ (s : State) (n : CoreIx) (g : Guard) (sd sa : Reg) (v : Word) (i : CtxIx) (b : Bound) (lc : LCoreE),
    let x := ctxOf s n i
    let q := s.parts[b.part]
    (Issues s n g [sd] i b lc →
      WritesReg s n i sd v 2 (exec (.li64 n g sd v) s)
      ∧ WritesReg s n i sd q.stepNo 1 (exec (.rdsr n g sd 0) s) ∧ WritesReg s n i sd q.version 1 (exec (.rdsr n g sd 1) s)
      ∧ WritesReg s n i sd (word b.lcore) 1 (exec (.rdsr n g sd 2) s) ∧ WritesReg s n i sd (word (i.val - b.ctxLo)) 1 (exec (.rdsr n g sd 3) s)
      ∧ (∃ im, q.image = some im ∧ WritesReg s n i sd im.seed 1 (exec (.rdsr n g sd 4) s))
      ∧ (∃ r, s.rtime ≤ r ∧ WritesReg { s with rtime := r, freeIx := s.freeIx + 1 } n i sd (word r) 1 (exec (.rdsr n g sd 5) s))
      ∧ (∃ k, (s.cores[n]).cycles ≤ k
          ∧ WritesReg (bump (modCore s n (fun c => { c with cycles := k }))) n i sd (word k) 1 (exec (.rdsr n g sd 6) s))
      ∧ WritesReg s n i sd (word q.attempt) 1 (exec (.rdsr n g sd 7) s))
    ∧ (Issues s n g [sd, sa] i b lc → ∀ w : Fin 8,
        WritesReg s n i sd (shapeWord s b.part (rd x sa).toNat w.val) 1 (exec (.qshape n g sd sa w) s))
    ∧ (Issues s n g [sa] i b lc → ∀ slot : Fin 8, ∃ t, exec (.bcast n g sa slot) s = .next t ∧ OnlyCtx s t n i
        ∧ ctxOf t n i = { x with b := x.b.set slot.val (rd x sa) slot.isLt, pc := x.pc + 8 })
    ∧ (Issues s n g [] i b lc → ∀ (c : Cnt) (k : W32), ∃ t, exec (.setc n g c k) s = .next t ∧ OnlyCtx s t n i
        ∧ ctxOf t n i = { x with c := x.c.set c.val k c.isLt, pc := x.pc + 8 }))
  ∧ (∀ (s : State) (n : CoreIx) (g : Guard) (sd : Reg) (treg : Fin 16) (row : Fin 32) (lane : Fin 256) (i : CtxIx) (b : Bound) (lc : LCoreE),
    let x := ctxOf s n i
    let earlier := ((s.cores[n]).vq.filter (fun v => v.ctx == i)).length
    Issues s n g [sd] i b lc → ∃ t, exec (.trd n g sd treg row lane) s = .next t ∧ OnlyCtx s t n i
      ∧ ctxOf t n i = { x with s := (ctxOf t n i).s, pc := x.pc + 8, trds := x.trds.filter (fun y => y.after != 0)
                          ++ (if earlier = 0 then [] else [⟨sd, treg.val, 256 * row.val + lane.val, earlier⟩]) }
      ∧ (earlier = 0 → rd (ctxOf t n i) sd = (if sd = 0 then 0 else
          (tget (0 : W32) ((s.cores[n]).banks[bankOf s.cores[n] i]).treg (8192 * treg.val + 256 * row.val + lane.val)).setWidth 64))
      ∧ (earlier ≠ 0 → rd (ctxOf t n i) sd = rd x sd ∧ (sd ≠ 0 → condHolds t n i (.regs [sd]) = false))
      ∧ ∀ r, r ≠ sd → (∀ y ∈ x.trds, y.after = 0 → y.rd ≠ r) → rd (ctxOf t n i) r = rd x r)
  ∧ (∀ (s : State) (p : PartIx) (l : Nat) (a : Allot) (im : Image), (s.parts[p]).allot = some a → (s.parts[p]).image = some im →
    shapeWord s p l 0 = word (16 * nStacks s + portDies s) ∧ shapeWord s p l 1 = word im.lcores.length ∧ shapeWord s p l 6 = word a.data ∧ shapeWord s p l 7 = 3
    ∧ (im.lcores.length ≤ l → ∀ w, 1 < w → w < 6 → shapeWord s p l w = 0)
    ∧ ∀ m : CoreIx, l < im.lcores.length → coreOf s p l = some m →
        shapeWord s p l 2 = word (arraysOf s.cores[m]).length ∧ shapeWord s p l 3 = word (groupsOf s.cores[m]) ∧ shapeWord s p l 4 = word (s.cores[m]).bound.length)


/-- A guard that does not hold (R75): the instruction has no effect but the issue; the context goes on to the next instruction. An
untaken branch leaves its outcome bit in the trace unit, no more. A core with no context in RUN issues nothing (R70), whatever
instruction is offered. A partition stop that is on its way to a core takes effect after the instruction that the core issues next: shown for NOP
(the moment is a DESIGN CHOICE, log entry 189).
An instruction that uses a register which a load or TRD has not yet delivered blocks the context on it (table CC-2): shown for
ADD, in both operand forms, as long as some used register other than s0 waits. The pc, the registers and every other context's
registers stay. -/
def Obligations.GuardAndAwaitedRegisters : Prop :=
  ((∀ (c : Instr) (s : State) (n : CoreIx) (g : Guard) (w : Nat) (i : CtxIx) (b : Bound) (lc : LCoreE),
    coreInstr c = some (n, g, w) → asleep s (coreDom n) = false → (s.cores[n]).stopping = false → runCtx s.cores[n] = some i → boundOf s.cores[n] i = some b →
    lcoreE s b.part b.lcore = some lc → (ctxOf s n i).pc.toNat < lc.codeLen → guardOk (ctxOf s n i) g = false →
      ∃ t, exec c s = .next t ∧ OnlyCore s t n ∧ (∀ j, j ≠ i → ctxOf t n j = ctxOf s n j)
        ∧ ctxOf t n i = { ctxOf s n i with pc := (ctxOf s n i).pc + BitVec.ofNat 40 (8 * w) })
  ∧ ∀ (c : Instr) (s : State) (n : CoreIx) (g : Guard) (w : Nat), coreInstr c = some (n, g, w) → (s.cores[n]).stopping = false → runCtx s.cores[n] = none →
      exec c s = .next s)
  ∧ (∀ (s : State) (n : CoreIx) (g : Guard) (p : PartIx), asleep s (coreDom n) = false → (s.cores[n]).stopping = true → ownerOf s n = some p →
      ∃ t, exec (.nop n g) s = .next t ∧ (t.cores[n]).stopped = true ∧ (t.cores[n]).stopping = false)
  ∧ (∀ (s : State) (n : CoreIx) (g : Guard) (sd sa : Reg) (op : Op2) (i : CtxIx) (b : Bound) (lc : LCoreE),
    asleep s (coreDom n) = false → (s.cores[n]).stopping = false → runCtx s.cores[n] = some i → boundOf s.cores[n] i = some b →
    lcoreE s b.part b.lcore = some lc → (ctxOf s n i).pc.toNat < lc.codeLen → guardOk (ctxOf s n i) g = true →
    condHolds s n i (.regs (sd :: sa :: op2Uses op)) = false →
      ∃ t, exec (.add n g sd sa op) s = .next t ∧ OnlyCore s t n
        ∧ ctxOf t n i = { ctxOf s n i with st := .blocked, waits := [.regs (sd :: sa :: op2Uses op)] }
        ∧ ∀ j, j ≠ i → ctxOf t n j = ctxOf s n j ∨ ((ctxOf s n j).st = .ready ∧ ctxOf t n j = { ctxOf s n j with st := .run }))


/-- Scalar loads (R85, R86, R87): a load of the core store delivers its little-endian datum, zero- or sign-extended, at once; a load of
the hall buffer or HBM3 joins the context's outstanding accesses, and its register, s0 apart, awaits the data. -/
def Obligations.LoadResults : Prop :=
  ∀ (s : State) (n : CoreIx) (g : Guard) (r sa : Reg) (sp : Space) (size : Fin 4) (signed : Bool) (off : BitVec 28) (i : CtxIx) (b : Bound) (lc : LCoreE),
    let x := ctxOf s n i
    let a := (rd x sa + off.signExtend 64).toNat
    let k := 2 ^ size.val
    Issues s n g [r, sa] i b lc → a % k = 0 → a + k ≤ viewSize s n b lc sp →
      match sp with
      | .store => WritesReg s n i r (datum ((List.range k).map (fun j => tget 0 (s.cores[n]).store (b.base + a + j))) signed) 1
          (exec (.load n g r sa .store size signed off false) s)
      | sp => ∀ bad, ∃ t, exec (.load n g r sa sp size signed off bad) s = .next t
          ∧ OnlyCtx { s with reqs := t.reqs, nextReq := t.nextReq } t n i ∧ (sp = .hall → t.reqs = s.reqs)
          ∧ ctxOf t n i = { x with pc := x.pc + 8, accs := x.accs ++ [⟨sp, false, a, k, signed, r, 0, x.pc⟩] }
          ∧ (r ≠ 0 → condHolds t n i (.regs [r]) = false)

/-- Scalar stores (R85, R86, R87): a store to the core store changes exactly its bytes, at the address of the operand; one to the hall
buffer or HBM3 joins the context's outstanding accesses and changes no byte yet. -/
def Obligations.StoreResults : Prop :=
  ∀ (s : State) (n : CoreIx) (g : Guard) (r sa : Reg) (sp : Space) (size : Fin 4) (off : BitVec 28) (i : CtxIx) (b : Bound) (lc : LCoreE),
    let x := ctxOf s n i
    let a := (rd x sa + off.signExtend 64).toNat
    let k := 2 ^ size.val
    Issues s n g [r, sa] i b lc → a % k = 0 → a + k ≤ viewSize s n b lc sp → (sp = .store → lc.codeLen ≤ a) →
      ∃ t, exec (.store n g r sa sp size off) s = .next t ∧ t.hbm = s.hbm ∧ t.tags = s.tags ∧ t.hall = s.hall
        ∧ (∀ m, m ≠ n → t.cores[m] = s.cores[m]) ∧ (∀ j, j ≠ i → ctxOf t n j = ctxOf s n j)
        ∧ match sp with
          | .store => t = { s with cores := t.cores } ∧ ctxOf t n i = { x with pc := x.pc + 8 }
              ∧ ∀ o, tget 0 (t.cores[n]).store o
                  = if b.base + a ≤ o ∧ o < b.base + a + k then (rd x r).extractLsb' (8 * (o - (b.base + a))) 8 else tget 0 (s.cores[n]).store o
          | sp => OnlyCtx { s with reqs := t.reqs, nextReq := t.nextReq } t n i
              ∧ ctxOf t n i = { x with pc := x.pc + 8, accs := x.accs ++ [⟨sp, true, a, k, false, r, (rd x r).toNat, x.pc⟩] }

/-- The exceptions of an access (R86): alignment first, then the range of the view, then a store into the code; each is taken at the
instruction's own pc with the space in [63:62] and the address in [61:0], and nothing is loaded or stored. An uncorrectable word of
the core store raises STORE_UNCORRECTABLE. -/
def Obligations.AccessExceptions : Prop :=
  ∀ (s : State) (n : CoreIx) (g : Guard) (r sa : Reg) (sp : Space) (size : Fin 4) (signed bad : Bool) (off : BitVec 28) (i : CtxIx) (b : Bound) (lc : LCoreE),
    let x := ctxOf s n i
    let a := (rd x sa + off.signExtend 64).toNat
    let k := 2 ^ size.val
    let info := BitVec.ofNat 64 (2 ^ 62 * (match sp with | .store => 0 | .hall => 1 | .hbm => 2) + a % 2 ^ 62)
    Issues s n g [r, sa] i b lc →
      (a % k ≠ 0 → exec (.load n g r sa sp size signed off bad) s = .next (raise s n i .misaligned x.pc info)
        ∧ exec (.store n g r sa sp size off) s = .next (raise s n i .misaligned x.pc info))
      ∧ (a % k = 0 → viewSize s n b lc sp < a + k → exec (.load n g r sa sp size signed off bad) s = .next (raise s n i .outOfRange x.pc info)
        ∧ exec (.store n g r sa sp size off) s = .next (raise s n i .outOfRange x.pc info))
      ∧ (a % k = 0 → a + k ≤ viewSize s n b lc sp → sp = .store → a < lc.codeLen →
          exec (.store n g r sa sp size off) s = .next (raise s n i .codeWrite x.pc info))
      ∧ (a % k = 0 → a + k ≤ viewSize s n b lc sp → sp = .store →
          exec (.load n g r sa sp size signed off true) s = .next (raise s n i .storeUncorrectable x.pc (BitVec.ofNat 64 a)))

/-- What taking an exception does (R97 to R100, R103, R314): the context is FAULTED with its record; a further exception of the stop is marked
secondary. The stop is on its way to every core of the partition that has not stopped (log entry 189), where the other contexts go on to its arrival,
or, under a pending halt request, has reached them all, and the discard has begun. Where it arrives the RUN, READY and BLOCKED contexts of the
partition become STOPPED and a PARKED one remains. A step in RUN fails and is STOPPED with the cause, and class P unless both this exception
and the failures before it are class H; one in any other state keeps it. Memory stays. -/
def Obligations.ExceptionTaken : Prop :=
  ∀ (s : State) (n : CoreIx) (i : CtxIx) (e : Exc) (pc : BitVec 40) (info : Word) (b : Bound),
    boundOf s.cores[n] i = some b → (ctxOf s n i).st ≠ .faulted →
      let t := raise s n i e pc info
      let q := s.parts[b.part]
      ctxOf t n i = { ctxOf s n i with st := .faulted, waits := [], exc := ⟨excCode e, excClass e, q.excFirst.isSome, true, pc, info⟩ }
      ∧ (t.parts[b.part]).excFirst = some (q.excFirst.getD (n.val, i.val))
      ∧ (q.step = .run → (t.parts[b.part]).step = .stopped ∧ (t.parts[b.part]).failCause = excCode e
          ∧ (t.parts[b.part]).failClassP = (q.failClassP || !decide (excClass e = 1)))
      ∧ (q.step ≠ .run → (t.parts[b.part]).step = q.step)
      ∧ (q.haltReq = false → (∀ m, m ≠ n → t.cores[m]
            = if m ∈ coresOf s b.part ∧ (s.cores[m]).stopped = false then { s.cores[m] with stopping := true } else s.cores[m])
          ∧ (t.cores[n]).stopped = (s.cores[n]).stopped
          ∧ (n ∈ coresOf s b.part → (s.cores[n]).stopped = false → (t.cores[n]).stopping = true)
          ∧ ∀ j : CtxIx, j ≠ i → ctxOf t n j = ctxOf s n j)
      ∧ (let v := stopOne t b.part n
         (v.cores[n]).stopped = true ∧ (v.cores[n]).stopping = false ∧ (ctxOf v n i).st = .faulted
         ∧ ∀ (j : CtxIx) (d : Bound), boundOf s.cores[n] j = some d → d.part = b.part → j ≠ i →
          ((ctxOf s n j).st = .run ∨ (ctxOf s n j).st = .ready ∨ (ctxOf s n j).st = .blocked → (ctxOf v n j).st = .stopped)
          ∧ ((ctxOf s n j).st = .parked → (ctxOf v n j).st = .parked))
      ∧ (q.haltReq = true → (t.parts[b.part]).discarding = true ∧ ∀ m ∈ coresOf s b.part, (t.cores[m]).stopped = true)
      ∧ t.hbm = s.hbm ∧ t.tags = s.tags ∧ t.hall = s.hall ∧ ∀ m : CoreIx, (t.cores[m]).store = (s.cores[m]).store

/-- LOAD_DATA and STORE_COMPLETE (R87, R88): the oldest access of the context to the space takes effect. The data of a load arrive in its
register, those of a hall buffer store in the hall buffer, and the access leaves the list; a load of HBM3 whose tag check failed
raises TAG_MISMATCH with the pc of the load. -/
def Obligations.OutstandingAccessesComplete : Prop :=
  ∀ (s : State) (n : CoreIx) (i : CtxIx) (sp : Space) (a : Acc) (b : Bound),
    asleep s (coreDom n) = false → headAcc (ctxOf s n i) sp = some a → boundOf s.cores[n] i = some b →
    let x := ctxOf s n i
    let popped := x.accs.eraseP (fun y => y.space == sp)
    let base := (hallView s b.part (dieOfCore n)).1 + a.addr
    (sp = .hall → a.store = false → ∃ t, exec (.loadData n i sp) s = .next t ∧ OnlyCore s t n ∧ (ctxOf t n i).accs = popped
        ∧ rd (ctxOf t n i) a.rd = (if a.rd = 0 then 0 else datum ((List.range a.size).map (fun j => tget 0 s.hall[dieOfCore n] (base + j))) a.signed)
        ∧ ∀ q, q ≠ a.rd → rd (ctxOf t n i) q = rd x q)
    ∧ (sp = .hall → a.store = true → ∃ t, exec (.storeComplete n i sp) s = .next t ∧ OnlyCore { s with hall := t.hall } t n
        ∧ (ctxOf t n i).accs = popped ∧ (ctxOf t n i).s = x.s ∧ (∀ d, d ≠ dieOfCore n → t.hall[d] = s.hall[d])
        ∧ ∀ o, tget 0 t.hall[dieOfCore n] o
            = if base ≤ o ∧ o < base + a.size then BitVec.ofNat 8 (a.data / 256 ^ (o - base)) else tget 0 s.hall[dieOfCore n] o)
    ∧ (sp = .hbm → ∀ r, headReq s n i = some r → reqDone s r = true →
        (a.store = true → ∃ t, exec (.storeComplete n i sp) s = .next t ∧ OnlyCore (dropReq s r.id) t n ∧ (ctxOf t n i).accs = popped
          ∧ (ctxOf t n i).s = x.s)
        ∧ (a.store = false → r.failed = false → ∃ t, exec (.loadData n i sp) s = .next t ∧ OnlyCore (dropReq s r.id) t n
          ∧ (ctxOf t n i).accs = popped ∧ rd (ctxOf t n i) a.rd = (if a.rd = 0 then 0 else datum (tgetMany 0 r.got 0 a.size) a.signed)
          ∧ ∀ q, q ≠ a.rd → rd (ctxOf t n i) q = rd x q)
        ∧ (a.store = false → r.failed = true → x.st ≠ .faulted → ∃ t, exec (.loadData n i sp) s = .next t ∧ (ctxOf t n i).st = .faulted
          ∧ (ctxOf t n i).exc.code = 0x10 ∧ (ctxOf t n i).exc.pc = a.pc))

/-- NOP, FENCE, WAITB and WAITC (R87, R89; table CC-11): NOP goes on; the others go on where what they wait for holds, and block the
context on it where it does not.
YIELD, STEPEND and QUANTUM (R70, R72, R89): the context in RUN becomes READY, PARKED, READY, and the core selects the first READY
context in rotation from it; the registers of every context stay. -/
def Obligations.WaitsAndSwitches : Prop :=
  (∀ (s : State) (n : CoreIx) (g : Guard) (i : CtxIx) (b : Bound) (lc : LCoreE), Issues s n g [] i b lc →
    let x := ctxOf s n i
    let goes := fun (c : Instr) => ∃ t, exec c s = .next t ∧ OnlyCtx s t n i ∧ ctxOf t n i = { x with pc := x.pc + 8 }
    let blocks := fun (c : Instr) (k : Cond) => ∃ t, exec c s = .next t ∧ OnlyCore s t n ∧ ctxOf t n i = { x with st := .blocked, waits := [k] }
    goes (.nop n g)
    ∧ (∀ scope : Fin 8, if ∀ a ∈ x.accs, inScope scope.val a = false then goes (.fence n g scope) else blocks (.fence n g scope) (.memDone scope.val))
    ∧ (∀ k : BitVec 16, if barrierDone s (dieOfCore n) b.part k.toNat = true then goes (.waitb n g k) else blocks (.waitb n g k) (.barrier k.toNat))
    ∧ (∀ (c : Cnt) (v : W32), if v.toNat ≤ (x.c[c]).toNat then goes (.waitc n g c v) else blocks (.waitc n g c v) (.counter c v)))
  ∧ (∀ (s : State) (n : CoreIx) (g : Guard) (i : CtxIx),
    let x := ctxOf s n i
    let next := [i + 1, i + 2, i + 3].find? (fun j => (ctxOf s n j).st == .ready)
    let moves := fun (r : Res) (st : CtxSt) (pc : BitVec 40) => ∃ t, r = .next t ∧ OnlyCore s t n
      ∧ ctxOf t n i = { x with st := (if next = none ∧ st = .ready then .run else st), waits := [], pc := pc }
      ∧ ∀ j, j ≠ i → ctxOf t n j = (if next = some j then { ctxOf s n j with st := .run } else ctxOf s n j)
    (∀ b lc, Issues s n g [] i b lc → moves (exec (.yield n g) s) .ready (x.pc + 8) ∧ moves (exec (.stepend n g) s) .parked (x.pc + 8))
    ∧ (asleep s (coreDom n) = false → runCtx s.cores[n] = some i → (s.cores[n]).quantum ≠ 0 → (s.cores[n]).quantum ≤ (s.cores[n]).issued →
        anyReady s.cores[n] = true → moves (exec (.quantum n) s) .ready x.pc))


/-- SIGB (R89, R91, R228): a barrier that does not list the logical core raises BAD_BARRIER; otherwise, once every earlier access and
engine instruction of the context is complete, the token of the logical core for the current step and attempt goes to the sluice of
each die that holds a waiter, and the context goes on; until then it blocks.
TRAP and WAIT_TIMEOUT (table CC-14; R101, R102): TRAP raises its exception of class T with its code; a WAITB, WAITC or FENCE that has
blocked longer than a non-zero WAIT_LIMIT raises WAIT_TIMEOUT with what it waits for. -/
def Obligations.SigbTrapAndTimeout : Prop :=
  (∀ (s : State) (n : CoreIx) (g : Guard) (k : BitVec 16) (i : CtxIx) (b : Bound) (lc : LCoreE), Issues s n g [] i b lc →
    let x := ctxOf s n i
    let q := s.parts[b.part]
    ((∀ e, barrierOf s b.part k.toNat = some e → e.sources.contains (.here b.lcore) = false) →
      exec (.sigb n g k) s = .next (raise s n i .badBarrier x.pc (k.setWidth 64)))
    ∧ ∀ e, barrierOf s b.part k.toNat = some e → e.sources.contains (.here b.lcore) = true →
        (x.accs = [] → condHolds s n i .engineDone = true → ∃ t, exec (.sigb n g k) s = .next t
          ∧ t.toks = s.toks ++ (waiterDies s b.part k.toNat).map (fun d => (d, ⟨b.part, k.toNat, .here b.lcore, q.stepNo, q.attempt⟩))
          ∧ ctxOf t n i = { x with pc := x.pc + 8 } ∧ OnlyCtx { s with toks := t.toks, fab := t.fab, cnt := t.cnt, egress := t.egress } t n i
          ∧ (e.waiters = [] → t.fab = s.fab ∧ t.cnt = s.cnt ∧ t.egress = s.egress))
        ∧ (x.accs ≠ [] ∨ condHolds s n i .engineDone = false → ∃ t, exec (.sigb n g k) s = .next t ∧ OnlyCore s t n
          ∧ ctxOf t n i = { x with st := .blocked, waits := [.memDone 7, .engineDone] }))
  ∧ (∀ (s : State) (n : CoreIx) (g : Guard) (i : CtxIx) (b : Bound) (lc : LCoreE),
    let x := ctxOf s n i
    (Issues s n g [] i b lc → ∀ code : BitVec 16, exec (.trap n g code) s = .next (raise s n i .trap x.pc (code.setWidth 64)) ∧ excCode .trap = 0x20 ∧ excClass .trap = 2)
    ∧ (timersHeld s = false → asleep s (coreDom n) = false → x.st = .blocked → (s.cores[n]).waitLimit ≠ 0 →
        (∀ k, x.waits = [.barrier k] → exec (.waitTimeout n i) s = .next (raise s n i .waitTimeout x.pc (BitVec.ofNat 64 k)))
        ∧ (∀ c v, x.waits = [.counter c v] → exec (.waitTimeout n i) s = .next (raise s n i .waitTimeout x.pc (BitVec.ofNat 64 c.val)))
        ∧ (∀ k, x.waits = [.memDone k] → exec (.waitTimeout n i) s = .next (raise s n i .waitTimeout x.pc (BitVec.ofNat 64 k)))
        ∧ (∀ l, x.waits = [.regs l] → exec (.waitTimeout n i) s = .next s)))


/-- MMA, WPRE and MRELEASE that pass their checks and the headgate (R152, R157, R161, R163): the entry joins the matrix queue with the
operand words as they stand, the kept output follows issue order, the context goes on by two words. -/
def Obligations.MatrixInstructionsQueue : Prop :=
  ∀ (s : State) (n : CoreIx) (g : Guard) (i : CtxIx) (b : Bound) (lc : LCoreE),
    let x := ctxOf s n i
    let c := s.cores[n]
    let lines := fun (l : Nat × Nat) => condHolds s n i (.lines l.1 l.2) = true
    let queued := fun (r : Res) (good : MEntry → Prop) (kept : Option Kept) => ∃ t e, r = .next t ∧ good e ∧ (t.cores[n]).mq = c.mq ++ [e] ∧ e.ctx = i
      ∧ ctxOf t n i = { x with pc := x.pc + 16 } ∧ (∀ j, j ≠ i → ctxOf t n j = ctxOf s n j) ∧ (∀ m, m ≠ n → t.cores[m] = s.cores[m])
      ∧ t = { s with cores := t.cores, sed := t.sed, cnt := t.cnt } ∧ (t.cores[n]).store = c.store
      ∧ (t.cores[n]).kept = kept
    (∀ f : MmaF, Issues s n g (mmaUses f) i b lc → ∀ ch,
      mmaCheck c i lc f (rd x f.saA) (rd x f.saW) (rd x f.saMask) (rd x f.saOut) = none →
      (match f.drain with
       | .direct => ∀ im, (s.parts[b.part]).image = some im →
           chainChecks im lc (chainNow c (bankOf c i) f.chain.val) f.chain.val x.b (rd x f.saOut) f.m f.n none false = .ok ch
       | .flume => lc.flumeDepth ≠ 0 ∧ ch = (chainNow c (bankOf c i) f.chain.val).getD chainZero
       | _ => ch = chainZero) →
      c.mq.length < 8 →
      lines (opLines b.base (rd x f.saW) (wShape f.df f.n f.k).1 (rowBytes f.fmtW f.bxw (wShape f.df f.n f.k).2)) →
      lines (opLines b.base (rd x f.saA) (aRows f) (rowBytes f.fmtA f.bxa (aCols f))) →
      (f.mask = .bitmap → lines (extentLines b.base (rd x f.saMask).toNat ((rd x f.saMask).toNat + ceilDiv (aRows f) 8))) →
      (f.drain = .keep → f.accIn = false → condHolds s n i .keptFree = true) →
      queued (exec (.mma n g f) s) (fun e => ∃ j, e.kind = .mma j ∧ j.f = f ∧ j.a = rd x f.saA ∧ j.w = rd x f.saW ∧ j.out = rd x f.saOut
        ∧ j.slots = x.b ∧ j.chain = ch ∧ j.arrays = arraysOf c ∧ j.plan = foldPlan f (liveRows f c b.base (rd x f.saMask)) (arraysOf c).length)
        (if f.drain = .keep then some ⟨i, f.m, f.n⟩ else if f.accIn then none else c.kept))
    ∧ (∀ f : WpreF, Issues s n g [f.saW] i b lc → wordBad (rd x f.saW) = false →
        extentBad lc (rd x f.saW) (wShape f.df f.n f.k).1 (rowBytes f.fmtW f.bxw (wShape f.df f.n f.k).2) = false → c.mq.length < 8 →
        lines (opLines b.base (rd x f.saW) (wShape f.df f.n f.k).1 (rowBytes f.fmtW f.bxw (wShape f.df f.n f.k).2)) →
        queued (exec (.wpre n g f) s) (fun e => e.kind = .wpre f (rd x f.saW) false) c.kept)
    ∧ (∀ cnt : Option Cnt, Issues s n g [] i b lc → c.mq.length < 8 →
        queued (exec (.mrelease n g cnt) s) (fun e => e.kind = .release cnt (keptBy c i)) (if keptBy c i then none else c.kept))

/-- VRUN, VPOP and VCHDEF that pass their checks and the headgate (R179, R194, R198 to R201): the entry joins the vector queue with the
broadcast slots as they stand at its issue; a VPOP claims its slots. -/
def Obligations.VectorInstructionsQueue : Prop :=
  ∀ (s : State) (n : CoreIx) (g : Guard) (i : CtxIx) (b : Bound) (lc : LCoreE) (im : Image),
    let x := ctxOf s n i
    let c := s.cores[n]
    let bk := bankOf c i
    let queued := fun (r : Res) (k : VKind) (cnt : Option Cnt) => ∃ t, r = .next t ∧ (t.cores[n]).vq = c.vq ++ [⟨i, x.pc, bk, cnt, x.b, k⟩]
      ∧ ctxOf t n i = { x with pc := x.pc + 16 } ∧ (∀ j, j ≠ i → ctxOf t n j = ctxOf s n j) ∧ (∀ m, m ≠ n → t.cores[m] = s.cores[m])
      ∧ t = { s with cores := t.cores } ∧ (t.cores[n]).store = c.store ∧ (t.cores[n]).arrays = c.arrays
      ∧ (t.cores[n]).banks[bk].claimed = c.banks[bk].claimed + (match k with | .pop _ count _ => count | _ => 0)
    (s.parts[b.part]).image = some im → c.vq.length < 8 →
    (∀ (f : VrunF) (ch : Chain), Issues s n g ((if f.srck then [] else [f.saSrc]) ++ [f.saOut]) i b lc → check1 lc f (rd x f.saSrc) = none →
      chainChecks im lc (chainNow c bk f.chain.val) f.chain.val x.b (rd x f.saOut) f.rows f.cols (if f.srck then some f.treg.val else none)
        (decide (f.fmt = .bf16)) = .ok ch →
      (∀ l ∈ runLines b.base f (rd x f.saSrc) (rd x f.saOut) ch x.b, condHolds s n i (.lines l.1 l.2) = true) →
      queued (exec (.vrun n g f) s) (.run f (rd x f.saSrc) (rd x f.saOut) ch) f.cnt)
    ∧ (∀ (count : Nat) (cnt : Option Cnt) (chs : List Chain), Issues s n g [] i b lc → count ≤ c.banks[bk].flume.length - c.banks[bk].claimed →
        ((c.banks[bk].flume.drop c.banks[bk].claimed).take count).map (fun f => chainChecks im lc (chainNow c bk f.chain) f.chain x.b f.out f.m f.n none false)
          = chs.map .ok →
        let ls := popLines b.base x.b (((c.banks[bk].flume.drop c.banks[bk].claimed).take count).zip chs)
        (∀ l ∈ ls, condHolds s n i (.lines l.1 l.2) = true) →
        queued (exec (.vpop n g count cnt) s) (.pop ls count chs) cnt)
    ∧ (∀ (saDef : Reg) (entry : Fin 32) (cnt : Option Cnt), Issues s n g [saDef] i b lc →
        let a := (rd x saDef).toNat
        let ws := (List.range 9).map (fun k => word (leNat (readStore c (b.base + a + 8 * k) 8)))
        a % 64 = 0 → a + 72 ≤ lc.footprint → condHolds s n i (.lines (extentLines b.base a (a + 72)).1 (extentLines b.base a (a + 72)).2) = true → chainBad ws = none → condHolds s n i (.entryFree entry.val) = true →
        queued (exec (.vchdef n g saDef entry cnt) s) (.chdef entry.val (parseChain ws)) cnt)

/-- SSTART and SRELEASE that pass their checks and the headgate (R208 to R212): SSTART makes its stream context active with the
descriptor as it stands in the core store and counts the instance; each joins the core's stream queue. -/
def Obligations.StreamInstructionsQueue : Prop :=
  ∀ (s : State) (n : CoreIx) (g : Guard) (i : CtxIx) (b : Bound) (lc : LCoreE),
    let x := ctxOf s n i
    let c := s.cores[n]
    let d := dieOfCore n
    (∀ (saSrc saDst : Reg) (sctx : Fin 64) (desc : BitVec 16) (cnt : Option Cnt), Issues s n g [saSrc, saDst] i b lc →
      let ws := descWords c b lc desc.toNat
      let de := parseDesc ws
      let key := 65536 * b.lcore + desc.toNat
      let phys := physCtx s d b.part b.lcore sctx.val
      sstartCheck s n b lc ws (rd x saSrc) (rd x saDst) sctx.val desc.toNat = none → c.sq.length < 16 →
      condHolds s n i (.sctxIdle sctx.val) = true →
      ∃ t y, exec (.sstart n g saSrc saDst sctx desc cnt) s = .next t ∧ streamAt t d phys = some y
        ∧ y.part = b.part ∧ y.lcore = b.lcore ∧ y.sctx = sctx.val ∧ y.core = n ∧ y.ctx = i ∧ y.cnt = cnt ∧ y.descIx = desc.toNat ∧ y.desc = de
        ∧ y.srcBase = rd x saSrc ∧ y.dstBase = rd x saDst ∧ y.total = descTotal de ∧ y.granted = 0 ∧ y.landed = 0 ∧ y.queued = true
        ∧ y.inst = tget 0 (s.parts[b.part]).starts key ∧ tget 0 (t.parts[b.part]).starts key = tget 0 (s.parts[b.part]).starts key + 1
        ∧ (∀ q, q ≠ phys → streamAt t d q = streamAt s d q)
        ∧ (t.cores[n]).sq = c.sq ++ [⟨i, .start phys⟩] ∧ ctxOf t n i = { x with pc := x.pc + 16 } ∧ (∀ m, m ≠ n → t.cores[m] = s.cores[m])
        ∧ t.hbm = s.hbm ∧ t.tags = s.tags ∧ t.hall = s.hall ∧ (t.cores[n]).store = c.store)
    ∧ (∀ (saOff : Reg) (lines : Nat) (cnt : Option Cnt), Issues s n g [saOff] i b lc →
        let a := (rd x saOff).toNat
        a % 1024 = 0 → a + 1024 * lines ≤ lc.footprint → c.sq.length < 16 →
        ∃ t, exec (.srelease n g saOff lines cnt) s = .next t ∧ (t.cores[n]).sq = c.sq ++ [⟨i, .release ((b.base + a) / 1024) lines cnt⟩]
          ∧ ctxOf t n i = { x with pc := x.pc + 16 } ∧ (∀ j, j ≠ i → ctxOf t n j = ctxOf s n j) ∧ (∀ m, m ≠ n → t.cores[m] = s.cores[m])
          ∧ t = { s with cores := t.cores } ∧ (t.cores[n]).store = c.store ∧ (t.cores[n]).lines = c.lines)

/-- The checks and the headgate of engine instructions (R141, R161, R162, R200; tables MA-7, ST-7): an operand that fails a check raises
OPERAND_RANGE with engine, check and detail, and nothing is queued; a full queue blocks the context on it and the failed attempt is
counted. -/
def Obligations.EngineChecksAndHeadgate : Prop :=
  ∀ (s : State) (n : CoreIx) (g : Guard) (i : CtxIx) (b : Bound) (lc : LCoreE),
    let x := ctxOf s n i
    let info := fun (engine check detail : Nat) => word (place engine 63 60 + place check 59 56 + place detail 55 0)
    (∀ f : MmaF, Issues s n g (mmaUses f) i b lc → wordBad (rd x f.saA) = true →
      exec (.mma n g f) s = .next (raise s n i .operandRange x.pc (info 1 5 f.saA.val)))
    ∧ (∀ f : WpreF, Issues s n g [f.saW] i b lc →
        (wordBad (rd x f.saW) = true → exec (.wpre n g f) s = .next (raise s n i .operandRange x.pc (info 1 5 f.saW.val)))
        ∧ (wordBad (rd x f.saW) = false → extentBad lc (rd x f.saW) (wShape f.df f.n f.k).1 (rowBytes f.fmtW f.bxw (wShape f.df f.n f.k).2) = true →
            exec (.wpre n g f) s = .next (raise s n i .operandRange x.pc (info 1 2 (opOff (rd x f.saW))))))
    ∧ (∀ (saOff : Reg) (lines : Nat) (cnt : Option Cnt), Issues s n g [saOff] i b lc →
        (rd x saOff).toNat % 1024 ≠ 0 ∨ lc.footprint < (rd x saOff).toNat + 1024 * lines →
        exec (.srelease n g saOff lines cnt) s = .next (raise s n i .operandRange x.pc (info 3 8 (rd x saOff).toNat)))
    ∧ (∀ cnt : Option Cnt, Issues s n g [] i b lc → 8 ≤ (s.cores[n]).mq.length →
        ∃ t, exec (.mrelease n g cnt) s = .next t ∧ OnlyCore s t n ∧ ctxOf t n i = { x with st := .blocked, waits := [.queue .matrix] }
          ∧ (tget 0 s.cnt.p[b.part] 6 < cntTop → tget 0 t.cnt.p[b.part] 6 = tget 0 s.cnt.p[b.part] 6 + 1))

/-- MATRIX_PASS, WPRE_COMPLETE and ARRAY_IDLE (R149, R152, R159, R165): the pass of the job whose turn it is, of a group that is not sampled
as it begins, opens its tiles and feeds them once its blocks are loaded, and goes to the next pass of the plan, while complete heads leave; a WPRE
whose turn it is fills the shadow registers of the arrays of the first pass with their blocks; an idle array is marked. Nothing else of memory or
another core changes. -/
def Obligations.MatrixArraysAdvance : Prop :=
  ∀ (s : State) (n : CoreIx), asleep s (coreDom n) = false →
    let c := s.cores[n]
    (∀ (k : Nat) (e : MEntry) (j : MmaJob) (b : Bound) (mg kb : Nat) (blocks : List Nat) (c' : Core) (j' : MmaJob) (ts : List Tile),
      passEntry c = some (k, e, j) → boundOf c e.ctx = some b → j.plan[j.pIx]? = some (.pass mg kb blocks) →
      onKept j.f = true ∨ keptHeld c = true ∨ j.arrays.length < 2 ∨ (groupPasses j.plan mg blocks).head? ≠ some kb →
      (j.f.drain = .keep → keepsTile c k e.ctx = true) →
      let loaded := loadNext s n k b.part b.base j
      openTiles (startPass loaded.1.cores[n] loaded.2) loaded.2 false mg 0 blocks.zipIdx = some (c', j', ts) →
      let fed := feed c' b.base j' kb (decide ((groupPasses j.plan mg blocks).head? = some kb)) ts
      let passed := fun (u : State) =>
        (∀ a : Fin 4, (u.cores[n]).arrays[a].half0.acc = fed.arrays[a].half0.acc ∧ (u.cores[n]).arrays[a].half1.acc = fed.arrays[a].half1.acc)
        ∧ ∃ j2, (u.cores[n]).mq = c.mq.modify k (fun e => { e with kind := .mma j2 }) ∧ j2.plan = j.plan ∧ j2.pIx = nextPass j.plan (j.pIx + 1)
          ∧ j2.f = j.f ∧ j2.dIx = j.dIx ∧ j2.placed = j'.placed
      ∃ t, exec (.matrixPass n none none) s = .next t
        ∧ t.hbm = s.hbm ∧ t.hall = s.hall ∧ (t.cores[n]).store = c.store ∧ (∀ m, m ≠ n → t.cores[m] = s.cores[m])
        ∧ (∃ u, t = settleMq u n ∧ passed u)
        ∧ (k = 0 → (∃ g q bs, j.plan[nextPass j.plan (j.pIx + 1)]? = some (.pass g q bs)) → passed t))
    ∧ (∀ (k : Nat) (i : CtxIx) (pc : BitVec 40) (f : WpreF) (w : Word), passTurn c = some (k, ⟨i, pc, .wpre f w false⟩) →
        ∃ t, exec (.wpreComplete n) s = .next t
          ∧ (∀ (a : Fin 4) (nb : Nat), (arraysOf c)[nb]? = some a.val → nb < ceilDiv f.n 128 →
              ((t.cores[n]).arrays[a]).shadow = stationary c (baseOf c i) w f.df f.fmtW f.bxw f.n f.k 0 nb)
          ∧ (c.mq = [⟨i, pc, .wpre f w false⟩] → (t.cores[n]).mq = [] ∧ ∀ q, f.cnt = some q → (ctxOf t n i).c[q] = (ctxOf s n i).c[q] + 1)
          ∧ (t.cores[n]).store = c.store ∧ t.hbm = s.hbm)
    ∧ (∀ a : Fin 4, ∃ t, exec (.arrayIdle n a) s = .next t ∧ t = { s with cores := t.cores } ∧ (∀ m, m ≠ n → t.cores[m] = s.cores[m])
        ∧ t.cores[n] = { c with arrays := c.arrays.set a.val { c.arrays[a] with idle := true } a.isLt })

/-- MATRIX_DRAIN and FLUME_TILE_WRITE (R122, R123, R150, R193): the next tile of the head leaves by its drain path: raw records in rows
and columns of the output word, FP32 values into the tail slot of the flume, or through its chain, and the head goes to the next tile of the drain; a
flume whose slots are all full, or whose tail slot a sampled tile still holds (R333), holds the tile until the slot is free. -/
def Obligations.MatrixDrainsLeave : Prop :=
  ∀ (s : State) (n : CoreIx) (e : MEntry) (j : MmaJob) (mg nb nt : Nat) (b : Bound) (lc : LCoreE), asleep s (coreDom n) = false →
    let c := s.cores[n]
    let bk := bankOf c e.ctx
    let h := tileHalf j mg nb
    let ms := drainRows j mg
    let ns := drainCols j nb
    let goesOn := fun (t : State) => j.tIx + 1 < nt → ∃ j2, (t.cores[n]).mq.head? = some { e with kind := .mma j2 } ∧ j2.tIx = j.tIx + 1
      ∧ j2.dIx = j.dIx ∧ j2.tiles = j.tiles + 1
    drainHead c = some (e, j, mg, nb, nt) → boundOf c e.ctx = some b → lcoreE s b.part b.lcore = some lc →
    (j.f.drain = .raw → ∃ t, exec (.matrixDrain n none none) s = .next t
      ∧ (t.cores[n]).store = ms.foldl (fun st m => ns.foldl (fun st q =>
          tsetMany 0 st (rowAt b.base j.out m + 16 * q) (rawRecord (entryAt (tileAcc c h) m q))) st) c.store
      ∧ t.hbm = s.hbm ∧ t.hall = s.hall ∧ (∀ m, m ≠ n → t.cores[m] = s.cores[m]) ∧ goesOn t)
    ∧ (j.f.drain = .flume → flumeRoom s n bk b lc = true →
        let at0 := b.base + lc.flumeOffset + 65536 * (c.banks[bk].next % max 1 lc.flumeDepth)
        let full := fun (r : Res) => ∃ t, r = .next t
          ∧ (t.cores[n]).store = ms.foldl (fun st m => ns.foldl (fun st k =>
              tsetMany 0 st (at0 + 512 * (m % 128) + 4 * (k % 128)) (leBytes 4 (drainVal (entryAt (tileAcc c h) m k)).toNat)) st) c.store
          ∧ (t.cores[n]).banks[bk].flume = c.banks[bk].flume ++ [⟨c.banks[bk].next % max 1 lc.flumeDepth, j.f.m, j.f.n, mg, nb, ms, j.f.chain.val, j.out, e.ctx⟩]
          ∧ t.hbm = s.hbm ∧ t.hall = s.hall ∧ (∀ m, m ≠ n → t.cores[m] = s.cores[m]) ∧ goesOn t
        full (exec (.matrixDrain n none none) s) ∧ (c.banks[bk].waiting ≠ [] → full (exec (.flumeTileWrite n bk) s)))
    ∧ (j.f.drain = .flume → flumeRoom s n bk b lc = false → ∃ t, exec (.matrixDrain n none none) s = .next t
        ∧ (t.cores[n]).store = c.store ∧ (t.cores[n]).banks[bk].waiting ≠ [] ∧ (t.cores[n]).mq.head? = c.mq.head? ∧ exec (.flumeTileWrite n bk) s = .next s)
    ∧ (j.f.drain = .direct → tileLines c b.base j.chain j.slots j.out j.f.m j.f.n ms nb = true →
        let q := runTile ⟨s, b.part, bk, b.base, j.slots, j.out, j.f.m, j.f.n, j.tiles⟩ j.chain ⟨c, [], j.reds⟩
          (ms.map (fun m => (m, ns.map (fun k => (k, drainVal (entryAt (tileAcc c h) m k))))))
        ∃ t, exec (.matrixDrain n none none) s = .next t ∧ (t.cores[n]).store = q.c.store ∧ t.hbm = s.hbm ∧ t.hall = s.hall
          ∧ (∀ m, m ≠ n → t.cores[m] = s.cores[m]) ∧ goesOn t)

/-- VECTOR_COMPLETE (R90, R178, R185, R194, R195, R198): the head of the vector queue leaves, its completion counter grows by one and wraps, VCHDEF has
stored its chain, VPOP has taken its slots, a VRUN or VPOP has stored what its chain yields. A VRUN of tile registers through the built-in entry 0
has stored each present element, converted to FP32, at its row and column of the destination word, and nothing else. -/
def Obligations.VectorHeadCompletes : Prop :=
  ∀ (s : State) (n : CoreIx) (e : VEntry) (rest : List VEntry) (b : Bound) (lc : LCoreE), asleep s (coreDom n) = false →
    let c := s.cores[n]
    c.vq = e :: rest → boundOf c e.ctx = some b → lcoreE s b.part b.lcore = some lc →
    ∃ t, exec (.vectorComplete n none false) s = .next t ∧ (t.cores[n]).vq = rest
      ∧ (∀ k, e.cnt = some k → (ctxOf t n e.ctx).c[k] = (ctxOf s n e.ctx).c[k] + 1)
      ∧ (∀ m, m ≠ n → t.cores[m] = s.cores[m]) ∧ t.hbm = s.hbm ∧ t.tags = s.tags ∧ t.hall = s.hall
      ∧ match e.kind with
        | .chdef k ch => tfind (t.cores[n]).banks[e.bank].chains k = some ch ∧ (t.cores[n]).store = c.store
        | .run f src out ch => (t.cores[n]).store = ((runVrun s n e b f src out ch).cores[n]).store
        | .pop _ count chs => (t.cores[n]).store = ((runVpop s n e b lc count chs).cores[n]).store
            ∧ (t.cores[n]).banks[e.bank].claimed = ((runVpop s n e b lc count chs).cores[n]).banks[e.bank].claimed
            ∧ (t.cores[n]).banks[e.bank].flume = c.banks[e.bank].flume.drop count
      ∧ ∀ f src out, e.kind = .run f src out chainZero → f.srck = true → 4 * f.cols ≤ opPitch out →
          (∀ m k, m < f.rows → k < f.cols → leNat (readStore t.cores[n] (rowAt b.base out m + 4 * k) 4)
              = (convScaled .fp32 0 none (tget 0 c.banks[e.bank].treg (8192 * f.treg.val + m * f.cols + k))).raw)
          ∧ ∀ o, (∀ m k, m < f.rows → k < f.cols → o < rowAt b.base out m + 4 * k ∨ rowAt b.base out m + 4 * k + 4 ≤ o) →
              tget 0 (t.cores[n]).store o = tget 0 c.store o

/-- SLUICE_GRANT for a die with one active stream, AGE_LIMIT, SRELEASE_RECORD (R212, R220 to R223, table ST-4): an eligible stream gets a
chunk, one that is not gets none; a stream that has waited the limit is marked; the present lines of a release become FREE or wait for
their pins, and its counter grows, if the sluice has taken no entry of the queue in this cycle yet. -/
def Obligations.SluiceGrantsAndReleases : Prop :=
  ∀ (s : State) (d : DieIx), asleep s (sluiceDom d) = false →
    (∀ (phys : Nat) (x : SCtx), (s.sluices[d]).ctxs = [(phys, x)] → (∀ n, dieOfCore n = d → (s.cores[n]).sq = []) → 0 < (s.sluices[d]).grants →
      ∃ t y, exec (.sluiceGrant d) s = .next t ∧ streamAt t d phys = some y ∧ t.tags = s.tags ∧ t.hbm = s.hbm
        ∧ (if eligible (refill s d) d phys x then y.granted = x.granted + 1 ∧ y.waited = 0 ∧ y.aged = false
           else y.granted = x.granted ∧ y.chunks = x.chunks ∧ y.age = x.age + 1 ∧ y.waited = 0))
    ∧ (∀ (phys : Fin 8192) (x : SCtx), streamAt s d phys.val = some x → ∃ t, exec (.ageLimit d phys) s = .next t ∧ t = { s with sluices := t.sluices }
        ∧ streamAt t d phys.val = some (if (s.sluices[d]).ageLimit ≠ 0 ∧ (s.sluices[d]).ageLimit ≤ x.waited then { x with aged := true } else x)
        ∧ ∀ q, q ≠ phys.val → streamAt t d q = streamAt s d q)
    ∧ (∀ (n : CoreIx) (i : CtxIx) (line lines : Nat) (cnt : Option Cnt) (rest : List SEntry), dieOfCore n = d →
        (s.cores[n]).sq = ⟨i, .release line lines cnt⟩ :: rest → (s.cores[n]).sqTaken = false →
        ∃ t, exec (.sreleaseRecord n) s = .next t ∧ (t.cores[n]).sq = rest ∧ (∀ k, cnt = some k → (ctxOf t n i).c[k] = (ctxOf s n i).c[k] + 1)
          ∧ (∀ l, tfind (t.cores[n]).lines l
              = match tfind (s.cores[n]).lines l with
                | some (.present p) => if line ≤ l ∧ l < line + lines then some (if tget 0 (s.cores[n]).pins l = 0 then .free else .present true) else some (.present p)
                | y => y)
          ∧ (t.cores[n]).store = (s.cores[n]).store ∧ ∀ m, m ≠ n → t.cores[m] = s.cores[m])

/-- CHUNK_WRITTEN and STREAM_COMPLETE (R208, R214 to R216, R226): the bytes of the oldest chunk land at the addresses of their positions in
the core store or the hall buffer; a stream, not to host memory nor from a channel, whose bytes have all landed ends, its counter grows,
and its token leaves. Bytes for the store of a core region that stands still wait (R472). A failure raises ENGINE_FAULT in the issuing context. -/
def Obligations.ChunksLandAndStreamsComplete : Prop :=
  ∀ (s : State) (d : DieIx) (phys : Fin 8192) (x : SCtx), asleep s (sluiceDom d) = false → streamAt s d phys.val = some x →
    (∀ (c : Nat) (bs : List Byte) (w : Bool) (rest : List Chunk), x.chunks = ⟨c, some bs, w⟩ :: rest → x.desc.src < 3 → x.desc.dst < 2 →
      x.ending = false ∨ rest ≠ [] → (x.desc.dst = 0 → asleep s (coreDom x.core) = false) →
      let dests := (List.range bs.length).map (fun j => dstAddr x (256 * c + j))
      ∃ t y, exec (.chunkWritten d phys none) s = .next t ∧ streamAt t d phys.val = some y ∧ y.landed = x.landed + bs.length ∧ y.chunks = rest
        ∧ t.hbm = s.hbm ∧ t.tags = s.tags
        ∧ (x.desc.dst = 1 → t.hall[d] = (dests.zip bs).foldl (fun m e => tset 0 m ((hallView s x.part d).1 + e.1) e.2) s.hall[d]
            ∧ (t.cores[x.core]).store = (s.cores[x.core]).store)
        ∧ (x.desc.dst = 0 → ∀ b, boundOf s.cores[x.core] x.ctx = some b →
            (t.cores[x.core]).store = (dests.zip bs).foldl (fun m e => tset 0 m (b.base + e.1) e.2) (s.cores[x.core]).store ∧ t.hall = s.hall))
    ∧ (x.desc.dst = 0 → asleep s (coreDom x.core) = true → exec (.chunkWritten d phys none) s = .next s)
    ∧ (x.landed = x.total → x.chunks = [] → x.desc.dst ≠ 3 → x.desc.src ≠ 4 → ∃ t, exec (.streamComplete d phys) s = .next t
        ∧ streamAt t d phys.val = none ∧ (∀ k, x.cnt = some k → (ctxOf t x.core x.ctx).c[k] = (ctxOf s x.core x.ctx).c[k] + 1)
        ∧ (match x.desc.sig with
           | some b => t.toks = s.toks ++ (waiterDies s x.part b).map (fun e => (e, ⟨x.part, b, .here x.lcore, (s.parts[x.part]).stepNo, (s.parts[x.part]).attempt⟩))
           | none => t.toks = s.toks)
        ∧ t.hbm = s.hbm ∧ t.tags = s.tags ∧ t.hall = s.hall ∧ ∀ m : CoreIx, (t.cores[m]).store = (s.cores[m]).store)
    ∧ (∀ (f : EngFault) (b : Bound), boundOf s.cores[x.core] x.ctx = some b → (ctxOf s x.core x.ctx).st ≠ .faulted →
        ∃ t, exec (.chunkWritten d phys (some f)) s = .next t ∧ (ctxOf t x.core x.ctx).st = .faulted ∧ (ctxOf t x.core x.ctx).exc.code = 0x12)

/-- CELLAR_REQUEST and BURST_ISSUE for a scalar access (R248, R249, R254 to R256): the die takes its share of the request, split into its
sectors or runs; a burst of a write stores the bytes of its piece, and no other, with VERSION and FOLD of the writer in the tag; one of
a read gives the bytes of its piece to the request, which fails with its last piece in a block whose FOLD or VERSION is not as expected. The
burst is that of a sector of variant G. -/
def Obligations.ScalarRequestsReachMemory : Prop :=
  ∀ (s : State) (c : CellarIx) (r : Req) (n : CoreIx) (i : CtxIx), asleep s (cellarDom c) = false → stackDown s c = false → r.who = .scalar n i →
    s.reqs.find? (fun q => q.id == r.id) = some r → (∀ a ∈ r.addrs, versionedAt s r.part a.1 = false) →
    (mayTake s c r = true → pendingCount s.cellars[c] + (basesAt s c r).length ≤ 256 →
      ∃ t, exec (.cellarRequest c r.id) s = .next t ∧ t = { s with reqs := t.reqs, cellars := t.cellars }
        ∧ (∃ u, t.reqs.find? (fun q => q.id == r.id) = some u ∧ u = { r with addrs := u.addrs, atDie := r.atDie ++ [c] } ∧ u.addrs = r.addrs)
        ∧ ((t.cellars[c]).pieces.map (fun q => (q.req, q.base))) = ((s.cellars[c]).pieces.map (fun q => (q.req, q.base))) ++ (basesAt s c r).map (fun b => (r.id, b))
        ∧ ∀ e : CellarIx, e ≠ c → t.cellars[e] = s.cellars[e])
    ∧ (asleep s (phyDom c) = false → variantG s = true → ∀ (q : Piece) (pc : Fin 32), nextPiece s s.cellars[c] pc.val = some q → q.req = r.id → pieceBytes s r q.base ≠ [] →
        let block := q.base / 4096
        let bytes := pieceBytes s r q.base
        ∃ t, exec (.burstIssue c pc .ok false) s = .next t ∧ (t.cellars[c]).pieces = (s.cellars[c]).pieces.erase q
          ∧ (r.write = true → t.hbm = bytes.foldl (fun m e => tput m e.2.2.1 e.2.2.2) s.hbm
              ∧ wfield (tagOf t block) 31 16 = storeVersion s r.part (match bytes.head? with | some e => e.2.1 | none => 0)
              ∧ wfield (tagOf t block) 15 0 = foldOf r.tensor ∧ ∀ b, b ≠ block → tagOf t b = tagOf s b)
          ∧ (r.write = false → t.hbm = s.hbm ∧ t.tags = s.tags)
          ∧ (r.write = false → (ctxOf s n i).accs.any (fun a => a.space == .hbm) = true → ∃ u, t.reqs.find? (fun q => q.id == r.id) = some u
              ∧ u.got = bytes.foldl (fun m e => tput m e.1 (hbmByte s e.2.2.1)) r.got
              ∧ ((∀ z ∈ (s.cellars[c]).pieces.erase q, z.req ≠ r.id ∨ z.base / 4096 ≠ block) → readCheck s none r block .ok false ≠ [] → u.failed = true)))

/-- GATHER_AGE, RUN_HOLD and TRACKER_EXPIRY (R251, R254, R255): the first sector of the pseudo-channel that has not aged goes before the
younger ones, the first waiting run may issue, a tracker closes; the other variant and a limit of 0 leave all as it is. -/
def Obligations.SchedulerTimersMark : Prop :=
  ∀ (s : State) (c : CellarIx) (pc : Fin 32), asleep s (cellarDom c) = false →
    let x := s.cellars[c]
    let only := fun (r : Res) (y : Cellar) => ∃ t, r = .next t ∧ t = { s with cellars := t.cellars } ∧ t.cellars[c] = y ∧ ∀ e : CellarIx, e ≠ c → t.cellars[e] = s.cellars[e]
    (∀ (a q b : _), x.pieces = a ++ q :: b → (∀ z ∈ a, z.pc ≠ pc.val ∨ z.aged = true) → q.pc = pc.val → q.aged = false →
      only (exec (.gatherAge c pc) s)
        (if variantG s = true ∧ x.gatherAge ≠ 0 then { x with pieces := a ++ { q with aged := true } :: b } else x))
    ∧ (∀ q : Piece, x.pieces.find? (fun q => q.pc == pc.val && !q.held) = some q →
        only (exec (.runHold c pc) s)
          (if variantG s = true then x else { x with pieces := x.pieces.map (fun p => if p.base = q.base then { p with held := true } else p) }))
    ∧ ∀ k : Nat, only (exec (.trackerExpiry c k) s) { x with trackers := x.trackers.eraseIdx k }

/-- SCRUB_BLOCK and SCRUB_RETRY (R253): the scrub of a stack that runs takes the blocks of the stack in ascending order with wrap-around; a block
that is being written is skipped, and read later once it is not; a block whose CRC differs from its tag sets SCRUB_CRC, an UNWRITTEN one
UNWRITTEN, a failing burst HBM_UNCORR, each with its record while none is held; nothing in memory changes, where no request waits for the
block. TEMP_READING (R260, R485): the reading and its peak, the band one step towards the reading, the held settings; at 115 °C the package
trips. -/
def Obligations.ScrubAndTemperature : Prop :=
  (∀ (s : State) (c : CellarIx), asleep s (cellarDom c) = false → stackDown s c = false →
    let x := s.cellars[c]
    let scrubbed := fun (b : Nat) (err : ReadErr) (t : State) =>
      let y := t.cellars[c]
      let blank := decide (tagOf s b = unwrittenTag)
      let bad := decide (crc32c (hbmBytes s (4096 * b) 4096) ≠ wfield (tagOf s b) 63 32)
      let crc := err = .ok ∧ blank = false ∧ bad = true
      t.hbm = s.hbm ∧ t.tags = s.tags
        ∧ (y.scrubCrc = true ↔ x.scrubCrc = true ∨ crc)
        ∧ (y.unwritten = true ↔ x.unwritten = true ∨ (err = .ok ∧ blank = true))
        ∧ (y.hbmUncorr = true ↔ x.hbmUncorr = true ∨ err = .uncorr)
        ∧ y.tagLog = (if x.tagLog.valid then x.tagLog else if err = .uncorr then ⟨true, 4, 5, 4096 * b⟩ else if blank then ⟨true, 3, 5, 4096 * b⟩
            else if bad then ⟨true, 5, 5, 4096 * b⟩ else x.tagLog)
    (∀ err : ReadErr, x.scrubHours ≠ 0 → c.val < nStacks s → err = .ok ∨ err = .uncorr →
      let b := if x.scrubNext = 0 then c.val else x.scrubNext
      ∃ t, exec (.scrubBlock c err) s = .next t
        ∧ (t.cellars[c]).scrubNext = (if b + nStacks s < 294336 * (32 * nStacks s) then b + nStacks s else b % nStacks s)
        ∧ (writeBusy s c b = true → b ∈ (t.cellars[c]).scrubSkipped ∧ t.hbm = s.hbm ∧ t.tags = s.tags ∧ (t.cellars[c]).tagLog = x.tagLog)
        ∧ (writeBusy s c b = false → (∀ q ∈ x.pieces, q.base / 4096 ≠ b) → scrubbed b err t))
    ∧ (∀ (b : Nat) (err : ReadErr), x.scrubSkipped.contains b = true → writeBusy s c b = false → (∀ q ∈ x.pieces, q.base / 4096 ≠ b) →
        err = .ok ∨ err = .uncorr →
        ∃ t, exec (.scrubRetry c ⟨b, err⟩) s = .next t ∧ (t.cellars[c]).scrubSkipped = x.scrubSkipped.filter (· != b) ∧ scrubbed b err t))
  ∧ (∀ (s : State) (c : CellarIx) (temp : Byte), asleep s (cellarDom c) = false → c.val < nStacks s → s.pkg.cellarLink[c] = true →
    let x := s.cellars[c]
    ∃ t, exec (.tempReading c temp) s = .next t ∧ (t.cellars[c]).temp = temp.toNat ∧ (t.cellars[c]).peak = max x.peak temp.toNat
      ∧ (t.cellars[c]).band = bandAfter x.band temp.toNat
      ∧ (t.cellars[c]).scrubHours = x.scrubHeld.getD x.scrubHours ∧ (t.cellars[c]).scrubHeld = none
      ∧ (t.cellars[c]).runHold = x.runHeld.getD x.runHold ∧ (t.cellars[c]).runHeld = none
      ∧ (t.cellars[c]).writeBatch = x.batchHeld.getD x.writeBatch ∧ (t.cellars[c]).batchHeld = none
      ∧ (t.cellars[c]).gatherAge = x.gatherHeld.getD x.gatherAge ∧ (t.cellars[c]).gatherHeld = none
      ∧ (temp.toNat < 115 → t.pwr.tripped = s.pwr.tripped) ∧ (115 ≤ temp.toNat → t.pwr.tripped = true)
      ∧ (∀ b : Nat, b ≤ 3 → bandAfter b temp.toNat ≤ b + 1 ∧ b ≤ bandAfter b temp.toNat + 1))

/-- REMAP_COPY, WIPE_END, SWEEP_ENTRY and POOL_REPORT_MS (R243, R263, R286, R292): the copy goes on block by block, changes no data, and marks a
bad block lost, where no request waits for the block; after the last block the fence takes effect at once when no ARMED or RUNNING partition owns a block there; the wipe ends; one
freed block rejoins the pool; a waiting shadow write sets POOL_EXHAUSTED. -/
def Obligations.CellarHousekeeping : Prop :=
  ∀ (s : State) (c : CellarIx), asleep s (cellarDom c) = false →
    let x := s.cellars[c]
    (∀ r, x.remap = some r → r.copied = false → stackDown s c = false → (∀ q ∈ x.pieces, q.base / 4096 ≠ blockAt s c r.pc r.next) →
      (r.next + 1 < 285120 → ∃ t, exec (.remapCopy ⟨c, .ok⟩) s = .next t ∧ (t.cellars[c]).remap = some { r with next := r.next + 1 }
        ∧ ((t.cellars[c]).lost = true ↔ x.lost = true ∨ (tagOf s (blockAt s c r.pc r.next) ≠ unwrittenTag
            ∧ crc32c (hbmBytes s (4096 * blockAt s c r.pc r.next) 4096) ≠ wfield (tagOf s (blockAt s c r.pc r.next)) 63 32))
        ∧ t.hbm = s.hbm ∧ t.tags = s.tags)
      ∧ (285120 ≤ r.next + 1 → (∀ p, active s p = false) → ∃ t, exec (.remapCopy ⟨c, .ok⟩) s = .next t ∧ (t.cellars[c]).remap = none
          ∧ (t.cellars[c]).pcFenced = some r.pc ∧ t.pkg.hbmPc = s.pkg.hbmPc - 1 ∧ t.hbm = s.hbm ∧ t.tags = s.tags))
    ∧ (∃ t, exec (.wipeEnd c) s = .next t ∧ t = { s with cellars := t.cellars } ∧ t.cellars[c] = { x with wipeBusy := false }
        ∧ ∀ e : CellarIx, e ≠ c → t.cellars[e] = s.cellars[e])
    ∧ (∀ p b, s.freed = [(p, b)] → ∃ t, exec (.sweepEntry c) s = .next t ∧ t = { s with freed := t.freed }
        ∧ t.freed = if b % nStacks s = c.val then [] else [(p, b)])
    ∧ (timersHeld s = false → ∀ k, x.upd.binds.find? (fun b => b.waiting && !b.dry) = some k → ∃ t, exec (.poolReportMs c) s = .next t
        ∧ (t.cellars[c]).upd = setBind { x.upd with poolExhausted := true } { k with dry := true } ∧ t.hbm = s.hbm ∧ t.parts = s.parts ∧ OnlyReports { s with cellars := t.cellars } t)

/-- LOCAL_CONTRIBUTION and LOCAL_TOKEN (R45, R228, R270 to R272): in a step that runs, a local contribution that is first in its list opens the sum of
its granule; one that is last writes the sum, with a free tracker, as a whole block of the target with the step number as VERSION, the
target's FOLD and the CRC of the bytes, and no other tag changes; a token of the current step and attempt is held by the sluice, one already
held is counted DUP, one of another step or attempt STALE. -/
def Obligations.LocalContributionsAndTokens : Prop :=
  (∀ (s : State) (c : CellarIx) (p : PartIx) (red g : Nat) (e : ReductionE) (l t : TensorE), asleep s (cellarDom c) = false →
    let u := (s.cellars[c]).upd
    reductionOf s p red = some e → tensorOf s p e.loc = some l → tensorOf s p e.target = some t → (s.parts[p]).step = .run →
    serves s c p t g = true → 1024 * g < elements t → u.localRead.contains (p, red, g) = false → barrierDone s (dieOfCellar s c.val) p e.locBarrier = true →
    granuleCheck s p l g .ok = [] → (∀ (d : CellarIx), ∀ q ∈ (s.cellars[d]).pieces, q.base / 4096 ≠ granuleBlock s p l g) →
    updStopped s.cellars[c] = false → nextPos u p e g = e.locPos → u.parked = [] →
    let vals := (rawsOf .fp32 (granuleBytes s p l g)).map (BitVec.ofNat 32)
    (e.locPos = 0 → 1 < e.ranks.length → u.sums.length < 2048 → ∃ v, exec (.localContribution c p red ⟨g, CelErr.none⟩) s = .next v
      ∧ ((v.cellars[c]).upd).sums = u.sums ++ [⟨p, e.id, g, 1, vals⟩] ∧ ((v.cellars[c]).upd).localRead = u.localRead ++ [(p, red, g)]
      ∧ v.hbm = s.hbm ∧ v.tags = s.tags)
    ∧ (∀ sum, e.locPos + 1 = e.ranks.length → u.sums = [⟨p, e.id, g, e.locPos, sum⟩] → 0 < e.locPos →
        let b := physAddr s p (t.base + 4096 * g) / 4096
        trackerFree s (cellarOf s b) = true → (∀ (d : CellarIx), ∀ q ∈ (s.cellars[d]).pieces, q.base / 4096 ≠ b) →
        ∃ v, exec (.localContribution c p red ⟨g, CelErr.none⟩) s = .next v ∧ ((v.cellars[c]).upd).sums = [] ∧ (p, e.id, g) ∈ ((v.cellars[c]).upd).written
          ∧ wfield (tagOf v b) 31 16 = (s.parts[p]).stepNo.toNat % 65536 ∧ wfield (tagOf v b) 15 0 = foldOf t.id
          ∧ wfield (tagOf v b) 63 32 = crc32c ((sum.zipWith fadd vals).flatMap (fun y => leBytes 4 y.toNat))
          ∧ ∀ k, k ≠ b → tagOf v k = tagOf s k))
  ∧ (∀ (s : State) (d : DieIx) (k : Nat) (x : Tok), asleep s (sluiceDom d) = false → s.toks[k]? = some (d, x) →
      let now := decide (x.step = (s.parts[x.part]).stepNo ∧ x.attempt = (s.parts[x.part]).attempt) && active s x.part
      let old := (s.sluices[d]).held.any (fun h => decide (h.part = x.part ∧ h.barrier = x.barrier ∧ h.src = x.src))
      ∃ t, exec (.localToken d k) s = .next t ∧ t.toks = s.toks.eraseIdx k
        ∧ (t.sluices[d]).held = (if now && !old then (s.sluices[d]).held ++ [x] else (s.sluices[d]).held)
        ∧ (t.sluices[d]).dup = (if now && old then satAdd (s.sluices[d]).dup 1 0xFFFF else (s.sluices[d]).dup)
        ∧ (t.sluices[d]).stale = (if now then (s.sluices[d]).stale else satAdd (s.sluices[d]).stale 1 0xFFFF)
        ∧ t.hbm = s.hbm ∧ t.tags = s.tags)

/-- UPD_GRANULE (R275, R278, R280, R283, R296): where one binding of a die has a granule due, its SHADOW blocks stand ready and the reads that fill
them meet no error, the update unit runs
the micro-program over it, operation after operation; memory, tags and version map are as the program leaves them; the granule has run,
and is reported done unless it is up for comparison; a failed read stops the step as class H. -/
def Obligations.UpdateRunsNextGranule : Prop :=
  ∀ (s : State) (c : CellarIx) (p : PartIx) (k g : Nat) (im : Image) (e : BindingE) (pr : ProgramE) (s0 s1 : State), asleep s (cellarDom c) = false →
    dueGranules s c = [(p, k, g)] → updStopped s.cellars[c] = false → (s.cellars[c]).upd.fenced = false → (s.parts[p]).image = some im →
    im.bindings[k]? = some e → im.programs.find? (fun x => x.number == e.program) = some pr → (shadowsReady s p k g).isSome = true →
    copyReads s p (copiedBlocks s p k g) [] = (s0, [], none) → shadowsReady s0 p k g = some s1 → (s1.parts[p]).image = some im →
    let x := pr.ops.foldl (runMop p im e (bindAt (s1.cellars[c]).upd p k).consts g)
      ⟨s1, (List.range 16).map (fun r => tgetMany 0 (s1.cellars[c]).upd.u (1024 * r) 1024), [], [], [], 0⟩
    (x.bad = [] → ∃ t, exec (.updGranule c ⟨none, false⟩ []) s = .next t ∧ t.hbm = x.s.hbm ∧ t.tags = x.s.tags ∧ t.vmap = x.s.vmap
      ∧ g ∈ (bindAt (t.cellars[c]).upd p k).ran ∧ (bindAt (t.cellars[c]).upd p k).waiting = false
      ∧ (t.sed.items = x.s.sed.items → g ∈ (bindAt (t.cellars[c]).upd p k).done))
    ∧ (x.bad ≠ [] → (s.parts[p]).step = .run → ∃ t, exec (.updGranule c ⟨none, false⟩ []) s = .next t ∧ (t.parts[p]).step = .stopped
        ∧ (t.parts[p]).failClassP = (s.parts[p]).failClassP)

/-- START (R66, R310, R314): a token of the group, epoch, step, attempt and version with a good MAC, not applied before, starts the step of a
device in WAIT_START whose vestibule has room for it, where no constants of a binding fail their check and nothing is parked: RUN, plan
RUNNING, and every bound core's contexts at their entries with counters 0, the lowest in RUN. A bad MAC is counted and reported, and
nothing starts.
COMMIT, SOLO_COMMIT and the coordinator's own commit (R286, R308, R311, R323): the version and the step grow by one, the attempt is 0, and
every SHADOW of the partition is CURRENT. -/
def Obligations.StepStartsAndCommits : Prop :=
  (∀ (s u : State) (h : Arrival) (sender : Nat) (t : Token), let p := h.dpart; let q := u.parts[p]
    arrive s h (.step sender q.group q.epoch (.start t)) true = .ok u → q.applied.contains t = false →
    (t.kind = 1 → t.group = q.group → t.epoch = q.epoch → q.step = .waitStart → t.step = q.stepNo → t.attempt = q.attempt → t.version = q.version →
      q.vestUsed + 48 ≤ (match q.allot with | none => 0 | some a => a.vest) → (∀ c : CellarIx, (u.cellars[c]).upd.parked = []) →
      (∀ im, q.image = some im → ∀ e ∈ im.bindings, ∀ k, constCheck u p e (Config.readErr k) = []) →
      ∃ v, exec (.start h q.group q.epoch sender t true) s = .next v ∧ (v.parts[p]).step = .run ∧ (v.parts[p]).st = .running
        ∧ (v.parts[p]).stepNo = q.stepNo ∧ (v.parts[p]).version = q.version ∧ t ∈ (v.parts[p]).applied
        ∧ ∀ n ∈ coresOf u p, ∀ (i : CtxIx) (b : Bound) (lc : LCoreE), boundOf u.cores[n] i = some b → b.part = p → lcoreE u p b.lcore = some lc →
            (ctxOf v n i).st = (if i.val = 0 then .run else .ready) ∧ (ctxOf v n i).pc = BitVec.ofNat 40 (lc.entries.getD (i.val - b.ctxLo) 0)
            ∧ (ctxOf v n i).c = Vector.replicate 8 0 ∧ (ctxOf v n i).accs = [] ∧ (ctxOf v n i).s = (ctxOf u n i).s)
    ∧ (∃ v, exec (.start h q.group q.epoch sender t false) s = .next v ∧ (v.parts[p]).step = q.step ∧ (v.parts[p]).badToken = true
        ∧ (v.parts[p]).badTokenCount = satAdd q.badTokenCount 1 0xFFFF ∧ reported v 0x11 p.val [t.kind, sender] ∧ v.cores = u.cores))
  ∧ (∀ (s u : State) (h : Arrival) (sender : Nat) (t : Token), let p := h.dpart; let q := u.parts[p]
    let flipped := fun (r : Res) (a : State) => ∃ v, r = .next v ∧ (v.parts[p]).version = (a.parts[p]).version + 1
      ∧ (v.parts[p]).stepNo = (a.parts[p]).stepNo + 1
      ∧ ∀ (e : Nat × MapE) (x : Nat × Nat), e ∈ mapped a p → e.2.shadow = some x → (mapOf v p e.1).cur = x ∧ (mapOf v p e.1).shadow = none
    tsorted s.vmap = true →
    (arrive s h (.step sender q.group q.epoch (.commit t)) true = .ok u → q.applied.contains t = false → t.kind = 2 → t.group = q.group →
      t.epoch = q.epoch → q.step = .prepared → t.step = q.stepNo → t.attempt = q.attempt → t.version = q.version + 1 →
      flipped (exec (.commit h q.group q.epoch sender t true) s) u)
    ∧ (arrive s h (.step sender q.group q.epoch (.ready q.stepNo q.attempt false)) true = .ok u → isCoord q = true → tokenMade q = false → q.step = .prepared →
        (∀ r, r < q.ranks → r = sender ∨ r ∈ q.readySet) → flipped (exec (.coordReady h q.group q.epoch sender q.stepNo q.attempt false) s) u)
    ∧ (asleep s mgmtDom = false → (s.parts[p]).step = .solo → stepDone s p = true → recordedCommit s.parts[p] = some t → flipped (exec (.soloCommit p) s) s))


/-- READY (R307, R318): a step whose work is done is PREPARED and says so to its coordinator; a paired device first waits for its twin; a
device that requires a twin and has none waits, and reports it once.
DISCARD_COMPLETE (R312): once the engines are quiet the attempt grows by one, the queues of the partition's cores are empty, the version
stays, and no SHADOW is left; a context keeps nothing outstanding.
READY_TIMEOUT, COMMIT_TIMEOUT and HEARTBEAT (R309, R327, table SP-9): what each reports, and that nothing but what reports touch changes.
PEER_LOST (R320, R374, table SP-5): a silent twin port, or a twin reported failed, makes the twin LOST while the step goes on; another silent
link only leads to reports, and a rank that does not answer to its own. -/
def Obligations.ReadyDiscardAndTimers : Prop :=
  (∀ (s : State) (p : PartIx), let q := s.parts[p]
    let only := fun (r : Res) (y : Machine.Part) => ∃ t, r = .next t ∧ t.parts = s.parts.set p.val y p.isLt ∧ t.cores = s.cores ∧ t.hbm = s.hbm ∧ t.tags = s.tags ∧ t.vmap = s.vmap
    asleep s mgmtDom = false → q.step = .run → stepDone s p = true →
    (q.twin ≠ .paired → q.requireTwin = false → only (exec (.ready p) s) { q with step := .prepared })
    ∧ (q.twin ≠ .paired → q.requireTwin = true → only (exec (.ready p) s) { q with twinLostSent := true })
    ∧ (q.twin = .paired → q.vestMark ≠ some (q.stepNo, q.attempt) → only (exec (.ready p) s) { q with vestMark := some (q.stepNo, q.attempt) })
    ∧ (q.twin = .paired → q.vestMark = some (q.stepNo, q.attempt) →
        (q.vestAcked = some q.stepNo → q.mirrorVersion = q.version → only (exec (.ready p) s) { q with step := .prepared })
        ∧ (q.vestAcked ≠ some q.stepNo ∨ q.mirrorVersion ≠ q.version → exec (.ready p) s = .next s)))
  ∧ (∀ (s : State) (p : PartIx), let q := s.parts[p]
    asleep s mgmtDom = false → q.discarding = true → (∀ n ∈ coresOf s p, engineQuiet s.cores[n] = true) → tsorted s.vmap = true →
      ∃ t, exec (.discardComplete p) s = .next t ∧ (t.parts[p]).attempt = q.attempt + 1 ∧ (t.parts[p]).discarding = false ∧ (t.parts[p]).version = q.version
        ∧ (t.parts[p]).stepNo = q.stepNo ∧ ((t.parts[p]).step = .waitStart ∨ (t.parts[p]).st = .halted)
        ∧ (∀ n ∈ coresOf s p, (t.cores[n]).mq = [] ∧ (t.cores[n]).vq = [] ∧ (t.cores[n]).sq = [])
        ∧ (∀ e, e ∈ mapped s p → (mapOf t p e.1).shadow = none ∧ (q.retention = none → (mapOf t p e.1).cur = e.2.cur)))
  ∧ (∀ (s : State) (p : PartIx), let q := s.parts[p]
    (timersHeld s = false → isCoord q = true → tokenMade q = false → q.readySet ≠ [] →
      let missing := (List.range q.ranks).filter (fun r => !q.readySet.contains r)
      missing ≠ [] → ∃ t, exec (.readyTimeout p) s = .next t ∧ OnlyReports s t ∧ reported t 0x05 p.val [q.attempt, missing.headD 0, missing.length])
    ∧ (timersHeld s = false → q.step = .prepared → ∃ t, exec (.commitTimeout p) s = .next t
        ∧ OnlyReports { s with parts := s.parts.set p.val { q with commitTimeoutErr := true } p.isLt } t ∧ reported t 0x06 p.val [q.attempt])
    ∧ (timersHeld s = false →
        (∀ x : Silent, q.twin ≠ .none → q.twin ≠ .lost → x = .twin p ∨ (∃ port : PortIx, x = .link port ∧ q.twinPort = port.val) →
          ∃ t, exec (.peerLost x) s = .next t ∧ (t.parts[p]).twin = .lost ∧ (t.parts[p]).twinLostErr = true ∧ (t.parts[p]).step = q.step ∧ t.cores = s.cores)
        ∧ (∀ port : PortIx, (∀ r : PartIx, (s.parts[r]).twin = .none) → ∃ t, exec (.peerLost (.link port)) s = .next t ∧ OnlyReports s t)
        ∧ (∀ r, q.inGroup = true → r < q.ranks → r ≠ q.rank → ∃ t port, exec (.peerLost (.rank p r)) s = .next t ∧ OnlyReports s t
            ∧ reported t 0x04 p.val [port, r]))
    ∧ (asleep s mgmtDom = false → timersHeld s = false → q.allot.isSome = true → ∃ t r, exec (.heartbeat p) s = .next t ∧ OnlyReports s t ∧ t.mgmt.beat = some r ∧ r.code = 1
        ∧ r.part = p.val ∧ r.epoch = q.epoch ∧ r.step = q.stepNo ∧ r.detail = [stepCode q.step, q.version.toNat, twinCode q.twin]))

/-- FAIL, ABORT, DISCARDED and the coordinator's collection of READY (R99, R308, R310, R312): the coordinator remembers who is ready; a FAIL before a
COMMIT makes an ABORT; an ABORT begins the discard of the step; the last DISCARDED of a class H failure makes a START for the next
attempt. -/
def Obligations.CoordinatorAndAbort : Prop :=
  ∀ (s u : State) (h : Arrival) (sender : Nat), let p := h.dpart; let q := u.parts[p]
    (arrive s h (.step sender q.group q.epoch (.ready q.stepNo q.attempt false)) true = .ok u → isCoord q = true →
      (∃ r, r < q.ranks ∧ r ≠ sender ∧ r ∉ q.readySet) →
      exec (.coordReady h q.group q.epoch sender q.stepNo q.attempt false) s
        = .next { u with parts := u.parts.set p.val { q with readySet := addOnce sender q.readySet } p.isLt })
    ∧ (∀ (classH : Bool) (cause : Nat), arrive s h (.step sender q.group q.epoch (.fail q.stepNo q.attempt classH cause)) true = .ok u → isCoord q = true →
        tokenMade q = false → q.step = .run ∨ q.step = .stopped ∨ q.step = .prepared →
        ∃ v t, exec (.fail h q.group q.epoch sender q.stepNo q.attempt classH cause) s = .next v ∧ (v.parts[p]).made = some t ∧ t.kind = 3 ∧ t.step = q.stepNo
          ∧ t.attempt = q.attempt ∧ (v.parts[p]).discarding = true ∧ (v.parts[p]).abortPending = true
          ∧ (v.parts[p]).failClassP = (q.failClassP || !classH) ∧ (v.parts[p]).failCause = cause ∧ v.hbm = u.hbm ∧ v.vmap = u.vmap)
    ∧ (∀ t : Token, arrive s h (.step sender q.group q.epoch (.abort t)) true = .ok u → q.applied.contains t = false → t.kind = 3 → t.group = q.group →
        t.epoch = q.epoch → q.step = .run ∨ q.step = .stopped ∨ q.step = .prepared → t.step = q.stepNo → t.attempt = q.attempt →
        ∃ v, exec (.abort h q.group q.epoch sender t true) s = .next v ∧ (v.parts[p]).discarding = true ∧ (v.parts[p]).abortPending = true
          ∧ (v.parts[p]).applied = q.applied ++ [t] ∧ (∀ n ∈ coresOf u p, (v.cores[n]).stopped = true) ∧ v.hbm = u.hbm ∧ v.vmap = u.vmap)
    ∧ (∀ t : Token, arrive s h (.step sender q.group q.epoch (.discarded q.stepNo t.attempt)) true = .ok u → isCoord q = true → q.made = some t → t.kind = 3 →
        t.step = q.stepNo → (∀ r, r < q.ranks → r = sender ∨ r ∈ q.discardedSet) → q.step = .waitStart → q.failClassP = false → t.attempt + 1 < q.maxAttempts →
        ∃ v t', exec (.discarded h q.group q.epoch sender q.stepNo t.attempt) s = .next v ∧ (v.parts[p]).made = some t' ∧ t'.kind = 1
          ∧ t'.step = q.stepNo ∧ t'.attempt = q.attempt ∧ t'.version = q.version ∧ (v.parts[p]).readySet = [] ∧ (v.parts[p]).discardedSet = [])


/-- The mirror (R304, R316, R317, R319): a page whose blocks pass their checks, and for which no request waits, is read for the twin and leaves the
list; an arriving page, vestibule record, image or release is taken from the partner on the twin port, and the last page completes the
version, its image with it; an acknowledgement is noted; the twin is PAIRED once the mirror has the version that the step
reads. -/
def Obligations.MirrorKeepsTwin : Prop :=
  (∀ (s : State) (p : PartIx) (page : Nat), let q := s.parts[p]
    cellarsAsleep s = false → page ∈ q.mirTodo →
    (∀ j, j < 16 → snapCheck s p (16 * page + j) false .ok = []) →
    (∀ d : CellarIx, ∀ z ∈ (s.cellars[d]).pieces, ∀ j, j < 16 → z.base / 4096 ≠ blockNamed s p (16 * page + j) false) →
    ∃ t, exec (.mirrorPage p ⟨page, []⟩) s = .next t ∧ (t.parts[p]).mirTodo = q.mirTodo.filter (· != page) ∧ t.hbm = s.hbm ∧ t.tags = s.tags ∧ t.cores = s.cores)
  ∧ (∀ (s u : State) (h : Arrival) (f : PortIx), let p := h.dpart; let q := u.parts[p]
      h.port = some f → q.twin ≠ .none → q.twinPort = f.val → q.twinPart = h.spart →
      let mi := q.mirror.getD Mirror.empty
      let put := fun (m : MirrorMsg) (y : Mirror) => arrive s h (.mirror m) true = .ok u →
        exec (.mirror h m) s = .next { u with parts := u.parts.set p.val { q with mirror := some y } p.isLt }
      (∀ off v bytes, bytes ≠ [] → put (.page off v bytes false) { mi with next := tput mi.next (off / 4096) bytes })
      ∧ (∀ step, put (.vest step none false) mi) ∧ (∀ step r, put (.vest step (some r) false) (noteToken { mi with recs := mi.recs ++ [r] } r))
      ∧ (∀ off len w im hist, put (.image off len w im hist true) { mi with nextImage := some (im, hist) })
      ∧ (∀ off len w im hist, arrive s h (.mirror (.image off len w im hist false)) true = .ok u → exec (.mirror h (.image off len w im hist false)) s = .next u)
      ∧ (arrive s h (.mirror .release) true = .ok u → ∃ v, exec (.mirror h .release) s = .next v ∧ (v.parts[p]).twin = .none ∧ (v.parts[p]).mirror = none)
      ∧ (∀ off v bytes, bytes ≠ [] → arrive s h (.mirror (.page off v bytes true)) true = .ok u → ∃ w m, exec (.mirror h (.page off v bytes true)) s = .next w
          ∧ (w.parts[p]).mirror = some m ∧ m.version = v ∧ m.next = [] ∧ m.pages = (tput mi.next (off / 4096) bytes).foldl (fun t e => tput t e.1 e.2) mi.pages
          ∧ ∀ im hist, mi.nextImage = some (im, hist) → m.image = some im ∧ m.hist = hist))
  ∧ (∀ (s u : State) (h : Arrival) (sender : Nat) (v : Word), let p := h.dpart; let q := u.parts[p]
      (arrive s h (.step sender q.group q.epoch (.mirrorAck 1 v)) true = .ok u →
        exec (.mirrorAck h q.group q.epoch sender 1 v) s = .next { u with parts := u.parts.set p.val { q with vestAcked := some v } p.isLt })
      ∧ (arrive s h (.step sender q.group q.epoch (.mirrorAck 2 v)) true = .ok u →
          ∃ t, exec (.mirrorAck h q.group q.epoch sender 2 v) s = .next t ∧ (t.parts[p]).mirrorVersion = v ∧ (t.parts[p]).stepNo = q.stepNo ∧ t.hbm = u.hbm))
  ∧ ∀ (s : State) (p : PartIx), let q := s.parts[p]
      asleep s mgmtDom = false → q.twin = .syncing → q.mirTodo = [] → q.mirrorVersion = q.version →
      exec (.twinSyncDone p) s = .next { s with parts := s.parts.set p.val { q with twin := .paired } p.isLt }


/-- The boot stages (R416, R417, R420, R423; tables BS-2 to BS-5): each does its work and hands over to the next, or waits for its section writes; stage 1
takes the configuration block whose MAGIC, FORMAT, LENGTH and CRC are right, else the defaults; stage 3 copies the slot into SRAM and starts an image
that passes its checks; a stage that fails logs its cause in section CAUSES, whose write it waits for. -/
def Obligations.BootStagesRun : Prop :=
  ∀ s : State,
    (booting s 0 = true → exec (.bootStageFuses none) s = .next { s with boot := { s.boot with stage := 1, sram := [] }, rtime := 0 })
    ∧ (booting s 1 = true → let bs := flashBytes s 0x400000 0x64
        let ok := fieldAt bs 0 4 = 0x43464742 ∧ fieldAt bs 4 2 = 1 ∧ fieldAt bs 6 2 = 0x64 ∧ fieldAt bs 0x60 4 = crc32c (bs.take 0x60)
        ∃ t, exec (.bootStageConfig none) s = .next t ∧ t.boot.stage = 2 ∧ OnlyReports s t
          ∧ (ok → t.boot.cfgDefaults = false ∧ t.boot.cfg.ipv4.toNat = fieldAt bs 8 4 ∧ t.boot.cfg.prefixLen = fieldAt bs 0xC 1 ∧ t.boot.cfg.fmPort = fieldAt bs 0x34 2
              ∧ t.boot.cfg.i3cSa = fieldAt bs 0x36 1 ∧ t.boot.cfg.xspiMhz = fieldAt bs 0x37 1 ∧ t.boot.cfg.huCap = fieldAt bs 0x38 4
              ∧ t.boot.cfg.huVmin = fieldAt bs 0x3C 2 ∧ t.boot.cfg.huRatio = fieldAt bs 0x3E 2 ∧ t.boot.cfg.huPower = fieldAt bs 0x40 4
              ∧ t.boot.cfg.tpp = fieldAt bs 0x44 2 ∧ t.boot.cfg.page = fieldAt bs 0x46 2)
          ∧ (¬ ok → t.boot.cfg = Cfg.default ∧ t.boot.cfgDefaults = true ∧ reported t 0x51 0xF []))
    ∧ (booting s 2 = true → let b := storedBoot s; let low := decide (b.1 = 3) || decide (s.boot.fuses.lc = .scrapped)
        ∃ t, exec (.bootStageRecord none) s = .next t ∧ t.boot.recordRead = true ∧ t.boot.bootCount = b.2.1 + 1 ∧ t.cores = s.cores ∧ t.parts = s.parts
          ∧ t.boot.attempts = (if low then b.1 else b.1 + 1)
          ∧ (neverFits s 1 = false → t.boot.stage = 2 ∧ t.boot.awaits = some (.record low) ∧ 1 ∈ t.boot.wants))
    ∧ (∀ x, booting s 3 = true → let rd := flashBytes s; let f := fun off n => leNat (rd off n)
        (imageCause s rd x = (0, 0) → ∃ t, exec (.bootStageImage x) s = .next t ∧ t = { s with boot := t.boot } ∧ t.boot.stage = 4
          ∧ t.boot.image = ⟨f 0xC 4, f 6 2, f 8 4, sha384 (rd 0 (0x1FF + f 0x10 8))⟩
          ∧ ∀ o, o < 0x200 + f 0x10 8 → tget 0 t.boot.sram o = tget 0xFF s.boot.flash o)
        ∧ ∀ cause detail, imageCause s rd x = (cause, detail) → cause ≠ 0 → neverFits s 2 = false → ∃ t, exec (.bootStageImage x) s = .next t
          ∧ t.boot.stage = 3 ∧ t.boot.awaits = some .fail ∧ 2 ∈ t.boot.wants ∧ t.boot.causes.getLast? = some ⟨thisStart s, 3, cause, detail⟩)
    ∧ (booting s 4 = true → ∃ t, exec (.bootStageLinks none) s = .next t ∧ t.boot.stage = 5 ∧ t.pkg.bridge = true ∧ (∀ d : DieIx, t.pkg.ucie[d] = true)
        ∧ (∀ d : PortDieIx, t.pkg.portLink[d] = decide (d.val < portDies s)) ∧ (∀ c : CellarIx, t.pkg.cellarLink[c] = decide (c.val < nStacks s))
        ∧ t.boot.repair = (sectBody s 6).getD [])
    ∧ (booting s 5 = true → ∃ t, exec (.bootStageWipe none) s = .next t ∧ t.boot.stage = 6 ∧ t.hbm = [] ∧ t.tags = [] ∧ t.vmap = []
        ∧ (∀ c : CellarIx, (t.cellars[c]).wipeBusy = true ∧ (t.cellars[c]).sram = []) ∧ (∀ n : CoreIx, (t.cores[n]).store = []) ∧ ∀ d : DieIx, t.hall[d] = [])
    ∧ (booting s 6 = true → (∀ c : CellarIx, c.val < nStacks s → (s.cellars[c]).wipeBusy = false) → ∃ t, exec (.bootStageState none) s = .next t
        ∧ t.boot.stage = 7 ∧ t.pkg.inventory = true ∧ t.sed.test.isSome = true)
    ∧ (booting s 7 = true → testOver s = true → neverFits s 1 = false → ∃ t, exec (.bootStageReady none) s = .next t ∧ t = { s with boot := t.boot }
        ∧ t.boot.stage = 7 ∧ t.boot.attempts = 0 ∧ t.boot.awaits = some .ready ∧ 1 ∈ t.boot.wants)
    ∧ (neverFits s 2 = false → ∀ (c : Instr) (n cause detail : Nat),
        (c, n, cause, detail) ∈ ([(.bootStageFuses (some (.fuseEcc 7)), 0, 0x01, 7), (.bootStageRecord (some (.recordRead 1)), 2, 0x02, 1),
          (.bootStageLinks (some .bridgeLink), 4, 0x09, 0), (.bootStageWipe (some (.wipe 3)), 5, 0x0E, 3),
          (.bootStageState (some .identity), 6, 0x0F, 0), (.bootStageReady (some (.absukoFault 2)), 7, 0x12, 2)] : List (Instr × Nat × Nat × Nat)) →
        stageRuns s n = true → ∃ t, exec c s = .next t ∧ t = { s with boot := t.boot } ∧ t.boot.stage = n ∧ t.boot.awaits = some .fail
          ∧ 2 ∈ t.boot.wants ∧ t.boot.causes.getLast? = some ⟨thisStart s, n, cause, detail⟩)

/-- The watchdog, minimal mode and the persistent record (R416 to R419, R425, R426, R433): the watchdog resets the device and leaves its flag and
the stage; the next section of the record takes its payload in the copy that is not current, under the next generation, and the copy that was current
stays; a write whose read-backs fail leaves the current copy as it was; a write that waits for energy is reported once. With the write for which
it waits stage 2 ends, in stage 3 or in minimal mode, stage 7 ends, and a failed start resets the device with its causes stored. -/
def Obligations.RecordAndWatchdog : Prop :=
  ∀ s : State,
    (timersHeld s = false → s.boot.wdRun = true → ∃ t, exec .bootWatchdog s = .next t ∧ AfterReset s t ∧ t.boot.wdFlag = true
      ∧ t.boot.lastStage = min s.boot.stage 7)
    ∧ (s.boot.minimal = true → asleep s mgmtDom = false → timersHeld s = false → ∃ t, exec .minimalMode s = .next t ∧ OnlyReports s t
        ∧ reported t 0x50 0xF ((s.boot.causes.reverse.take 3).map packCause))
    ∧ (∀ (k : Nat) (payload : List Byte), nextWant s = some k → energyOk s k = true → asleep s mgmtDom = false → (1 ≤ k ∧ k ≤ 8) ∨ (0x10 ≤ k ∧ k < 0x110) →
        payloadNow s k = some payload → payload.length + 40 ≤ sectSize k → (∀ c, currentCopy s k = some c → c.1 + 1 < 2 ^ 64) →
        let stored := fun (u : State) => sectBody u k = some payload
          ∧ (∀ j, (1 ≤ j ∧ j ≤ 8) ∨ (0x10 ≤ j ∧ j < 0x110) → j ≠ k → currentCopy u j = currentCopy s j)
          ∧ ∀ c, currentCopy s k = some c → copyOf u k false = some c ∨ copyOf u k true = some c
        (∀ first second : Bool, first = true ∨ second = true →
          (s.boot.awaits = none → ∃ t, exec (.sectionWrite first second) s = .next t ∧ t = { s with boot := t.boot, egress := t.egress } ∧ stored t
              ∧ k ∉ t.boot.wants ∧ (k = 1 → t.boot.seqLimit = s.boot.seqBase))
          ∧ (s.boot.wants = [k] →
              (s.boot.awaits = some (.record false) → ∃ t, exec (.sectionWrite first second) s = .next t ∧ stored t ∧ t.boot.stage = s.boot.stage + 1
                ∧ t.boot.wdRun = true ∧ t.boot.awaits = none ∧ t.boot.minimal = s.boot.minimal)
              ∧ (s.boot.awaits = some (.record true) → ∃ t, exec (.sectionWrite first second) s = .next t ∧ stored t ∧ t.boot.stage = s.boot.stage
                ∧ t.boot.minimal = true ∧ t.boot.awaits = none)
              ∧ (s.boot.awaits = some .ready → ∃ t, exec (.sectionWrite first second) s = .next t ∧ stored t ∧ t.boot.stage = s.boot.stage + 1
                ∧ t.boot.wdRun = false ∧ t.boot.awaits = none ∧ t.mgmt.ip4 = s.boot.cfg.ipv4 ∧ t.i3c.staticAddr = s.boot.cfg.i3cSa
                ∧ ∀ f : PortIx, f.val < portCount s → (s.fab.ports[f]).st = .down → (s.fab.ports[f]).locked = false → (t.fab.ports[f]).st = .detect)
              ∧ (s.boot.awaits = some .fail → ∃ t u, exec (.sectionWrite first second) s = .next t ∧ stored u ∧ u.boot.fuses = s.boot.fuses
                ∧ u.fuses = s.fuses ∧ u.pending = s.pending ∧ AfterReset u t)))
        ∧ (s.boot.awaits = none → ∃ t, exec (.sectionWrite false false) s = .next t ∧ t.boot.writeErr = true ∧ k ∈ t.boot.failed ∧ reported t 0x53 0xF [k]
            ∧ currentCopy t k = currentCopy s k))
    ∧ (∀ mv, s.pwr.powered = true → exec (.holdupSense mv) s = .next { s with boot := { s.boot with vbank := mv * s.boot.cfg.huRatio } })
    ∧ (∀ k, timersHeld s = false → heldUp s = some k → s.boot.holdupSent = false → ∃ t, exec .holdupWait s = .next t ∧ OnlyReports s t
        ∧ t.boot.holdupSent = true ∧ reported t 0x54 0xF [k, requiredMj s k, availableMj s])

/-- The pins, power and its loss, and the links (R29, R379, R383, R390, R417, R444, R449, R497 to R503): what survives a reset, what a power loss sets,
that TRST_N resets the test access port only, and that PERST resets the endpoint and neither memory nor boot nor power. -/
def Obligations.ResetsAndPins : Prop :=
  ∀ s : State,
    (∀ e, s.pwr.powered = false → ∃ t, exec (.powerUp e) s = .next t ∧ AfterReset s t ∧ t.pwr.powered = true ∧ t.pwr.pwrGood = true ∧ t.pwr.testHold = e)
    ∧ (s.pwr.powered = true →
        (∃ t, exec .powerRemoval s = .next t ∧ AfterReset s t ∧ t.pwr.powered = false ∧ t.pwr.tripped = false ∧ t.boot.wdFlag = false)
        ∧ (∀ e, ∃ t, exec (.resetN e) s = .next t ∧ AfterReset s t ∧ t.pwr.powered = true ∧ t.pwr.tripped = s.pwr.tripped ∧ t.pwr.testHold = e
            ∧ t.boot.wdFlag = s.boot.wdFlag)
        ∧ (s.pwr.pwrGood = true → ∀ high, exec (.pwrGoodFall high) s = .next { s with pwr := { s.pwr with pwrGood := false, lost := s.pwr.lost || high } })
        ∧ (s.pwr.pwrGood = false → (s.pwr.lost = true → ∃ t, exec .pwrGoodRise s = .next t ∧ AfterReset s t ∧ t.pwr.pwrGood = true)
            ∧ (s.pwr.lost = false → exec .pwrGoodRise s = .next { s with pwr := { s.pwr with pwrGood := true } }))
        ∧ exec .coreUndervoltage s = .next { s with pwr := { s.pwr with lost := true } })
    ∧ exec .trstN s = .next { s with dbg := { s.dbg with tapIr := 1, tapScan := 0 } }
    ∧ (asleep s pcieDom = false → ∃ t, exec .pciePerstN s = .next t
        ∧ t.pcie = { s.pcie with up := false, speed := 0, width := 0, ide := false, reads := [], table := msixReset, pba := 0, d3hot := false, aer := 0 }
        ∧ (s.pcie.up = true → reported t 0x44 0xF [0, 0, 0]) ∧ t.hbm = s.hbm ∧ t.boot.stage = s.boot.stage ∧ t.pwr = s.pwr)
    ∧ (asleep s mgmtDom = false → exec (.linkDown .bridge) s = .next { s with pkg := { s.pkg with bridge := false } }
        ∧ (∀ c : CellarIx, (∃ t, exec (.linkDown (.cellar c)) s = .next t ∧ t.pkg.cellarLink[c] = false ∧ (t.cellars[c]).pieces = [])
          ∧ ((s.cellars[c]).pieces = [] → exec (.linkDown (.cellar c)) s
              = .next { s with pkg := { s.pkg with cellarLink := s.pkg.cellarLink.set c.val false c.isLt } }))
        ∧ ∀ d : DieIx, ∃ t, exec (.ucieTrainerror d) s = .next t ∧ t.pkg.ucieTries[d] = s.pkg.ucieTries[d] + 1
            ∧ t.pkg.ucie[d] = (if s.pkg.ucieTries[d] < 3 then s.pkg.ucie[d] else false) ∧ t = { s with pkg := t.pkg })
    ∧ (∀ (speed : Fin 6) (width : Nat), asleep s pcieDom = false → s.boot.stage = 8 → width ∈ [1, 2, 4, 8, 16] →
        ∃ t, exec (.pcieLinkUp speed width) s = .next t ∧ t.pcie = { s.pcie with up := true, speed := speed.val + 1, width := width }
          ∧ reported t 0x44 0xF [speed.val + 1, width, b2n s.pcie.ide] ∧ t.cores = s.cores)

/-- Comparisons, votes and self-test (R332, R335 to R338, R343; tables SE-2, SE-3). Units that agree leave the step alone and the item settles; a
difference goes to the voter, or without one fails the step; two compare copies that disagree fail it. A vote against the checker lets the step go on,
one against the original or three different results fail it as class H with the cause of table SE-2; the unit that lost is blamed once.
SELFTEST_RECORD (R343) on an update unit: a pass counts the run; a failure also blames the unit once, raises the HITS of the record in its slot and
fences the unit. -/
def Obligations.ComparisonsVotesAndSelfTest : Prop :=
  (∀ (s : State) (ix : Nat) (i : SedItem) (same : Bool), s.sed.items[ix]? = some i → itemAsleep s i = false →
    let p := i.part
    let stops := fun (t : State) (cause : Nat) => (s.parts[p]).step = .run →
      (t.parts[p]).step = .stopped ∧ (t.parts[p]).failCause = cause ∧ (t.parts[p]).failClassP = (s.parts[p]).failClassP
    let blamed := fun (t : State) (u : Nat) => (unitOf s u).st ≠ .fenced → (i.part, i.step, i.attempt) ∉ (unitOf s u).seen →
      (unitOf t u).blames = (unitOf s u).blames + 1
    (i.differ = none →
      (realDiff s i = none → ∃ t, exec (.compare ix ⟨none, false⟩ same) s = .next t ∧ t.sed.items = s.sed.items.eraseIdx ix ∧ t.parts = s.parts
        ∧ (t.sed.counts[p]).compared = satAdd (s.sed.counts[p]).compared 1 0xFFFFFF
        ∧ ∀ u, (unitOf s u).st ≠ .suspect → unitOf t u = unitOf s u)
      ∧ (∀ d x v, i.trios[d]? = some x → x.vote = some v → ∃ t, exec (.compare ix ⟨some d, false⟩ same) s = .next t ∧ t = { s with sed := t.sed }
          ∧ t.sed.items = s.sed.items.set ix { i with differ := some d } ∧ (t.sed.counts[p]).disagreed = satAdd (s.sed.counts[p]).disagreed 1 0xFFFF)
      ∧ (∀ d x, i.trios[d]? = some x → x.vote = none → ∃ t, exec (.compare ix ⟨some d, false⟩ same) s = .next t ∧ t.sed.novote = true
          ∧ t.sed.items = s.sed.items.eraseIdx ix ∧ blamed t x.orig ∧ blamed t x.check ∧ stops t 0x62)
      ∧ (∀ d, ∃ t, exec (.compare ix ⟨d, true⟩ same) s = .next t ∧ t.sed.comparator = true ∧ t.sed.items = s.sed.items.eraseIdx ix
          ∧ t.sed.units = s.sed.units ∧ stops t 0x63))
    ∧ (∀ (k : Nat) (x : Trio) (at0 : Option DiffAt), i.differ = some k → i.trios[k]? = some x →
        (∃ t, exec (.vote ix ⟨0, same⟩ at0) s = .next t ∧ t.parts = s.parts ∧ t.sed.items = s.sed.items.eraseIdx ix ∧ t.sed.blameErr = true
          ∧ blamed t x.check)
        ∧ (∃ t, exec (.vote ix ⟨1, same⟩ at0) s = .next t ∧ t.sed.items = s.sed.items.eraseIdx ix ∧ t.sed.blameErr = true ∧ blamed t x.orig ∧ stops t 0x60)
        ∧ (∃ t, exec (.vote ix ⟨2, same⟩ at0) s = .next t ∧ t.sed.items = s.sed.items.eraseIdx ix ∧ t.sed.split = true ∧ stops t 0x61
          ∧ ∀ u, u = x.orig ∨ u = x.check ∨ some u = x.vote → (unitOf s u).st = .inService → (unitOf t u).st = .suspect ∧ (unitOf t u).blames = (unitOf s u).blames)))
  ∧ (∀ (s : State) (c : CellarIx) (record : Nat) (r : PanRec), let u := updUnit c.val
    asleep s (cellarDom c) = false → asleep s mgmtDom = false → pantryRec s record = some r → (unitsFor s r.kind).contains u = true →
      let done := fun (failed : Nat) => s.sed.test.map (fun t => { t with todo := t.todo.erase (u, record), run := t.run + 1, failed := t.failed + failed })
      let raised := pantryBytes { r with hits := satAdd r.hits 1 0xFFFF }
      (replayFails r = false →
        ∃ t, exec (.selftestRecord u record false) s = .next t ∧ t = { s with sed := { s.sed with test := done 0 }, cnt := t.cnt })
      ∧ ∀ fault, (fault || replayFails r) = true →
        ∃ t, exec (.selftestRecord u record fault) s = .next t ∧ t.sed.test = done 1 ∧ (unitOf t u).blames = (unitOf s u).blames + 1
          ∧ ((unitOf t u).st = .fenceOrdered ∨ (unitOf t u).st = .fenced)
          ∧ tgetMany 0 (t.cellars[cellarOf s record]).sram (pantryOff s record) raised.length = raised)

/-- Clock levels, stretch, boost and the electrical limiter (R475 to R482; table PW-2): a slower clock switches at once, a faster one waits for
its set point; droop stretches a region and a hold releases it; a rule of the limiter steps the package target down and ends boost. -/
def Obligations.ClockLevelsAndLimiter : Prop :=
  ∀ s : State,
    (timersHeld s = false →
        (s.pwr.boost = true → ∃ t, exec .boostLimit s = .next t ∧ t.pwr = { s.pwr with boost := false, cooldown := true } ∧ t.cores = s.cores
          ∧ t.cnt.boostSince = none)
        ∧ exec .cooldownEnd s = .next { s with pwr := { s.pwr with cooldown := false } })
    ∧ (unclocked s mgmtDom = false → s.pwr.lost = false → s.pwr.tripped = false → ∃ t, exec .controlTick s = .next t
        ∧ t.pwr.cfg = s.pwr.held.getD s.pwr.cfg ∧ t.pwr.held = none
        ∧ ∀ d : DieIx, let x := s.pwr.dies[d]; let y := t.pwr.dies[d]
            y.target = max (pkgLevel t) (if x.throttle ≤ 1 then 0 else x.throttle) ∧ (y.target = x.target → y = x)
            ∧ (y.target ≠ x.target → s.pwr.pstate < 2 → y.setPoint = levelMv y.target ∧ y.waiting = true
                ∧ (x.level ≤ y.target → y.level = y.target) ∧ (y.target < x.level → y.level = x.level)))
    ∧ (∀ (d : DieIx) (mv : Nat), let x := s.pwr.dies[d]
        (x.waiting = true → mv ≤ x.setPoint + 5 → x.setPoint ≤ mv + 5 → exec (.vrSetPointReached d mv) s
          = .next { s with pwr := { s.pwr with dies := s.pwr.dies.set d.val { x with level := x.target, waiting := false } d.isLt } })
        ∧ (x.waiting = true → exec (.vrTimeout d) s
          = .next { s with pwr := { s.pwr with dies := s.pwr.dies.set d.val { x with waiting := false } d.isLt, vrTimeout := true } }))
    ∧ (∀ (r : Fin 8) (mv : Nat), let set := levelMv (s.pwr.dies[dieOfRegion r]).level
        let put := fun (q : Res) (x : Stretch) => ∃ t, q = .next t ∧ t.pwr = { s.pwr with stretch := s.pwr.stretch.set r.val x r.isLt } ∧ t.cores = s.cores
        (mv + 60 < set → put (exec (.droop r mv) s) .deep)
        ∧ (mv + 30 < set → set ≤ mv + 60 → s.pwr.stretch[r] = .none → put (exec (.droop r mv) s) .shallow)
        ∧ (set ≤ mv + 30 → exec (.droop r mv) s = .next s)
        ∧ put (exec (.stretchHoldNs r true) s) .none ∧ (s.pwr.stretch[r] = .deep → put (exec (.stretchHoldNs r false) s) .shallow))
    ∧ (∀ watts amps0 amps1 : Nat, unclocked s mgmtDom = false → ∃ t, exec (.limiterSample watts amps0 amps1) s = .next t
        ∧ t.pwr.samples = (watts :: s.pwr.samples).take 1000000 ∧ t.pwr.peak = max s.pwr.peak (min watts 0xFFFF)
        ∧ (1100 < amps0 → (s.pwr.dies[(0 : DieIx)]).e0 = false → (t.pwr.dies[(0 : DieIx)]).e0 = true ∧ t.pwr.current = true)
        ∧ (3400 < watts → s.pwr.lim.e1 = false → t.pwr.lim.e1 = true ∧ t.pwr.electrical = true ∧ (s.pwr.limitCount < 0xFFFF → s.pwr.limitCount < t.pwr.limitCount)
            ∧ (pkgLevel s < 8 → t.pwr.boost = false ∧ pkgLevel s < pkgLevel t))
        ∧ (watts ≤ 2900 → t.pwr.lim.e2Run = 0))
    ∧ (released s = true → anyB3 s = false → avgWithin s 20000 50 (capNow s) = true →
        exec .limiterRaise s = .next { s with pwr := { s.pwr with lim := { s.pwr.lim with level := max 1 (s.pwr.lim.level - 1) } } })

/-- Heat, wear and power states (R460, R484 to R490; tables PW-4 to PW-6): readings throttle and trip; a throttle step moves one level; wear
counts seconds and hours; a change of power state takes effect and completes its command, and the exit from P3 first wipes every stack and waits for
it; a halt wave stops a domain. -/
def Obligations.HeatWearAndPowerStates : Prop :=
  ∀ s : State, asleep s mgmtDom = false →
    (∀ (a b : Vector Byte 32) (c d e : Vector Byte 4) (m : Vector Byte 2), ∃ t, exec (.junctionReading a b c d e m) s = .next t
      ∧ (∀ i, (h : i < 32) → a[i].toNat ≤ t.pwr.tempDie[(0 : DieIx)]) ∧ (∃ i, ∃ h : i < 32, a[i].toNat = t.pwr.tempDie[(0 : DieIx)])
      ∧ t.pwr.tempMpd = max m[0].toNat m[1].toNat
      ∧ (s.pwr.cfg.tjThrottle ≤ t.pwr.tempDie[(0 : DieIx)] → (t.pwr.dies[(0 : DieIx)]).hot = true)
      ∧ (t.pwr.tempDie[(0 : DieIx)] + 3 < s.pwr.cfg.tjThrottle → (t.pwr.dies[(0 : DieIx)]).hot = false)
      ∧ ((∀ x ∈ a.toList ++ b.toList ++ c.toList ++ d.toList ++ e.toList ++ m.toList, x.toNat < 125) → t.pwr.tripped = s.pwr.tripped)
      ∧ ((∃ x ∈ a.toList ++ b.toList ++ c.toList ++ d.toList ++ m.toList, 125 ≤ x.toNat) → s.pwr.tripped = false →
          t.pwr.tripped = true ∧ t.pwr.wear.trips = satAdd s.pwr.wear.trips 1 0xFFFFFFFF ∧ 5 ∈ t.boot.wants))
    ∧ (∀ d : DieIx, let x := s.pwr.dies[d]
        (x.hot = true → ∃ t, exec (.throttleStep (some d)) s = .next t ∧ (t.pwr.dies[d]).throttle = min 8 (x.throttle + 1) ∧ t.pwr.thermal = true
          ∧ reported t 0x73 0xF [d.val, s.pwr.tempDie[d], min 8 (x.throttle + 1)])
        ∧ (x.hot = false → s.pwr.tempDie[d] + 3 < s.pwr.cfg.tjThrottle → exec (.throttleStep (some d)) s
          = .next { s with pwr := { s.pwr with dies := s.pwr.dies.set d.val { x with throttle := max 1 (x.throttle - 1) } d.isLt } }))
    ∧ (anyB3 s = true → ∃ t, exec (.throttleStep none) s = .next t ∧ t.pwr.lim.level = min 8 (pkgLevel s + 1) ∧ t.pwr.boost = false ∧ t.pwr.stackB3 = true)
    ∧ (timersHeld s = false → ∃ t, exec .wearSecond s = .next t ∧ t = { s with pwr := { s.pwr with wear := t.pwr.wear } } ∧ t.pwr.wear.second = (s.pwr.wear.second + 1) % 3600
        ∧ t.pwr.wear.hours = (if s.pwr.wear.second + 1 = 3600 then satAdd s.pwr.wear.hours 1 0xFFFFFFFF else s.pwr.wear.hours)
        ∧ t.pwr.wear.boostS = s.pwr.wear.boostS + b2n s.pwr.boost)
    ∧ (timersHeld s = false → exec .wearWrite s = .next { s with boot := { s.boot with wants := addOnce 5 s.boot.wants } })
    ∧ (∀ n, s.pwr.want = some n → s.dbg.halted = false → s.dbg.halting = false →
        (s.pwr.pstate ≠ 3 ∨ n = 3 ∨ s.pwr.waking = true → s.pwr.waking = false ∨ wiping s = false →
          ∃ t, exec .pstateChange s = .next t ∧ t.pwr.pstate = n ∧ t.pwr.want = none
          ∧ (∀ c, s.mbox.run = some c → c.code = 0xC0 → t.mbox.outcome = some ⟨0, [n]⟩)
          ∧ (s.pwr.pstate = 0 → n = 2 → ∀ d ∈ idleDoms s, asleep t d = true))
        ∧ (s.pwr.pstate = 3 → n ≠ 3 → s.pwr.waking = false → ∃ t, exec .pstateChange s = .next t ∧ t.pwr.pstate = 3 ∧ t.pwr.want = some n
          ∧ t.pwr.waking = true ∧ (∀ c : CellarIx, (t.cellars[c]).wipeBusy = true) ∧ t.hbm = [] ∧ t.tags = [] ∧ t.keyEpochs = s.keyEpochs.map (· + 1))
        ∧ (s.pwr.pstate = 3 → n ≠ 3 → s.pwr.waking = true → wiping s = true → exec .pstateChange s = .next s))
    ∧ (∀ dom, s.dbg.halting = true → dom ∈ waveDoms s → ∃ t, exec (.domainStop dom) s = .next t ∧ asleep t dom = true
        ∧ ((∀ d ∈ waveDoms s, d = dom ∨ asleep s d = true) → t.dbg.halted = true ∧ t.dbg.halting = false ∧ reported t 0x61 0xF [s.dbg.haltCause]))
    ∧ (∀ c, RunsCmd s 0xC0 c → s.mbox.begun = false → let n := argOf c 0
        (3 < n → Ends (exec .pwrSetState s) s 5 []) ∧ (n = s.pwr.pstate → n ≤ 3 → Ends (exec .pwrSetState s) s 0 [n])
        ∧ (n ≤ 3 → n ≠ s.pwr.pstate → (mayEnter s n = false → Ends (exec .pwrSetState s) s 0x7002 [])
            ∧ (mayEnter s n = true → GoesOn (exec .pwrSetState s) { s with pwr := { s.pwr with want := some n } })))
    ∧ ∀ c, RunsCmd s 0xC1 c → Ends (exec .pwrQuery s) s 0 [pwrStatus s, pwrPower s, pwrTemp s, pwrErr s.pwr]

/-- Link frames (R361, R364, R365; table FB-22): ACK empties the replay buffer up to the frame named, and one of a frame from the own REKEY's on
acknowledges that; NACK resends from the frame named, and retrains the port after 8 failed retries of one frame; a frame that fails here is counted
and answered with NACK; IDLE counts corrected symbols and leaves on a port with nothing to send; VLCREDIT adds space, and a frame that waited
leaves; the generation of the peer's REKEY is accepted from the frame it names. -/
def Obligations.LinkFramesAct : Prop :=
  ∀ (s : State) (f : PortIx), let x := s.fab.ports[f]
    asleep s (portDom f) = false → portActive x = true →
    let put := fun (y : Port) => { s with fab := { s.fab with ports := s.fab.ports.set f.val y f.isLt } }
    let at' := fun (q : Nat) => (x.replay.map (·.1)).idxOf q
    (∀ q, (∃ e ∈ x.replay, e.1 = q) → let rest := x.replay.drop (at' q + 1)
      (x.waiting = [] → (x.rekey = none → exec (.ack f q) s = .next (put { x with replay := rest, nackOf := none, retries := 0 }))
        ∧ ∀ r, x.rekey = some r → x.txSeq ≠ r.fromSeq →
          ((∀ e ∈ rest, e.1 ≠ r.fromSeq) → exec (.ack f q) s = .next (put { x with replay := rest, nackOf := none, retries := 0, rxGen := r.gen, rekey := none }))
          ∧ ((∃ e ∈ rest, e.1 = r.fromSeq) → exec (.ack f q) s = .next (put { x with replay := rest, nackOf := none, retries := 0 })))
      ∧ (x.nackOf ≠ some q → exec (.nack f q none) s
          = .next { (put { x with nackOf := some q, retries := 1 }) with egress := s.egress ++ (x.replay.drop (at' q)).map (fun e => Out.frame f e.1 e.2) })
      ∧ (x.nackOf = some q → x.retries = 8 → exec (.nack f q none) s = .next (put { x with st := .retrain, nackOf := none, retries := 0 })))
    ∧ (∀ q, (∀ e ∈ x.replay, e.1 ≠ q) → (x.waiting = [] → exec (.ack f q) s = .next s) ∧ exec (.nack f q none) s = .next s)
    ∧ (∀ q, exec (.nack f q (some true)) s = .next
        { (put { x with nacks := satAdd x.nacks 1 0xFFFF, uncorr := satAdd x.uncorr 1 0xFFFF }) with egress := s.egress ++ [.link f 2 x.rxSeq []] }
      ∧ exec (.nack f q (some false)) s = .next { (put { x with nacks := satAdd x.nacks 1 0xFFFF }) with egress := s.egress ++ [.link f 2 x.rxSeq []] })
    ∧ (∀ n, ∃ t, exec (.idle f n) s = .next t ∧ t.fab = (put { x with corrected := satAdd x.corrected n 0xFFFFFFFF }).fab ∧ t.egress = s.egress)
    ∧ (timersHeld s = false → x.waiting = [] → exec (.idleUs f) s = .next { s with egress := s.egress ++ [.link f 3 x.txSeq []] })
    ∧ (∀ vl hop space : Nat, let grants := tset 0 x.grants (8 * vl + hop) (tget 0 x.grants (8 * vl + hop) + space)
        (x.waiting = [] → exec (.vlcredit f vl hop space) s = .next (put { x with grants := grants }))
        ∧ (∀ fr : Frame, x.waiting = [⟨fr, none⟩] → fr.vl = vl → fr.hops = hop → vl ≤ 2 → frameLen fr ≤ tget 0 x.grants (8 * vl + hop) + space →
            replayRoom x fr = true →
            ∃ t, exec (.vlcredit f vl hop space) s = .next t ∧ (t.fab.ports[f]).waiting = [] ∧ (t.fab.ports[f]).replay = x.replay ++ [(x.txSeq, fr)]))
    ∧ (∀ gen q, ∃ t, exec (.rekey f gen q) s = .next t ∧ t = put { x with rxRekey := some ⟨gen, q⟩ }
        ∧ (x.rekey = none → gen ≠ x.rxGen → (genOk t.fab.ports[f] gen = true ↔ q ≤ x.rxSeq)))

/-- Forwarding and retransmission (R363, R365, R368, R374, R376): a frame for another node leaves on a port of its entry with HOPS raised,
or is discarded and counted for its hop limit, its missing route, or the twin port it came in on; RETRY marks the stored frame whose words it carries, RETRY_US
sends it again, DACK takes it off the store; an unknown type counts as NO_TARGET. -/
def Obligations.FramesForwardAndRetransmit : Prop :=
  (∀ (s : State) (port : PortIx) (gen : Nat) (f : Frame), let d := portDieOf port
    asleep s (portDom port) = false → portActive s.fab.ports[port] = true → f.dest ≠ s.fab.node → genOk s.fab.ports[port] gen = true → f.vl ≤ 2 →
    ∃ t, exec (.frameForward ⟨port, gen⟩ f) s = .next t ∧ t.parts = s.parts ∧ t.cores = s.cores
      ∧ (isTwinPort s port = true → (t.fab.dies[d]).noTarget = satAdd (s.fab.dies[d]).noTarget 1 0xFFFF)
      ∧ (isTwinPort s port = false → 4 ≤ f.hops → (t.fab.dies[d]).hopLimit = true ∧ (t.fab.dies[d]).hopCount = satAdd (s.fab.dies[d]).hopCount 1 0xFFFF)
      ∧ (isTwinPort s port = false → f.hops < 4 → entryPorts s f.dest portActive = [] → entryPorts s f.dest training = [] →
          (t.fab.dies[d]).noRoute = satAdd (s.fab.dies[d]).noRoute 1 0xFFFF)
      ∧ (∀ o, isTwinPort s port = false → f.hops < 4 → routePort s f = some o → (s.fab.ports[o]).waiting = [] →
          granted s.fab.ports[o] { f with hops := f.hops + 1 } = false → (t.fab.ports[o]).waiting = [⟨{ f with hops := f.hops + 1 }, some (port, grantKey f)⟩]))
  ∧ (∀ (s u : State) (h : Arrival) (d : PortDieIx) (seq : Nat), let x := u.fab.dies[d]
      let put := fun (y : PortDie) => { u with fab := { u.fab with dies := u.fab.dies.set d.val y d.isLt } }
      (∀ ab w01 : Word × Word, wfield w01.2 63 62 = d.val → wfield w01.2 61 32 = seq → arrive s h (.retry ab w01) false = .ok u → exec (.retry h ab w01) s
        = .next (put { x with store := x.store.map (fun y => if y.seq = seq then { y with again := true } else y) }))
      ∧ (∀ y, arrive s h (.dack [(d.val, seq)]) false = .ok u → x.store.find? (fun y => y.seq == seq) = some y →
          (∀ off obj bs, y.frame.body ≠ .storePut off obj bs) →
          exec (.dack h [(d.val, seq)]) s = .next (put { x with store := x.store.filter (fun z => z.seq != seq) }))
      ∧ (∀ (f : PortIx) (type : Nat), h.port = some f → d = portDieOf f → arrive s h (.other type) false = .ok u →
          exec (.unknownType h type) s = .next (put { x with noTarget := satAdd x.noTarget 1 0xFFFF })))
  ∧ ∀ (s : State) (d : PortDieIx) (seq : Nat) (y : Stored), timersHeld s = false →
      (s.fab.dies[d]).store.find? (fun y => y.seq == seq && y.again) = some y →
      ∃ t, exec (.retryUs d seq) s = .next t ∧ (t.fab.dies[d]).store = (s.fab.dies[d]).store.map (fun z => if z.seq = seq then { z with again := false } else z)
        ∧ (∀ o, routePort s y.frame = some o → (s.fab.ports[o]).waiting = [] → granted s.fab.ports[o] y.frame = false → (t.fab.ports[o]).waiting = [⟨y.frame, none⟩])
        ∧ (entryPorts s y.frame.dest portActive = [] → entryPorts s y.frame.dest training = [] →
            (t.fab.dies[d]).noRoute = satAdd (s.fab.dies[d]).noRoute 1 0xFFFF)

/-- Port training and the commands of links (R359, R360, R367, R368, R376, R381, R389; tables FB-1, FB-14, FB-15). -/
def Obligations.PortsTrainAndLinkCommands : Prop :=
  (∀ (s : State) (f : PortIx), let x := s.fab.ports[f]
    let put := fun (y : Port) => (Host.Outcome.next { s with fab := { s.fab with ports := s.fab.ports.set f.val y f.isLt } } : Res)
    let down := fun (again : Bool) => put { x with st := .down, locked := false, redetect := again, nackOf := none, retries := 0, grants := [] }
    asleep s (portDom f) = false →
      (x.st = .detect → ∀ lanes : BitVec 8, (7 ≤ laneCount (lanes &&& x.lanes) → exec (.detect f lanes) s = put { x with st := .equalize })
        ∧ (laneCount (lanes &&& x.lanes) < 7 → exec (.detect f lanes) s = down true))
      ∧ (timersHeld s = false → x.st = .down → x.redetect = true → x.locked = false → exec (.detectRetry f) s = put { x with st := .detect, redetect := false })
      ∧ (x.st = .equalize → ∀ lanes : BitVec 8, let n := laneCount (lanes &&& x.lanes)
        (n < 7 → ¬ (laneCount x.lanes = 7 ∧ n = 6) → exec (.equalize f lanes) s = down false)
        ∧ (laneCount x.lanes = 7 → n = 6 → ∃ t, exec (.equalize f lanes) s = .next t ∧ (t.fab.ports[f]).st = .down ∧ (t.fab.ports[f]).locked = true
            ∧ (t.fab.dies[portDieOf f]).portDown = true ∧ reported t 0x40 0xF [f.val, 2])
        ∧ (lanes &&& x.lanes = x.lanes → 7 ≤ laneCount x.lanes → exec (.equalize f lanes) s = put { x with st := .align })
        ∧ (x.lanes = 0xFF → n = 7 → ∃ t, exec (.equalize f lanes) s = .next t ∧ (t.fab.ports[f]).st = .align ∧ (t.fab.ports[f]).lanes = lanes
            ∧ (t.fab.dies[portDieOf f]).laneFenced = true))
      ∧ (x.st = .align → ∃ t ask, exec (.align f) s = .next t ∧ t.fab.ports[f] = { x with st := .auth, nonce := (t.fab.ports[f]).nonce }
          ∧ (t.fab.ports[f]).nonce = some ask ∧ t.egress = s.egress ++ [.link f 6 0 (ask.toList.map BitVec.toNat)])
      ∧ (x.st = .auth → ∀ (node : Nat) (serial : Word) (peer : PeerReport) (ask : Vector Word 4), x.nonce = some ask →
          (lcOf s = 2 → peer.sigs = true → (peer.store = none → peer.lc = 2 ∧ peer.owner = ownerDigest s ∧ peer.nonce = ask) →
            (∀ ca, peer.store = some ca → ∃ b, s.boot.owner = some b ∧ ca ∈ storeCas b) →
            node ≠ 0xFFFF → x.waiting = [] → x.replay = [] → ∃ t report, exec (.auth f peer node serial) s = .next t
            ∧ t = { s with fab := t.fab, egress := t.egress, freeIx := t.freeIx }
            ∧ t.fab.ports[f] = { x with st := .active, peerNode := node, peerSerial := serial, nonce := none, keyGen := x.keyGen + 1, rxGen := x.keyGen + 1, rekey := none, rxRekey := none }
            ∧ reportFields s peer.asks 0xF <+: report
            ∧ t.egress = s.egress ++ [Out.link f 7 0 (report.map BitVec.toNat)] ++ ((List.range 24).filter (fun k => decide (k % 8 ≤ 4))).map (fun k =>
                Out.link f 4 x.rxSeq [k / 8, k % 8, Config.ingressSpace k - tget 0 x.held k]))
          ∧ (lcOf s ≠ 2 ∨ peer.sigs = false ∨ node = 0xFFFF ∨ (peer.store = none ∧ (peer.lc ≠ 2 ∨ peer.owner ≠ ownerDigest s ∨ peer.nonce ≠ ask)) →
            ∃ t, exec (.auth f peer node serial) s = .next t ∧ (t.fab.ports[f]).st = .down ∧ (t.fab.dies[portDieOf f]).authFail = true
              ∧ reported t 0x42 0xF [f.val, serial.toNat]))
      ∧ (timersHeld s = false → (x.st = .detect → exec (.portTrainingTimeout f) s = down true) ∧ (x.st = .align → exec (.portTrainingTimeout f) s = down false)
          ∧ (x.st = .active → exec (.portTrainingTimeout f) s = .next s))
      ∧ (∀ (lane : Fin 8) (n : Nat), f.val < portCount s → x.st = .active → x.lanes.getLsbD lane.val = true → let limit := (s.fab.dies[portDieOf f]).uncorrLimit
          (n ≤ limit → exec (.laneFence f ⟨lane, n⟩) s = .next s) ∧ (limit < n →
          (x.lanes = 0xFF → ∃ t, exec (.laneFence f ⟨lane, n⟩) s = .next t ∧ (t.fab.ports[f]).st = .retrain
            ∧ (t.fab.ports[f]).lanes = x.lanes &&& ~~~ (BitVec.twoPow 8 lane.val) ∧ (t.fab.dies[portDieOf f]).laneFenced = true
            ∧ (unitOf t (laneUnit (8 * f.val + lane.val))).st = .fenced ∧ reported t 0x41 0xF [8 * f.val + lane.val, 7])
          ∧ (x.lanes ≠ 0xFF → ∃ t, exec (.laneFence f ⟨lane, n⟩) s = .next t ∧ (t.fab.ports[f]).st = .down ∧ (t.fab.ports[f]).locked = true
            ∧ (t.fab.ports[f]).lanes = x.lanes ∧ (t.fab.dies[portDieOf f]).portDown = true ∧ reported t 0x40 0xF [f.val, 5]))))
  ∧ (∀ (s : State) (p : PartIx) (r : HostRead) (bytes : List Byte) (d : DieIx) (x : SCtx), asleep s pcieDom = false → s.pcie.up = true →
      s.pcie.reads = [r] → r.part = p → r.len = bytes.length → r.die = d.val → streamAt s d r.phys = some x → ∃ t, exec (.hostReadData p r.off bytes) s = .next t
        ∧ (r.pos = none → t.pcie.reads = [] ∧ streamAt t d r.phys = some { x with flushed := x.flush })
        ∧ (∀ pos, r.pos = some pos → ∃ y, streamAt t d r.phys = some y ∧ y.inbuf = ((List.range bytes.length).zip bytes).foldl (fun t e => tput t (pos + e.1) e.2) x.inbuf))
  ∧ (∀ (s : State) (c : Cmd),
      (RunsCmd s 0xE0 c → let n := argOf c 0 % 65536
        (0xFFFE ≤ n → Ends (exec .fabSetNode s) s 0x8001 []) ∧ (n < 0xFFFE → (∃ p : PartIx, active s p = true) → Ends (exec .fabSetNode s) s 0x8006 [])
        ∧ (n < 0xFFFE → (∀ p : PartIx, active s p = false) → Ends (exec .fabSetNode s) { s with fab := { s.fab with node := n, ports := s.fab.ports.map retrainPort } } 0 []))
      ∧ (RunsCmd s 0xE1 c → argOf c 1 = 1 → argOf c 0 < 0x10000 → inXfer (argOf c 2) 4 = true →
          ∃ t, Ends (exec .fabRouteSet s) t 0 [] ∧ t = { s with fab := { s.fab with routes := t.fab.routes } }
            ∧ ∀ k, tget 0 t.fab.routes k = (if k = argOf c 0 then routeEntry (leNat (sramRead s (argOf c 2) 4)) else tget 0 s.fab.routes k))
      ∧ (∀ p, RunsCmd s 0xE2 c → partOfCmd s c = some p → argOf c 1 = 1 → argOf c 0 < 0x10000 → inXfer (argOf c 2) 4 = true →
          ∃ t, Ends (exec .fabRankmapSet s) t 0 [] ∧ t = { s with fab := { s.fab with ranks := t.fab.ranks } }
            ∧ ∀ k, tget 0 t.fab.ranks[p] k = (if k = argOf c 0 then leNat (sramRead s (argOf c 2) 4) % 2 ^ 19 else tget 0 s.fab.ranks[p] k))
      ∧ (∀ f : PortIx, argOf c 0 = f.val → let x := s.fab.ports[f]
          (RunsCmd s 0xE4 c → f.val < portCount s → Ends (exec .fabQueryPort s) s 0 [portCode x.st, x.lanes.toNat, x.peerNode, x.peerSerial.toNat, x.keyGen])
          ∧ (RunsCmd s 0xE4 c → portCount s ≤ f.val → Ends (exec .fabQueryPort s) s 0x8003 [])
          ∧ (RunsCmd s 0xE3 c → f.val < portCount s → isTwinPort s f = true → argOf c 1 ≤ 2 → Ends (exec .fabPort s) s 0x8004 [])
          ∧ (RunsCmd s 0xE3 c → f.val < portCount s → isTwinPort s f = false → argOf c 1 = 0 → Ends (exec .fabPort s)
              { s with fab := { s.fab with ports := s.fab.ports.set f.val { x with st := .down, redetect := false, nackOf := none, retries := 0, grants := [] } f.isLt } } 0 [0]))
      ∧ (∀ p, RunsCmd s 0xE5 c → partOfCmd s c = some p →
          let w : HostWin := if active s p then { s.pcie.wins[p] with held := some (c.args[0], c.args[1]) } else ⟨c.args[0], c.args[1], none⟩
          (argOf c 0 % 4096 ≠ 0 → Ends (exec .hostwinSet s) s 0x8005 [])
          ∧ (argOf c 0 % 4096 = 0 → argOf c 1 % 4096 = 0 → Ends (exec .hostwinSet s)
              { s with pcie := { s.pcie with wins := s.pcie.wins.set p.val w p.isLt } } 0 [])))

/-- Frames of a step on arrival (R45, R270, R271, R273, R274, R351, R370, R371, R373, R405; table FB-6): data go to the landing ring, credits raise
limits or wait, contributions are summed or parked, one beyond its target is counted, tokens reach the sluices, digests are compared or held; a frame of a later time is
answered with RETRY and changes no memory, a stale one is counted, one without a target is counted. -/
def Obligations.StepFramesAreJudged : Prop :=
  ∀ (s u : State) (h : Arrival), let p := h.dpart; let q := u.parts[p]
    let quiet := fun (t : State) => t.hall = u.hall ∧ t.hbm = u.hbm ∧ t.parts = u.parts ∧ t.cellars = u.cellars ∧ t.sluices = u.sluices
    (∀ (chan pos att st : Nat) (bytes : List Byte), arrive s h (.put chan pos att st bytes) false = .ok u →
      (taking u p = false → ∃ t, exec (.put h chan pos att st bytes) s = .next t ∧ quiet t ∧ ∀ f, h.port = some f →
          (t.fab.dies[portDieOf f]).noTarget = satAdd (u.fab.dies[portDieOf f]).noTarget 1 0xFFFF)
      ∧ (taking u p = true → tagOfFrame u p att st = .stale ∨ tagOfFrame u p att st = .later ∨ tagOfFrame u p att st = .next ∨ tagOfFrame u p att st = .waiting →
          ∃ t, exec (.put h chan pos att st bytes) s = .next t ∧ quiet t)
      ∧ (∀ c, taking u p = true → tagOfFrame u p att st = .now → channelOf u p chan = some c → c.kind = 0 →
          (∀ d ∈ ringDies u p c.channel, asleep u (sluiceDom d) = false) → ∃ t, exec (.put h chan pos att st bytes) s = .next t ∧ t.hbm = u.hbm ∧ t.cellars = u.cellars
            ∧ ∀ (d : DieIx) (j : Nat), d ∈ ringDies u p c.channel → j < bytes.length → bytes.length ≤ 4096 * c.ringPages →
                tget 0 t.hall[d] ((hallView u p d).1 + c.ring + (pos + j) % (4096 * c.ringPages)) = bytes.getD j 0))
    ∧ (∀ chan limit att st : Nat, arrive s h (.credit chan limit att st) false = .ok u → taking u p = true →
        (tagOfFrame u p att st = .now ∨ tagOfFrame u p att st = .waiting → ∃ t, exec (.credit h chan limit att st) s = .next t ∧ t = { u with parts := t.parts }
          ∧ ∀ im, q.image = some im → ∀ (k : Nat) e c, q.sends[k]? = some e → im.channels.find? (fun c => c.channel == e.channel) = some c →
              ∃ e', (t.parts[p]).sends[k]? = some e' ∧ e'.channel = e.channel ∧ ∀ (j : Nat) dest old, c.dests[j]? = some dest → e.limits[j]? = some old →
                e'.limits[j]? = some (if rankNode u p dest.1 = (h.src, h.spart) ∧ dest.2 = chan then max old limit else old))
        ∧ (tagOfFrame u p att st = .next ∨ tagOfFrame u p att st = .later → exec (.credit h chan limit att st) s
            = .next { u with parts := u.parts.set p.val { q with credHeld := q.credHeld ++ [⟨h.src, h.spart, chan, limit, att, st⟩] } p.isLt }))
    ∧ (∀ (red fmt : Nat) (e : Int) (rank g att st : Nat) (raws : List Nat) (r : ReductionE) (t0 : TensorE) (c : CellarIx),
        arrive s h (.contrib red fmt e rank g att st raws) false = .ok u → taking u p = true → reductionOf u p red = some r → r.ranks.contains rank = true →
        tensorOf u p r.target = some t0 → deputyOf u (granuleStack u p t0 g) = some c →
        let i := r.ranks.idxOf rank; let x := (u.cellars[c]).upd; let vals := contribVals fmt e raws
        let run := exec (.contrib h red fmt e rank g att st ⟨raws, ⟨none, false⟩⟩) s
        (tagOfFrame u p att st = .next → x.reserve < freeSlots x →
          ∃ t, run = .next t ∧ ((t.cellars[c]).upd).parked = x.parked ++ [⟨p, red, g, rank, q.stepNo + 1, vals⟩] ∧ t.hbm = u.hbm)
        ∧ (tagOfFrame u p att st = .now → elements t0 ≤ 1024 * g → ∃ t, run = .next t ∧ t.hbm = u.hbm ∧ t.parts = u.parts ∧ t.hall = u.hall
            ∧ (t.cellars[c]).upd = { x with unlisted := satAdd x.unlisted 1 0xFFFF })
        ∧ (tagOfFrame u p att st = .now → 1024 * g < elements t0 → i = 0 → 1 < r.ranks.length → updStopped u.cellars[c] = false → x.parked = [] → 0 < freeSlots x →
            (∀ y ∈ x.sums, y.granule ≠ g) → (p, r.id, g) ∉ x.written →
            ∃ t, run = .next t ∧ ((t.cellars[c]).upd).sums = x.sums ++ [⟨p, r.id, g, 1, vals⟩] ∧ t.hbm = u.hbm))
    ∧ (∀ (rank lcore k att st : Nat) (b : BarrierE), arrive s h (.token rank lcore k att st) false = .ok u → taking u p = true →
        tagOfFrame u p att st = .now → barrierOf u p k = some b →
        (b.sources.contains (.remote rank lcore) = false → ∃ t, exec (.token h rank lcore k att st) s = .next t ∧ quiet t)
        ∧ (b.sources.contains (.remote rank lcore) = true → vestSize (.tok k rank lcore) + q.vestUsed ≤ (match q.allot with | some a => a.vest | none => 0) →
            ∃ t, exec (.token h rank lcore k att st) s = .next t ∧ ∀ d : DieIx, d ∈ waiterDies u p k →
              ∃ y ∈ (t.sluices[d]).held, y.part = p ∧ y.barrier = k ∧ y.src = .remote rank lcore))
    ∧ (∀ (sender : Nat) (v : Word) (d : BitVec 256) (group : W32), arrive s h (.digest group sender v d) false = .ok u → let x := u.sed.digests[p]
        (group ≠ q.group → exec (.digest h group sender v d) s = .next u)
        ∧ (group = q.group → x.own = [] → ∃ t, exec (.digest h group sender v d) s = .next t ∧ (sender, v, d) ∈ (t.sed.digests[p]).peers
            ∧ (t.sed.digests[p]).own = [] ∧ t.parts = u.parts)
        ∧ (group = q.group → (∃ y ∈ x.own, y.1 = v) → ∃ t, exec (.digest h group sender v d) s = .next t ∧ t.parts = u.parts ∧ t.hbm = u.hbm
            ∧ (∀ y ∈ (t.sed.digests[p]).peers, ¬ (y.1 = sender ∧ y.2.1 = v))
            ∧ ((t.sed.digests[p]).agreed = x.agreed + 1 ∨ (t.sed.digestErr = true ∧ reported t 0x25 p.val [v.toNat, sender]))))
    ∧ (∀ (off len : Nat) (obj : Word) (bytes : List Byte), arrive s h (.storeData off len obj bytes) false = .ok u →
        (h.src ≠ q.ckp.cfg.storeNode → exec (.storeData h off len obj bytes ()) s = .next u)
        ∧ (∀ w, h.src = q.ckp.cfg.storeNode → q.ckp.wr = some w → w.phase = .reading → obj = ownObj u p 3 q.ckp.lastCut → off = 0 →
            let m := parseManifest w.key obj bytes
            ∃ t w', exec (.storeData h off len obj bytes ()) s = .next t ∧ (t.parts[p]).ckp.wr = some w' ∧ w'.phase = .sending ∧ t.hbm = u.hbm
              ∧ (m.valid = true → m.depth + 1 < q.ckp.cfg.baseEvery → w'.delta = true ∧ w'.depth = m.depth + 1 ∧ w'.prev = q.ckp.lastCut ∧ w'.base = m.base)
              ∧ (m.valid = false ∨ q.ckp.cfg.baseEvery ≤ m.depth + 1 → w'.delta = false ∧ w'.depth = 0 ∧ w'.prev = w.cut ∧ w'.base = w.cut)))

/-- The mailbox and its session (R49 to R51, R385 to R387, R433, R438; table FB-15): an accepted COMMAND is issued in the mailbox, waits for it, or is
answered SESSION_BUSY; a repeated one is answered from memory; a code that no table assigns ends with UNKNOWN_CODE; a completion writes
results and ERROR, sets DONE and clears BUSY; an acknowledged report leaves the queue. -/
def Obligations.MailboxAndSession : Prop :=
  ∀ s : State,
    (∀ (m : MsgIn) (seq : W32) (w : Word) (args : Vector Word 8), let n := seq.toNat
      (m.auth = false ∨ m.kind ≠ 1 ∨ m.serial ≠ s.fuses.serial ∨ hears s = false → exec (.command m seq w args) s = .next s)
      ∧ (goodMsg s m 1 72 = true →
        (s.mgmt.lastDone = some n → ∃ t, exec (.command m seq w args) s = .next t ∧ t = { s with egress := t.egress })
      ∧ (s.mgmt.lastDone ≠ some n → freshSeq s n = false → exec (.command m seq w args) s = .next s)
      ∧ (s.mgmt.lastDone ≠ some n → freshSeq s n = true →
          (s.mgmt.running.isSome = true → ∃ t, exec (.command m seq w args) s = .next t ∧ t.mbox = s.mbox ∧ t.mgmt.lastDone = some n
            ∧ t.mgmt.lastSeq = some n ∧ t.mgmt.lastResp.head? = some (word (mboxStatus { s with mbox := { s.mbox with error := 0x8007 } })))
          ∧ (s.mgmt.running = none → s.mgmt.queued = none → s.mbox.busy = true → exec (.command m seq w args) s
            = .next { s with mgmt := { s.mgmt with lastSeq := some n, queued := some (n, w, args.toList), peer := some (s.mgmt.peer.getD (m.source, m.port)) } })
          ∧ (s.mgmt.running = none → s.mgmt.queued = none → s.mbox.busy = false → s.pwr.tripped = false → ∃ t, exec (.command m seq w args) s = .next t
            ∧ t.mgmt.running = some n ∧ t.mbox.busy = true ∧ t.mbox.done = false ∧ t.mbox.tag = wfield w 39 32 ∧ t.mbox.outcome = none
            ∧ t.mbox.run = some ⟨wfield w 15 0, wfield w 31 28, wfield w 39 32, args, .mgmt 0⟩ ∧ t.parts = s.parts))))
    ∧ (∀ (m : MsgIn) (acked : W32), goodMsg s m 4 0 = true → ∃ t, exec (.mgmtAck m acked) s = .next t ∧ t = { s with mgmt := t.mgmt }
        ∧ t.mgmt.queue = s.mgmt.queue.filter (fun r => decide (r.seq ≠ acked.toNat)))
    ∧ (timersHeld s = false → asleep s mgmtDom = false → s.pwr.lost = false → netUp s = true → s.mgmt.exhausted = false →
        (∀ r ∈ s.mgmt.queue, r.code = 0x55 ∨ r.seq + 1 < s.boot.seqLimit) →
        exec .reportResend s = .next { s with egress := s.egress ++ s.mgmt.queue.map Out.report })
    ∧ (∀ c, s.mbox.run = some c → assigned c.code = false → s.mbox.outcome = none → commandable s = true →
        exec .unknownCode s = .next { s with mbox := { s.mbox with outcome := some ⟨1, []⟩ } })
    ∧ (∀ c e rs, s.mbox.run = some c → s.mbox.outcome = some ⟨e, rs⟩ → asleep s mgmtDom = false → s.mgmt.queued = none → e ≠ 0 ∨ resetsAfter s c.code = false →
        ∃ t, exec .mboxCompletion s = .next t ∧ t.mbox.error = e ∧ t.mbox.done = true ∧ t.mbox.busy = false ∧ t.mbox.run = none ∧ t.mbox.outcome = none
          ∧ (∀ (i : Fin 8) v, rs[i.val]? = some v → t.mbox.results[i] = word v)
          ∧ (s.mbox.preempt = true → t.mbox.owner = 1 ∧ t.mbox.preempt = false) ∧ (s.mbox.preempt = false → t.mbox.owner = s.mbox.owner)
          ∧ t.parts = s.parts ∧ (∀ seq, s.mgmt.running = some seq → bySession s c = true → t.mgmt.running = none ∧ t.mgmt.lastDone = some seq
            ∧ t.mgmt.lastResp = word (mboxStatus t) :: t.mbox.results.toList))
    ∧ (∀ c rs, s.mbox.run = some c → s.mbox.outcome = some ⟨0, rs⟩ → asleep s mgmtDom = false → resetsAfter s c.code = true →
        ∃ t, exec .mboxCompletion s = .next t ∧ AfterReset s t)

/-- The management network, I3C with MCTP and PLDM, and SPDM (R378, R384, R388, R422, R430; tables FB-9, FB-12, FB-13, BS-3): what leaves the device
as an answer, and what the device keeps. The places of a type's commands in the answer to GETPLDMCOMMANDS are the model's (DESIGN CHOICE of log entry 103);
versions are free values. -/
def Obligations.NetworkAndI3cAnswer : Prop :=
  ∀ s : State,
    let sends := fun (c : Instr) (o : Out) => exec c s = .next { s with egress := s.egress ++ [o] }
    (hears s = true →
      let own := if s.boot.cfg.vlanOn then [s.boot.cfg.vlan] else []
      ∀ tag : Option Nat,
      (tagOk s tag = true →
        (∀ a : W32, a ≠ 0 → a = s.mgmt.ip4 → sends (.arpRequest ⟨tag, a⟩) (.net 0 ([a.toNat, s.fuses.mac.toNat] ++ own))
          ∧ ∀ bytes, sends (.icmpEcho ⟨tag, .v4 a⟩ bytes) (.net 2 (bytes.map BitVec.toNat ++ own)))
        ∧ (∀ a : BitVec 128, a ≠ 0 → a = s.mgmt.ip6 → sends (.ndpRequest ⟨tag, .v6 a⟩) (.net 1 ([a.toNat, s.fuses.mac.toNat] ++ own))
          ∧ ∀ bytes, sends (.icmpEcho ⟨tag, .v6 a⟩ bytes) (.net 2 (bytes.map BitVec.toNat ++ own)))
        ∧ (∀ a : W32, (s.boot.cfg.ipv4 = 0 → exec (.dhcpv4 ⟨tag, a⟩) s = .next { s with mgmt := { s.mgmt with ip4 := a, dhcp := true } })
          ∧ (s.boot.cfg.ipv4 ≠ 0 → exec (.dhcpv4 ⟨tag, a⟩) s = .next s)))
      ∧ (∀ a : W32, tagOk s tag = false ∨ a ≠ s.mgmt.ip4 → exec (.arpRequest ⟨tag, a⟩) s = .next s ∧ ∀ bytes, exec (.icmpEcho ⟨tag, .v4 a⟩ bytes) s = .next s)
      ∧ (∀ a : BitVec 128, tagOk s tag = false ∨ a ≠ s.mgmt.ip6 → exec (.ndpRequest ⟨tag, .v6 a⟩) s = .next s))
    ∧ (i3cRuns s = true → s.i3c.dynAddr = none →
        (∀ a : BitVec 7, exec (.entdaa a) s = .next { s with i3c := { s.i3c with dynAddr := some a.toNat } })
        ∧ (∀ st a : BitVec 7, (s.i3c.staticAddr = st.toNat → st ≠ 0 → exec (.setdasa st a) s = .next { s with i3c := { s.i3c with dynAddr := some a.toNat } })
            ∧ (s.i3c.staticAddr ≠ st.toNat → exec (.setdasa st a) s = .next s))
        ∧ exec .getEndpointId s = .next s)
    ∧ (i3cRuns s = true → s.i3c.dynAddr.isSome = true →
        (∀ e : Byte, exec (.setEndpointId e) s = .next { s with i3c := { s.i3c with eid := e.toNat }, egress := s.egress ++ [.i3c 0 [e.toNat]] })
        ∧ (∀ e : Byte, exec (.settid e) s = .next { s with i3c := { s.i3c with tid := e.toNat }, egress := s.egress ++ [.i3c 5 [e.toNat]] })
        ∧ sends .getEndpointId (.i3c 1 [s.i3c.eid]) ∧ sends .getMessageTypeSupport (.i3c 3 [0, 1, 5]) ∧ sends .gettid (.i3c 4 [s.i3c.tid])
        ∧ sends .getpldmtypes (.i3c 6 [0, 2, 5])
        ∧ (∃ v, exec .getMctpVersionSupport s = .next { s with freeIx := s.freeIx + 1, egress := s.egress ++ [.i3c 2 [v]] })
        ∧ (∀ ty : Byte, ∃ l f, exec (.getpldmcommands ty) s = .next { s with freeIx := s.freeIx + f, egress := s.egress ++ [.i3c 7 (ty.toNat :: l)] }
            ∧ (ty = 0 → l = [0, 1, 2, 3, 4]) ∧ (ty = 2 → l = [0, 1, 2]))
        ∧ (∀ ty : Byte, ∃ l f, exec (.getpldmversion ty) s = .next { s with freeIx := s.freeIx + f, egress := s.egress ++ [.i3c 8 (ty.toNat :: l)] }
            ∧ (ty ≠ 0 → ty ≠ 2 → ty ≠ 5 → l = []))
        ∧ (∀ id : BitVec 16, (id = 1 → sends (.getsensorreading id) (.i3c 9 [0, avgPower s 1000])) ∧ (id = 2 → sends (.getsensorreading id) (.i3c 9 [0, s.pwr.tempDie[(0 : DieIx)]]))
            ∧ (id = 19 → sends (.getsensorreading id) (.i3c 9 [0, s.pwr.tempMpd])) ∧ (20 ≤ id.toNat ∨ id = 0 → sends (.getsensorreading id) (.i3c 9 [1])))
        ∧ sends .pdrRepository (.i3c 10 ([1, 2, 3] ++ (List.range (nStacks s)).map (4 + ·) ++ (List.range (portDies s)).map (16 + ·) ++ [19]))
        ∧ (∀ (image : List Byte) (x : ImageProof),
            (x.rsa = false → ∀ ok, sends (.pldmFirmwareUpdate image x ok) (.i3c 11 [0x06]))
            ∧ (x.rsa = true → x.slh = false → ∀ ok, sends (.pldmFirmwareUpdate image x ok) (.i3c 11 [0x07]))
            ∧ (x.rsa = true → x.slh = true → image.length ≤ 0x400000 → ∃ t k, exec (.pldmFirmwareUpdate image x true) s = .next t
                ∧ t = { s with boot := { s.boot with flash := t.boot.flash }, egress := s.egress ++ [.i3c 11 [k]] }
                ∧ (∀ j, j < 0x400000 → tget 0xFF t.boot.flash j = image.getD j 0xFF) ∧ ∀ j, 0x400000 ≤ j → tget 0xFF t.boot.flash j = tget 0xFF s.boot.flash j))
        ∧ (lcOf s ≠ 0 → ∀ nonce : Vector Word 4, ∃ t rest, exec (.spdmRequest false nonce) s = .next t
            ∧ t = { s with freeIx := t.freeIx, egress := s.egress ++ [.i3c 12 ((reportFields s nonce 0xF ++ rest).map BitVec.toNat)] }))
    ∧ (s.pcie.up = true → asleep s pcieDom = false → lcOf s ≠ 0 →
        (∃ t, exec .ideKm s = .next t ∧ t.pcie = { s.pcie with ide := true } ∧ OnlyReports { s with pcie := t.pcie } t
          ∧ (s.pcie.ide = false → reported t 0x44 0xF [s.pcie.speed, s.pcie.width, 1]))
        ∧ (asleep s mgmtDom = false → ∀ nonce : Vector Word 4, ∃ t rest, exec (.spdmRequest true nonce) s = .next t
            ∧ t = { s with freeIx := t.freeIx, egress := s.egress ++ [.pcie 0 ((reportFields s nonce 0xF ++ rest).map BitVec.toNat)] }
            ∧ (reportFields s nonce 0xF).take 8 = leBytes 4 0x41545354 ++ leBytes 2 1 ++ leBytes 1 (lcOf s)
                ++ leBytes 1 (b2n s.boot.minimal + 2 * b2n s.boot.cfgDefaults)))

/-- The plan commands (R46 to R48, R55 to R58, R66, R128, R247; table PC-8): state checks, what LOAD_PLAN (with the histories that it creates, all
entries invalid), ARM, HALT_PLAN and RELEASE_PLAN leave, what the queries answer, and what a transfer of 64 bytes moves between the partition's HBM3 and
management SRAM, once no earlier request waits for the block. What the hardware does to the access is a free value (log entry 240): the bytes move where
it reports no uncorrected burst. -/
def Obligations.PlanCommands : Prop :=
  ∀ (s : State) (c : Cmd) (p : PartIx), partOfCmd s c = some p → let q := s.parts[p]
    (∀ im, RunsCmd s 2 c →
      (q.st ≠ .empty → Ends (exec (.loadPlan im) s) s 4 [])
      ∧ (∀ k i, q.st = .empty → loadCheck s p im (argOf c 0) (argOf c 1) = some (k, i) →
          (k = 1 → Ends (exec (.loadPlan im) s) s 0x1001 [1, i])
          ∧ (k ≠ 1 → ∃ t, Ends (exec (.loadPlan im) s) t (0x1000 + k) [k, i] ∧ t.parts = s.parts ∧ t.cores = s.cores ∧ t.hbm = s.hbm ∧ t.mbox = s.mbox
              ∧ ∀ b ks, imageFault s p im.reads (argOf c 0) (argOf c 1) = some (b, ks) → ((t.cellars[cellarOf s b]).tagLog).valid = true))
      ∧ (q.st = .empty → loadCheck s p im (argOf c 0) (argOf c 1) = none → ∃ t, Ends (exec (.loadPlan im) s) t 0 [0] ∧ (t.parts[p]).st = .loaded
          ∧ (t.parts[p]).image = some im ∧ (t.parts[p]).ranStep = false ∧ t.cores = s.cores ∧ t.mbox = s.mbox
          ∧ (t.parts[p]).hists.map (·.id) = (im.tensors.filter hasHistory).map (·.id)
          ∧ ∀ h ∈ (t.parts[p]).hists, ∀ e k, h.place = .sram e → k < h.len → getHist t p h k = HistE.empty))
    ∧ (RunsCmd s 3 c →
      (q.st ≠ .loaded → q.st ≠ .halted → Ends (exec .arm s) s 4 [])
      ∧ (q.st = .loaded ∨ q.st = .halted → ∃ t, Ends (exec .arm s) t 0 [] ∧ t.hbm = s.hbm
          ∧ ((t.parts[p]).st = .armed ∨ ((t.parts[p]).st = .halted ∧ (t.parts[p]).haltCause = 2))
          ∧ ((t.parts[p]).st = .armed → (t.parts[p]).stepNo = c.args[0] ∧ (t.parts[p]).version = c.args[1] ∧ (t.parts[p]).attempt = 0
              ∧ (q.step = .idle → q.inGroup = true → (t.parts[p]).step = .waitStart))))
    ∧ (RunsCmd s 4 c →
      (q.st = .armed → ∃ t, Ends (exec .haltPlan s) t 0 [] ∧ (t.parts[p]).st = .halted ∧ (t.parts[p]).haltCause = 1 ∧ (t.parts[p]).step = .idle)
      ∧ (q.st = .running → Ends (exec .haltPlan s) { s with parts := s.parts.set p.val { q with haltReq := true } p.isLt } 0 [])
      ∧ (q.st ≠ .armed → q.st ≠ .running → Ends (exec .haltPlan s) s 4 []))
    ∧ (RunsCmd s 5 c →
      (q.st ≠ .loaded → q.st ≠ .halted → Ends (exec .releasePlan s) s 4 [])
      ∧ (q.st = .loaded ∨ q.st = .halted → ∃ t, Ends (exec .releasePlan s) t 0 [] ∧ (t.parts[p]).st = .empty ∧ (t.parts[p]).image = none
          ∧ (∀ n, n ∈ coresOf s p → (t.cores[n]).store = [] ∧ (t.cores[n]).bound = [] ∧ (t.cores[n]).mq = [] ∧ ∀ i : CtxIx, ctxOf t n i = Ctx.reset)
          ∧ ((∀ (d : DieIx) (e : Nat × SCtx), e ∈ (s.sluices[d]).ctxs → e.2.part ≠ p) → ∀ n, n ∉ coresOf s p → t.cores[n] = s.cores[n])))
    ∧ (RunsCmd s 1 c →
      (q.image = none → Ends (exec .queryShape s) s 0 ((List.range 8).map (fun w => (shapeWord s p 0 w).toNat)))
      ∧ (∀ im, q.image = some im → (im.lcores.length ≤ argOf c 0 → Ends (exec .queryShape s) s 5 [])
          ∧ (argOf c 0 < im.lcores.length → Ends (exec .queryShape s) s 0 ((List.range 8).map (fun w => (shapeWord s p (argOf c 0) w).toNat)))))
    ∧ (RunsCmd s 6 c → Ends (exec .queryPlan s) s 0
        [match q.st with | .empty => 0 | .loaded => 1 | .armed => 2 | .running => 3 | .halted => 4, q.stepNo.toNat, q.version.toNat, q.haltCause])
    ∧ (argOf c 3 = 64 → xferError s c p = none → versionedAt s p (argOf c 0) = false →
        let a := logicalAddr s p (argOf c 0)
        a % 64 = 0 → stackDown s (cellarOf s (a / 4096)) = false → (∀ y ∈ (s.cellars[cellarOf s (a / 4096)]).pieces, y.base / 4096 ≠ a / 4096) →
        let clean := Config.readErr s.freeIx ≠ .uncorr
        (RunsCmd s 7 c → argOf c 1 = 0 ∨ s.pcie.up = true → ∀ host, host.length = 64 → ∃ t, Ends (exec (.partWrite host) s) t 0 [64]
          ∧ (clean → (∀ j, j < 64 → hbmByte t (a + j) = if argOf c 1 = 0 then tget 0 s.boot.sram (argOf c 2 + j) else host.getD j 0)
              ∧ wfield (tagOf t (a / 4096)) 31 16 = 0)
          ∧ (∀ b, b < a ∨ a + 64 ≤ b → hbmByte t b = hbmByte s b) ∧ ∀ b, b ≠ a / 4096 → tagOf t b = tagOf s b)
        ∧ (RunsCmd s 8 c → argOf c 1 = 0 ∨ s.pcie.up = true → ∃ t, Ends (exec .partRead s) t 0 [64] ∧ t.hbm = s.hbm ∧ t.tags = s.tags
          ∧ (argOf c 1 = 0 → (clean → ∀ j, j < 64 → tget 0 t.boot.sram (argOf c 2 + j) = hbmByte s (a + j))
              ∧ ∀ b, b < argOf c 2 ∨ argOf c 2 + 64 ≤ b → tget 0 t.boot.sram b = tget 0 s.boot.sram b)
          ∧ (argOf c 1 = 1 → t.boot.sram = s.boot.sram ∧ (clean → s.pwr.lost = false → t.egress.getLast? = some (.hostWrite p (argOf c 2) ((List.range 64).map (fun j => hbmByte s (a + j))))))))
    ∧ (xferError s c p = none → argOf c 1 = 1 → s.pcie.up = false →
        (RunsCmd s 7 c → ∀ host, GoesOn (exec (.partWrite host) s) s) ∧ (RunsCmd s 8 c → GoesOn (exec .partRead s) s))

/-- The step commands (R313 to R325; tables SP-4, SP-6 to SP-8): groups and epochs, the tokens, settling a step, spares, twins. -/
def Obligations.StepCommands : Prop :=
  ∀ (s : State) (c : Cmd) (p : PartIx), partOfCmd s c = some p → let q := s.parts[p]
    let put := fun (y : Machine.Part) => { s with parts := s.parts.set p.val y p.isLt }
    (RunsCmd s 0x22 c → s.dbg.level < 3 →
      (q.st ≠ .empty → q.st ≠ .loaded → Ends (exec .groupJoin s) s 4 [])
      ∧ (q.st = .empty ∨ q.st = .loaded → badIdentity s p c.args[0] c.args[1] = false → q.twin = .paired ∨ q.twin = .syncing ∨ wbit c.args[1] 48 = false →
          ∃ t y, Ends (exec .groupJoin s) t 0 [] ∧ t = { put y with sed := t.sed }
          ∧ y.inGroup = true ∧ y.group.toNat = wfield c.args[0] 63 32 ∧ y.epoch.toNat = wfield c.args[0] 31 0 ∧ y.rank = wfield c.args[1] 15 0
          ∧ y.ranks = wfield c.args[1] 31 16 + 1 ∧ y.coord = wfield c.args[1] 47 32 ∧ y.requireTwin = wbit c.args[1] 48 ∧ y.twin = q.twin
          ∧ (t.sed.digests[p]).own = [] ∧ (t.sed.digests[p]).peers = [])
      ∧ (q.st = .empty ∨ q.st = .loaded → badIdentity s p c.args[0] c.args[1] = false → q.twin ≠ .paired → q.twin ≠ .syncing → wbit c.args[1] 48 = true →
          Ends (exec .groupJoin s) s 0x2001 []))
    ∧ (RunsCmd s 0x23 c →
      (active s p = true → Ends (exec .groupLeave s) s 4 [])
      ∧ (active s p = false → q.twin = .paired → Ends (exec .groupLeave s) s 0x2004 [])
      ∧ (active s p = false → q.twin = .none ∨ q.twin = .lost → ∃ y, Ends (exec .groupLeave s) (put y) 0 [] ∧ y.inGroup = false ∧ y.st = q.st ∧ y.image = q.image))
    ∧ (RunsCmd s 0x24 c → s.mbox.begun = false → q.inGroup = true → wfield c.args[1] 15 0 < q.ranks →
      (wfield c.args[0] 31 0 ≤ q.epoch.toNat → Ends (exec .reconfigure s) s 0x2007 [])
      ∧ (q.epoch.toNat < wfield c.args[0] 31 0 → q.step = .prepared → ∃ y, Ends (exec .reconfigure s) (put y) 0 [3, q.stepNo.toNat]
          ∧ y.epoch.toNat = wfield c.args[0] 31 0 ∧ y.coord = wfield c.args[1] 15 0 ∧ y.made = none ∧ y.step = .prepared)
      ∧ (q.epoch.toNat < wfield c.args[0] 31 0 → q.step = .run → ∃ t, GoesOn (exec .reconfigure s) t ∧ (t.parts[p]).discarding = true ∧ t.hbm = s.hbm))
    ∧ (RunsCmd s 0x25 c → Ends (exec .queryStep s) s 0
        [stepCode q.step, q.stepNo.toNat, q.version.toNat, newestCommit q, q.attempt, q.mirrorVersion.toNat, q.epoch.toNat, twinCode q.twin])
    ∧ (RunsCmd s 0x26 c → (argOf c 0 = 0 → q.token = none → Ends (exec .readToken s) s 4 [])
      ∧ (∀ t, argOf c 0 = 0 → q.token = some t → Ends (exec .readToken s) s 0 (tokenWords t))
      ∧ (∀ t m, argOf c 0 = 1 → q.mirror = some m → m.token = some t → Ends (exec .readToken s) s 0 (tokenWords t)))
    ∧ (RunsCmd s 0x27 c → let t := parseToken (fun i => c.args[i])
      (q.step ≠ .prepared → ∀ ok, Ends (exec (.flip ok) s) s 4 []) ∧ (q.step = .prepared → Ends (exec (.flip false) s) s 0x2005 [])
      ∧ (q.step = .prepared → t.group = q.group → t.kind = 2 → t.epoch.toNat ≤ q.epoch.toNat →
          (t.step ≠ q.stepNo → Ends (exec (.flip true) s) s 0x2006 [])
          ∧ (t.step = q.stepNo → t.attempt = q.attempt → t.version = q.version + 1 → ∃ v, Ends (exec (.flip true) s) v 0 []
              ∧ (v.parts[p]).version = q.version + 1 ∧ (v.parts[p]).stepNo = q.stepNo + 1)))
    ∧ (RunsCmd s 0x28 c → (s.mbox.begun = false → q.step ≠ .prepared → Ends (exec .discard s) s 4 [])
      ∧ (s.mbox.begun = false → q.step = .prepared → c.args[0] = q.stepNo → ∃ t, GoesOn (exec .discard s) t ∧ (t.parts[p]).discarding = true ∧ t.hbm = s.hbm)
      ∧ (s.mbox.begun = true → q.discarding = false → Ends (exec .discard s) s 0 []))
    ∧ (RunsCmd s 0x29 c → (isCoord q = false → Ends (exec .go s) s 0x2008 [])
      ∧ (isCoord q = true → q.step = .waitStart → c.args[0] = q.stepNo → argOf c 1 = q.attempt → ∃ t k, Ends (exec .go s) t 0 [] ∧ (t.parts[p]).made = some k
          ∧ k.kind = 1 ∧ k.step = q.stepNo ∧ k.attempt = q.attempt ∧ k.version = q.version ∧ t.hbm = s.hbm))
    ∧ (RunsCmd s 0x2E c → s.mbox.begun = false →
      (q.step = .waitStart → ∃ t, Ends (exec .fmHalt s) t 0 [] ∧ (t.parts[p]).st = .halted ∧ (t.parts[p]).haltCause = 3)
      ∧ (q.step = .stopped → ∃ t, GoesOn (exec .fmHalt s) t ∧ (t.parts[p]).discarding = true ∧ (t.parts[p]).fmHalt = true)
      ∧ (q.step = .run → Ends (exec .fmHalt s) s 4 []))
    ∧ (RunsCmd s 0x2A c → s.dbg.level < 3 →
      (s.mbox.begun = false → q.step ≠ .idle → Ends (exec .becomeSpare s) s 4 [])
      ∧ (s.mbox.begun = false → q.step = .idle → q.st = .empty → q.inGroup = false → ∃ t, GoesOn (exec .becomeSpare s) t ∧ t.hbm = [] ∧ t.tags = []
          ∧ ∀ k : CellarIx, (t.cellars[k]).wipeBusy = true)
      ∧ (s.mbox.begun = true → wiping s = false → Ends (exec .becomeSpare s) (put { q with step := .spare }) 0 []))
    ∧ (RunsCmd s 0x2B c → s.dbg.level < 3 → ∀ x : TwinProof,
      (q.step ≠ .spare → Ends (exec (.assumeIdentity x) s) s 4 [])
      ∧ (∀ port : PortIx, q.step = .spare → badIdentity s p c.args[1] c.args[2] = false → wfield c.args[4] 20 16 = port.val → port.val < portCount s →
          (s.mbox.begun = false → ∃ t ask, GoesOn (exec (.assumeIdentity x) s) t ∧ t.parts = s.parts ∧ (t.fab.ports[port]).nonce = some ask
            ∧ (s.pwr.lost = false → t.egress = s.egress ++ [.link port 6 0 (ask.toList.map BitVec.toNat)]))
          ∧ (s.mbox.begun = true → peerOk s (s.fab.ports[port]).nonce x.report = false ∨ (s.fab.ports[port]).peerSerial ≠ c.args[3] →
              ∃ t, Ends (exec (.assumeIdentity x) s) t 0x2002 [] ∧ t.parts = s.parts)
          ∧ (s.mbox.begun = true → handshakeError s p port c.args[3] x (some (c.args[1].extractLsb' 32 32)) = none →
              ∃ t y, Ends (exec (.assumeIdentity x) s) t 0 [] ∧ t = { put y with sed := t.sed, egress := t.egress, freeIx := t.freeIx }
              ∧ y.identity = true ∧ y.step = .idle ∧ y.twin = .syncing ∧ y.twinPort = port.val ∧ y.inGroup = true ∧ y.rank = wfield c.args[2] 15 0)))
    ∧ (RunsCmd s 0x2C c → (q.identity = false → ∀ got, Ends (exec (.restore got) s) s 4 [])
      ∧ (q.step = .idle → q.identity = true → q.st = .empty → Ends (exec (.restore none) s) s 0x200A []
          ∧ (∀ m, m.image = none → Ends (exec (.restore (some m)) s) s 0x2009 [])
          ∧ ∀ m im, m.image = some im → loadCheck s p im 0 im.length = none → mirrorStep m c.args[0] = c.args[0] →
              ∃ t, Ends (exec (.restore (some m)) s) t 0 [m.version.toNat, 0] ∧ ((t.parts[p]).st = .armed ∨ (t.parts[p]).st = .halted)
                ∧ ((t.parts[p]).st = .armed → (t.parts[p]).stepNo = c.args[0] ∧ (t.parts[p]).version = m.version ∧ (t.parts[p]).mirrorVersion = m.version
                    ∧ (t.parts[p]).vest = m.recs ∧ (t.parts[p]).attempt = argOf c 1)))
    ∧ (RunsCmd s 0x2D c → (q.step = .spare → ∀ got, Ends (exec (.repair got) s) s 4 []) ∧ (q.step ≠ .spare → Ends (exec (.repair none) s) s 0x200A []
        ∧ ((∀ k : CellarIx, (s.cellars[k]).lostBlocks = []) → ∀ l, Ends (exec (.repair (some l)) s) s 0 [0])
        ∧ ∀ b off v bs, lostOf s p = [b] → lostKind s p b = .shard off v → mirroring q = true → bs.length = 4096 →
            ∃ t, Ends (exec (.repair (some [(off, v, bs)])) s) t 0 [1] ∧ (∀ k : CellarIx, b ∉ (t.cellars[k]).lostBlocks)
              ∧ (∀ j, j < 4096 → hbmByte t (4096 * (physAddr s p off / 4096) + j) = bs.getD j 0)
              ∧ ∀ a, a < 4096 * (physAddr s p off / 4096) ∨ 4096 * (physAddr s p off / 4096) + 4096 ≤ a → hbmByte t a = hbmByte s a))
    ∧ (RunsCmd s 0x20 c → s.dbg.level < 3 → ∀ port : PortIx, wfield c.args[1] 20 16 = port.val → port.val < portCount s →
      (∀ r : PartIx, r ≠ p → (s.parts[r]).twin = .none ∨ (s.parts[r]).twinPort ≠ port.val) →
      q.twin = .none ∨ q.twin = .lost ∨ (q.twin = .handshake ∧ s.mbox.begun = true) →
      (∃ t ask, GoesOn (exec (.twinAttach none) s) t ∧ (t.fab.ports[port]).nonce = some ask
        ∧ t.parts = (put { q with twin := .handshake, twinSerial := c.args[0], twinPort := port.val, twinPart := wfield c.args[1] 2 0 }).parts
        ∧ (s.pwr.lost = false → t.egress = s.egress ++ [.link port 6 0 (ask.toList.map BitVec.toNat)]))
      ∧ ∀ x, (peerOk s (s.fab.ports[port]).nonce x.report = false ∨ (s.fab.ports[port]).peerSerial ≠ c.args[0] →
            ∃ t, Ends (exec (.twinAttach (some x)) s) t 0x2002 [] ∧ t.parts = (put { q with twin := .none }).parts)
        ∧ (handshakeError s p port c.args[0] x (if q.inGroup then some q.group else none) = none → ∃ t, Ends (exec (.twinAttach (some x)) s) t 0 [2]
            ∧ (t.parts[p]).twin = .syncing ∧ (t.parts[p]).twinPort = port.val ∧ (t.parts[p]).twinSerial = c.args[0] ∧ (t.parts[p]).twinRank = x.rank
            ∧ t.hbm = s.hbm))
    ∧ (RunsCmd s 0x21 c → (q.twin = .none → Ends (exec .twinRelease s) s 4 []) ∧ (q.twin ≠ .none → q.twinSerial ≠ c.args[0] → Ends (exec .twinRelease s) s 5 [])
      ∧ (q.twin ≠ .none → q.twinSerial = c.args[0] → ∃ t, Ends (exec .twinRelease s) t 0 [] ∧ (t.parts[p]).twin = .none ∧ (t.parts[p]).mirror = none ∧ (t.parts[p]).mirTodo = []))

/-- The checkpoint writer's sending and timeout, and the checkpoint commands (R395, R399, R402 to R411; tables CK-6 to CK-8). -/
def Obligations.CheckpointCommands : Prop :=
  (∀ (s : State) (p : PartIx) (w : CkpWr), let k := (s.parts[p]).ckp
    k.wr = some w →
    (cellarsAsleep s = false → w.phase = .sending → storeRoom s p = true →
      (∀ d ds, w.todoDies = d :: ds → ds ≠ [] → slotFull k.cfg w.off (48 + histLen s p d) = false → ∃ t w', exec (.ckpPageSend ⟨p, []⟩) s = .next t
        ∧ (t.parts[p]).ckp.wr = some w' ∧ w'.todoDies = ds ∧ w'.todoPages = w.todoPages ∧ w'.index = w.index + 1 ∧ w'.off = w.off + 48 + histLen s p d
        ∧ t.hbm = s.hbm ∧ t.vmap = s.vmap)
      ∧ (∀ d ds, w.todoDies = d :: ds → slotFull k.cfg w.off (48 + histLen s p d) = true → ∃ t, exec (.ckpPageSend ⟨p, []⟩) s = .next t
        ∧ (t.parts[p]).ckp.wr = none ∧ (t.parts[p]).ckp.abandoned = true ∧ reported t 0x31 p.val [w.cut.toNat, 5])
      ∧ (∀ g gs, w.todoDies = [] → w.todoPages = g :: gs → slotFull k.cfg w.off (48 + 65536) = false →
          (∀ u errs, readPage s p g true errs = (u, false) → exec (.ckpPageSend ⟨p, errs⟩) s = .next u)
          ∧ (∀ u errs y, readPage s p g true errs = (u, true) → (u.parts[p]).ckp.wr = some y → gs ≠ [] → ∃ t w', exec (.ckpPageSend ⟨p, errs⟩) s = .next t
              ∧ (t.parts[p]).ckp.wr = some w' ∧ w'.todoPages = gs ∧ w'.index = y.index + 1 ∧ w'.off = y.off + 48 + 65536
              ∧ (t.parts[p]).ckp.done = (u.parts[p]).ckp.done + 1 ∧ t.hbm = u.hbm))
      ∧ (w.todoDies = [] → w.todoPages = [] → w.acked < w.sent → ∃ t w', exec (.ckpPageSend ⟨p, []⟩) s = .next t ∧ (t.parts[p]).ckp.wr = some w' ∧ w'.phase = .draining
        ∧ (t.parts[p]).retention = none))
    ∧ (timersHeld s = false → (w.acked < w.sent → ∃ t, exec (.ckpTimeout p) s = .next t ∧ (t.parts[p]).ckp.wr = none ∧ (t.parts[p]).ckp.abandoned = true
          ∧ reported t 0x31 p.val [w.cut.toNat, 1])
        ∧ (w.sent ≤ w.acked → exec (.ckpTimeout p) s = .next s)))
  ∧ ∀ (s : State) (c : Cmd) (p : PartIx), partOfCmd s c = some p → let q := s.parts[p]; let k := q.ckp
    (RunsCmd s 0x40 c → Ends (exec .ckpQuery s) s 0 [ckpStatus q, k.lastSealed.toNat, k.lastCut.toNat, place k.done 63 32 + place k.total 31 0])
    ∧ (RunsCmd s 0x41 c → (k.wr = none → Ends (exec .ckpAbandon s) s 0 [0])
      ∧ (∀ w, k.wr = some w → ∃ t, Ends (exec .ckpAbandon s) t 0 [w.cut.toNat] ∧ (t.parts[p]).ckp.wr = none ∧ (t.parts[p]).ckp.abandoned = true
          ∧ reported t 0x31 p.val [w.cut.toNat, 2] ∧ ∀ g, PageSet.has k.frozen g = true → PageSet.has (t.parts[p]).ckp.accum g = true))
    ∧ (RunsCmd s 0x42 c →
      (∀ e a, restoreError s c p = some e → Ends (exec (.ckpRestore a) s) s e [])
      ∧ (restoreError s c p = none →
          GoesOn (exec (.ckpRestore none) s) { s with parts := s.parts.set p.val { q with ckp := { k with restoring := true } } p.isLt }
          ∧ (∀ a : StoreAnswer, a.silent = true → ∃ t, Ends (exec (.ckpRestore (some a)) s) t 0x3003 [] ∧ (t.parts[p]).ckp.restoreFailed = true
              ∧ (t.parts[p]).ckp.restoring = false ∧ (t.parts[p]).st = .loaded)
          ∧ (∀ (a : StoreAnswer) (m : Manifest) (o : Word × List Byte) (rs : List Opened), let cut := c.args[0]; let ms := readManifests s p a
              a.silent = false → missingAt ms k.cfg.shards (planDigest s p) cut = [] → manifestOf ms k.cfg.shard cut = some m → m.kind = 0 → m.shardPages = 0 →
              (∀ h ∈ q.hists, ∃ e, h.place = .sram e) → a.objects.find? (fun o => o.1 == cut) = some o → openObject s p cut m o.2 = some rs →
              (∀ r ∈ rs, r.type ≠ 1) → contentOf (pageDigests s p) = m.content →
              ∃ t, Ends (exec (.ckpRestore (some a)) s) t 0 [cut.toNat, m.step.toNat, 0, 0]
                ∧ (∀ h j, q.hists = [h] → j < h.len → getHist t p h j = parseHist (histBytes (tget HistE.empty (tget [] (histsIn s p rs) h.id) j))) ∧ (t.parts[p]).ckp.restored = true
                ∧ (t.parts[p]).ckp.lastCut = cut ∧ (t.parts[p]).ckp.lastSealed = cut ∧ t.hbm = s.hbm)))
    ∧ (RunsCmd s 0x43 c →
      (∀ e a, restoreError s c p = some e → Ends (exec (.ckpFind a) s) s e [])
      ∧ (∀ a : StoreAnswer, restoreError s c p = none → (a.silent = true → Ends (exec (.ckpFind a) s) s 0x3003 [])
        ∧ (∀ m, let ms := readManifests s p a
            a.silent = false → missingAt ms k.cfg.shards (planDigest s p) c.args[0] = [] → manifestOf ms k.cfg.shard c.args[0] = some m →
            ∃ t f, Ends (exec (.ckpFind a) s) t 0 [(c.args[0]).toNat, m.step.toNat, f, 0] ∧ t.parts = s.parts ∧ t.hbm = s.hbm)))

/-- The commands of the defence against silent errors (R342 to R345, R350 to R352; tables SE-4, SE-10, SE-11). -/
def Obligations.SilentErrorCommands : Prop :=
  ∀ (s : State) (c : Cmd), let u := argOf c 0 % 65536
    (RunsCmd s 0x60 c → (unitKnown s u = false → Ends (exec .sedQueryUnit s) s 0x4001 [])
      ∧ (unitKnown s u = true → let e := unitOf s u
        Ends (exec .sedQueryUnit s) s 0 [match e.st with | .inService => 0 | .suspect => 1 | .fenceOrdered => 2 | .fenced => 3, e.blames, e.clean, e.lastStep.toNat]))
    ∧ (RunsCmd s 0x61 c → (unitKnown s u = false → Ends (exec .sedFence s) s 0x4001 [])
      ∧ (unitKnown s u = true → (unitOf s u).st = .fenced → Ends (exec .sedFence s) s 0x4002 [])
      ∧ (∀ (n : CoreIx) (k : Fin 4), u = arrayUnit n k.val → (unitOf s u).st = .inService → ∃ t, Ends (exec .sedFence s) t 0 []
          ∧ (∀ p, ownerOf s n = some p → active s p = true → (unitOf t u).st = .fenceOrdered ∧ ((t.cores[n]).arrays[k]).fencePending = true
              ∧ ((t.cores[n]).arrays[k]).fenced = ((s.cores[n]).arrays[k]).fenced)
          ∧ (ownerOf s n = none → ((t.cores[n]).arrays[k]).fenced = true)))
    ∧ (RunsCmd s 0x62 c → (s.mbox.begun = false → (testPlan s = [] → Ends (exec .sedSelftest s) { s with sed := { s.sed with test := none } } 0 [0, 0])
          ∧ (testPlan s ≠ [] → GoesOn (exec .sedSelftest s) { s with sed := { s.sed with test := some ⟨testPlan s, true, 0, 0⟩ } }))
      ∧ (∀ t, s.mbox.begun = true → s.sed.test = some t → (testLeft s = [] → Ends (exec .sedSelftest s) { s with sed := { s.sed with test := none } } 0 [t.run, t.failed])
          ∧ (testLeft s ≠ [] → GoesOn (exec .sedSelftest s) s)))
    ∧ (RunsCmd s 0x63 c → (256 ≤ argOf c 0 → Ends (exec .sedPantryRead s) s 0x4004 [])
      ∧ (argOf c 0 < 256 → inXfer (argOf c 1) 16384 = true → argOf c 1 % 16384 = 0 → (pantryRec s (argOf c 0) = none → Ends (exec .sedPantryRead s) s 0 [0])
          ∧ ∀ r, pantryRec s (argOf c 0) = some r → ∃ t, Ends (exec .sedPantryRead s) t 0 [1] ∧ t = { s with boot := { s.boot with sram := t.boot.sram } }
              ∧ tgetMany 0 t.boot.sram (argOf c 1) (pantryBytes r).length = pantryBytes r))
    ∧ (RunsCmd s 0x64 c → inXfer (argOf c 0) 16384 = true → argOf c 0 % 16384 = 0 →
      (parsePantry (sramRead s (argOf c 0) 16384) = none → Ends (exec .sedPantryLoad s) s 0x4003 [])
      ∧ (∀ r, parsePantry (sramRead s (argOf c 0) 16384) = some r →
          let stored := fun (ix : Nat) (x : PanRec) => ∃ t, Ends (exec .sedPantryLoad s) t 0 [ix]
            ∧ tgetMany 0 (t.cellars[cellarOf s ix]).sram (pantryOff s ix) (pantryBytes x).length = pantryBytes x
            ∧ 0x10 + ix ∈ t.boot.wants ∧ 4 ∈ t.boot.wants ∧ reported t 0x23 0xF [ix, x.kind, x.hits]
          (∀ e, (pantry s).find? (fun e => e.2.operands == r.operands) = some e → stored e.1 { e.2 with hits := satAdd e.2.hits 1 0xFFFF })
          ∧ ((pantry s).find? (fun e => e.2.operands == r.operands) = none → stored (pantrySlot s) { r with imported := true })))
    ∧ (∀ p, partOfCmd s c = some p →
      (RunsCmd s 0x65 c → let ranks := ((c.args.toList.drop 1).take (argOf c 0)).map (fun w => wfield w 15 0)
        (7 < argOf c 0 → Ends (exec .sedReplicas s) s 5 [])
        ∧ (argOf c 0 ≤ 7 → (∃ r ∈ ranks, (s.parts[p]).ranks ≤ r ∨ r = (s.parts[p]).rank) → Ends (exec .sedReplicas s) s 0x4006 [])
        ∧ (argOf c 0 ≤ 7 → (∀ r ∈ ranks, r < (s.parts[p]).ranks ∧ r ≠ (s.parts[p]).rank) → Ends (exec .sedReplicas s)
            { s with sed := { s.sed with digests := s.sed.digests.set p.val { s.sed.digests[p] with replicas := ranks } p.isLt } } 0 []))
      ∧ (RunsCmd s 0x66 c → (heldDigests s p c.args[0] = none → Ends (exec .sedDigest s) s 0x4005 [])
        ∧ (∀ ds, heldDigests s p c.args[0] = some ds → argOf c 1 = 0 → argOf c 2 = 0 →
            Ends (exec .sedDigest s) s 0 ((List.range 4).map (fun i => (contentOf ds).toNat / 2 ^ (64 * i) % 2 ^ 64)))))

/-- The boot and image commands and the transfer area (R419 to R422, R439; tables BS-12, BS-13). -/
def Obligations.BootCommands : Prop :=
  ∀ (s : State) (c : Cmd), let b := s.boot
    (RunsCmd s 0x80 c → let cs := (b.causes.reverse.take 3).map packCause
      Ends (exec .bootQuery s) s 0 [bootStatus s, b.bootCount, cs.getD 0 0, cs.getD 1 0, cs.getD 2 0, bootImage s])
    ∧ (RunsCmd s 0x81 c → (argOf c 0 % 2 = 0 → Ends (exec .bootReset s) s 0 [])
      ∧ (argOf c 0 % 2 = 1 →
          (s.mbox.begun = false → ∃ t, GoesOn (exec .bootReset s) t ∧ t.boot.attempts = 0 ∧ 1 ∈ t.boot.wants ∧ t = { s with boot := t.boot })
          ∧ (s.mbox.begun = true → neverFits s 1 = false → (1 ∈ b.wants → GoesOn (exec .bootReset s) s)
            ∧ (1 ∉ b.wants → 1 ∉ b.failed → Ends (exec .bootReset s) s 0 [])
            ∧ (1 ∉ b.wants → 1 ∈ b.failed → ∃ t, Ends (exec .bootReset s) t 0x5002 [] ∧ t.boot.attempts = (storedBoot s).1))))
    ∧ (RunsCmd s 0x82 c → (0x400000 < argOf c 0 → ∀ ok, Ends (exec (.bootImageBegin ok) s) s 0x500C [])
      ∧ (argOf c 0 ≤ 0x400000 → Ends (exec (.bootImageBegin false) s) s 0x5002 []
          ∧ ∃ t, Ends (exec (.bootImageBegin true) s) t 0 [] ∧ t = { s with boot := { b with flash := t.boot.flash } }
            ∧ ∀ j, tget 0xFF t.boot.flash j = if j < 0x400000 then 0xFF else tget 0xFF b.flash j))
    ∧ (RunsCmd s 0x83 c → let off := argOf c 0; let len := argOf c 2
      (len % 256 ≠ 0 ∨ 0x100000 < len → ∀ ok, Ends (exec (.bootImageChunk ok) s) s 5 [])
      ∧ (len % 256 = 0 → len ≤ 0x100000 → off + len ≤ 0x400000 → inXfer (argOf c 1) len = true → Ends (exec (.bootImageChunk false) s) s 0x5002 []
          ∧ ∃ t, Ends (exec (.bootImageChunk true) s) t 0 [] ∧ t = { s with boot := { b with flash := t.boot.flash } }
            ∧ (∀ j, j < len → tget 0xFF t.boot.flash (off + j) = tget 0 b.sram (argOf c 1 + j))
            ∧ ∀ a, a < off ∨ off + len ≤ a → tget 0xFF t.boot.flash a = tget 0xFF b.flash a))
    ∧ (RunsCmd s 0x84 c → ∀ x, let k := (imageCause s (flashBytes s) x).1
      (s.mbox.begun = false → k ≠ 0 → Ends (exec (.bootImageEnd x) s) s 0x5001 [k])
      ∧ (s.mbox.begun = false → k = 0 → minimal s = false → Ends (exec (.bootImageEnd x) s) s 0 [0])
      ∧ (s.mbox.begun = false → k = 0 → minimal s = true → ∃ t, GoesOn (exec (.bootImageEnd x) s) t ∧ t.boot.attempts = 0 ∧ 1 ∈ t.boot.wants)
      ∧ (s.mbox.begun = true → neverFits s 1 = false → 1 ∉ b.wants → 1 ∉ b.failed → Ends (exec (.bootImageEnd x) s) s 0 [0]))
    ∧ (RunsCmd s 0x85 c → let v := max b.fuses.svn b.image.svn
      Ends (exec .bootSvnCommit s) { s with boot := { b with fuses := { b.fuses with svn := v } } } 0 [v])
    ∧ (RunsCmd s 0x93 c → b.causes = [] → inXfer (argOf c 0) 1 = true → ∃ t, Ends (exec .bootCauses s) t 0 [0] ∧ t = s)
    ∧ (∀ r, RunsCmd s 0x93 c → b.causes = [r] → inXfer (argOf c 0) 16 = true → ∃ t, Ends (exec .bootCauses s) t 0 [1] ∧ t = { s with boot := { b with sram := t.boot.sram } }
        ∧ leNat (tgetMany 0 t.boot.sram (argOf c 0) 8) = r.count % 2 ^ 64 ∧ leNat (tgetMany 0 t.boot.sram (argOf c 0 + 9) 1) = r.cause % 256)
    ∧ (RunsCmd s 0x86 c → (inXfer (argOf c 0) 56 = false → Ends (exec .secXferWrite s) s 0x500C [])
      ∧ (inXfer (argOf c 0) 56 = true → ∃ t, Ends (exec .secXferWrite s) t 0 [] ∧ t = { s with boot := { b with sram := t.boot.sram } }
          ∧ (∀ i : Fin 7, leNat (tgetMany 0 t.boot.sram (argOf c 0 + 8 * i.val) 8) = argOf c (i.succ))
          ∧ ∀ a, a < argOf c 0 ∨ argOf c 0 + 56 ≤ a → tget 0 t.boot.sram a = tget 0 b.sram a))
    ∧ (RunsCmd s 0x87 c → (inXfer (argOf c 0) 56 = false → Ends (exec .secXferRead s) s 0x500C [])
      ∧ (inXfer (argOf c 0) 56 = true → Ends (exec .secXferRead s) s 0 ((List.range 7).map (fun i => leNat (tgetMany 0 b.sram (argOf c 0 + 8 * i) 8)))))

/-- The security commands: attestation, life cycle, shared keys (R427 to R432; tables BS-8, BS-10, BS-12, BS-13). The length of an exported blob is a
free value (DESIGN CHOICE of log entry 104); owner blob, identity and their layouts are those of log entry 243. A command that writes a section goes on until the
write has ended, and ends then. -/
def Obligations.SecurityCommands : Prop :=
  ∀ (s : State) (c : Cmd), let b := s.boot
    let report := fun (t : State) (off : Nat) (nonce : Vector Word 4) (p : Nat) =>
      tgetMany 0 t.boot.sram off (reportFields s nonce p).length = reportFields s nonce p
      ∧ leNat (tgetMany 0 t.boot.sram off 4) = 0x41545354 ∧ leNat (tgetMany 0 t.boot.sram (off + 8) 8) = s.fuses.serial.toNat
      ∧ ∀ i : Fin 4, leNat (tgetMany 0 t.boot.sram (off + 24 + 8 * i.val) 8) = nonce[i].toNat
    let written := fun (k : Nat) => s.mbox.begun = true ∧ neverFits s k = false ∧ k ∉ b.wants ∧ k ∉ b.failed
    (RunsCmd s 0x88 c →
      (inXfer (argOf c 4) (reportSize s) = false → Ends (exec .secAttest s) s 0x500C [])
      ∧ (inXfer (argOf c 4) (reportSize s) = true → ∃ t, Ends (exec .secAttest s) t 0 [reportSize s]
          ∧ t = { s with freeIx := t.freeIx, boot := { b with sram := t.boot.sram } } ∧ report t (argOf c 4) #v[c.args[0], c.args[1], c.args[2], c.args[3]] c.part))
    ∧ (RunsCmd s 0x89 c → ∀ ok,
      (s.mbox.begun = false → let blob := sramRead s (argOf c 0) blobBytes
        (inXfer (argOf c 0) blobBytes = false → Ends (exec (.secTakeOwnership ok) s) s 0x500C [])
        ∧ (inXfer (argOf c 0) blobBytes = true → ok = false ∨ blobSerial blob ≠ s.fuses.serial.toNat → Ends (exec (.secTakeOwnership ok) s) s 0x5004 [])
        ∧ (∀ k, inXfer (argOf c 0) blobBytes = true → ok = true → blobSerial blob = s.fuses.serial.toNat → recordKey s = some k →
            ∃ t, GoesOn (exec (.secTakeOwnership ok) s) t ∧ t = { s with boot := t.boot } ∧ 8 ∈ t.boot.wants ∧ tfind t.boot.staged 8 = some (blob ++ ownerMac k blob)))
      ∧ (written 8 → Ends (exec (.secTakeOwnership ok) s) { s with boot := { b with owner := (sectBody s 8).map (·.take blobBytes) } } 0 []))
    ∧ (inXfer (argOf c 0) 1 = true →
      (RunsCmd s 0x8A c → (∀ e, Ends (exec (.secReleaseOwnership ⟨false, e⟩) s) s 0x5004 []) ∧ Ends (exec (.secReleaseOwnership ⟨true, false⟩) s) s 0x5002 []
        ∧ ∃ t, Ends (exec (.secReleaseOwnership ⟨true, true⟩) s) t 0 [] ∧ owned t = false ∧ sectBody t 8 = none
          ∧ t = { s with boot := { b with flash := t.boot.flash, owner := none } })
      ∧ (RunsCmd s 0x8B c → (∀ e, Ends (exec (.secScrap ⟨false, e⟩) s) s 0x5004 []) ∧ Ends (exec (.secScrap ⟨true, false⟩) s) s 0x5002 []
        ∧ ∃ t, Ends (exec (.secScrap ⟨true, true⟩) s) t 0 [] ∧ lcOf t = 3 ∧ sectBody t 7 = none ∧ sectBody t 8 = none ∧ recordKey t = none
          ∧ t.boot.fuses.svn = b.fuses.svn ∧ t = { s with boot := t.boot }))
    ∧ (RunsCmd s 0x8C c → ∀ certs,
      (s.mbox.begun = false → inXfer (argOf c 0) (1 + certs.length) = true →
        Ends (exec (.secProvision ⟨false, certs⟩) s) s 0x5004 []
        ∧ (40 + wrappedBytes + certs.length ≤ 0x4000 → ∃ t keys, GoesOn (exec (.secProvision ⟨true, certs⟩) s) t ∧ keys.length = wrappedBytes
            ∧ tfind t.boot.staged 7 = some (keys ++ certs) ∧ 7 ∈ t.boot.wants ∧ t.boot.fuses = b.fuses))
      ∧ (written 7 → ∀ ok, Ends (exec (.secProvision ⟨ok, certs⟩) s) { s with boot := { b with fuses := { b.fuses with lc := .provisioned } } } 0 []))
    ∧ (∀ p, partOfCmd s c = some p →
      let held := fun (kind ident : Nat) => b.keys.any (isKey p kind ident)
      let room := (b.keys.filter (fun k => decide (k.part = p))).length < 4
      (RunsCmd s 0x8D c → (inXfer (argOf c 0) (reportSize s) = false → Ends (exec .secKeyRequest s) s 0x500C [])
        ∧ (inXfer (argOf c 0) (reportSize s) = true → ∃ t nonce, Ends (exec .secKeyRequest s) t 0 [reportSize s]
            ∧ t.boot.keyNonce = some nonce ∧ t.boot.keys = b.keys ∧ report t (argOf c 0) nonce p.val))
      ∧ (RunsCmd s 0x8E c → (keyName (argOf c 0) (argOf c 1) = false → Ends (exec .secSharedCreate s) s 5 [])
        ∧ (keyName (argOf c 0) (argOf c 1) = true → held (argOf c 0) (argOf c 1) = false →
            (room → ∃ t w, Ends (exec .secSharedCreate s) t 0 [] ∧ t.boot.keys = b.keys ++ [⟨p, argOf c 0, argOf c 1, w⟩])
            ∧ (¬ room → ∃ t, Ends (exec .secSharedCreate s) t 0x5007 [] ∧ t.boot = s.boot)))
      ∧ (RunsCmd s 0x8F c → keyName (argOf c 0) (argOf c 1) = true → inXfer (argOf c 3) 1 = true → ∀ ok,
        let escrow := argOf c 2 = 2 ^ 64 - 1
        (escrow ∨ inXfer (argOf c 2) reportHead = true →
          (held (argOf c 0) (argOf c 1) = false → Ends (exec (.secSharedExport ok) s) s 0x5006 [])
          ∧ (held (argOf c 0) (argOf c 1) = true → ¬ escrow → ok = false ∨ requestOk s (argOf c 2) = false → Ends (exec (.secSharedExport ok) s) s 0x5005 [])
          ∧ (held (argOf c 0) (argOf c 1) = true → escrow ∨ (ok = true ∧ requestOk s (argOf c 2) = true) →
              ∃ t n, Ends (exec (.secSharedExport ok) s) t 0 [n] ∧ 1 ≤ n ∧ argOf c 3 + n ≤ 0x400000 ∧ t.boot.keys = b.keys)))
      ∧ (RunsCmd s 0x90 c → inXfer (argOf c 0) 1 = true → Ends (exec (.secSharedImport none) s) s 0x5004 []
        ∧ ∀ x : SharedBlob, (b.keyNonce ≠ some x.nonce → Ends (exec (.secSharedImport (some x)) s) s 0x5004 [])
          ∧ (b.keyNonce = some x.nonce → keyName x.kind x.ident = true → held x.kind x.ident = false → room →
              ∃ t, Ends (exec (.secSharedImport (some x)) s) t 0 [x.kind, x.ident] ∧ t.boot.keys = b.keys ++ [⟨p, x.kind, x.ident, x.secret⟩])))

/-- PART_CREATE and PART_DESTROY (R434 to R436): the checks in their order; the share that a partition gets; that nothing of a share reads as
before once its key is replaced. -/
def Obligations.PartitionCommands : Prop :=
  ∀ (s : State) (c : Cmd) (p : PartIx), c.part = p.val →
    (RunsCmd s 0x91 c → let r := allotReq c
      (s.dbg.level = 4 → Ends (exec .partCreate s) s 3 [])
      ∧ (s.dbg.level ≠ 4 → (s.parts[p]).allot.isSome = true → Ends (exec .partCreate s) s 0x5008 [])
      ∧ (s.dbg.level ≠ 4 → (s.parts[p]).allot = none →
          ((∃ n : CoreIx, r.cores.getLsbD n.val = true ∧ coreFree s n = false) → Ends (exec .partCreate s) s 0x5009 [])
          ∧ (∀ ctx hall, findRanges s r = some (ctx, hall) → badLayout s r = true → Ends (exec .partCreate s) s 0x500A [])
          ∧ (∀ ctx hall, findRanges s r = some (ctx, hall) → badLayout s r = false → ∃ t a, Ends (exec .partCreate s) t 0 [a.data] ∧ (t.parts[p]).allot = some a
              ∧ a.cores = r.cores ∧ a.base = r.base ∧ a.size = r.size ∧ a.pool = r.pool ∧ a.vest = r.vest ∧ a.mirror = r.mirror
              ∧ a.data + a.pool + a.vest + a.mirror + a.reserved = a.size ∧ a.hostPlan = r.hostPlan
              ∧ (∀ x, a.base ≤ x → x < a.base + a.size → tfind t.hbm x = none) ∧ (∀ x, ¬ (a.base ≤ x ∧ x < a.base + a.size) → tfind t.hbm x = tfind s.hbm x)
              ∧ (∀ k, a.base / 4096 ≤ k → k < (a.base + a.size) / 4096 → tagOf t k = unwrittenTag) ∧ ∀ r : PartIx, r ≠ p → t.parts[r] = s.parts[r])))
    ∧ (RunsCmd s 0x92 c → ∀ a, (s.parts[p]).allot = some a → let q := s.parts[p]
      (q.st ≠ .empty ∨ q.inGroup = true ∨ q.twin ≠ .none → Ends (exec .partDestroy s) s 0x500B [])
      ∧ (q.st = .empty → q.inGroup = false → q.twin = .none → ∃ t, Ends (exec .partDestroy s) t 0 [] ∧ (t.parts[p]).allot = none
          ∧ (∀ x, a.base ≤ x → x < a.base + a.size → tfind t.hbm x = none) ∧ (∀ k ∈ t.boot.keys, k.part ≠ p)
          ∧ (∀ (d : DieIx) (x : Nat), a.hallBase.getD d.val 0 ≤ x → x < a.hallBase.getD d.val 0 + a.hallSize.getD d.val 0 → tfind t.hall[d] x = none)))

/-- The debug, trace and counter commands (R444 to R446, R450, R453, R459 to R463, R466 to R468; tables DB-4, DB-11 to DB-13). A nonce is fresh and
free; in a device with an owner one record of the owner unlocks D1 to D3; an unlock to a level that holds already succeeds (log entry 102). -/
def Obligations.DebugCommands : Prop :=
  ∀ (s : State) (c : Cmd), let d := s.dbg
    (RunsCmd s 0xA0 c → ∃ t n, Ends (exec .dbgChallenge s) t 0 (n.map (·.toNat)) ∧ n.length = 4
      ∧ t = { s with freeIx := t.freeIx, dbg := { d with nonce := some n } })
    ∧ (RunsCmd s 0xA1 c → ∀ x y : AuthProof,
      (argOf c 1 = 0 ∨ 2 < argOf c 1 → Ends (exec (.dbgUnlock x y) s) s 5 [])
      ∧ (1 ≤ argOf c 1 → argOf c 1 ≤ 2 → inXfer (argOf c 0) (8720 * argOf c 1) = false → Ends (exec (.dbgUnlock x y) s) s 0x500C [])
      ∧ (argOf c 1 = 1 → inXfer (argOf c 0) 8720 = true → lcOf s = 2 →
        let r := parseAuth (tgetMany 0 s.boot.sram (argOf c 0) 8720) x
        let current := d.nonce = some r.nonce
        let good := r.magic = 0x44424155 ∧ r.format = 1 ∧ r.serial = s.fuses.serial.toNat ∧ r.count = s.boot.bootCount ∧ current
          ∧ 1 ≤ r.level ∧ r.level ≤ 3 ∧ r.signer = 2 ∧ x.keys = true ∧ x.sigs = true
        let spent := { s with dbg := { d with nonce := none } }
        let free := ∀ p : PartIx, (s.parts[p]).inGroup = false ∧ (s.parts[p]).twin = .none
        (r.level ≤ 3 → ¬ good → (current → Ends (exec (.dbgUnlock x y) s) spent 0x6001 []) ∧ (¬ current → Ends (exec (.dbgUnlock x y) s) s 0x6001 []))
        ∧ (good → d.level < r.level → r.level = 3 → ¬ free → Ends (exec (.dbgUnlock x y) s) spent 0x6003 [])
        ∧ (good → d.level < r.level → (r.level = 3 → free) → ∃ t, Ends (exec (.dbgUnlock x y) s) t 0 [r.level]
            ∧ t.dbg = { d with nonce := none, level := r.level, unlockSrc := 1 } ∧ reported t 0x60 0xF [d.level, r.level, 1])
        ∧ (good → r.level ≤ d.level → Ends (exec (.dbgUnlock x y) s) spent 0 [d.level])))
    ∧ (RunsCmd s 0xA2 c → (d.level < argOf c 0 → Ends (exec .dbgLock s) s 5 [])
      ∧ (argOf c 0 = d.level → Ends (exec .dbgLock s) s 0 [d.level])
      ∧ (argOf c 0 < d.level → ∃ t, Ends (exec .dbgLock s) t 0 [argOf c 0] ∧ t.dbg.level = argOf c 0 ∧ t.dbg.unlockSrc = d.unlockSrc
          ∧ reported t 0x60 0xF [d.level, argOf c 0, d.unlockSrc]))
    ∧ (RunsCmd s 0xA3 c → (d.level < 3 → Ends (exec .dbgHalt s) s 0x6002 [])
      ∧ (3 ≤ d.level → s.pwr.pstate = 3 → Ends (exec .dbgHalt s) s 0x6005 [])
      ∧ (3 ≤ d.level → s.pwr.pstate ≠ 3 → d.halted = true ∨ d.halting = true → Ends (exec .dbgHalt s) s 0 [])
      ∧ (3 ≤ d.level → s.pwr.pstate ≠ 3 → d.halted = false → d.halting = false → ∃ t time, Ends (exec .dbgHalt s) t 0 [time] ∧ s.rtime ≤ time
          ∧ t = { s with rtime := t.rtime, freeIx := t.freeIx, egress := t.egress, trc := t.trc, dbg := { d with halting := true, haltCause := 1 } }))
    ∧ (RunsCmd s 0xA4 c → (d.level < 3 → Ends (exec .dbgResume s) s 0x6002 [])
      ∧ (3 ≤ d.level → s.pwr.pstate = 3 → Ends (exec .dbgResume s) s 0x6005 [])
      ∧ (3 ≤ d.level → s.pwr.pstate ≠ 3 → d.halted = false → Ends (exec .dbgResume s) s 0 [])
      ∧ (3 ≤ d.level → s.pwr.pstate ≠ 3 → d.halted = true → ∃ t, Ends (exec .dbgResume s) t 0 [] ∧ t.dbg.halted = false ∧ t.dbg.haltCause = 0
          ∧ ∀ dom x, tfind d.stops dom = some x → x.cause = 0 → tfind t.dbg.stops dom = none))
    ∧ (RunsCmd s 0xA5 c → (d.level < 3 → Ends (exec .dbgScan s) s 0x6002 [])
      ∧ (3 ≤ d.level → argOf c 1 < argOf c 0 ∨ 0xFFFF < argOf c 1 → Ends (exec .dbgScan s) s 5 [])
      ∧ (3 ≤ d.level → argOf c 0 = argOf c 1 → argOf c 1 ≤ 0xFFFF → s.pwr.pstate ≠ 3 →
        (d.halted = false → s.pwr.pstate ≠ 2 → Ends (exec .dbgScan s) s 0x6004 [])
        ∧ (d.halted = false → s.pwr.pstate = 2 → tracing s = true → argOf c 0 = 0x3000 → Ends (exec .dbgScan s) s 0x6005 [])
        ∧ (d.halted = true → tracing s = false → Ends (exec .dbgScan s) s 0x6007 [])
        ∧ (d.halted = true → tracing s = true →
            (argOf c 0 = 0x20C → Ends (exec .dbgScan s) s 0x6006 [])
            ∧ (argOf c 0 = 0 → ∃ t, Ends (exec .dbgScan s) t 0 [24 * d.stops.length]
                ∧ t = { s with rtime := t.rtime, freeIx := t.freeIx, egress := t.egress, trc := t.trc }))))
    ∧ (RunsCmd s 0xA6 c → (d.level < 1 → Ends (exec .trcMark s) s 0x6002 []) ∧ (1 ≤ d.level → s.pwr.pstate = 3 → Ends (exec .trcMark s) s 0x6005 [])
      ∧ (1 ≤ d.level → s.pwr.pstate ≠ 3 → ∃ t, Ends (exec .trcMark s) t 0 []
          ∧ t = { s with rtime := t.rtime, freeIx := t.freeIx, egress := t.egress, trc := t.trc }))
    ∧ (RunsCmd s 0xA7 c → let i := argOf c 0 % 16
      (argOf c 0 / 16 % 2 = 1 → c.master = .host → ∀ coin, Ends (exec (.cntRead coin) s) s 3 [])
      ∧ (argOf c 0 / 16 % 2 = 1 → c.master ≠ .host → i ∉ [0, 1, 11, 12] → ∃ t v, Ends (exec (.cntRead false) s) t 0 [v]
          ∧ t = { s with cnt := t.cnt, rtime := t.rtime, freeIx := t.freeIx } ∧ t.cnt.gFresh = false
          ∧ v % 2 ^ 62 = tget 0 (if s.pwr.pstate = 3 then s.cnt.gSlept else s.cnt.g) i / gUnit i % 2 ^ 62 ∧ v / 2 ^ 63 = 0)
      ∧ (argOf c 0 / 16 % 2 = 0 → ∀ p, partOfCmd s c = some p →
          (lcOf s ≠ 2 ∨ 4 ≤ d.level → ∀ coin, Ends (exec (.cntRead coin) s) s 0x6005 [])
          ∧ (lcOf s = 2 → d.level < 4 → i ∉ [4, 5, 15] → ∃ t v, Ends (exec (.cntRead false) s) t 0 [v]
              ∧ t = { s with cnt := t.cnt, freeIx := t.freeIx } ∧ t.cnt.pFresh[p] = false
              ∧ v % 2 ^ 62 = tget 0 (if s.pwr.pstate = 3 then s.cnt.pSlept[p] else s.cnt.p[p]) i / pUnit i % 2 ^ 62 ∧ v / 2 ^ 63 = 0)))
    ∧ (RunsCmd s 0xA8 c → partOfCmd s c = none → c.master ≠ .host → ∀ coin,
      (inXfer (argOf c 0) 128 = false → Ends (exec (.cntSnapshot coin) s) s 0x500C [])
      ∧ (inXfer (argOf c 0) 128 = true → ∃ t, Ends (exec (.cntSnapshot coin) s) t 0 [128]
          ∧ t = { s with cnt := t.cnt, rtime := t.rtime, freeIx := t.freeIx, boot := { s.boot with sram := t.boot.sram } }))
    ∧ (RunsCmd s 0xA9 c → let part := argOf c 0 % 2 = 1
      (partOfCmd s c = none → part → Ends (exec .cntClear s) s 2 [])
      ∧ (∀ p, partOfCmd s c = some p → ∃ t, Ends (exec .cntClear s) t 0 [] ∧ t = { s with cnt := t.cnt, rtime := t.rtime, freeIx := t.freeIx }
          ∧ t.cnt.p[p] = (if part then [] else s.cnt.p[p]) ∧ t.cnt.g = (if argOf c 0 / 2 % 2 = 1 then [] else s.cnt.g)
          ∧ (part → t.cnt.pFresh[p] = true ∧ ∀ i, i ∉ [4, 5, 15] → tget 0 t.cnt.pDone[p] i = tget 0 s.cnt.p[p] i) ∧ ∀ q : PartIx, q ≠ p → t.cnt.p[q] = s.cnt.p[q]))
    ∧ (s.pwr.powered = true → s.pwr.lost = false → s.trc.enable = true → ∃ t, exec .sync s = .next t
      ∧ t = { s with trc := t.trc, rtime := t.rtime, freeIx := t.freeIx, egress := t.egress } ∧ t.trc.cfg = s.trc.held.getD s.trc.cfg ∧ t.trc.held = none
      ∧ (tracing s = true → t.trc.queue = [] ∧ t.trc.first = false))
    ∧ (timersHeld s = false → tracing s = true → s.trc.cfg.cntPeriod ≠ 0 → s.pwr.pstate < 2 → asleep s mgmtDom = false → ∀ coin, ∃ t,
      exec (.counterSample coin) s = .next t ∧ t = { s with cnt := t.cnt, trc := t.trc, rtime := t.rtime, freeIx := t.freeIx, egress := t.egress }
      ∧ (s.egress.length < t.egress.length ∨ t.trc.owedCounter ≠ 0))

/-- The test access port (R449, R450, R463; table DB-3): an instruction whose level has not been reached selects bypass and sets TAP_DENIED; each other
one is selected and its data register acts. What the boundary cells capture is free, what is shifted into them drives the pins under EXTEST and
CLAMP; the manufacturer identity is free; a halt that is in progress or holds
stays. -/
def Obligations.TestAccessPort : Prop :=
  ∀ s : State, s.pwr.powered = true → let d := s.dbg
    let sel := fun (code : Nat) => { s with dbg := { d with tapIr := code } }
    let out := fun (code : Nat) (bits : List Bool) => { s with dbg := { d with tapIr := code }, egress := s.egress ++ [.tdo bits] }
    let drives := fun (t : State) (l : Option (List Bool)) => { t with egress := t.egress ++ [.pins l] }
    let denied := { s with dbg := { d with tapIr := 0xFF, tapDenied := true } }
    (d.level < 4 → (∀ bits n, exec (.extest bits) s = .next denied ∧ exec (.sel1500 n) s = .next denied)
      ∧ exec .clamp s = .next denied ∧ exec .highz s = .next denied)
    ∧ (d.level < 3 → (∀ v, exec (.halt v) s = .next denied ∧ exec (.resume v) s = .next denied)
      ∧ (∀ k, exec (.scanSel k) s = .next denied) ∧ ∀ n, exec (.scanData n) s = .next denied)
    ∧ (∀ n, let took := fun (code : Nat) (bits : List Bool) => { out code bits with freeIx := s.freeIx + (n + 7) / 8 }
      let holds := fun (t : State) (l : List Bool) => { t with dbg := { t.dbg with boundary := l } }
      (∀ l : List Bool, l.length = n → ∃ bits, bits.length = n ∧ exec (.samplePreload l) s = .next (holds (took 0x02 bits) l)
        ∧ (4 ≤ d.level → exec (.extest l) s = .next (drives (holds (took 0x00 bits) l) (some l))))
      ∧ (4 ≤ d.level → ∃ bits, bits.length = n ∧ exec (.sel1500 n) s = .next (took 0x16 bits)))
    ∧ (4 ≤ d.level → exec .clamp s = .next { sel 0x03 with egress := s.egress ++ [.pins (some d.boundary), .tdo [false]] }
        ∧ exec .highz s = .next { sel 0x04 with egress := s.egress ++ [.pins none, .tdo [false]] })
    ∧ exec .bypass s = .next (out 0xFF [false])
    ∧ (∃ bits, exec .idcode s = .next (out 0x01 bits) ∧ bits.length = 32 ∧ bits.getD 0 false = true
      ∧ (∀ j, j < 16 → bits.getD (12 + j) false = Nat.testBit 0x0720 j) ∧ ∀ j, j < 4 → bits.getD (28 + j) false = Nat.testBit 1 j)
    ∧ (∃ bits, exec .tapDbgStatus s = .next (out 0x11 bits) ∧ bits.length = 64 ∧ ∀ j, j < 64 → bits.getD j false = Nat.testBit (dbgStatus s) j)
    ∧ (∀ (bytes : List Byte) (x y : AuthProof), let r := parseAuth (bytes.take 8720) x
      leNat ((bytes.drop 8720).take 4) = 0 →
        (r.magic = 0 → exec (.dbgAuth bytes x y) s = .next (sel 0x10))
        ∧ (r.magic ≠ 0 → d.nonce ≠ some r.nonce → exec (.dbgAuth bytes x y) s = .next (sel 0x10))
        ∧ (r.magic = 0x44424155 → r.format = 1 → r.serial = s.fuses.serial.toNat → r.count = s.boot.bootCount → d.nonce = some r.nonce → x.keys = true →
            x.sigs = true → lcOf s = 2 → minimal s = false → r.signer = 2 → d.level < r.level → r.level ≤ 2 → ∃ t, exec (.dbgAuth bytes x y) s = .next t
              ∧ t.dbg = { d with tapIr := 0x10, nonce := none, level := r.level, unlockSrc := 2 } ∧ reported t 0x60 0xF [d.level, r.level, 2]))
    ∧ (3 ≤ d.level →
      exec (.halt false) s = .next (sel 0x12) ∧ exec (.resume false) s = .next (sel 0x13)
      ∧ (d.halted = true ∨ d.halting = true → exec (.halt true) s = .next (sel 0x12))
      ∧ (d.halted = false → d.halting = false → ∃ t, exec (.halt true) s = .next t
          ∧ t = { s with rtime := t.rtime, freeIx := t.freeIx, egress := t.egress, trc := t.trc, dbg := { d with tapIr := 0x12, halting := true, haltCause := 2 } })
      ∧ (d.halted = false → exec (.resume true) s = .next (sel 0x13))
      ∧ (d.halted = true → ∃ t, exec (.resume true) s = .next t ∧ t.dbg.halted = false ∧ t.dbg.tapIr = 0x13
          ∧ ∀ dom x, tfind d.stops dom = some x → x.cause = 0 → tfind t.dbg.stops dom = none)
      ∧ (∀ k : BitVec 16, exec (.scanSel k) s = .next { s with dbg := { d with tapIr := 0x14, tapScan := k.toNat } })
      ∧ ∀ n, (scannable s d.tapScan = false → exec (.scanData n) s = .next (out 0x15 [false]))
          ∧ (scannable s d.tapScan = true → d.tapScan = 0 → ∃ bits, bits.length = n ∧ exec (.scanData n) s = .next (out 0x15 bits)))

/-- The control address map and its registers (R8, R11, R20, R23, R30, R51, R53, R235, R379, R392, R415, R438, R465, R471; tables PK-5, PK-13, PC-5, SC-4): a failing access is
dropped or reads all ones in its width, and is recorded; a host write below BAR2 outside the PKG window has no effect; a word of management SRAM
keeps what is written; a read of the flash window answers its bytes, a write there is dropped; ownership of the mailbox; PKG_STATUS and PKG_MBOX_STATUS answer and clear; registers whose write takes a snapshot; arming
and disarming a dump trigger; a class B field (CC_CTRL) that is written while the core's partition is active is held, a class S field (MA_CTRL,
DBG_DUMP_CFG) then is refused. That BAR2 stands after the 40-bit addresses is log entry 207. -/
def Obligations.RegisterAccesses : Prop :=
  ∀ s : State, asleep s mgmtDom = false → s.pwr.testHold = false →
    let ans := fun (w : Word) => { s with egress := s.egress ++ [Out.answer w] }
    let m := s.mbox
    let q := s.pkg
    let fails := fun (k a : Nat) => { q with errCount := min (q.errCount + 1) 255, accessErr := true, errKind := if q.accessErr then q.errKind else k
                                             errAddr := if q.accessErr then q.errAddr else a }
    let ones := fun (n : Nat) => if n = 8 then Out.answer (BitVec.allOnes 64) else Out.bytes (List.replicate n 0xFF)
    (∀ (i : Fin 12) (a : Nat) (bytes : List Byte) (k : Nat), accessFail s a bytes.length = some k →
      exec (.registerWrite (.mgmt i) a bytes) s = .next { s with pkg := fails k a }
      ∧ exec (.failingRead a bytes.length) s = .next { s with pkg := fails k a, egress := s.egress ++ [ones bytes.length] })
    ∧ (∀ o n, n ≠ 8 → o < 0x10000000 → accessFail s (0x10000000 + o) n = none → exec (.failingRead (0x10000000 + o) n) s
        = .next { s with egress := s.egress ++ [Out.bytes (tgetMany 0xFF s.boot.flash o n)] })
    ∧ (∀ (i : Fin 12) (o : Nat) (bytes : List Byte), o < 0x10000000 → accessFail s (0x10000000 + o) bytes.length = none →
      exec (.registerWrite (.mgmt i) (0x10000000 + o) bytes) s = .next s)
    ∧ (∀ a, 0x40000 ≤ a → a < 0x400000 → accessFail s a 8 = some 0) ∧ (∀ a, a % 8 = 4 → 0x1000000 ≤ a → a < 0x1000040 → accessFail s a 8 = some 3)
    ∧ (∀ (i : Fin 12) (o : Nat) (w : Word), o % 8 = 0 → o < 0x400000 → ∃ t, exec (.registerWrite (.mgmt i) (0x400000 + o) (leBytes 8 w.toNat)) s = .next t
      ∧ t = { s with boot := { s.boot with sram := t.boot.sram } } ∧ leNat (tgetMany 0 t.boot.sram o 8) = w.toNat
      ∧ ∀ x, x < o ∨ o + 8 ≤ x → tget 0 t.boot.sram x = tget 0 s.boot.sram x)
    ∧ (∀ (a : Nat) (w : Word), a < 2 ^ 40 → a < 0x1000000 ∨ 0x1010000 ≤ a → exec (.registerWrite .host a (leBytes 8 w.toNat)) s = .next s)
    ∧ (∀ (n : CoreIx) (w : Word), s.pkg.ucie[dieOfCore n] = true → s.pwr.pstate ≠ 3 → ∃ t,
      exec (.registerWrite (.mgmt 0) (addrOf (.cc n)) (leBytes 8 w.toNat)) s = .next t ∧ t = { s with cores := t.cores } ∧ (∀ j, j ≠ n → t.cores[j] = s.cores[j])
        ∧ t.cores[n] = (let c := s.cores[n]; let wl := wfield w 47 32; let qu := wfield w 15 0
            if coreRuns s n then { c with waitHeld := (if wl = c.waitLimit then none else some wl), quantumHeld := (if qu = c.quantum then none else some qu) }
            else { c with waitLimit := wl, waitHeld := none, quantum := qu, quantumHeld := none }))
    ∧ (∀ (n : CoreIx) (k : Fin 4) (w : Word), s.pkg.ucie[dieOfCore n] = true → s.pwr.pstate ≠ 3 → coreRuns s n = true → wbit w 1 ≠ ((s.cores[n]).arrays[k]).regs.parity →
      ∃ t, exec (.registerWrite (.mgmt 0) (addrOf (.ma n k)) (leBytes 8 w.toNat)) s = .next t ∧ t = { s with cores := t.cores }
        ∧ ((t.cores[n]).arrays[k]).regs.parity = ((s.cores[n]).arrays[k]).regs.parity ∧ ((t.cores[n]).arrays[k]).regs.refused = true)
    ∧ (∀ i : Fin 12, exec (.pkgStatus (.mgmt i) .read) s = .next { (ans (word (pkgStatus s))) with pkg := { q with errCount := 0 } }
      ∧ exec (.pkgMboxStatus (.mgmt i)) s = .next { (ans (word (mboxStatus s))) with mbox := { m with rejects := 0 } }
      ∧ ∀ v, exec (.pkgStatus (.mgmt i) (.write v)) s = .next { s with pkg := { q with accessErr := q.accessErr && !v.getLsbD 2 } })
    ∧ (s.pcie.up = true → exec (.pkgStatus .host .read) s = .next { (ans (word (pkgStatus s))) with pkg := { q with errCount := 0 } }
      ∧ exec (.pkgMboxStatus .host) s = .next { (ans (word (mboxStatus s))) with mbox := { m with rejects := 0 } })
    ∧ (∀ (i : Fin 12) (v : Word), let own := fun (o : Nat) (p : Bool) => (.next { s with mbox := { m with owner := o, preempt := p } } : Res)
      (v.toNat % 4 = 1 → m.owner = 0 → exec (.secMboxOwner (.mgmt i) v) s = own 1 m.preempt)
      ∧ (v.toNat % 4 = 1 → m.owner = 2 → exec (.secMboxOwner (.mgmt i) v) s = if m.busy then own 2 true else own 1 false)
      ∧ (v.toNat % 4 = 0 → m.owner = 1 → exec (.secMboxOwner (.mgmt i) v) s = own 0 m.preempt)
      ∧ (v.toNat % 4 = 2 → exec (.secMboxOwner (.mgmt i) v) s = .next s) ∧ (v.toNat % 4 = 0 → m.owner = 2 → exec (.secMboxOwner (.mgmt i) v) s = .next s)
      ∧ (s.pcie.up = true → (v.toNat % 4 = 2 → m.owner = 0 → exec (.secMboxOwner .host v) s = own 2 m.preempt)
          ∧ (v.toNat % 4 = 0 → m.owner = 2 → m.preempt = false → exec (.secMboxOwner .host v) s = own 0 false)
          ∧ (v.toNat % 4 = 0 → m.owner = 2 → m.preempt = true → m.busy = false → exec (.secMboxOwner .host v) s = own 1 false)
          ∧ (v.toNat % 4 = 1 → exec (.secMboxOwner .host v) s = .next s)))
    ∧ (∀ (d : DieIx) (v : Word), s.pkg.ucie[d] = true → s.pwr.pstate ≠ 3 → let i := v.toNat % 2 ^ 13
      let x := { s.sluices[d] with sel := i, info0 := word (ctxInfo0 s d i), info1 := word (ctxInfo1 s d i) }
      exec (.slcCtxSel d v) s = .next { s with sluices := s.sluices.set d.val x d.isLt })
    ∧ (∀ (d : PortDieIx) (v : Word), d.val < portDies s → s.pkg.portLink[d] = true →
      let x := { s.fab.dies[d] with routeSel := v.toNat % 2 ^ 32, routeData := tget 0 s.fab.routes (v.toNat % 2 ^ 16) }
      exec (.fabRouteSel d v) s = .next { s with fab := { s.fab with dies := s.fab.dies.set d.val x d.isLt } })
    ∧ (∀ v : Word, (∀ e, s.dbg.stops[v.toNat % 256]? = some e →
        exec (.dbgStopSel v) s = .next { s with dbg := { s.dbg with stopSel := v.toNat, stopCount := e.2.count, stopTime := e.2.time } })
      ∧ (s.dbg.stops[v.toNat % 256]? = none → exec (.dbgStopSel v) s = .next { s with dbg := { s.dbg with stopSel := v.toNat, stopCount := 0, stopTime := 0 } }))
    ∧ (∀ (c : CellarIx) (v : Word), c.val < nStacks s → s.pkg.cellarLink[c] = true → ∃ t, exec (.celTemp c v) s = .next t ∧ t = { s with cellars := t.cellars }
      ∧ t.cellars[c] = { s.cellars[c] with peak := (s.cellars[c]).temp } ∧ ∀ j, j ≠ c → t.cellars[j] = s.cellars[j])
    ∧ (∀ v, exec (.pwrPower v) s = .next { s with pwr := { s.pwr with peak := min (s.pwr.samples.headD 0) 0xFFFF } })
    ∧ (∀ (i : Fin 4) (v : Word), let d := s.dbg.dumps[i]
      let put := fun (x : Dump) => { s with dbg := { s.dbg with dumps := s.dbg.dumps.set i.val x i.isLt } }
      let f := dumpFields d 0 v
      (d.state ≠ 1 → d.state ≠ 2 → d.enable = false → v.getLsbD 0 = true →
        exec (.dbgDumpCfg i v) s = .next (put { f with enable := true, state := 1, seen := [], lost := 0 }))
      ∧ (d.state = 1 → d.enable = true → v.getLsbD 0 = true → f ≠ d → exec (.dbgDumpCfg i v) s = .next { s with dbg := { s.dbg with refused := true } })
      ∧ (d.state = 1 → d.enable = true → v.getLsbD 0 = false → f = d → exec (.dbgDumpCfg i v) s = .next (put { d with enable := false, state := 0, seen := [] })))

/-- The error and count registers (R8; tables SC-3, MA-11, VE-15, ST-12, CM-11, UP-6, UP-7, SP-18, SE-16, FB-20, FB-22, CK-14, DB-20, PW-12): a read answers the register
and clears its RC fields; a write of 1 clears a W1C bit, and 0 keeps it; nothing else changes. The registers of the dies answer while their
links are up. -/
def Obligations.ErrorRegisters : Prop :=
  ∀ s : State, asleep s mgmtDom = false → s.pwr.testHold = false →
    let ans := fun (t : State) (n : Nat) => (.next { t with egress := s.egress ++ [Out.answer (word n)] } : Res)
    let keep := fun (b : Bool) (v : Word) (i : Nat) => b && !v.getLsbD i
    (∀ n : CoreIx, s.pkg.ucie[dieOfCore n] = true → s.pwr.pstate ≠ 3 → let c := s.cores[n]
      let put := fun (c : Core) => { s with cores := s.cores.set n.val c n.isLt }
      (∀ k : Fin 4, let a := c.arrays[k]
        let r := a.regs
        let arr := fun (r : MaRegs) => put { c with arrays := c.arrays.set k.val { a with regs := r } k.isLt }
        exec (.maErr n k .read) s = ans (arr { r with corrCount := 0 }) (maErr r)
        ∧ ∀ v, exec (.maErr n k (.write v)) s = .next (arr { r with uncorr := keep r.uncorr v 2, corr := keep r.corr v 1, parityErr := keep r.parityErr v 0 }))
      ∧ exec (.veErr n .read) s = ans (put { c with ve := { c.ve with corrCount := 0 } }) (veErr c.ve)
      ∧ ∀ v, exec (.veErr n (.write v)) s = .next (put { c with ve := { c.ve with
          chainPar := keep c.ve.chainPar v 3, uncorr := keep c.ve.uncorr v 2, corr := keep c.ve.corr v 1, lanePar := keep c.ve.lanePar v 0 } }))
    ∧ (∀ d : DieIx, s.pkg.ucie[d] = true → s.pwr.pstate ≠ 3 → let q := s.sluices[d]
      exec (.slcTokens d) s = ans { s with sluices := s.sluices.set d.val { q with dup := 0, stale := 0 } d.isLt } (place q.dup 47 32 + place q.stale 15 0))
    ∧ (∀ c : CellarIx, c.val < nStacks s → s.pkg.cellarLink[c] = true → let x := s.cellars[c]
      let u := x.upd
      let put := fun (x : Cellar) => { s with cellars := s.cellars.set c.val x c.isLt }
      exec (.celErr c .read) s = ans (put { x with retryOk := 0 }) (celErr x)
      ∧ (∀ v, exec (.celErr c (.write v)) s = .next (put { x with
          pcExhausted := keep x.pcExhausted v 7, scrubCrc := keep x.scrubCrc v 6, hbmUncorr := keep x.hbmUncorr v 5, unwritten := keep x.unwritten v 4
          versionErr := keep x.versionErr v 3, foldErr := keep x.foldErr v 2, crcErr := keep x.crcErr v 1, lost := keep x.lost v 0 }))
      ∧ exec (.updErr c .read) s = ans (put { x with upd := { u with corrCount := 0 } }) (updErr u)
      ∧ (∀ v, exec (.updErr c (.write v)) s = .next (put { x with upd := { u with
          poolExhausted := keep u.poolExhausted v 3, lanePar := keep u.lanePar v 2, stagingUnc := keep u.stagingUnc v 1, stagingCorr := keep u.stagingCorr v 0 } }))
      ∧ exec (.updDiscards c) s = ans (put { x with upd := { u with refused := 0, unlisted := 0, stale := 0, dup := 0 } })
          (place u.refused 63 48 + place u.unlisted 47 32 + place u.stale 31 16 + place u.dup 15 0))
    ∧ (∀ p : PartIx, let x := s.parts[p]
      let put := fun (x : Part) => { s with parts := s.parts.set p.val x p.isLt }
      exec (.stpErr p .read) s = ans (put { x with staleCount := 0, badTokenCount := 0 }) (stpErr x)
      ∧ (∀ v, exec (.stpErr p (.write v)) s = .next (put { x with
          repairFailed := keep x.repairFailed v 4, vestFull := keep x.vestFull v 3, twinLostErr := keep x.twinLostErr v 2
          commitTimeoutErr := keep x.commitTimeoutErr v 1, badToken := keep x.badToken v 0 }))
      ∧ exec (.sedCount p) s = ans { s with sed := { s.sed with counts := s.sed.counts.set p.val ⟨0, 0, 0⟩ p.isLt } }
          (place (s.sed.counts[p]).compared 63 40 + place (s.sed.counts[p]).ineligible 39 16 + place (s.sed.counts[p]).disagreed 15 0)
      ∧ exec (.ckpErr p .read) s = ans (put { x with ckp := { x.ckp with skipCount := 0 } }) (ckpErr x.ckp)
      ∧ ∀ v, exec (.ckpErr p (.write v)) s = .next (put { x with ckp := { x.ckp with
          restoreFailed := keep x.ckp.restoreFailed v 2, abandoned := keep x.ckp.abandoned v 1, skipped := keep x.ckp.skipped v 0 } }))
    ∧ (∀ d : PortDieIx, d.val < portDies s → s.pkg.portLink[d] = true → let x := s.fab.dies[d]
      exec (.fabDiscards d) s = ans { s with fab := { s.fab with dies := s.fab.dies.set d.val { x with stale := 0, noRoute := 0, hopCount := 0, noTarget := 0 } d.isLt } }
        (place x.stale 63 48 + place x.noRoute 47 32 + place x.hopCount 31 16 + place x.noTarget 15 0)
      ∧ ∀ f : PortIx, portDieOf f = d → let y := s.fab.ports[f]
        exec (.fabFec f) s = ans { s with fab := { s.fab with ports := s.fab.ports.set f.val { y with corrected := 0, uncorr := 0, nacks := 0 } f.isLt } }
          (place y.corrected 63 32 + place y.uncorr 31 16 + place y.nacks 15 0))
    ∧ exec .trcLost s = ans { s with trc := { s.trc with lostFlow := 0, lostEvent := 0, lostCounter := 0 } }
        (place s.trc.lostCounter 47 32 + place s.trc.lostEvent 31 16 + place s.trc.lostFlow 15 0)
    ∧ exec (.pwrErr .read) s = ans { s with pwr := { s.pwr with limitCount := 0 } } (pwrErr s.pwr)
    ∧ (∀ v, exec (.pwrErr (.write v)) s = .next { s with pwr := { s.pwr with
        vrTimeout := keep s.pwr.vrTimeout v 5, current := keep s.pwr.current v 4, electrical := keep s.pwr.electrical v 3
        sustained := keep s.pwr.sustained v 2, thermal := keep s.pwr.thermal v 1, stackB3 := keep s.pwr.stackB3 v 0 } })

/-- The state after reset meets the invariant of the mailbox (R51, R438; tables PC-3 to PC-6, BS-19). -/
def Obligations.ResetHoldsInvariant : Prop := MailboxInv State.reset

/-- Every step keeps the invariant of the mailbox, whatever command it runs (R49 to R51, R438). -/
def Obligations.StepKeepsInvariant : Prop := ∀ s t : State, MailboxInv s → step s = .next t → MailboxInv t
end

