-- ==== Sys2Proof/Laws/State.lean ====
section
/-! SUPPORT. The small lemmas of the state: what each update of a part leaves of every field, and that the part reads back as changed. -/

namespace Sys2Proof.Machine

theorem getElem_set_self' {α : Type} {n : Nat} (v : Vector α n) (i : Fin n) (a : α) : (v.set i.val a i.isLt)[i] = a := by simp

theorem getElem_set_ne' {α : Type} {n : Nat} (v : Vector α n) (i j : Fin n) (a : α) (h : j ≠ i) : (v.set i.val a i.isLt)[j] = v[j] := by
  have : (i : Nat) ≠ j := fun e => h (Fin.ext e.symm)
  simp [this]

/-! ### The changed part -/

/-- A changed core reads back. -/
@[simp] theorem modCore_self (s : State) (n : CoreIx) (f : Core → Core) : (modCore s n f).cores[n] = f s.cores[n] := getElem_set_self' ..

/-- The other cores keep their state. -/
theorem modCore_ne (s : State) (n : CoreIx) (f : Core → Core) (m : CoreIx) (h : m ≠ n) : (modCore s n f).cores[m] = s.cores[m] := getElem_set_ne' _ _ _ _ h

/-- A changed partition reads back. -/
@[simp] theorem modPart_self (s : State) (p : PartIx) (f : Part → Part) : (modPart s p f).parts[p] = f s.parts[p] := getElem_set_self' ..

/-- The other partitions keep their state. -/
theorem modPart_ne (s : State) (p : PartIx) (f : Part → Part) (m : PartIx) (h : m ≠ p) : (modPart s p f).parts[m] = s.parts[m] := getElem_set_ne' _ _ _ _ h

/-- A changed sluice reads back. -/
@[simp] theorem modSluice_self (s : State) (d : DieIx) (f : Sluice → Sluice) : (modSluice s d f).sluices[d] = f s.sluices[d] := getElem_set_self' ..

/-- The other sluices keep their state. -/
theorem modSluice_ne (s : State) (d : DieIx) (f : Sluice → Sluice) (m : DieIx) (h : m ≠ d) : (modSluice s d f).sluices[m] = s.sluices[m] := getElem_set_ne' _ _ _ _ h

/-- A changed cellar die reads back. -/
@[simp] theorem modCellar_self (s : State) (c : CellarIx) (f : Cellar → Cellar) : (modCellar s c f).cellars[c] = f s.cellars[c] := getElem_set_self' ..

/-- The other cellar dies keep their state. -/
theorem modCellar_ne (s : State) (c : CellarIx) (f : Cellar → Cellar) (m : CellarIx) (h : m ≠ c) : (modCellar s c f).cellars[m] = s.cellars[m] := getElem_set_ne' _ _ _ _ h

/-- A changed port reads back. -/
@[simp] theorem modPort_self (s : State) (x : PortIx) (f : Port → Port) : (modPort s x f).fab.ports[x] = f s.fab.ports[x] := getElem_set_self' ..

/-- The other ports keep their state. -/
theorem modPort_ne (s : State) (x : PortIx) (f : Port → Port) (m : PortIx) (h : m ≠ x) : (modPort s x f).fab.ports[m] = s.fab.ports[m] := getElem_set_ne' _ _ _ _ h

/-- A changed port die reads back. -/
@[simp] theorem modPortDie_self (s : State) (d : PortDieIx) (f : PortDie → PortDie) : (modPortDie s d f).fab.dies[d] = f s.fab.dies[d] := getElem_set_self' ..

/-- The other port dies keep their state. -/
theorem modPortDie_ne (s : State) (d : PortDieIx) (f : PortDie → PortDie) (m : PortDieIx) (h : m ≠ d) : (modPortDie s d f).fab.dies[m] = s.fab.dies[m] := getElem_set_ne' _ _ _ _ h

@[simp] theorem modPkg_pkg (s : State) (f : Pkg → Pkg) : (modPkg s f).pkg = f s.pkg := rfl

@[simp] theorem modMbox_mbox (s : State) (f : Mbox → Mbox) : (modMbox s f).mbox = f s.mbox := rfl

@[simp] theorem modBoot_boot (s : State) (f : Boot → Boot) : (modBoot s f).boot = f s.boot := rfl

@[simp] theorem modPwr_pwr (s : State) (f : Pwr → Pwr) : (modPwr s f).pwr = f s.pwr := rfl

@[simp] theorem modSed_sed (s : State) (f : Sed → Sed) : (modSed s f).sed = f s.sed := rfl

@[simp] theorem modI3c_i3c (s : State) (f : I3c → I3c) : (modI3c s f).i3c = f s.i3c := rfl

/-! ### Changing a core changes no other field -/

@[simp] theorem modCore_fuses (s : State) (n : CoreIx) (f : Core → Core) : (modCore s n f).fuses = s.fuses := rfl
@[simp] theorem modCore_pkg (s : State) (n : CoreIx) (f : Core → Core) : (modCore s n f).pkg = s.pkg := rfl
@[simp] theorem modCore_mbox (s : State) (n : CoreIx) (f : Core → Core) : (modCore s n f).mbox = s.mbox := rfl
@[simp] theorem modCore_hall (s : State) (n : CoreIx) (f : Core → Core) : (modCore s n f).hall = s.hall := rfl
@[simp] theorem modCore_sluices (s : State) (n : CoreIx) (f : Core → Core) : (modCore s n f).sluices = s.sluices := rfl
@[simp] theorem modCore_toks (s : State) (n : CoreIx) (f : Core → Core) : (modCore s n f).toks = s.toks := rfl
@[simp] theorem modCore_cellars (s : State) (n : CoreIx) (f : Core → Core) : (modCore s n f).cellars = s.cellars := rfl
@[simp] theorem modCore_hbm (s : State) (n : CoreIx) (f : Core → Core) : (modCore s n f).hbm = s.hbm := rfl
@[simp] theorem modCore_tags (s : State) (n : CoreIx) (f : Core → Core) : (modCore s n f).tags = s.tags := rfl
@[simp] theorem modCore_vmap (s : State) (n : CoreIx) (f : Core → Core) : (modCore s n f).vmap = s.vmap := rfl
@[simp] theorem modCore_keyEpochs (s : State) (n : CoreIx) (f : Core → Core) : (modCore s n f).keyEpochs = s.keyEpochs := rfl
@[simp] theorem modCore_freed (s : State) (n : CoreIx) (f : Core → Core) : (modCore s n f).freed = s.freed := rfl
@[simp] theorem modCore_reqs (s : State) (n : CoreIx) (f : Core → Core) : (modCore s n f).reqs = s.reqs := rfl
@[simp] theorem modCore_nextReq (s : State) (n : CoreIx) (f : Core → Core) : (modCore s n f).nextReq = s.nextReq := rfl
@[simp] theorem modCore_parts (s : State) (n : CoreIx) (f : Core → Core) : (modCore s n f).parts = s.parts := rfl
@[simp] theorem modCore_fab (s : State) (n : CoreIx) (f : Core → Core) : (modCore s n f).fab = s.fab := rfl
@[simp] theorem modCore_pcie (s : State) (n : CoreIx) (f : Core → Core) : (modCore s n f).pcie = s.pcie := rfl
@[simp] theorem modCore_mgmt (s : State) (n : CoreIx) (f : Core → Core) : (modCore s n f).mgmt = s.mgmt := rfl
@[simp] theorem modCore_i3c (s : State) (n : CoreIx) (f : Core → Core) : (modCore s n f).i3c = s.i3c := rfl
@[simp] theorem modCore_sed (s : State) (n : CoreIx) (f : Core → Core) : (modCore s n f).sed = s.sed := rfl
@[simp] theorem modCore_boot (s : State) (n : CoreIx) (f : Core → Core) : (modCore s n f).boot = s.boot := rfl
@[simp] theorem modCore_dbg (s : State) (n : CoreIx) (f : Core → Core) : (modCore s n f).dbg = s.dbg := rfl
@[simp] theorem modCore_trc (s : State) (n : CoreIx) (f : Core → Core) : (modCore s n f).trc = s.trc := rfl
@[simp] theorem modCore_cnt (s : State) (n : CoreIx) (f : Core → Core) : (modCore s n f).cnt = s.cnt := rfl
@[simp] theorem modCore_pwr (s : State) (n : CoreIx) (f : Core → Core) : (modCore s n f).pwr = s.pwr := rfl
@[simp] theorem modCore_rtime (s : State) (n : CoreIx) (f : Core → Core) : (modCore s n f).rtime = s.rtime := rfl
@[simp] theorem modCore_egress (s : State) (n : CoreIx) (f : Core → Core) : (modCore s n f).egress = s.egress := rfl
@[simp] theorem modCore_freeIx (s : State) (n : CoreIx) (f : Core → Core) : (modCore s n f).freeIx = s.freeIx := rfl
@[simp] theorem modCore_pending (s : State) (n : CoreIx) (f : Core → Core) : (modCore s n f).pending = s.pending := rfl

/-! ### Changing a partition changes no other field -/

@[simp] theorem modPart_fuses (s : State) (p : PartIx) (f : Part → Part) : (modPart s p f).fuses = s.fuses := rfl
@[simp] theorem modPart_pkg (s : State) (p : PartIx) (f : Part → Part) : (modPart s p f).pkg = s.pkg := rfl
@[simp] theorem modPart_mbox (s : State) (p : PartIx) (f : Part → Part) : (modPart s p f).mbox = s.mbox := rfl
@[simp] theorem modPart_cores (s : State) (p : PartIx) (f : Part → Part) : (modPart s p f).cores = s.cores := rfl
@[simp] theorem modPart_hall (s : State) (p : PartIx) (f : Part → Part) : (modPart s p f).hall = s.hall := rfl
@[simp] theorem modPart_sluices (s : State) (p : PartIx) (f : Part → Part) : (modPart s p f).sluices = s.sluices := rfl
@[simp] theorem modPart_toks (s : State) (p : PartIx) (f : Part → Part) : (modPart s p f).toks = s.toks := rfl
@[simp] theorem modPart_cellars (s : State) (p : PartIx) (f : Part → Part) : (modPart s p f).cellars = s.cellars := rfl
@[simp] theorem modPart_hbm (s : State) (p : PartIx) (f : Part → Part) : (modPart s p f).hbm = s.hbm := rfl
@[simp] theorem modPart_tags (s : State) (p : PartIx) (f : Part → Part) : (modPart s p f).tags = s.tags := rfl
@[simp] theorem modPart_vmap (s : State) (p : PartIx) (f : Part → Part) : (modPart s p f).vmap = s.vmap := rfl
@[simp] theorem modPart_keyEpochs (s : State) (p : PartIx) (f : Part → Part) : (modPart s p f).keyEpochs = s.keyEpochs := rfl
@[simp] theorem modPart_freed (s : State) (p : PartIx) (f : Part → Part) : (modPart s p f).freed = s.freed := rfl
@[simp] theorem modPart_reqs (s : State) (p : PartIx) (f : Part → Part) : (modPart s p f).reqs = s.reqs := rfl
@[simp] theorem modPart_nextReq (s : State) (p : PartIx) (f : Part → Part) : (modPart s p f).nextReq = s.nextReq := rfl
@[simp] theorem modPart_fab (s : State) (p : PartIx) (f : Part → Part) : (modPart s p f).fab = s.fab := rfl
@[simp] theorem modPart_pcie (s : State) (p : PartIx) (f : Part → Part) : (modPart s p f).pcie = s.pcie := rfl
@[simp] theorem modPart_mgmt (s : State) (p : PartIx) (f : Part → Part) : (modPart s p f).mgmt = s.mgmt := rfl
@[simp] theorem modPart_i3c (s : State) (p : PartIx) (f : Part → Part) : (modPart s p f).i3c = s.i3c := rfl
@[simp] theorem modPart_sed (s : State) (p : PartIx) (f : Part → Part) : (modPart s p f).sed = s.sed := rfl
@[simp] theorem modPart_boot (s : State) (p : PartIx) (f : Part → Part) : (modPart s p f).boot = s.boot := rfl
@[simp] theorem modPart_dbg (s : State) (p : PartIx) (f : Part → Part) : (modPart s p f).dbg = s.dbg := rfl
@[simp] theorem modPart_trc (s : State) (p : PartIx) (f : Part → Part) : (modPart s p f).trc = s.trc := rfl
@[simp] theorem modPart_cnt (s : State) (p : PartIx) (f : Part → Part) : (modPart s p f).cnt = s.cnt := rfl
@[simp] theorem modPart_pwr (s : State) (p : PartIx) (f : Part → Part) : (modPart s p f).pwr = s.pwr := rfl
@[simp] theorem modPart_rtime (s : State) (p : PartIx) (f : Part → Part) : (modPart s p f).rtime = s.rtime := rfl
@[simp] theorem modPart_egress (s : State) (p : PartIx) (f : Part → Part) : (modPart s p f).egress = s.egress := rfl
@[simp] theorem modPart_freeIx (s : State) (p : PartIx) (f : Part → Part) : (modPart s p f).freeIx = s.freeIx := rfl
@[simp] theorem modPart_pending (s : State) (p : PartIx) (f : Part → Part) : (modPart s p f).pending = s.pending := rfl

/-! ### Changing a sluice changes no other field -/

@[simp] theorem modSluice_fuses (s : State) (d : DieIx) (f : Sluice → Sluice) : (modSluice s d f).fuses = s.fuses := rfl
@[simp] theorem modSluice_pkg (s : State) (d : DieIx) (f : Sluice → Sluice) : (modSluice s d f).pkg = s.pkg := rfl
@[simp] theorem modSluice_mbox (s : State) (d : DieIx) (f : Sluice → Sluice) : (modSluice s d f).mbox = s.mbox := rfl
@[simp] theorem modSluice_cores (s : State) (d : DieIx) (f : Sluice → Sluice) : (modSluice s d f).cores = s.cores := rfl
@[simp] theorem modSluice_hall (s : State) (d : DieIx) (f : Sluice → Sluice) : (modSluice s d f).hall = s.hall := rfl
@[simp] theorem modSluice_toks (s : State) (d : DieIx) (f : Sluice → Sluice) : (modSluice s d f).toks = s.toks := rfl
@[simp] theorem modSluice_cellars (s : State) (d : DieIx) (f : Sluice → Sluice) : (modSluice s d f).cellars = s.cellars := rfl
@[simp] theorem modSluice_hbm (s : State) (d : DieIx) (f : Sluice → Sluice) : (modSluice s d f).hbm = s.hbm := rfl
@[simp] theorem modSluice_tags (s : State) (d : DieIx) (f : Sluice → Sluice) : (modSluice s d f).tags = s.tags := rfl
@[simp] theorem modSluice_vmap (s : State) (d : DieIx) (f : Sluice → Sluice) : (modSluice s d f).vmap = s.vmap := rfl
@[simp] theorem modSluice_keyEpochs (s : State) (d : DieIx) (f : Sluice → Sluice) : (modSluice s d f).keyEpochs = s.keyEpochs := rfl
@[simp] theorem modSluice_freed (s : State) (d : DieIx) (f : Sluice → Sluice) : (modSluice s d f).freed = s.freed := rfl
@[simp] theorem modSluice_reqs (s : State) (d : DieIx) (f : Sluice → Sluice) : (modSluice s d f).reqs = s.reqs := rfl
@[simp] theorem modSluice_nextReq (s : State) (d : DieIx) (f : Sluice → Sluice) : (modSluice s d f).nextReq = s.nextReq := rfl
@[simp] theorem modSluice_parts (s : State) (d : DieIx) (f : Sluice → Sluice) : (modSluice s d f).parts = s.parts := rfl
@[simp] theorem modSluice_fab (s : State) (d : DieIx) (f : Sluice → Sluice) : (modSluice s d f).fab = s.fab := rfl
@[simp] theorem modSluice_pcie (s : State) (d : DieIx) (f : Sluice → Sluice) : (modSluice s d f).pcie = s.pcie := rfl
@[simp] theorem modSluice_mgmt (s : State) (d : DieIx) (f : Sluice → Sluice) : (modSluice s d f).mgmt = s.mgmt := rfl
@[simp] theorem modSluice_i3c (s : State) (d : DieIx) (f : Sluice → Sluice) : (modSluice s d f).i3c = s.i3c := rfl
@[simp] theorem modSluice_sed (s : State) (d : DieIx) (f : Sluice → Sluice) : (modSluice s d f).sed = s.sed := rfl
@[simp] theorem modSluice_boot (s : State) (d : DieIx) (f : Sluice → Sluice) : (modSluice s d f).boot = s.boot := rfl
@[simp] theorem modSluice_dbg (s : State) (d : DieIx) (f : Sluice → Sluice) : (modSluice s d f).dbg = s.dbg := rfl
@[simp] theorem modSluice_trc (s : State) (d : DieIx) (f : Sluice → Sluice) : (modSluice s d f).trc = s.trc := rfl
@[simp] theorem modSluice_cnt (s : State) (d : DieIx) (f : Sluice → Sluice) : (modSluice s d f).cnt = s.cnt := rfl
@[simp] theorem modSluice_pwr (s : State) (d : DieIx) (f : Sluice → Sluice) : (modSluice s d f).pwr = s.pwr := rfl
@[simp] theorem modSluice_rtime (s : State) (d : DieIx) (f : Sluice → Sluice) : (modSluice s d f).rtime = s.rtime := rfl
@[simp] theorem modSluice_egress (s : State) (d : DieIx) (f : Sluice → Sluice) : (modSluice s d f).egress = s.egress := rfl
@[simp] theorem modSluice_freeIx (s : State) (d : DieIx) (f : Sluice → Sluice) : (modSluice s d f).freeIx = s.freeIx := rfl
@[simp] theorem modSluice_pending (s : State) (d : DieIx) (f : Sluice → Sluice) : (modSluice s d f).pending = s.pending := rfl

/-! ### Changing a cellar die changes no other field -/

@[simp] theorem modCellar_fuses (s : State) (c : CellarIx) (f : Cellar → Cellar) : (modCellar s c f).fuses = s.fuses := rfl
@[simp] theorem modCellar_pkg (s : State) (c : CellarIx) (f : Cellar → Cellar) : (modCellar s c f).pkg = s.pkg := rfl
@[simp] theorem modCellar_mbox (s : State) (c : CellarIx) (f : Cellar → Cellar) : (modCellar s c f).mbox = s.mbox := rfl
@[simp] theorem modCellar_cores (s : State) (c : CellarIx) (f : Cellar → Cellar) : (modCellar s c f).cores = s.cores := rfl
@[simp] theorem modCellar_hall (s : State) (c : CellarIx) (f : Cellar → Cellar) : (modCellar s c f).hall = s.hall := rfl
@[simp] theorem modCellar_sluices (s : State) (c : CellarIx) (f : Cellar → Cellar) : (modCellar s c f).sluices = s.sluices := rfl
@[simp] theorem modCellar_toks (s : State) (c : CellarIx) (f : Cellar → Cellar) : (modCellar s c f).toks = s.toks := rfl
@[simp] theorem modCellar_hbm (s : State) (c : CellarIx) (f : Cellar → Cellar) : (modCellar s c f).hbm = s.hbm := rfl
@[simp] theorem modCellar_tags (s : State) (c : CellarIx) (f : Cellar → Cellar) : (modCellar s c f).tags = s.tags := rfl
@[simp] theorem modCellar_vmap (s : State) (c : CellarIx) (f : Cellar → Cellar) : (modCellar s c f).vmap = s.vmap := rfl
@[simp] theorem modCellar_keyEpochs (s : State) (c : CellarIx) (f : Cellar → Cellar) : (modCellar s c f).keyEpochs = s.keyEpochs := rfl
@[simp] theorem modCellar_freed (s : State) (c : CellarIx) (f : Cellar → Cellar) : (modCellar s c f).freed = s.freed := rfl
@[simp] theorem modCellar_reqs (s : State) (c : CellarIx) (f : Cellar → Cellar) : (modCellar s c f).reqs = s.reqs := rfl
@[simp] theorem modCellar_nextReq (s : State) (c : CellarIx) (f : Cellar → Cellar) : (modCellar s c f).nextReq = s.nextReq := rfl
@[simp] theorem modCellar_parts (s : State) (c : CellarIx) (f : Cellar → Cellar) : (modCellar s c f).parts = s.parts := rfl
@[simp] theorem modCellar_fab (s : State) (c : CellarIx) (f : Cellar → Cellar) : (modCellar s c f).fab = s.fab := rfl
@[simp] theorem modCellar_pcie (s : State) (c : CellarIx) (f : Cellar → Cellar) : (modCellar s c f).pcie = s.pcie := rfl
@[simp] theorem modCellar_mgmt (s : State) (c : CellarIx) (f : Cellar → Cellar) : (modCellar s c f).mgmt = s.mgmt := rfl
@[simp] theorem modCellar_i3c (s : State) (c : CellarIx) (f : Cellar → Cellar) : (modCellar s c f).i3c = s.i3c := rfl
@[simp] theorem modCellar_sed (s : State) (c : CellarIx) (f : Cellar → Cellar) : (modCellar s c f).sed = s.sed := rfl
@[simp] theorem modCellar_boot (s : State) (c : CellarIx) (f : Cellar → Cellar) : (modCellar s c f).boot = s.boot := rfl
@[simp] theorem modCellar_dbg (s : State) (c : CellarIx) (f : Cellar → Cellar) : (modCellar s c f).dbg = s.dbg := rfl
@[simp] theorem modCellar_trc (s : State) (c : CellarIx) (f : Cellar → Cellar) : (modCellar s c f).trc = s.trc := rfl
@[simp] theorem modCellar_cnt (s : State) (c : CellarIx) (f : Cellar → Cellar) : (modCellar s c f).cnt = s.cnt := rfl
@[simp] theorem modCellar_pwr (s : State) (c : CellarIx) (f : Cellar → Cellar) : (modCellar s c f).pwr = s.pwr := rfl
@[simp] theorem modCellar_rtime (s : State) (c : CellarIx) (f : Cellar → Cellar) : (modCellar s c f).rtime = s.rtime := rfl
@[simp] theorem modCellar_egress (s : State) (c : CellarIx) (f : Cellar → Cellar) : (modCellar s c f).egress = s.egress := rfl
@[simp] theorem modCellar_freeIx (s : State) (c : CellarIx) (f : Cellar → Cellar) : (modCellar s c f).freeIx = s.freeIx := rfl
@[simp] theorem modCellar_pending (s : State) (c : CellarIx) (f : Cellar → Cellar) : (modCellar s c f).pending = s.pending := rfl

/-! ### Changing a fabric port changes no other field -/

@[simp] theorem modPort_fuses (s : State) (x : PortIx) (f : Port → Port) : (modPort s x f).fuses = s.fuses := rfl
@[simp] theorem modPort_pkg (s : State) (x : PortIx) (f : Port → Port) : (modPort s x f).pkg = s.pkg := rfl
@[simp] theorem modPort_mbox (s : State) (x : PortIx) (f : Port → Port) : (modPort s x f).mbox = s.mbox := rfl
@[simp] theorem modPort_cores (s : State) (x : PortIx) (f : Port → Port) : (modPort s x f).cores = s.cores := rfl
@[simp] theorem modPort_hall (s : State) (x : PortIx) (f : Port → Port) : (modPort s x f).hall = s.hall := rfl
@[simp] theorem modPort_sluices (s : State) (x : PortIx) (f : Port → Port) : (modPort s x f).sluices = s.sluices := rfl
@[simp] theorem modPort_toks (s : State) (x : PortIx) (f : Port → Port) : (modPort s x f).toks = s.toks := rfl
@[simp] theorem modPort_cellars (s : State) (x : PortIx) (f : Port → Port) : (modPort s x f).cellars = s.cellars := rfl
@[simp] theorem modPort_hbm (s : State) (x : PortIx) (f : Port → Port) : (modPort s x f).hbm = s.hbm := rfl
@[simp] theorem modPort_tags (s : State) (x : PortIx) (f : Port → Port) : (modPort s x f).tags = s.tags := rfl
@[simp] theorem modPort_vmap (s : State) (x : PortIx) (f : Port → Port) : (modPort s x f).vmap = s.vmap := rfl
@[simp] theorem modPort_keyEpochs (s : State) (x : PortIx) (f : Port → Port) : (modPort s x f).keyEpochs = s.keyEpochs := rfl
@[simp] theorem modPort_freed (s : State) (x : PortIx) (f : Port → Port) : (modPort s x f).freed = s.freed := rfl
@[simp] theorem modPort_reqs (s : State) (x : PortIx) (f : Port → Port) : (modPort s x f).reqs = s.reqs := rfl
@[simp] theorem modPort_nextReq (s : State) (x : PortIx) (f : Port → Port) : (modPort s x f).nextReq = s.nextReq := rfl
@[simp] theorem modPort_parts (s : State) (x : PortIx) (f : Port → Port) : (modPort s x f).parts = s.parts := rfl
@[simp] theorem modPort_pcie (s : State) (x : PortIx) (f : Port → Port) : (modPort s x f).pcie = s.pcie := rfl
@[simp] theorem modPort_mgmt (s : State) (x : PortIx) (f : Port → Port) : (modPort s x f).mgmt = s.mgmt := rfl
@[simp] theorem modPort_i3c (s : State) (x : PortIx) (f : Port → Port) : (modPort s x f).i3c = s.i3c := rfl
@[simp] theorem modPort_sed (s : State) (x : PortIx) (f : Port → Port) : (modPort s x f).sed = s.sed := rfl
@[simp] theorem modPort_boot (s : State) (x : PortIx) (f : Port → Port) : (modPort s x f).boot = s.boot := rfl
@[simp] theorem modPort_dbg (s : State) (x : PortIx) (f : Port → Port) : (modPort s x f).dbg = s.dbg := rfl
@[simp] theorem modPort_trc (s : State) (x : PortIx) (f : Port → Port) : (modPort s x f).trc = s.trc := rfl
@[simp] theorem modPort_cnt (s : State) (x : PortIx) (f : Port → Port) : (modPort s x f).cnt = s.cnt := rfl
@[simp] theorem modPort_pwr (s : State) (x : PortIx) (f : Port → Port) : (modPort s x f).pwr = s.pwr := rfl
@[simp] theorem modPort_rtime (s : State) (x : PortIx) (f : Port → Port) : (modPort s x f).rtime = s.rtime := rfl
@[simp] theorem modPort_egress (s : State) (x : PortIx) (f : Port → Port) : (modPort s x f).egress = s.egress := rfl
@[simp] theorem modPort_freeIx (s : State) (x : PortIx) (f : Port → Port) : (modPort s x f).freeIx = s.freeIx := rfl
@[simp] theorem modPort_pending (s : State) (x : PortIx) (f : Port → Port) : (modPort s x f).pending = s.pending := rfl

/-! ### Changing a port die changes no other field -/

@[simp] theorem modPortDie_fuses (s : State) (d : PortDieIx) (f : PortDie → PortDie) : (modPortDie s d f).fuses = s.fuses := rfl
@[simp] theorem modPortDie_pkg (s : State) (d : PortDieIx) (f : PortDie → PortDie) : (modPortDie s d f).pkg = s.pkg := rfl
@[simp] theorem modPortDie_mbox (s : State) (d : PortDieIx) (f : PortDie → PortDie) : (modPortDie s d f).mbox = s.mbox := rfl
@[simp] theorem modPortDie_cores (s : State) (d : PortDieIx) (f : PortDie → PortDie) : (modPortDie s d f).cores = s.cores := rfl
@[simp] theorem modPortDie_hall (s : State) (d : PortDieIx) (f : PortDie → PortDie) : (modPortDie s d f).hall = s.hall := rfl
@[simp] theorem modPortDie_sluices (s : State) (d : PortDieIx) (f : PortDie → PortDie) : (modPortDie s d f).sluices = s.sluices := rfl
@[simp] theorem modPortDie_toks (s : State) (d : PortDieIx) (f : PortDie → PortDie) : (modPortDie s d f).toks = s.toks := rfl
@[simp] theorem modPortDie_cellars (s : State) (d : PortDieIx) (f : PortDie → PortDie) : (modPortDie s d f).cellars = s.cellars := rfl
@[simp] theorem modPortDie_hbm (s : State) (d : PortDieIx) (f : PortDie → PortDie) : (modPortDie s d f).hbm = s.hbm := rfl
@[simp] theorem modPortDie_tags (s : State) (d : PortDieIx) (f : PortDie → PortDie) : (modPortDie s d f).tags = s.tags := rfl
@[simp] theorem modPortDie_vmap (s : State) (d : PortDieIx) (f : PortDie → PortDie) : (modPortDie s d f).vmap = s.vmap := rfl
@[simp] theorem modPortDie_keyEpochs (s : State) (d : PortDieIx) (f : PortDie → PortDie) : (modPortDie s d f).keyEpochs = s.keyEpochs := rfl
@[simp] theorem modPortDie_freed (s : State) (d : PortDieIx) (f : PortDie → PortDie) : (modPortDie s d f).freed = s.freed := rfl
@[simp] theorem modPortDie_reqs (s : State) (d : PortDieIx) (f : PortDie → PortDie) : (modPortDie s d f).reqs = s.reqs := rfl
@[simp] theorem modPortDie_nextReq (s : State) (d : PortDieIx) (f : PortDie → PortDie) : (modPortDie s d f).nextReq = s.nextReq := rfl
@[simp] theorem modPortDie_parts (s : State) (d : PortDieIx) (f : PortDie → PortDie) : (modPortDie s d f).parts = s.parts := rfl
@[simp] theorem modPortDie_pcie (s : State) (d : PortDieIx) (f : PortDie → PortDie) : (modPortDie s d f).pcie = s.pcie := rfl
@[simp] theorem modPortDie_mgmt (s : State) (d : PortDieIx) (f : PortDie → PortDie) : (modPortDie s d f).mgmt = s.mgmt := rfl
@[simp] theorem modPortDie_i3c (s : State) (d : PortDieIx) (f : PortDie → PortDie) : (modPortDie s d f).i3c = s.i3c := rfl
@[simp] theorem modPortDie_sed (s : State) (d : PortDieIx) (f : PortDie → PortDie) : (modPortDie s d f).sed = s.sed := rfl
@[simp] theorem modPortDie_boot (s : State) (d : PortDieIx) (f : PortDie → PortDie) : (modPortDie s d f).boot = s.boot := rfl
@[simp] theorem modPortDie_dbg (s : State) (d : PortDieIx) (f : PortDie → PortDie) : (modPortDie s d f).dbg = s.dbg := rfl
@[simp] theorem modPortDie_trc (s : State) (d : PortDieIx) (f : PortDie → PortDie) : (modPortDie s d f).trc = s.trc := rfl
@[simp] theorem modPortDie_cnt (s : State) (d : PortDieIx) (f : PortDie → PortDie) : (modPortDie s d f).cnt = s.cnt := rfl
@[simp] theorem modPortDie_pwr (s : State) (d : PortDieIx) (f : PortDie → PortDie) : (modPortDie s d f).pwr = s.pwr := rfl
@[simp] theorem modPortDie_rtime (s : State) (d : PortDieIx) (f : PortDie → PortDie) : (modPortDie s d f).rtime = s.rtime := rfl
@[simp] theorem modPortDie_egress (s : State) (d : PortDieIx) (f : PortDie → PortDie) : (modPortDie s d f).egress = s.egress := rfl
@[simp] theorem modPortDie_freeIx (s : State) (d : PortDieIx) (f : PortDie → PortDie) : (modPortDie s d f).freeIx = s.freeIx := rfl
@[simp] theorem modPortDie_pending (s : State) (d : PortDieIx) (f : PortDie → PortDie) : (modPortDie s d f).pending = s.pending := rfl

/-! ### Changing the package registers changes no other field -/

@[simp] theorem modPkg_fuses (s : State) (f : Pkg → Pkg) : (modPkg s f).fuses = s.fuses := rfl
@[simp] theorem modPkg_mbox (s : State) (f : Pkg → Pkg) : (modPkg s f).mbox = s.mbox := rfl
@[simp] theorem modPkg_cores (s : State) (f : Pkg → Pkg) : (modPkg s f).cores = s.cores := rfl
@[simp] theorem modPkg_hall (s : State) (f : Pkg → Pkg) : (modPkg s f).hall = s.hall := rfl
@[simp] theorem modPkg_sluices (s : State) (f : Pkg → Pkg) : (modPkg s f).sluices = s.sluices := rfl
@[simp] theorem modPkg_toks (s : State) (f : Pkg → Pkg) : (modPkg s f).toks = s.toks := rfl
@[simp] theorem modPkg_cellars (s : State) (f : Pkg → Pkg) : (modPkg s f).cellars = s.cellars := rfl
@[simp] theorem modPkg_hbm (s : State) (f : Pkg → Pkg) : (modPkg s f).hbm = s.hbm := rfl
@[simp] theorem modPkg_tags (s : State) (f : Pkg → Pkg) : (modPkg s f).tags = s.tags := rfl
@[simp] theorem modPkg_vmap (s : State) (f : Pkg → Pkg) : (modPkg s f).vmap = s.vmap := rfl
@[simp] theorem modPkg_keyEpochs (s : State) (f : Pkg → Pkg) : (modPkg s f).keyEpochs = s.keyEpochs := rfl
@[simp] theorem modPkg_freed (s : State) (f : Pkg → Pkg) : (modPkg s f).freed = s.freed := rfl
@[simp] theorem modPkg_reqs (s : State) (f : Pkg → Pkg) : (modPkg s f).reqs = s.reqs := rfl
@[simp] theorem modPkg_nextReq (s : State) (f : Pkg → Pkg) : (modPkg s f).nextReq = s.nextReq := rfl
@[simp] theorem modPkg_parts (s : State) (f : Pkg → Pkg) : (modPkg s f).parts = s.parts := rfl
@[simp] theorem modPkg_fab (s : State) (f : Pkg → Pkg) : (modPkg s f).fab = s.fab := rfl
@[simp] theorem modPkg_pcie (s : State) (f : Pkg → Pkg) : (modPkg s f).pcie = s.pcie := rfl
@[simp] theorem modPkg_mgmt (s : State) (f : Pkg → Pkg) : (modPkg s f).mgmt = s.mgmt := rfl
@[simp] theorem modPkg_i3c (s : State) (f : Pkg → Pkg) : (modPkg s f).i3c = s.i3c := rfl
@[simp] theorem modPkg_sed (s : State) (f : Pkg → Pkg) : (modPkg s f).sed = s.sed := rfl
@[simp] theorem modPkg_boot (s : State) (f : Pkg → Pkg) : (modPkg s f).boot = s.boot := rfl
@[simp] theorem modPkg_dbg (s : State) (f : Pkg → Pkg) : (modPkg s f).dbg = s.dbg := rfl
@[simp] theorem modPkg_trc (s : State) (f : Pkg → Pkg) : (modPkg s f).trc = s.trc := rfl
@[simp] theorem modPkg_cnt (s : State) (f : Pkg → Pkg) : (modPkg s f).cnt = s.cnt := rfl
@[simp] theorem modPkg_pwr (s : State) (f : Pkg → Pkg) : (modPkg s f).pwr = s.pwr := rfl
@[simp] theorem modPkg_rtime (s : State) (f : Pkg → Pkg) : (modPkg s f).rtime = s.rtime := rfl
@[simp] theorem modPkg_egress (s : State) (f : Pkg → Pkg) : (modPkg s f).egress = s.egress := rfl
@[simp] theorem modPkg_freeIx (s : State) (f : Pkg → Pkg) : (modPkg s f).freeIx = s.freeIx := rfl
@[simp] theorem modPkg_pending (s : State) (f : Pkg → Pkg) : (modPkg s f).pending = s.pending := rfl

/-! ### Changing the mailbox changes no other field -/

@[simp] theorem modMbox_fuses (s : State) (f : Mbox → Mbox) : (modMbox s f).fuses = s.fuses := rfl
@[simp] theorem modMbox_pkg (s : State) (f : Mbox → Mbox) : (modMbox s f).pkg = s.pkg := rfl
@[simp] theorem modMbox_cores (s : State) (f : Mbox → Mbox) : (modMbox s f).cores = s.cores := rfl
@[simp] theorem modMbox_hall (s : State) (f : Mbox → Mbox) : (modMbox s f).hall = s.hall := rfl
@[simp] theorem modMbox_sluices (s : State) (f : Mbox → Mbox) : (modMbox s f).sluices = s.sluices := rfl
@[simp] theorem modMbox_toks (s : State) (f : Mbox → Mbox) : (modMbox s f).toks = s.toks := rfl
@[simp] theorem modMbox_cellars (s : State) (f : Mbox → Mbox) : (modMbox s f).cellars = s.cellars := rfl
@[simp] theorem modMbox_hbm (s : State) (f : Mbox → Mbox) : (modMbox s f).hbm = s.hbm := rfl
@[simp] theorem modMbox_tags (s : State) (f : Mbox → Mbox) : (modMbox s f).tags = s.tags := rfl
@[simp] theorem modMbox_vmap (s : State) (f : Mbox → Mbox) : (modMbox s f).vmap = s.vmap := rfl
@[simp] theorem modMbox_keyEpochs (s : State) (f : Mbox → Mbox) : (modMbox s f).keyEpochs = s.keyEpochs := rfl
@[simp] theorem modMbox_freed (s : State) (f : Mbox → Mbox) : (modMbox s f).freed = s.freed := rfl
@[simp] theorem modMbox_reqs (s : State) (f : Mbox → Mbox) : (modMbox s f).reqs = s.reqs := rfl
@[simp] theorem modMbox_nextReq (s : State) (f : Mbox → Mbox) : (modMbox s f).nextReq = s.nextReq := rfl
@[simp] theorem modMbox_parts (s : State) (f : Mbox → Mbox) : (modMbox s f).parts = s.parts := rfl
@[simp] theorem modMbox_fab (s : State) (f : Mbox → Mbox) : (modMbox s f).fab = s.fab := rfl
@[simp] theorem modMbox_pcie (s : State) (f : Mbox → Mbox) : (modMbox s f).pcie = s.pcie := rfl
@[simp] theorem modMbox_mgmt (s : State) (f : Mbox → Mbox) : (modMbox s f).mgmt = s.mgmt := rfl
@[simp] theorem modMbox_i3c (s : State) (f : Mbox → Mbox) : (modMbox s f).i3c = s.i3c := rfl
@[simp] theorem modMbox_sed (s : State) (f : Mbox → Mbox) : (modMbox s f).sed = s.sed := rfl
@[simp] theorem modMbox_boot (s : State) (f : Mbox → Mbox) : (modMbox s f).boot = s.boot := rfl
@[simp] theorem modMbox_dbg (s : State) (f : Mbox → Mbox) : (modMbox s f).dbg = s.dbg := rfl
@[simp] theorem modMbox_trc (s : State) (f : Mbox → Mbox) : (modMbox s f).trc = s.trc := rfl
@[simp] theorem modMbox_cnt (s : State) (f : Mbox → Mbox) : (modMbox s f).cnt = s.cnt := rfl
@[simp] theorem modMbox_pwr (s : State) (f : Mbox → Mbox) : (modMbox s f).pwr = s.pwr := rfl
@[simp] theorem modMbox_rtime (s : State) (f : Mbox → Mbox) : (modMbox s f).rtime = s.rtime := rfl
@[simp] theorem modMbox_egress (s : State) (f : Mbox → Mbox) : (modMbox s f).egress = s.egress := rfl
@[simp] theorem modMbox_freeIx (s : State) (f : Mbox → Mbox) : (modMbox s f).freeIx = s.freeIx := rfl
@[simp] theorem modMbox_pending (s : State) (f : Mbox → Mbox) : (modMbox s f).pending = s.pending := rfl

/-! ### Changing boot changes no other field -/

@[simp] theorem modBoot_fuses (s : State) (f : Boot → Boot) : (modBoot s f).fuses = s.fuses := rfl
@[simp] theorem modBoot_pkg (s : State) (f : Boot → Boot) : (modBoot s f).pkg = s.pkg := rfl
@[simp] theorem modBoot_mbox (s : State) (f : Boot → Boot) : (modBoot s f).mbox = s.mbox := rfl
@[simp] theorem modBoot_cores (s : State) (f : Boot → Boot) : (modBoot s f).cores = s.cores := rfl
@[simp] theorem modBoot_hall (s : State) (f : Boot → Boot) : (modBoot s f).hall = s.hall := rfl
@[simp] theorem modBoot_sluices (s : State) (f : Boot → Boot) : (modBoot s f).sluices = s.sluices := rfl
@[simp] theorem modBoot_toks (s : State) (f : Boot → Boot) : (modBoot s f).toks = s.toks := rfl
@[simp] theorem modBoot_cellars (s : State) (f : Boot → Boot) : (modBoot s f).cellars = s.cellars := rfl
@[simp] theorem modBoot_hbm (s : State) (f : Boot → Boot) : (modBoot s f).hbm = s.hbm := rfl
@[simp] theorem modBoot_tags (s : State) (f : Boot → Boot) : (modBoot s f).tags = s.tags := rfl
@[simp] theorem modBoot_vmap (s : State) (f : Boot → Boot) : (modBoot s f).vmap = s.vmap := rfl
@[simp] theorem modBoot_keyEpochs (s : State) (f : Boot → Boot) : (modBoot s f).keyEpochs = s.keyEpochs := rfl
@[simp] theorem modBoot_freed (s : State) (f : Boot → Boot) : (modBoot s f).freed = s.freed := rfl
@[simp] theorem modBoot_reqs (s : State) (f : Boot → Boot) : (modBoot s f).reqs = s.reqs := rfl
@[simp] theorem modBoot_nextReq (s : State) (f : Boot → Boot) : (modBoot s f).nextReq = s.nextReq := rfl
@[simp] theorem modBoot_parts (s : State) (f : Boot → Boot) : (modBoot s f).parts = s.parts := rfl
@[simp] theorem modBoot_fab (s : State) (f : Boot → Boot) : (modBoot s f).fab = s.fab := rfl
@[simp] theorem modBoot_pcie (s : State) (f : Boot → Boot) : (modBoot s f).pcie = s.pcie := rfl
@[simp] theorem modBoot_mgmt (s : State) (f : Boot → Boot) : (modBoot s f).mgmt = s.mgmt := rfl
@[simp] theorem modBoot_i3c (s : State) (f : Boot → Boot) : (modBoot s f).i3c = s.i3c := rfl
@[simp] theorem modBoot_sed (s : State) (f : Boot → Boot) : (modBoot s f).sed = s.sed := rfl
@[simp] theorem modBoot_dbg (s : State) (f : Boot → Boot) : (modBoot s f).dbg = s.dbg := rfl
@[simp] theorem modBoot_trc (s : State) (f : Boot → Boot) : (modBoot s f).trc = s.trc := rfl
@[simp] theorem modBoot_cnt (s : State) (f : Boot → Boot) : (modBoot s f).cnt = s.cnt := rfl
@[simp] theorem modBoot_pwr (s : State) (f : Boot → Boot) : (modBoot s f).pwr = s.pwr := rfl
@[simp] theorem modBoot_rtime (s : State) (f : Boot → Boot) : (modBoot s f).rtime = s.rtime := rfl
@[simp] theorem modBoot_egress (s : State) (f : Boot → Boot) : (modBoot s f).egress = s.egress := rfl
@[simp] theorem modBoot_freeIx (s : State) (f : Boot → Boot) : (modBoot s f).freeIx = s.freeIx := rfl
@[simp] theorem modBoot_pending (s : State) (f : Boot → Boot) : (modBoot s f).pending = s.pending := rfl

/-! ### Changing power changes no other field -/

@[simp] theorem modPwr_fuses (s : State) (f : Pwr → Pwr) : (modPwr s f).fuses = s.fuses := rfl
@[simp] theorem modPwr_pkg (s : State) (f : Pwr → Pwr) : (modPwr s f).pkg = s.pkg := rfl
@[simp] theorem modPwr_mbox (s : State) (f : Pwr → Pwr) : (modPwr s f).mbox = s.mbox := rfl
@[simp] theorem modPwr_cores (s : State) (f : Pwr → Pwr) : (modPwr s f).cores = s.cores := rfl
@[simp] theorem modPwr_hall (s : State) (f : Pwr → Pwr) : (modPwr s f).hall = s.hall := rfl
@[simp] theorem modPwr_sluices (s : State) (f : Pwr → Pwr) : (modPwr s f).sluices = s.sluices := rfl
@[simp] theorem modPwr_toks (s : State) (f : Pwr → Pwr) : (modPwr s f).toks = s.toks := rfl
@[simp] theorem modPwr_cellars (s : State) (f : Pwr → Pwr) : (modPwr s f).cellars = s.cellars := rfl
@[simp] theorem modPwr_hbm (s : State) (f : Pwr → Pwr) : (modPwr s f).hbm = s.hbm := rfl
@[simp] theorem modPwr_tags (s : State) (f : Pwr → Pwr) : (modPwr s f).tags = s.tags := rfl
@[simp] theorem modPwr_vmap (s : State) (f : Pwr → Pwr) : (modPwr s f).vmap = s.vmap := rfl
@[simp] theorem modPwr_keyEpochs (s : State) (f : Pwr → Pwr) : (modPwr s f).keyEpochs = s.keyEpochs := rfl
@[simp] theorem modPwr_freed (s : State) (f : Pwr → Pwr) : (modPwr s f).freed = s.freed := rfl
@[simp] theorem modPwr_reqs (s : State) (f : Pwr → Pwr) : (modPwr s f).reqs = s.reqs := rfl
@[simp] theorem modPwr_nextReq (s : State) (f : Pwr → Pwr) : (modPwr s f).nextReq = s.nextReq := rfl
@[simp] theorem modPwr_parts (s : State) (f : Pwr → Pwr) : (modPwr s f).parts = s.parts := rfl
@[simp] theorem modPwr_fab (s : State) (f : Pwr → Pwr) : (modPwr s f).fab = s.fab := rfl
@[simp] theorem modPwr_pcie (s : State) (f : Pwr → Pwr) : (modPwr s f).pcie = s.pcie := rfl
@[simp] theorem modPwr_mgmt (s : State) (f : Pwr → Pwr) : (modPwr s f).mgmt = s.mgmt := rfl
@[simp] theorem modPwr_i3c (s : State) (f : Pwr → Pwr) : (modPwr s f).i3c = s.i3c := rfl
@[simp] theorem modPwr_sed (s : State) (f : Pwr → Pwr) : (modPwr s f).sed = s.sed := rfl
@[simp] theorem modPwr_boot (s : State) (f : Pwr → Pwr) : (modPwr s f).boot = s.boot := rfl
@[simp] theorem modPwr_dbg (s : State) (f : Pwr → Pwr) : (modPwr s f).dbg = s.dbg := rfl
@[simp] theorem modPwr_trc (s : State) (f : Pwr → Pwr) : (modPwr s f).trc = s.trc := rfl
@[simp] theorem modPwr_cnt (s : State) (f : Pwr → Pwr) : (modPwr s f).cnt = s.cnt := rfl
@[simp] theorem modPwr_rtime (s : State) (f : Pwr → Pwr) : (modPwr s f).rtime = s.rtime := rfl
@[simp] theorem modPwr_egress (s : State) (f : Pwr → Pwr) : (modPwr s f).egress = s.egress := rfl
@[simp] theorem modPwr_freeIx (s : State) (f : Pwr → Pwr) : (modPwr s f).freeIx = s.freeIx := rfl
@[simp] theorem modPwr_pending (s : State) (f : Pwr → Pwr) : (modPwr s f).pending = s.pending := rfl

/-! ### Changing the silent error defence changes no other field -/

@[simp] theorem modSed_fuses (s : State) (f : Sed → Sed) : (modSed s f).fuses = s.fuses := rfl
@[simp] theorem modSed_pkg (s : State) (f : Sed → Sed) : (modSed s f).pkg = s.pkg := rfl
@[simp] theorem modSed_mbox (s : State) (f : Sed → Sed) : (modSed s f).mbox = s.mbox := rfl
@[simp] theorem modSed_cores (s : State) (f : Sed → Sed) : (modSed s f).cores = s.cores := rfl
@[simp] theorem modSed_hall (s : State) (f : Sed → Sed) : (modSed s f).hall = s.hall := rfl
@[simp] theorem modSed_sluices (s : State) (f : Sed → Sed) : (modSed s f).sluices = s.sluices := rfl
@[simp] theorem modSed_toks (s : State) (f : Sed → Sed) : (modSed s f).toks = s.toks := rfl
@[simp] theorem modSed_cellars (s : State) (f : Sed → Sed) : (modSed s f).cellars = s.cellars := rfl
@[simp] theorem modSed_hbm (s : State) (f : Sed → Sed) : (modSed s f).hbm = s.hbm := rfl
@[simp] theorem modSed_tags (s : State) (f : Sed → Sed) : (modSed s f).tags = s.tags := rfl
@[simp] theorem modSed_vmap (s : State) (f : Sed → Sed) : (modSed s f).vmap = s.vmap := rfl
@[simp] theorem modSed_keyEpochs (s : State) (f : Sed → Sed) : (modSed s f).keyEpochs = s.keyEpochs := rfl
@[simp] theorem modSed_freed (s : State) (f : Sed → Sed) : (modSed s f).freed = s.freed := rfl
@[simp] theorem modSed_reqs (s : State) (f : Sed → Sed) : (modSed s f).reqs = s.reqs := rfl
@[simp] theorem modSed_nextReq (s : State) (f : Sed → Sed) : (modSed s f).nextReq = s.nextReq := rfl
@[simp] theorem modSed_parts (s : State) (f : Sed → Sed) : (modSed s f).parts = s.parts := rfl
@[simp] theorem modSed_fab (s : State) (f : Sed → Sed) : (modSed s f).fab = s.fab := rfl
@[simp] theorem modSed_pcie (s : State) (f : Sed → Sed) : (modSed s f).pcie = s.pcie := rfl
@[simp] theorem modSed_mgmt (s : State) (f : Sed → Sed) : (modSed s f).mgmt = s.mgmt := rfl
@[simp] theorem modSed_i3c (s : State) (f : Sed → Sed) : (modSed s f).i3c = s.i3c := rfl
@[simp] theorem modSed_boot (s : State) (f : Sed → Sed) : (modSed s f).boot = s.boot := rfl
@[simp] theorem modSed_dbg (s : State) (f : Sed → Sed) : (modSed s f).dbg = s.dbg := rfl
@[simp] theorem modSed_trc (s : State) (f : Sed → Sed) : (modSed s f).trc = s.trc := rfl
@[simp] theorem modSed_cnt (s : State) (f : Sed → Sed) : (modSed s f).cnt = s.cnt := rfl
@[simp] theorem modSed_pwr (s : State) (f : Sed → Sed) : (modSed s f).pwr = s.pwr := rfl
@[simp] theorem modSed_rtime (s : State) (f : Sed → Sed) : (modSed s f).rtime = s.rtime := rfl
@[simp] theorem modSed_egress (s : State) (f : Sed → Sed) : (modSed s f).egress = s.egress := rfl
@[simp] theorem modSed_freeIx (s : State) (f : Sed → Sed) : (modSed s f).freeIx = s.freeIx := rfl
@[simp] theorem modSed_pending (s : State) (f : Sed → Sed) : (modSed s f).pending = s.pending := rfl

/-! ### Changing the I3C target changes no other field -/

@[simp] theorem modI3c_fuses (s : State) (f : I3c → I3c) : (modI3c s f).fuses = s.fuses := rfl
@[simp] theorem modI3c_pkg (s : State) (f : I3c → I3c) : (modI3c s f).pkg = s.pkg := rfl
@[simp] theorem modI3c_mbox (s : State) (f : I3c → I3c) : (modI3c s f).mbox = s.mbox := rfl
@[simp] theorem modI3c_cores (s : State) (f : I3c → I3c) : (modI3c s f).cores = s.cores := rfl
@[simp] theorem modI3c_hall (s : State) (f : I3c → I3c) : (modI3c s f).hall = s.hall := rfl
@[simp] theorem modI3c_sluices (s : State) (f : I3c → I3c) : (modI3c s f).sluices = s.sluices := rfl
@[simp] theorem modI3c_toks (s : State) (f : I3c → I3c) : (modI3c s f).toks = s.toks := rfl
@[simp] theorem modI3c_cellars (s : State) (f : I3c → I3c) : (modI3c s f).cellars = s.cellars := rfl
@[simp] theorem modI3c_hbm (s : State) (f : I3c → I3c) : (modI3c s f).hbm = s.hbm := rfl
@[simp] theorem modI3c_tags (s : State) (f : I3c → I3c) : (modI3c s f).tags = s.tags := rfl
@[simp] theorem modI3c_vmap (s : State) (f : I3c → I3c) : (modI3c s f).vmap = s.vmap := rfl
@[simp] theorem modI3c_keyEpochs (s : State) (f : I3c → I3c) : (modI3c s f).keyEpochs = s.keyEpochs := rfl
@[simp] theorem modI3c_freed (s : State) (f : I3c → I3c) : (modI3c s f).freed = s.freed := rfl
@[simp] theorem modI3c_reqs (s : State) (f : I3c → I3c) : (modI3c s f).reqs = s.reqs := rfl
@[simp] theorem modI3c_nextReq (s : State) (f : I3c → I3c) : (modI3c s f).nextReq = s.nextReq := rfl
@[simp] theorem modI3c_parts (s : State) (f : I3c → I3c) : (modI3c s f).parts = s.parts := rfl
@[simp] theorem modI3c_fab (s : State) (f : I3c → I3c) : (modI3c s f).fab = s.fab := rfl
@[simp] theorem modI3c_pcie (s : State) (f : I3c → I3c) : (modI3c s f).pcie = s.pcie := rfl
@[simp] theorem modI3c_mgmt (s : State) (f : I3c → I3c) : (modI3c s f).mgmt = s.mgmt := rfl
@[simp] theorem modI3c_sed (s : State) (f : I3c → I3c) : (modI3c s f).sed = s.sed := rfl
@[simp] theorem modI3c_boot (s : State) (f : I3c → I3c) : (modI3c s f).boot = s.boot := rfl
@[simp] theorem modI3c_dbg (s : State) (f : I3c → I3c) : (modI3c s f).dbg = s.dbg := rfl
@[simp] theorem modI3c_trc (s : State) (f : I3c → I3c) : (modI3c s f).trc = s.trc := rfl
@[simp] theorem modI3c_cnt (s : State) (f : I3c → I3c) : (modI3c s f).cnt = s.cnt := rfl
@[simp] theorem modI3c_pwr (s : State) (f : I3c → I3c) : (modI3c s f).pwr = s.pwr := rfl
@[simp] theorem modI3c_rtime (s : State) (f : I3c → I3c) : (modI3c s f).rtime = s.rtime := rfl
@[simp] theorem modI3c_egress (s : State) (f : I3c → I3c) : (modI3c s f).egress = s.egress := rfl
@[simp] theorem modI3c_freeIx (s : State) (f : I3c → I3c) : (modI3c s f).freeIx = s.freeIx := rfl
@[simp] theorem modI3c_pending (s : State) (f : I3c → I3c) : (modI3c s f).pending = s.pending := rfl

/-! ### Changing a request changes no other field -/

@[simp] theorem modReq_fuses (s : State) (i : Nat) (f : Req → Req) : (modReq s i f).fuses = s.fuses := rfl
@[simp] theorem modReq_pkg (s : State) (i : Nat) (f : Req → Req) : (modReq s i f).pkg = s.pkg := rfl
@[simp] theorem modReq_mbox (s : State) (i : Nat) (f : Req → Req) : (modReq s i f).mbox = s.mbox := rfl
@[simp] theorem modReq_cores (s : State) (i : Nat) (f : Req → Req) : (modReq s i f).cores = s.cores := rfl
@[simp] theorem modReq_hall (s : State) (i : Nat) (f : Req → Req) : (modReq s i f).hall = s.hall := rfl
@[simp] theorem modReq_sluices (s : State) (i : Nat) (f : Req → Req) : (modReq s i f).sluices = s.sluices := rfl
@[simp] theorem modReq_toks (s : State) (i : Nat) (f : Req → Req) : (modReq s i f).toks = s.toks := rfl
@[simp] theorem modReq_cellars (s : State) (i : Nat) (f : Req → Req) : (modReq s i f).cellars = s.cellars := rfl
@[simp] theorem modReq_hbm (s : State) (i : Nat) (f : Req → Req) : (modReq s i f).hbm = s.hbm := rfl
@[simp] theorem modReq_tags (s : State) (i : Nat) (f : Req → Req) : (modReq s i f).tags = s.tags := rfl
@[simp] theorem modReq_vmap (s : State) (i : Nat) (f : Req → Req) : (modReq s i f).vmap = s.vmap := rfl
@[simp] theorem modReq_keyEpochs (s : State) (i : Nat) (f : Req → Req) : (modReq s i f).keyEpochs = s.keyEpochs := rfl
@[simp] theorem modReq_freed (s : State) (i : Nat) (f : Req → Req) : (modReq s i f).freed = s.freed := rfl
@[simp] theorem modReq_nextReq (s : State) (i : Nat) (f : Req → Req) : (modReq s i f).nextReq = s.nextReq := rfl
@[simp] theorem modReq_parts (s : State) (i : Nat) (f : Req → Req) : (modReq s i f).parts = s.parts := rfl
@[simp] theorem modReq_fab (s : State) (i : Nat) (f : Req → Req) : (modReq s i f).fab = s.fab := rfl
@[simp] theorem modReq_pcie (s : State) (i : Nat) (f : Req → Req) : (modReq s i f).pcie = s.pcie := rfl
@[simp] theorem modReq_mgmt (s : State) (i : Nat) (f : Req → Req) : (modReq s i f).mgmt = s.mgmt := rfl
@[simp] theorem modReq_i3c (s : State) (i : Nat) (f : Req → Req) : (modReq s i f).i3c = s.i3c := rfl
@[simp] theorem modReq_sed (s : State) (i : Nat) (f : Req → Req) : (modReq s i f).sed = s.sed := rfl
@[simp] theorem modReq_boot (s : State) (i : Nat) (f : Req → Req) : (modReq s i f).boot = s.boot := rfl
@[simp] theorem modReq_dbg (s : State) (i : Nat) (f : Req → Req) : (modReq s i f).dbg = s.dbg := rfl
@[simp] theorem modReq_trc (s : State) (i : Nat) (f : Req → Req) : (modReq s i f).trc = s.trc := rfl
@[simp] theorem modReq_cnt (s : State) (i : Nat) (f : Req → Req) : (modReq s i f).cnt = s.cnt := rfl
@[simp] theorem modReq_pwr (s : State) (i : Nat) (f : Req → Req) : (modReq s i f).pwr = s.pwr := rfl
@[simp] theorem modReq_rtime (s : State) (i : Nat) (f : Req → Req) : (modReq s i f).rtime = s.rtime := rfl
@[simp] theorem modReq_egress (s : State) (i : Nat) (f : Req → Req) : (modReq s i f).egress = s.egress := rfl
@[simp] theorem modReq_freeIx (s : State) (i : Nat) (f : Req → Req) : (modReq s i f).freeIx = s.freeIx := rfl
@[simp] theorem modReq_pending (s : State) (i : Nat) (f : Req → Req) : (modReq s i f).pending = s.pending := rfl

/-! ### Changing a tag changes no other field -/

@[simp] theorem setTag_fuses (s : State) (b : Nat) (t : Word) : (setTag s b t).fuses = s.fuses := rfl
@[simp] theorem setTag_pkg (s : State) (b : Nat) (t : Word) : (setTag s b t).pkg = s.pkg := rfl
@[simp] theorem setTag_mbox (s : State) (b : Nat) (t : Word) : (setTag s b t).mbox = s.mbox := rfl
@[simp] theorem setTag_cores (s : State) (b : Nat) (t : Word) : (setTag s b t).cores = s.cores := rfl
@[simp] theorem setTag_hall (s : State) (b : Nat) (t : Word) : (setTag s b t).hall = s.hall := rfl
@[simp] theorem setTag_sluices (s : State) (b : Nat) (t : Word) : (setTag s b t).sluices = s.sluices := rfl
@[simp] theorem setTag_toks (s : State) (b : Nat) (t : Word) : (setTag s b t).toks = s.toks := rfl
@[simp] theorem setTag_cellars (s : State) (b : Nat) (t : Word) : (setTag s b t).cellars = s.cellars := rfl
@[simp] theorem setTag_hbm (s : State) (b : Nat) (t : Word) : (setTag s b t).hbm = s.hbm := rfl
@[simp] theorem setTag_vmap (s : State) (b : Nat) (t : Word) : (setTag s b t).vmap = s.vmap := rfl
@[simp] theorem setTag_keyEpochs (s : State) (b : Nat) (t : Word) : (setTag s b t).keyEpochs = s.keyEpochs := rfl
@[simp] theorem setTag_freed (s : State) (b : Nat) (t : Word) : (setTag s b t).freed = s.freed := rfl
@[simp] theorem setTag_reqs (s : State) (b : Nat) (t : Word) : (setTag s b t).reqs = s.reqs := rfl
@[simp] theorem setTag_nextReq (s : State) (b : Nat) (t : Word) : (setTag s b t).nextReq = s.nextReq := rfl
@[simp] theorem setTag_parts (s : State) (b : Nat) (t : Word) : (setTag s b t).parts = s.parts := rfl
@[simp] theorem setTag_fab (s : State) (b : Nat) (t : Word) : (setTag s b t).fab = s.fab := rfl
@[simp] theorem setTag_pcie (s : State) (b : Nat) (t : Word) : (setTag s b t).pcie = s.pcie := rfl
@[simp] theorem setTag_mgmt (s : State) (b : Nat) (t : Word) : (setTag s b t).mgmt = s.mgmt := rfl
@[simp] theorem setTag_i3c (s : State) (b : Nat) (t : Word) : (setTag s b t).i3c = s.i3c := rfl
@[simp] theorem setTag_sed (s : State) (b : Nat) (t : Word) : (setTag s b t).sed = s.sed := rfl
@[simp] theorem setTag_boot (s : State) (b : Nat) (t : Word) : (setTag s b t).boot = s.boot := rfl
@[simp] theorem setTag_dbg (s : State) (b : Nat) (t : Word) : (setTag s b t).dbg = s.dbg := rfl
@[simp] theorem setTag_trc (s : State) (b : Nat) (t : Word) : (setTag s b t).trc = s.trc := rfl
@[simp] theorem setTag_cnt (s : State) (b : Nat) (t : Word) : (setTag s b t).cnt = s.cnt := rfl
@[simp] theorem setTag_pwr (s : State) (b : Nat) (t : Word) : (setTag s b t).pwr = s.pwr := rfl
@[simp] theorem setTag_rtime (s : State) (b : Nat) (t : Word) : (setTag s b t).rtime = s.rtime := rfl
@[simp] theorem setTag_egress (s : State) (b : Nat) (t : Word) : (setTag s b t).egress = s.egress := rfl
@[simp] theorem setTag_freeIx (s : State) (b : Nat) (t : Word) : (setTag s b t).freeIx = s.freeIx := rfl
@[simp] theorem setTag_pending (s : State) (b : Nat) (t : Word) : (setTag s b t).pending = s.pending := rfl

/-! ### Changing a hall buffer changes no other field -/

@[simp] theorem writeHall_fuses (s : State) (d : DieIx) (a : Nat) (bs : List Byte) : (writeHall s d a bs).fuses = s.fuses := rfl
@[simp] theorem writeHall_pkg (s : State) (d : DieIx) (a : Nat) (bs : List Byte) : (writeHall s d a bs).pkg = s.pkg := rfl
@[simp] theorem writeHall_mbox (s : State) (d : DieIx) (a : Nat) (bs : List Byte) : (writeHall s d a bs).mbox = s.mbox := rfl
@[simp] theorem writeHall_cores (s : State) (d : DieIx) (a : Nat) (bs : List Byte) : (writeHall s d a bs).cores = s.cores := rfl
@[simp] theorem writeHall_sluices (s : State) (d : DieIx) (a : Nat) (bs : List Byte) : (writeHall s d a bs).sluices = s.sluices := rfl
@[simp] theorem writeHall_toks (s : State) (d : DieIx) (a : Nat) (bs : List Byte) : (writeHall s d a bs).toks = s.toks := rfl
@[simp] theorem writeHall_cellars (s : State) (d : DieIx) (a : Nat) (bs : List Byte) : (writeHall s d a bs).cellars = s.cellars := rfl
@[simp] theorem writeHall_hbm (s : State) (d : DieIx) (a : Nat) (bs : List Byte) : (writeHall s d a bs).hbm = s.hbm := rfl
@[simp] theorem writeHall_tags (s : State) (d : DieIx) (a : Nat) (bs : List Byte) : (writeHall s d a bs).tags = s.tags := rfl
@[simp] theorem writeHall_vmap (s : State) (d : DieIx) (a : Nat) (bs : List Byte) : (writeHall s d a bs).vmap = s.vmap := rfl
@[simp] theorem writeHall_keyEpochs (s : State) (d : DieIx) (a : Nat) (bs : List Byte) : (writeHall s d a bs).keyEpochs = s.keyEpochs := rfl
@[simp] theorem writeHall_freed (s : State) (d : DieIx) (a : Nat) (bs : List Byte) : (writeHall s d a bs).freed = s.freed := rfl
@[simp] theorem writeHall_reqs (s : State) (d : DieIx) (a : Nat) (bs : List Byte) : (writeHall s d a bs).reqs = s.reqs := rfl
@[simp] theorem writeHall_nextReq (s : State) (d : DieIx) (a : Nat) (bs : List Byte) : (writeHall s d a bs).nextReq = s.nextReq := rfl
@[simp] theorem writeHall_parts (s : State) (d : DieIx) (a : Nat) (bs : List Byte) : (writeHall s d a bs).parts = s.parts := rfl
@[simp] theorem writeHall_fab (s : State) (d : DieIx) (a : Nat) (bs : List Byte) : (writeHall s d a bs).fab = s.fab := rfl
@[simp] theorem writeHall_pcie (s : State) (d : DieIx) (a : Nat) (bs : List Byte) : (writeHall s d a bs).pcie = s.pcie := rfl
@[simp] theorem writeHall_mgmt (s : State) (d : DieIx) (a : Nat) (bs : List Byte) : (writeHall s d a bs).mgmt = s.mgmt := rfl
@[simp] theorem writeHall_i3c (s : State) (d : DieIx) (a : Nat) (bs : List Byte) : (writeHall s d a bs).i3c = s.i3c := rfl
@[simp] theorem writeHall_sed (s : State) (d : DieIx) (a : Nat) (bs : List Byte) : (writeHall s d a bs).sed = s.sed := rfl
@[simp] theorem writeHall_boot (s : State) (d : DieIx) (a : Nat) (bs : List Byte) : (writeHall s d a bs).boot = s.boot := rfl
@[simp] theorem writeHall_dbg (s : State) (d : DieIx) (a : Nat) (bs : List Byte) : (writeHall s d a bs).dbg = s.dbg := rfl
@[simp] theorem writeHall_trc (s : State) (d : DieIx) (a : Nat) (bs : List Byte) : (writeHall s d a bs).trc = s.trc := rfl
@[simp] theorem writeHall_cnt (s : State) (d : DieIx) (a : Nat) (bs : List Byte) : (writeHall s d a bs).cnt = s.cnt := rfl
@[simp] theorem writeHall_pwr (s : State) (d : DieIx) (a : Nat) (bs : List Byte) : (writeHall s d a bs).pwr = s.pwr := rfl
@[simp] theorem writeHall_rtime (s : State) (d : DieIx) (a : Nat) (bs : List Byte) : (writeHall s d a bs).rtime = s.rtime := rfl
@[simp] theorem writeHall_egress (s : State) (d : DieIx) (a : Nat) (bs : List Byte) : (writeHall s d a bs).egress = s.egress := rfl
@[simp] theorem writeHall_freeIx (s : State) (d : DieIx) (a : Nat) (bs : List Byte) : (writeHall s d a bs).freeIx = s.freeIx := rfl
@[simp] theorem writeHall_pending (s : State) (d : DieIx) (a : Nat) (bs : List Byte) : (writeHall s d a bs).pending = s.pending := rfl

end Sys2Proof.Machine
end

