-- ==== Sys2Proof/Laws/Command.lean ====
section
/-! SUPPORT. What the shared frames of commands can do: a mailbox command, a boot stage, a frame that arrives, a report on its way out. -/

namespace Sys2Proof.Machine

/-! ### Mailbox commands -/

/-- A command that runs does its work, and its completion waits. -/
theorem runCmd_runs {s : State} {code : Nat} {c : Cmd} (h : RunsCmd s code c) (f : State → Cmd → CmdRes) :
    runCmd code s f = .next (modMbox (f s c).1 (fun m => { m with outcome := (f s c).2, begun := true })) := by
  simp [runCmd, h.held, h.code, h.fresh, h.able, h.admitted]

/-- A command that runs and comes to its end. -/
theorem runCmd_ends {s : State} {code : Nat} {c : Cmd} (h : RunsCmd s code c) {f : State → Cmd → CmdRes} {u : State} {e : Nat} {rs : List Nat}
    (hf : f s c = (u, some ⟨e, rs⟩)) : Ends (runCmd code s f) u e rs := by
  rw [runCmd_runs h, hf]; rfl

/-- A command that runs and goes on. -/
theorem runCmd_goesOn {s : State} {code : Nat} {c : Cmd} (h : RunsCmd s code c) {f : State → Cmd → CmdRes} {u : State}
    (hf : f s c = (u, none)) : GoesOn (runCmd code s f) u := by
  rw [runCmd_runs h, hf]; rfl

/-- All that a mailbox command can do: nothing; be turned away; do its work. -/
theorem runCmd_cases {s t : State} {code : Nat} {f : State → Cmd → CmdRes} (h : runCmd code s f = .next t) :
    t = s ∨ (∃ c e, s.mbox.run = some c ∧ turnAway s c = some e ∧ t = modMbox s (fun m => { m with outcome := some ⟨e, []⟩ }))
      ∨ ∃ c, RunsCmd s code c ∧ t = modMbox (f s c).1 (fun m => { m with outcome := (f s c).2, begun := true }) := by
  unfold runCmd at h
  split at h
  · exact .inl (by injection h with h; exact h.symm)
  · next c hc =>
    split at h
    · exact .inl (by injection h with h; exact h.symm)
    · next hn =>
      simp only [not_or, Bool.not_eq_true, Option.isSome_eq_false_iff, Option.isNone_iff_eq_none, Bool.not_eq_false', Decidable.not_not] at hn
      split at h
      · next e he => injection h with h; exact .inr (.inl ⟨c, e, hc, he, h.symm⟩)
      · next he => injection h with h; exact .inr (.inr ⟨c, ⟨hc, hn.1, hn.2.1, by simpa using hn.2.2, he⟩, h.symm⟩)

/-- A mailbox command always answers a next state. -/
theorem runCmd_next (s : State) (code : Nat) (f : State → Cmd → CmdRes) : ∃ t, runCmd code s f = .next t := by
  unfold runCmd
  split
  · exact ⟨_, rfl⟩
  · split
    · exact ⟨_, rfl⟩
    · split <;> exact ⟨_, rfl⟩

/-- A command of a partition that runs does its work with the partition that it names. -/
theorem runPartCmd_runs {s : State} {code : Nat} {c : Cmd} {p : PartIx} (h : RunsCmd s code c) (hp : partOfCmd s c = some p)
    (f : State → Cmd → PartIx → CmdRes) :
    runPartCmd code s f = .next (modMbox (f s c p).1 (fun m => { m with outcome := (f s c p).2, begun := true })) := by
  rw [runPartCmd, runCmd_runs h]; simp only [hp]

/-- A command of a partition that runs and comes to its end. -/
theorem runPartCmd_ends {s : State} {code : Nat} {c : Cmd} {p : PartIx} (h : RunsCmd s code c) (hp : partOfCmd s c = some p)
    {f : State → Cmd → PartIx → CmdRes} {u : State} {e : Nat} {rs : List Nat} (hf : f s c p = (u, some ⟨e, rs⟩)) : Ends (runPartCmd code s f) u e rs := by
  rw [runPartCmd_runs h hp, hf]; rfl

/-- A command of a partition that runs and goes on. -/
theorem runPartCmd_goesOn {s : State} {code : Nat} {c : Cmd} {p : PartIx} (h : RunsCmd s code c) (hp : partOfCmd s c = some p)
    {f : State → Cmd → PartIx → CmdRes} {u : State} (hf : f s c p = (u, none)) : GoesOn (runPartCmd code s f) u := by
  rw [runPartCmd_runs h hp, hf]; rfl

/-! ### Boot stages -/

/-- A stage that can begin does its work. -/
theorem atStage_ok {s : State} {n : Nat} (h : booting s n = true) (work : State → State) : atStage n none s work = .next (work s) := by simp [atStage, h]

/-- A stage always answers a next state. -/
theorem atStage_next (n : Nat) (fail : Option StartFail) (s : State) (work : State → State) : ∃ t, atStage n fail s work = .next t := by
  unfold atStage
  split
  · exact ⟨_, rfl⟩
  · split <;> exact ⟨_, rfl⟩

/-! ### Frames -/

/-- A frame that the device addressed to itself arrives when it stands first. -/
theorem arrive_loop {s : State} {h : Arrival} {f : Frame} {rest : List Frame} (hp : h.port = none) (hl : s.fab.loop = f :: rest)
    (hd : f.dpart = h.dpart.val) (onTwin : Bool) : arrive s h f.body onTwin = .ok { s with fab := { s.fab with loop := rest } } := by
  simp [arrive, hp, hl, hd]

/-- A frame on a port that is not ACTIVE does not arrive. -/
theorem arrive_inactive {s : State} {h : Arrival} {f : PortIx} (hp : h.port = some f) (ha : portActive s.fab.ports[f] = false) (b : FBody) (onTwin : Bool) :
    arrive s h b onTwin = .error s := by
  unfold arrive; rw [hp]; simp only [ha, Bool.not_false, Bool.true_or, if_true]

/-! ### Leaving the device -/

/-- What leaves the device changes nothing but the record of what has left. -/
theorem emit_frame (s : State) (o : Out) : emit s o = { s with egress := (emit s o).egress } := by unfold emit; split <;> rfl

/-- What may leave is added at the end. -/
theorem emit_egress {s : State} {o : Out} (h : canSend s o = true) : (emit s o).egress = s.egress ++ [o] := by simp [emit, h]

/-- What may not leave is dropped. -/
theorem emit_held {s : State} {o : Out} (h : canSend s o = false) : emit s o = s := by simp [emit, h]

end Sys2Proof.Machine
end

