-- ==== Sys2Proof/Laws/Context.lean ====
section
/-! SUPPORT. Laws of task contexts: reading back a changed context, frames, and what the issue of an instruction comes to. -/

namespace Sys2Proof.Machine

/-- A changed context reads back. -/
theorem ctxOf_modCtx (s : State) (n : CoreIx) (i : CtxIx) (f : Ctx → Ctx) : ctxOf (modCtx s n i f) n i = f (ctxOf s n i) := by
  unfold ctxOf modCtx; rw [modCore_self]; exact getElem_set_self' ..

/-- The other contexts of the core keep their state. -/
theorem ctxOf_modCtx_ne (s : State) (n : CoreIx) (i j : CtxIx) (f : Ctx → Ctx) (h : j ≠ i) : ctxOf (modCtx s n i f) n j = ctxOf s n j := by
  unfold ctxOf modCtx; rw [modCore_self]; exact getElem_set_ne' _ _ _ _ h

/-- A context that goes on has only its pc changed. -/
theorem ctxOf_goOn (s : State) (n : CoreIx) (i : CtxIx) (w k : Nat) :
    ctxOf (goOn s n i w k) n i = { ctxOf s n i with pc := (ctxOf s n i).pc + BitVec.ofNat 40 (8 * w) } := by
  unfold ctxOf goOn; rw [modCore_self]; exact getElem_set_self' ..

/-- A context that goes on has only its pc changed. -/
theorem ctxOf_advance (s : State) (n : CoreIx) (i : CtxIx) (w : Nat) :
    ctxOf (advance s n i w) n i = { ctxOf s n i with pc := (ctxOf s n i).pc + BitVec.ofNat 40 (8 * w) } := ctxOf_goOn ..

theorem OnlyCtx.refl (s : State) (n : CoreIx) (i : CtxIx) : OnlyCtx s s n i := ⟨rfl, fun _ _ => rfl, rfl, fun _ _ => rfl⟩

theorem OnlyCtx.trans {s t u : State} {n : CoreIx} {i : CtxIx} (h : OnlyCtx s t n i) (k : OnlyCtx t u n i) : OnlyCtx s u n i where
  rest := by rw [k.rest, h.rest]
  others m hm := (k.others m hm).trans (h.others m hm)
  core := by rw [k.core, h.core]
  ctxs j hj := (k.ctxs j hj).trans (h.ctxs j hj)

/-- Changing a context changes nothing else. -/
theorem onlyCtx_modCtx (s : State) (n : CoreIx) (i : CtxIx) (f : Ctx → Ctx) : OnlyCtx s (modCtx s n i f) n i where
  rest := rfl
  others m hm := modCore_ne s n _ m hm
  core := by unfold modCtx; rw [modCore_self]
  ctxs j hj := ctxOf_modCtx_ne s n i j f hj

/-- Going on changes nothing but the context and the issue count. -/
theorem onlyCtx_goOn (s : State) (n : CoreIx) (i : CtxIx) (w k : Nat) : OnlyCtx s (goOn s n i w k) n i where
  rest := rfl
  others m hm := modCore_ne s n _ m hm
  core := by unfold goOn; rw [modCore_self]
  ctxs j hj := by unfold ctxOf goOn; rw [modCore_self]; exact getElem_set_ne' _ _ _ _ hj

/-- Going on changes nothing but the context and the issue count. -/
theorem onlyCtx_advance (s : State) (n : CoreIx) (i : CtxIx) (w : Nat) : OnlyCtx s (advance s n i w) n i := onlyCtx_goOn ..

/-- s0 reads as 0 and every other register reads what was written (R65). -/
theorem rd_wr (x : Ctx) (r : Reg) (v : Word) : rd (wr x r v) r = if r = 0 then 0 else v := by
  unfold rd wr; by_cases h : r = 0 <;> simp [h]

/-- Writing a register leaves every other register. -/
theorem rd_wr_ne (x : Ctx) (r q : Reg) (v : Word) (h : q ≠ r) : rd (wr x r v) q = rd x q := by
  have : (r : Nat) ≠ q := fun e => h (Fin.ext e.symm)
  unfold rd wr; by_cases h0 : r = 0
  · simp [h0]
  · by_cases h1 : q = 0 <;> simp [h0, h1, this]

/-- p0 reads as 1 and every other predicate reads what was written (R65). -/
theorem rdp_wrp (x : Ctx) (r : Pred) (v : Bool) : rdp (wrp x r v) r = if r = 0 then true else v := by
  unfold rdp wrp; by_cases h : r = 0 <;> simp [h]

/-- Writing a predicate leaves every other predicate. -/
theorem rdp_wrp_ne (x : Ctx) (r q : Pred) (v : Bool) (h : q ≠ r) : rdp (wrp x r v) q = rdp x q := by
  have : (r : Nat) ≠ q := fun e => h (Fin.ext e.symm)
  unfold rdp wrp; by_cases h0 : r = 0
  · simp [h0]
  · by_cases h1 : q = 0 <;> simp [h0, h1, this]

/-- A register write changes only the scalar registers. -/
theorem wr_frame (x : Ctx) (r : Reg) (v : Word) : wr x r v = { x with s := (wr x r v).s } := by unfold wr; split <;> rfl

/-- A predicate write changes only the predicates. -/
theorem wrp_frame (x : Ctx) (r : Pred) (v : Bool) : wrp x r v = { x with p := (wrp x r v).p } := by unfold wrp; split <;> rfl

/-- Where an instruction issues, its effect happens. -/
theorem issue_ok {s : State} {n : CoreIx} {g : Guard} {uses : List Reg} {i : CtxIx} {b : Bound} {lc : LCoreE} (h : Issues s n g uses i b lc)
    (w : Nat) (eff : State → CtxIx → Bound → LCoreE → State) : issue s n g w uses eff = eff s i b lc := by
  simp only [issue, issueRun, h.calm, h.awake, h.run, h.bound, h.plan, h.guard, h.regs, Bool.false_eq_true, if_false, if_neg (Nat.not_le.mpr h.code), Bool.not_true]

/-- A scalar result is written and the context goes on. -/
theorem result_writes (s : State) (n : CoreIx) (i : CtxIx) (sd : Reg) (v : Word) (w : Nat) :
    WritesReg s n i sd v w (.next (result s n i sd v w)) := by
  have e : ctxOf (result s n i sd v w) n i = { wr (ctxOf s n i) sd v with pc := (wr (ctxOf s n i) sd v).pc + BitVec.ofNat 40 (8 * w) } := by
    unfold result; rw [ctxOf_advance, ctxOf_modCtx]
  refine ⟨_, rfl, (onlyCtx_modCtx ..).trans (onlyCtx_advance ..), ?_, ?_, ?_⟩
  · rw [e, wr_frame]
  · rw [e]; exact rd_wr ..
  · intro q hq; rw [e]; exact rd_wr_ne _ _ _ _ hq

/-- An instruction with a scalar result, where it issues. -/
theorem scalar_writes {s : State} {n : CoreIx} {g : Guard} {sd : Reg} {uses : List Reg} {i : CtxIx} {b : Bound} {lc : LCoreE}
    (h : Issues s n g (sd :: uses) i b lc) (f : Ctx → Word) : WritesReg s n i sd (f (ctxOf s n i)) 1 (.next (scalar s n g sd uses f)) := by
  rw [scalar, issue_ok h]; exact result_writes ..

/-- An instruction with a predicate result, where it issues. -/
theorem predicate_writes {s : State} {n : CoreIx} {g : Guard} {pd : Pred} {uses : List Reg} {i : CtxIx} {b : Bound} {lc : LCoreE}
    (h : Issues s n g uses i b lc) (f : Ctx → Bool) : WritesPred s n i pd (f (ctxOf s n i)) (.next (predicate s n g pd uses f)) := by
  rw [predicate, issue_ok h]
  have e := ctxOf_advance (modCtx s n i (fun x => wrp x pd (f x))) n i 1
  rw [ctxOf_modCtx] at e
  refine ⟨_, rfl, (onlyCtx_modCtx ..).trans (onlyCtx_advance ..), ?_, ?_, ?_⟩
  · rw [e, wrp_frame]; rfl
  · rw [e]; exact rdp_wrp ..
  · intro q hq; rw [e]; exact rdp_wrp_ne _ _ _ _ hq

end Sys2Proof.Machine
end

