-- ==== Sys2Proof/Laws/Table.lean ====
section
/-! SUPPORT. Laws of sparse tables and of the memories that they hold: what a read after a write gives, and that every write keeps the canonical form. -/

namespace Sys2Proof.Machine

variable {α : Type}

/-- Every key of a table lies above a bound. -/
def above (n : Nat) (t : Tbl α) : Prop := ∀ e ∈ t, n < e.1

/-- A table whose first entry is followed by a sorted table of higher keys is sorted, and the other way round. -/
theorem tsorted_cons (k : Nat) (v : α) (t : Tbl α) : tsorted ((k, v) :: t) = true ↔ above k t ∧ tsorted t = true := by
  induction t generalizing k v with
  | nil => simp [tsorted, above]
  | cons e t ih =>
    obtain ⟨j, w⟩ := e
    simp only [tsorted, Bool.and_eq_true, decide_eq_true_eq]
    constructor
    · rintro ⟨hk, ht⟩
      refine ⟨fun x hx => ?_, ht⟩
      rcases List.mem_cons.mp hx with rfl | hx
      · exact hk
      · exact Nat.lt_trans hk (((ih j w).mp ht).1 x hx)
    · rintro ⟨ha, ht⟩
      exact ⟨ha _ (List.mem_cons_self ..), ht⟩

/-! ### Reading after writing -/

theorem tfind_tput_self (t : Tbl α) (i : Nat) (a : α) : tfind (tput t i a) i = some a := by
  induction t with
  | nil => simp [tput, tfind]
  | cons e t ih =>
    obtain ⟨k, v⟩ := e
    unfold tput
    split
    · next h => rw [tfind, if_neg (Nat.ne_of_lt h), ih]
    · split <;> simp [tfind]

theorem tfind_tput_ne (t : Tbl α) (i j : Nat) (a : α) (h : j ≠ i) : tfind (tput t i a) j = tfind t j := by
  induction t with
  | nil => simp [tput, tfind, Ne.symm h]
  | cons e t ih =>
    obtain ⟨k, v⟩ := e
    unfold tput
    split
    · simp only [tfind, ih]
    · split
      · next hk => simp [tfind, hk, Ne.symm h]
      · simp [tfind, Ne.symm h]

theorem tfind_terase_self (t : Tbl α) (i : Nat) : tfind (terase t i) i = none := by
  induction t with
  | nil => rfl
  | cons e t ih =>
    obtain ⟨k, v⟩ := e
    unfold terase
    split
    · exact ih
    · next h => rw [tfind, if_neg h, ih]

theorem tfind_terase_ne (t : Tbl α) (i j : Nat) (h : j ≠ i) : tfind (terase t i) j = tfind t j := by
  induction t with
  | nil => rfl
  | cons e t ih =>
    obtain ⟨k, v⟩ := e
    unfold terase
    split
    · next hk => rw [tfind, if_neg (hk ▸ Ne.symm h), ih]
    · simp only [tfind, ih]

/-- A read of the place just written gives the value written. -/
@[simp] theorem tget_tset_self [DecidableEq α] (d : α) (t : Tbl α) (i : Nat) (a : α) : tget d (tset d t i a) i = a := by
  unfold tget tset
  split
  · next h => simp [tfind_terase_self, h]
  · simp [tfind_tput_self]

/-- A write leaves every other place alone. -/
theorem tget_tset_ne [DecidableEq α] (d : α) (t : Tbl α) (i j : Nat) (a : α) (h : j ≠ i) : tget d (tset d t i a) j = tget d t j := by
  unfold tget tset
  split
  · rw [tfind_terase_ne _ _ _ h]
  · rw [tfind_tput_ne _ _ _ _ h]

/-- A place outside a run that is written reads as before. -/
theorem tget_tsetMany_out [DecidableEq α] (d : α) (t : Tbl α) (i j : Nat) (as : List α) (h : j < i ∨ i + as.length ≤ j) :
    tget d (tsetMany d t i as) j = tget d t j := by
  induction as generalizing t i with
  | nil => rfl
  | cons a as ih =>
    simp only [List.length_cons] at h
    rw [tsetMany, ih _ _ (by omega), tget_tset_ne _ _ _ _ _ (by omega)]

/-- A place in a run that is written reads as the run has it. -/
theorem tget_tsetMany_in [DecidableEq α] (d : α) (t : Tbl α) (i k : Nat) (as : List α) (h : k < as.length) :
    tget d (tsetMany d t i as) (i + k) = as.getD k d := by
  induction as generalizing t i k with
  | nil => simp at h
  | cons a as ih =>
    rw [tsetMany]
    cases k with
    | zero => rw [tget_tsetMany_out _ _ _ _ _ (by omega)]; simp
    | succ k => rw [show i + (k + 1) = i + 1 + k by omega, ih _ _ _ (by simpa using h)]; simp

/-- Reading a run gives one value for each place. -/
@[simp] theorem length_tgetMany (d : α) (t : Tbl α) (i n : Nat) : (tgetMany d t i n).length = n := by
  induction n generalizing i with
  | zero => rfl
  | succ n ih => simp [tgetMany, ih]

/-- A run that is read back as it was written. -/
theorem tgetMany_tsetMany [DecidableEq α] (d : α) (t : Tbl α) (i : Nat) (as : List α) : tgetMany d (tsetMany d t i as) i as.length = as := by
  induction as generalizing t i with
  | nil => rfl
  | cons a as ih => rw [List.length_cons, tsetMany, tgetMany, ih, tget_tsetMany_out _ _ _ _ _ (by omega), tget_tset_self]

/-! ### The canonical form -/

theorem above_tput (n : Nat) (t : Tbl α) (i : Nat) (a : α) (ht : above n t) (hi : n < i) : above n (tput t i a) := by
  induction t with
  | nil => simpa [tput, above] using hi
  | cons e t ih =>
    obtain ⟨k, v⟩ := e
    have hk : n < k := ht _ (List.mem_cons_self ..)
    have hr : above n t := fun x hx => ht x (List.mem_cons_of_mem _ hx)
    unfold tput
    split
    · intro x hx
      rcases List.mem_cons.mp hx with rfl | hx
      · exact hk
      · exact ih hr x hx
    · split
      · intro x hx
        rcases List.mem_cons.mp hx with rfl | hx
        · exact hi
        · exact hr x hx
      · intro x hx
        rcases List.mem_cons.mp hx with rfl | hx
        · exact hi
        · exact ht x hx

theorem mem_terase (t : Tbl α) (i : Nat) (x : Nat × α) (h : x ∈ terase t i) : x ∈ t := by
  induction t with
  | nil => exact h
  | cons e t ih =>
    obtain ⟨k, v⟩ := e
    unfold terase at h
    split at h
    · exact List.mem_cons_of_mem _ (ih h)
    · rcases List.mem_cons.mp h with rfl | h
      · exact List.mem_cons_self ..
      · exact List.mem_cons_of_mem _ (ih h)

/-- Putting an entry keeps the keys rising. -/
theorem tsorted_tput (t : Tbl α) (i : Nat) (a : α) (h : tsorted t = true) : tsorted (tput t i a) = true := by
  induction t with
  | nil => rfl
  | cons e t ih =>
    obtain ⟨k, v⟩ := e
    obtain ⟨hk, ht⟩ := (tsorted_cons k v t).mp h
    unfold tput
    split
    · next hlt => exact (tsorted_cons ..).mpr ⟨above_tput _ _ _ _ hk hlt, ih ht⟩
    · next hge =>
      split
      · next he => exact (tsorted_cons ..).mpr ⟨he ▸ hk, ht⟩
      · next hne =>
        refine (tsorted_cons ..).mpr ⟨fun x hx => ?_, h⟩
        rcases List.mem_cons.mp hx with rfl | hx
        · show i < k; omega
        · exact Nat.lt_trans (by omega : i < k) (hk x hx)

/-- Erasing an entry keeps the keys rising. -/
theorem tsorted_terase (t : Tbl α) (i : Nat) (h : tsorted t = true) : tsorted (terase t i) = true := by
  induction t with
  | nil => rfl
  | cons e t ih =>
    obtain ⟨k, v⟩ := e
    obtain ⟨hk, ht⟩ := (tsorted_cons k v t).mp h
    unfold terase
    split
    · exact ih ht
    · exact (tsorted_cons ..).mpr ⟨fun x hx => hk x (mem_terase _ _ _ hx), ih ht⟩

theorem mem_tput (t : Tbl α) (i : Nat) (a : α) (x : Nat × α) (h : x ∈ tput t i a) : x = (i, a) ∨ x ∈ t := by
  induction t with
  | nil => exact .inl (List.mem_singleton.mp h)
  | cons e t ih =>
    obtain ⟨k, v⟩ := e
    unfold tput at h
    split at h
    · rcases List.mem_cons.mp h with rfl | h
      · exact .inr (List.mem_cons_self ..)
      · exact (ih h).imp_right (List.mem_cons_of_mem _)
    · split at h
      · rcases List.mem_cons.mp h with rfl | h
        · exact .inl rfl
        · exact .inr (List.mem_cons_of_mem _ h)
      · exact List.mem_cons.mp h

theorem twf_iff [DecidableEq α] (d : α) (t : Tbl α) : twf d t = true ↔ tsorted t = true ∧ ∀ e ∈ t, e.2 ≠ d := by simp [twf]

/-- A write keeps the canonical form. -/
theorem twf_tset [DecidableEq α] (d : α) (t : Tbl α) (i : Nat) (a : α) (h : twf d t = true) : twf d (tset d t i a) = true := by
  rw [twf_iff] at h ⊢
  unfold tset
  split
  · exact ⟨tsorted_terase _ _ h.1, fun e he => h.2 e (mem_terase _ _ _ he)⟩
  · next ha =>
    refine ⟨tsorted_tput _ _ _ h.1, fun e he => ?_⟩
    rcases mem_tput _ _ _ _ he with rfl | he
    · exact ha
    · exact h.2 e he

/-- Writing a run keeps the canonical form. -/
theorem twf_tsetMany [DecidableEq α] (d : α) (t : Tbl α) (i : Nat) (as : List α) (h : twf d t = true) : twf d (tsetMany d t i as) = true := by
  induction as generalizing t i with
  | nil => exact h
  | cons a as ih => exact ih _ _ (twf_tset _ _ _ _ h)

/-- Writing scattered places keeps the canonical form. -/
theorem twf_foldl [DecidableEq α] (d : α) (es : List (Nat × α)) (t : Tbl α) (h : twf d t = true) : twf d (es.foldl (fun t e => tset d t e.1 e.2) t) = true := by
  induction es generalizing t with
  | nil => exact h
  | cons e es ih => exact ih _ (twf_tset _ _ _ _ h)

/-- Putting scattered entries keeps the keys rising. -/
theorem tsorted_foldl (es : List (Nat × α)) (b : Nat) (t : Tbl α) (h : tsorted t = true) :
    tsorted (es.foldl (fun m e => tput m (b + e.1) e.2) t) = true := by
  induction es generalizing t with
  | nil => exact h
  | cons e es ih => exact ih _ (tsorted_tput _ _ _ h)

theorem above_filter (n : Nat) (t : Tbl α) (f : Nat × α → Bool) (h : above n t) : above n (t.filter f) := fun x hx => h x (List.mem_filter.mp hx).1

/-- Clearing a range keeps the keys rising. -/
theorem tsorted_tclear (t : Tbl α) (lo hi : Nat) (h : tsorted t = true) : tsorted (tclear t lo hi) = true := by
  unfold tclear
  induction t with
  | nil => rfl
  | cons e t ih =>
    obtain ⟨k, v⟩ := e
    obtain ⟨hk, ht⟩ := (tsorted_cons k v t).mp h
    rw [List.filter_cons]
    split
    · exact (tsorted_cons ..).mpr ⟨above_filter _ _ _ hk, ih ht⟩
    · exact ih ht

/-- Clearing a range keeps the canonical form. -/
theorem twf_tclear [DecidableEq α] (d : α) (t : Tbl α) (lo hi : Nat) (h : twf d t = true) : twf d (tclear t lo hi) = true := by
  rw [twf_iff] at h ⊢
  exact ⟨tsorted_tclear _ _ _ h.1, fun e he => h.2 e (List.mem_filter.mp he).1⟩

/-- A place in a cleared range lists nothing. -/
theorem tfind_tclear_in (t : Tbl α) (lo hi i : Nat) (h : lo ≤ i ∧ i < hi) : tfind (tclear t lo hi) i = none := by
  unfold tclear
  induction t with
  | nil => rfl
  | cons e t ih =>
    obtain ⟨k, v⟩ := e
    rw [List.filter_cons]
    split
    · next hk =>
      have : k ≠ i := by rintro rfl; simp at hk; omega
      rw [tfind, if_neg this, ih]
    · exact ih

/-- A place outside a cleared range lists what it did. -/
theorem tfind_tclear_out (t : Tbl α) (lo hi i : Nat) (h : i < lo ∨ hi ≤ i) : tfind (tclear t lo hi) i = tfind t i := by
  unfold tclear
  induction t with
  | nil => rfl
  | cons e t ih =>
    obtain ⟨k, v⟩ := e
    rw [List.filter_cons]
    split
    · simp only [tfind, ih]
    · next hk =>
      have : k ≠ i := by rintro rfl; simp at hk; omega
      rw [ih, tfind, if_neg this]

end Sys2Proof.Machine
end

