-- ==== Sys2Proof/Laws/Memory.lean ====
section
/-! SUPPORT. Laws of the memories: core store, hall buffer, cellar SRAM, management SRAM, HBM3 and its tags. Each operation keeps the canonical form, a
read of what was written gives it back, and every other place reads as before. -/

namespace Sys2Proof.Machine

/-- The canonical form, memory by memory. -/
theorem memory_wf_iff (s : State) : Memory.wf s = true ↔
    tsorted s.hbm = true ∧ twf unwrittenTag s.tags = true ∧ (∀ t ∈ s.hall.toList, twf 0 t = true) ∧ (∀ c ∈ s.cores.toList, twf 0 c.store = true)
      ∧ (∀ c ∈ s.cellars.toList, twf 0 c.sram = true) ∧ twf 0 s.boot.sram = true ∧ twf 0xFF s.boot.flash = true := by
  simp only [Memory.wf, Bool.and_eq_true, List.all_eq_true, and_assoc]

/-- The memories are in their canonical form after reset. -/
theorem memory_wf_reset : Memory.wf State.reset = true := by decide +kernel

/-- What holds of every entry of a vector holds after an entry for which it holds too is set. -/
theorem all_set {α : Type} {n : Nat} {P : α → Prop} (v : Vector α n) (i : Nat) (h : i < n) (a : α) (ha : P a) (hv : ∀ x ∈ v.toList, P x) :
    ∀ x ∈ (v.set i a h).toList, P x := by
  intro x hx
  rw [Vector.toList_set] at hx
  rcases List.mem_or_eq_of_mem_set hx with hx | rfl
  · exact hv x hx
  · exact ha

/-- A write to a core store keeps the canonical form. -/
theorem memory_wf_writeStore (s : State) (n : CoreIx) (a : Nat) (bs : List Byte) (h : Memory.wf s = true) :
    Memory.wf (modCore s n (fun c => writeStore c a bs)) = true := by
  rw [memory_wf_iff] at h ⊢
  obtain ⟨h1, h2, h3, h4, h5, h6, h7⟩ := h
  exact ⟨h1, h2, h3, all_set s.cores n n.isLt _ (twf_tsetMany _ _ _ _ (h4 _ (by simp))) h4, h5, h6, h7⟩

/-- A write to a hall buffer keeps the canonical form. -/
theorem memory_wf_writeHall (s : State) (d : DieIx) (a : Nat) (bs : List Byte) (h : Memory.wf s = true) : Memory.wf (writeHall s d a bs) = true := by
  rw [memory_wf_iff] at h ⊢
  obtain ⟨h1, h2, h3, h4, h5, h6, h7⟩ := h
  exact ⟨h1, h2, all_set s.hall d d.isLt _ (twf_tsetMany _ _ _ _ (h3 _ (by simp))) h3, h4, h5, h6, h7⟩

/-- A write to the SRAM of a cellar die keeps the canonical form. -/
theorem memory_wf_cellarSram (s : State) (c : CellarIx) (a : Nat) (bs : List Byte) (h : Memory.wf s = true) :
    Memory.wf (modCellar s c (fun x => { x with sram := tsetMany 0 x.sram a bs })) = true := by
  rw [memory_wf_iff] at h ⊢
  obtain ⟨h1, h2, h3, h4, h5, h6, h7⟩ := h
  exact ⟨h1, h2, h3, h4, all_set s.cellars c c.isLt _ (twf_tsetMany _ _ _ _ (h5 _ (by simp))) h5, h6, h7⟩

/-- A write to management SRAM keeps the canonical form. -/
theorem memory_wf_sramWrite (s : State) (a : Nat) (bs : List Byte) (h : Memory.wf s = true) : Memory.wf (sramWrite s a bs) = true := by
  rw [memory_wf_iff] at h ⊢
  obtain ⟨h1, h2, h3, h4, h5, h6, h7⟩ := h
  exact ⟨h1, h2, h3, h4, h5, twf_tsetMany _ _ _ _ h6, h7⟩

/-- A program of a range of the flash keeps the canonical form (tables BS-1, BS-7). -/
theorem memory_wf_programmed (s : State) (off size : Nat) (bs : List Byte) (h : Memory.wf s = true) :
    Memory.wf { s with boot := { s.boot with flash := programmed s.boot.flash off size bs } } = true := by
  rw [memory_wf_iff] at h ⊢
  obtain ⟨h1, h2, h3, h4, h5, h6, h7⟩ := h
  exact ⟨h1, h2, h3, h4, h5, h6, twf_tsetMany _ _ _ _ (twf_tclear _ _ _ _ h7)⟩

/-- Setting a tag keeps the canonical form. -/
theorem memory_wf_setTag (s : State) (b : Nat) (t : Word) (h : Memory.wf s = true) : Memory.wf (setTag s b t) = true := by
  rw [memory_wf_iff] at h ⊢
  obtain ⟨h1, h2, h3, h4, h5, h6, h7⟩ := h
  exact ⟨h1, twf_tset _ _ _ _ h2, h3, h4, h5, h6, h7⟩

/-- A write to a block of HBM3, with its tag, keeps the canonical form. -/
theorem memory_wf_writeBlock (s : State) (b : Nat) (ws : List (Nat × Byte)) (fresh : Bool) (version fold : Nat) (h : Memory.wf s = true) :
    Memory.wf (writeBlock s b ws fresh version fold) = true := by
  refine memory_wf_setTag _ _ _ ?_
  rw [memory_wf_iff] at h ⊢
  exact ⟨tsorted_foldl _ _ _ h.1, h.2⟩

/-! ### Reading after writing -/

/-- A read of the bytes just written to a core store gives them back. -/
theorem readStore_writeStore (c : Core) (a : Nat) (bs : List Byte) : readStore (writeStore c a bs) a bs.length = bs := tgetMany_tsetMany ..

/-- A read of the bytes just written to a hall buffer gives them back. -/
theorem readHall_writeHall (s : State) (d : DieIx) (a : Nat) (bs : List Byte) : readHall (writeHall s d a bs) d a bs.length = bs := by
  unfold readHall writeHall
  simp only [Fin.getElem_fin, Vector.getElem_set_self]
  exact tgetMany_tsetMany ..

/-- A read of the bytes just written to management SRAM gives them back. -/
theorem sramRead_sramWrite (s : State) (a : Nat) (bs : List Byte) : sramRead (sramWrite s a bs) a bs.length = bs := tgetMany_tsetMany ..

/-- The tag just set reads back. -/
@[simp] theorem tagOf_setTag_self (s : State) (b : Nat) (t : Word) : tagOf (setTag s b t) b = t := tget_tset_self ..

/-- The other tags stay. -/
theorem tagOf_setTag_ne (s : State) (b c : Nat) (t : Word) (h : c ≠ b) : tagOf (setTag s b t) c = tagOf s c := tget_tset_ne _ _ _ _ _ h

theorem tfind_foldl_out (es : List (Nat × Byte)) (b a : Nat) (t : Tbl Byte) (h : ∀ e ∈ es, a ≠ b + e.1) :
    tfind (es.foldl (fun m e => tput m (b + e.1) e.2) t) a = tfind t a := by
  induction es generalizing t with
  | nil => rfl
  | cons e es ih =>
    rw [List.foldl_cons, ih _ (fun x hx => h x (List.mem_cons_of_mem _ hx)), tfind_tput_ne _ _ _ _ (h e (List.mem_cons_self ..))]

/-- A byte of HBM3 that a write does not reach reads as before. -/
theorem hbmByte_writeBlock_out (s : State) (b a : Nat) (ws : List (Nat × Byte)) (fresh : Bool) (version fold : Nat) (h : ∀ e ∈ ws, a ≠ 4096 * b + e.1) :
    hbmByte (writeBlock s b ws fresh version fold) a = hbmByte s a := by
  have e : (writeBlock s b ws fresh version fold).hbm = ws.foldl (fun m e => tput m (4096 * b + e.1) e.2) s.hbm := rfl
  unfold hbmByte
  rw [e, tfind_foldl_out _ _ _ _ h]
  rfl

/-- A write to a block leaves the tags of the others. -/
theorem tagOf_writeBlock_ne (s : State) (b c : Nat) (ws : List (Nat × Byte)) (fresh : Bool) (version fold : Nat) (h : c ≠ b) :
    tagOf (writeBlock s b ws fresh version fold) c = tagOf s c := tget_tset_ne _ _ _ _ _ h

end Sys2Proof.Machine
end

