-- ==== Sys2Proof/WellFormed.lean ====
section
/-! DEFINITION. Which commands are well-formed: the ranges that the manual gives the operands that are plain numbers (table FB-2 for
frames, R365 for virtual lanes, table FB-9 for the PCIe link), and what makes an instruction a valid encoding (R37, R76, R77, R80,
R138, R139, R145, R198, R209). Every other operand has its range in its
type. The meanings are total and do not rest on it. -/

namespace Sys2Proof

/-- The header fields of an arriving frame are within table FB-2. -/
def Arrival.wellFormed (h : Arrival) : Bool := decide (h.gen < 2 ^ 32 ∧ h.vl < 4 ∧ h.hops ≤ 4 ∧ h.src < 65536 ∧ h.spart < 8 ∧ h.spd < 3 ∧ h.seq < 2 ^ 30)

/-- ATTEMPT and step are within STEPATT (R363). -/
def tagged (attempt step : Nat) : Bool := decide (attempt < 256 ∧ step < 2 ^ 56)

/-- An immediate shift count uses IMM32[5:0], and the rest of the field must be 0 (R76, R80). -/
def Op2.shiftOk : Op2 → Bool
  | .reg _ => true
  | .imm v => decide (v.toNat < 64)

/-- An extent of a logical tile (R37). -/
def tileDim (v : Nat) : Bool := decide (16 ≤ v ∧ v ≤ 8192 ∧ v % 16 = 0)

/-- FP4 block exponents go with FP4 (R139). -/
def bxOk (bx : Bool) (f : Fmt) : Bool := !bx || f == .e2m1

/-- The fields of an MMA are a valid encoding (R37, R138, R139). -/
def MmaF.wellFormed (f : MmaF) : Bool :=
  tileDim f.m && tileDim f.n && tileDim f.k && Machine.fmtPairOk (Machine.fmtCode f.fmtA) (Machine.fmtCode f.fmtW) && bxOk f.bxa f.fmtA && bxOk f.bxw f.fmtW
    && (f.drain == .direct || f.drain == .flume || f.chain == 0)

/-- The fields of a WPRE are a valid encoding (R37, R138, R139). -/
def WpreF.wellFormed (f : WpreF) : Bool :=
  tileDim f.n && tileDim f.k && f.fmtW != .fp32 && f.fmtW != .bit && bxOk f.bxw f.fmtW

/-- The fields of a VRUN are a valid encoding (R198). -/
def VrunF.wellFormed (f : VrunF) : Bool := decide (1 ≤ f.rows ∧ f.rows ≤ 8192 ∧ 1 ≤ f.cols ∧ f.cols ≤ 8192) && (!f.srck || f.fmt == .fp32)

/-- Is a command well-formed? -/
def Instr.wellFormed (i : Instr) : Bool :=
  match i with
  | .add .. => true
  | .sub .. => true
  | .and .. => true
  | .or .. => true
  | .xor .. => true
  | .shl _ _ _ _ op => op.shiftOk
  | .shr _ _ _ _ op => op.shiftOk
  | .sar _ _ _ _ op => op.shiftOk
  | .min .. => true
  | .max .. => true
  | .minu .. => true
  | .maxu .. => true
  | .sel .. => true
  | .clz .. => true
  | .popc .. => true
  | .mul .. => true
  | .mulhu .. => true
  | .mulh .. => true
  | .madd .. => true
  | .divu .. => true
  | .div .. => true
  | .remu .. => true
  | .rem .. => true
  | .fadd .. => true
  | .fsub .. => true
  | .fmul .. => true
  | .ffma .. => true
  | .fmin .. => true
  | .fmax .. => true
  | .fcvtif .. => true
  | .fcvtfi .. => true
  | .eq .. => true
  | .ne .. => true
  | .lt .. => true
  | .ge .. => true
  | .ltu .. => true
  | .geu .. => true
  | .flt .. => true
  | .feq .. => true
  | .pand .. => true
  | .por .. => true
  | .pxor .. => true
  | .pnot .. => true
  | .br _ _ _ off => decide (off.toNat % 8 = 0)
  | .bri _ _ _ _ off => decide (off.toNat % 8 = 0)
  | .load .. => true
  | .store .. => true
  | .nop .. => true
  | .yield .. => true
  | .stepend .. => true
  | .fence .. => true
  | .trap .. => true
  | .waitb .. => true
  | .sigb .. => true
  | .waitc .. => true
  | .setc .. => true
  | .rdsr .. => true
  | .qshape .. => true
  | .bcast .. => true
  | .trd .. => true
  | .li64 .. => true
  | .mma _ _ f => f.wellFormed
  | .mrelease .. => true
  | .wpre _ _ f => f.wellFormed
  | .vrun _ _ f => f.wellFormed
  | .vpop _ _ count _ => decide (1 ≤ count ∧ count ≤ 32)
  | .vchdef _ _ _ entry _ => decide (entry ≠ 0)
  | .sstart .. => true
  | .srelease _ _ _ lines _ => decide (1 ≤ lines ∧ lines ≤ 6144)
  | .loadData .. => true
  | .storeComplete .. => true
  | .quantum .. => true
  | .waitTimeout .. => true
  | .matrixPass .. => true
  | .matrixDrain .. => true
  | .wpreComplete .. => true
  | .arrayIdle .. => true
  | .flumeTileWrite .. => true
  | .vectorComplete .. => true
  | .sluiceGrant .. => true
  | .ageLimit .. => true
  | .chunkWritten .. => true
  | .streamComplete .. => true
  | .sreleaseRecord .. => true
  | .localToken .. => true
  | .cellarRequest .. => true
  | .burstIssue .. => true
  | .gatherAge .. => true
  | .runHold .. => true
  | .trackerExpiry .. => true
  | .scrubBlock .. => true
  | .scrubRetry .. => true
  | .tempReading .. => true
  | .remapCopy .. => true
  | .wipeEnd .. => true
  | .updGranule .. => true
  | .poolReportMs .. => true
  | .sweepEntry .. => true
  | .localContribution .. => true
  | .ready .. => true
  | .coordReady h _ _ sender _ _ _ => h.wellFormed && decide (sender < 65536)
  | .fail h _ _ sender _ _ _ _ => h.wellFormed && decide (sender < 65536)
  | .discarded h _ _ sender _ _ => h.wellFormed && decide (sender < 65536)
  | .start h _ _ sender _ _ => h.wellFormed && decide (sender < 65536)
  | .commit h _ _ sender _ _ => h.wellFormed && decide (sender < 65536)
  | .abort h _ _ sender _ _ => h.wellFormed && decide (sender < 65536)
  | .discardComplete .. => true
  | .mirrorPage .. => true
  | .mirror h _ => h.wellFormed
  | .mirrorAck h _ _ sender _ _ => h.wellFormed && decide (sender < 65536)
  | .twinSyncDone .. => true
  | .soloCommit .. => true
  | .readyTimeout .. => true
  | .commitTimeout .. => true
  | .peerLost .. => true
  | .heartbeat .. => true
  | .compare .. => true
  | .vote .. => true
  | .selftestRecord .. => true
  | .sectionWrite .. => true
  | .holdupSense .. => true
  | .holdupWait => true
  | .powerUp .. => true
  | .resetN .. => true
  | .pwrGoodFall .. => true
  | .pwrGoodRise => true
  | .coreUndervoltage => true
  | .pciePerstN => true
  | .trstN => true
  | .bootStageFuses .. => true
  | .bootStageConfig .. => true
  | .bootStageRecord .. => true
  | .bootStageImage .. => true
  | .bootStageLinks .. => true
  | .bootStageWipe .. => true
  | .bootStageState .. => true
  | .bootStageReady .. => true
  | .bootWatchdog => true
  | .minimalMode => true
  | .linkDown .. => true
  | .ucieTrainerror .. => true
  | .controlTick => true
  | .vrSetPointReached .. => true
  | .vrTimeout .. => true
  | .droop .. => true
  | .stretchHoldNs .. => true
  | .limiterSample .. => true
  | .limiterRaise => true
  | .boostLimit => true
  | .cooldownEnd => true
  | .junctionReading .. => true
  | .throttleStep .. => true
  | .wearSecond => true
  | .wearWrite => true
  | .pstateChange => true
  | .sync => true
  | .counterSample .. => true
  | .domainStop .. => true
  | .put h chan _ attempt step bytes => h.wellFormed && decide (chan < 256) && tagged attempt step && decide (bytes.length ≤ 4096)
  | .credit h chan _ attempt step => h.wellFormed && decide (chan < 256) && tagged attempt step
  | .contrib h _ fmt _ rank _ attempt step x => h.wellFormed && decide (fmt < 8 ∧ rank < 65536 ∧ x.raws.length ≤ 1024) && tagged attempt step
  | .retry h _ w01 => h.wellFormed && decide (w01.2.toNat / 2 ^ 62 < 3)
  | .retryUs _ seq => decide (seq < 2 ^ 30)
  | .token h rank lcore barrier attempt step => h.wellFormed && decide (rank < 65536 ∧ lcore < 65536 ∧ barrier < 65536) && tagged attempt step
  | .digest h _ sender _ _ => h.wellFormed && decide (sender < 65536)
  | .storeData h _ len _ bytes _ => h.wellFormed && decide (bytes.length ≤ 4096 ∧ bytes.length = len)
  | .dack h seqs => h.wellFormed && decide (1 ≤ seqs.length ∧ seqs.length ≤ 1024) && seqs.all (fun e => decide (e.1 < 3 ∧ e.2 < 2 ^ 30))
  | .ckpPageSend .. => true
  | .ckpTimeout .. => true
  | .unknownType h type => h.wellFormed && decide (type < 256)
  | .frameForward l f => decide (l.gen < 2 ^ 32 ∧ f.vl < 3 ∧ f.hops ≤ 4 ∧ f.dest < 65536 ∧ f.src < 65536)
  | .ack _ named => decide (named < 2 ^ 32)
  | .nack _ named _ => decide (named < 2 ^ 32)
  | .idle .. => true
  | .idleUs .. => true
  | .vlcredit _ vl hop _ => decide (vl < 3 ∧ hop ≤ 4)
  | .rekey _ gen fromSeq => decide (gen < 2 ^ 32 ∧ fromSeq < 2 ^ 32)
  | .laneFence .. => true
  | .detect .. => true
  | .detectRetry .. => true
  | .equalize .. => true
  | .align .. => true
  | .auth _ _ node _ => decide (node < 65536)
  | .portTrainingTimeout .. => true
  | .hostReadData .. => true
  | .command .. => true
  | .mgmtAck .. => true
  | .reportResend => true
  | .arpRequest .. => true
  | .ndpRequest .. => true
  | .icmpEcho _ bytes => decide (bytes.length ≤ 1500)
  | .entdaa .. => true
  | .setdasa .. => true
  | .setEndpointId .. => true
  | .getEndpointId => true
  | .getMctpVersionSupport => true
  | .getMessageTypeSupport => true
  | .gettid => true
  | .settid .. => true
  | .getpldmtypes => true
  | .getpldmcommands .. => true
  | .getpldmversion .. => true
  | .getsensorreading .. => true
  | .pldmFirmwareUpdate .. => true
  | .spdmRequest .. => true
  | .ideKm => true
  | .queryShape => true
  | .loadPlan .. => true
  | .arm => true
  | .haltPlan => true
  | .releasePlan => true
  | .queryPlan => true
  | .partWrite .. => true
  | .partRead => true
  | .unknownCode => true
  | .mboxCompletion => true
  | .twinAttach .. => true
  | .twinRelease => true
  | .groupJoin => true
  | .groupLeave => true
  | .reconfigure => true
  | .queryStep => true
  | .readToken => true
  | .flip .. => true
  | .discard => true
  | .go => true
  | .becomeSpare => true
  | .assumeIdentity .. => true
  | .restore .. => true
  | .repair .. => true
  | .fmHalt => true
  | .ckpQuery => true
  | .ckpAbandon => true
  | .ckpRestore .. => true
  | .ckpFind .. => true
  | .sedQueryUnit => true
  | .sedFence => true
  | .sedSelftest => true
  | .sedPantryRead => true
  | .sedPantryLoad => true
  | .sedReplicas => true
  | .sedDigest => true
  | .bootQuery => true
  | .bootReset => true
  | .bootImageBegin .. => true
  | .bootImageChunk .. => true
  | .bootImageEnd .. => true
  | .bootSvnCommit => true
  | .secXferWrite => true
  | .secXferRead => true
  | .secAttest => true
  | .secTakeOwnership .. => true
  | .secReleaseOwnership .. => true
  | .secScrap .. => true
  | .secProvision .. => true
  | .secKeyRequest => true
  | .secSharedCreate => true
  | .secSharedExport .. => true
  | .secSharedImport .. => true
  | .partCreate => true
  | .partDestroy => true
  | .bootCauses => true
  | .dbgChallenge => true
  | .dbgUnlock .. => true
  | .dbgLock => true
  | .dbgHalt => true
  | .dbgResume => true
  | .dbgScan => true
  | .trcMark => true
  | .cntRead .. => true
  | .cntSnapshot .. => true
  | .cntClear => true
  | .pwrSetState => true
  | .pwrQuery => true
  | .fabSetNode => true
  | .fabRouteSet => true
  | .fabRankmapSet => true
  | .fabPort => true
  | .fabQueryPort => true
  | .hostwinSet => true
  | .extest .. => true
  | .idcode => true
  | .samplePreload .. => true
  | .clamp => true
  | .highz => true
  | .dbgAuth .. => true
  | .tapDbgStatus => true
  | .halt .. => true
  | .resume .. => true
  | .scanSel .. => true
  | .scanData .. => true
  | .sel1500 .. => true
  | .bypass => true
  | .registerWrite _ _ bytes => decide (1 ≤ bytes.length)
  | .pkgStatus .. => true
  | .pkgMboxStatus .. => true
  | .secMboxOwner .. => true
  | .slcCtxSel .. => true
  | .fabRouteSel .. => true
  | .dbgStopSel .. => true
  | .celTemp .. => true
  | .pwrPower .. => true
  | .dbgDumpCfg .. => true
  | .maErr .. => true
  | .veErr .. => true
  | .slcTokens .. => true
  | .celErr .. => true
  | .updErr .. => true
  | .updDiscards .. => true
  | .stpErr .. => true
  | .sedCount .. => true
  | .fabDiscards .. => true
  | .fabFec .. => true
  | .ckpErr .. => true
  | .trcLost => true
  | .pwrErr .. => true
  | .powerRemoval => true
  | .pcieLinkUp _ width => [1, 2, 4, 8, 16].contains width
  | .failingRead _ len => decide (1 ≤ len)
  | .dhcpv4 .. => true
  | .pdrRepository => true

end Sys2Proof
end

