-- ==== Sys2Proof/Tests/Slice0.lean ====
section
/-! SUPPORT. Small tests: for every statement with hypotheses a concrete state and operands that meet them, the manual's worked examples, and a command that each
check of well-formedness refuses. -/

namespace Sys2Proof.Tests

open Sys2Proof.Machine

-- One theorem at a time: together they ask for more memory than a check of the package has.
set_option Elab.async false

/-! ### A bench: a device in service with one logical core of partition 0 bound to core 0 -/

/-- A share for partition 0: core 0, 4 MiB of HBM3, 1 MiB of each hall buffer. -/
def share0 : Allot :=
  { cores := 1, base := 0, size := 0x400000, data := 0x200000, pool := 0x100000, vest := 0x100000, mirror := 0, reserved := 0, hallBase := [0, 0]
    hallSize := [0x100000, 0x100000], strBase := [0, 0], strCount := [16, 16], hostPlan := true }

/-- A logical core of two contexts with eight words of code and a flume of one slot. -/
def lcore0 : LCoreE :=
  { contexts := 2, footprint := 0x80000, entries := [0, 0], code := List.replicate 8 0, codeLen := 64, nStreams := 1, descOffset := 0x400
    descs := [[0, 0, 0, 0, 0, 0, 0, 0, 0, 0, 0, 0, 0, 0, 0, 0]], flumeDepth := 1, flumeOffset := 0x10000 }

/-- A parameter and a gradient tensor of one granule each. -/
def tensors0 : List TensorE := [⟨1, .parameter, 6, false, [1, 1024], 0, 4096, 0⟩, ⟨2, .gradient, 6, false, [1, 1024], 0x1000, 4096, 0⟩]

/-- A plan image with that logical core. -/
def image0 : Image :=
  { magicOk := true, contract := 3, length := 4096, digestOk := true, digest := [], reads := [], seed := 7, lcores := [lcore0], tensors := tensors0, layers := []
    barriers := [⟨3, [.here 0], [0]⟩, ⟨4, [.remote 1 0], [0]⟩], programs := [], bindings := [], reductions := [⟨5, 2, 2, 0, 3, [0, 1]⟩], channels := [], ksplits := [] }

/-- Partition 0 with the plan running a step. -/
def part0 : Machine.Part :=
  { Part.reset with allot := some share0, st := .running, image := some image0, bind := [some 0], step := .run, inGroup := true, ranks := 2, stepNo := 9, version := 4 }

/-- Context 0 of core 0 in RUN: s1 and s2 hold offsets, s3 and s4 operand words of pitch 256. -/
def ctx0 : Ctx := { Ctx.reset with st := .run, s := (((Ctx.reset.s.set 1 0x100).set 2 0x2000).set 3 0x100000002000).set 4 0x100000004000 }

/-- Core 0 with the logical core bound; context 1 is READY. -/
def core0 : Core :=
  { Core.reset with ctx := (Core.reset.ctx.set 0 ctx0).set 1 { Ctx.reset with st := .ready }, bound := [⟨0, 0, 0, 2, 0⟩] }

/-- The links up, as stage 4 leaves them. -/
def pkg0 : Pkg :=
  { Pkg.reset with ucie := Vector.replicate 2 true, bridge := true, portLink := Vector.replicate 3 true, cellarLink := Vector.replicate 12 true, inventory := true }

/-- The bench. -/
def bench : State :=
  { State.reset with pkg := pkg0, boot := { Boot.reset with stage := 8, bootCount := 1, recordRead := true, seqBase := 0x100000, seqLimit := 0x100000 }, parts := State.reset.parts.set 0 part0
                     cores := State.reset.cores.set 0 core0 }

/-- The bench with core 0 changed. -/
def withCore (f : Core → Core) : State := { bench with cores := bench.cores.set 0 (f core0) }

/-- The bench with context 0 changed. -/
def withCtx (f : Ctx → Ctx) : State := withCore (fun c => { c with ctx := c.ctx.set 0 (f ctx0) })

/-- The bench with partition 0 changed. -/
def withPart (f : Machine.Part → Machine.Part) : State := { bench with parts := bench.parts.set 0 (f part0) }

/-- The guard that always holds. -/
def always : Guard := ⟨0, false⟩

/-- What partition 0 has bound on core 0. -/
def bound0 : Bound := ⟨0, 0, 0, 2, 0⟩

/-- `Issues` as a check that can be run. -/
def issuesAt (s : State) (n : CoreIx) (g : Guard) (uses : List Reg) (i : CtxIx) (b : Bound) (lc : LCoreE) : Bool :=
  decide (asleep s (coreDom n) = false ∧ (s.cores[n]).stopping = false ∧ runCtx s.cores[n] = some i ∧ boundOf s.cores[n] i = some b ∧ lcoreE s b.part b.lcore = some lc
    ∧ (ctxOf s n i).pc.toNat < lc.codeLen ∧ guardOk (ctxOf s n i) g = true ∧ condHolds s n i (.regs uses) = true)

theorem issues_of {s : State} {n : CoreIx} {g : Guard} {uses : List Reg} {i : CtxIx} {b : Bound} {lc : LCoreE} (h : issuesAt s n g uses i b lc = true) :
    Issues s n g uses i b lc := by
  obtain ⟨h1, h2, h3, h4, h5, h6, h7, h8⟩ := of_decide_eq_true h
  exact ⟨h1, h2, h3, h4, h5, h6, h7, h8⟩

/-! ### Witnesses: states and operands that meet the hypotheses of the statements -/

/-- FrontCommandRuns: a queue with a front, and an empty one. -/
theorem witness_front : ({ State.reset with pending := [.nop 0 always, .holdupWait] } : State).pending = .nop 0 always :: [.holdupWait] ∧ State.reset.pending = [] := ⟨rfl, rfl⟩

/-- AluResults, MultiplyDivideResults, FloatResults, PredicateResults, BranchResults, SpecialResults: each list of used registers that their
instructions have, with distinct and with equal operands, and s0. -/
theorem witness_issues : ∀ uses ∈ ([[], [1], [0, 0], [1, 1], [1, 2], [1, 2, 3], [1, 2, 3, 4], [63, 63, 63, 63]] : List (List Reg)),
    Issues bench 0 always uses 0 bound0 lcore0 := by
  intro uses h
  apply issues_of
  revert uses
  decide +kernel

/-- BranchResults: a target that is an instruction's start, and one that is none. -/
theorem witness_branch : isStart lcore0 8 = true ∧ isStart lcore0 4 = false ∧ isStart lcore0 64 = false := by decide +kernel

/-- SpecialResults: TRD with and without an earlier vector instruction of the context. -/
theorem witness_trd : Issues (withCore (fun c => { c with vq := [⟨0, 0, 0, none, Vector.replicate 8 0, .chdef 1 chainZero⟩] })) 0 always [1] 0 bound0 lcore0
    ∧ (ctxOf bench 0 0).trds = [] ∧ ((bench.cores[(0 : CoreIx)]).vq.filter (fun v => v.ctx == 0)).length = 0 :=
  ⟨issues_of (by decide +kernel), by decide +kernel, by decide +kernel⟩

/-- GuardAndAwaitedRegisters: a guard that does not hold, a core with no context in RUN, a register that a load awaits. -/
theorem witness_guard : coreInstr (.add 0 ⟨1, false⟩ 1 2 (.imm 3)) = some (0, ⟨1, false⟩, 1) ∧ guardOk (ctxOf bench 0 0) ⟨1, false⟩ = false
    ∧ runCtx State.reset.cores[(7 : CoreIx)] = none
    ∧ condHolds (withCtx (fun x => { x with accs := [⟨.hall, false, 0, 8, false, 2, 0, 0⟩] })) 0 0 (.regs [1, 2]) = false := by decide +kernel

/-- LoadResults and StoreResults: an access at the last place of each view; AccessExceptions: one byte further, a misaligned one, one
into the code. -/
theorem witness_access : Issues bench 0 always [5, 2] 0 bound0 lcore0
    ∧ ((rd (ctxOf bench 0 0) 2 + (0x7DFF8 : BitVec 28).signExtend 64).toNat = 0x7FFF8 ∧ viewSize bench 0 bound0 lcore0 .store = 0x80000 ∧ lcore0.codeLen ≤ 0x7FFF8)
    ∧ ((rd (ctxOf bench 0 0) 2 + (0xFDFF8 : BitVec 28).signExtend 64).toNat = 0xFFFF8 ∧ viewSize bench 0 bound0 lcore0 .hall = 0x100000)
    ∧ ((rd (ctxOf bench 0 0) 2 + (0x1FDFF8 : BitVec 28).signExtend 64).toNat = 0x1FFFF8 ∧ viewSize bench 0 bound0 lcore0 .hbm = 0x200000)
    ∧ (rd (ctxOf bench 0 0) 2 + (1 : BitVec 28).signExtend 64).toNat % 8 ≠ 0 ∧ (rd (ctxOf bench 0 0) 0 + (0x38 : BitVec 28).signExtend 64).toNat < lcore0.codeLen :=
  ⟨issues_of (by decide +kernel), by decide +kernel, by decide +kernel, by decide +kernel, by decide +kernel, by decide +kernel⟩

/-- ExceptionTaken: a context that is not FAULTED of a partition in RUN, beside one that is READY. -/
theorem witness_exception : boundOf bench.cores[(0 : CoreIx)] 0 = some bound0 ∧ (ctxOf bench 0 0).st ≠ .faulted ∧ (bench.parts[bound0.part]).step = .run
    ∧ coresOf bench 0 = [0] ∧ boundOf bench.cores[(0 : CoreIx)] 1 = some bound0 ∧ (ctxOf bench 0 1).st = .ready := by decide +kernel

/-- A bench with one outstanding access, and the request of an access to HBM3 that has passed. -/
def waitingAcc (a : Acc) (failed : Bool) : State :=
  { withCtx (fun x => { x with accs := [a] }) with reqs := [⟨0, .scalar 0 0, 0, 1, a.store, [(0, 0)], [], [(0, 1)], [0], failed⟩] }

/-- OutstandingAccessesComplete: a load and a store of each space, and a load that failed. -/
theorem witness_outstanding : ∀ st ∈ [false, true], ∀ sp ∈ [Space.hall, .hbm], ∀ failed ∈ [false, true],
    let s := waitingAcc ⟨sp, st, 8, 8, false, 3, 0, 0⟩ failed
    asleep s (coreDom 0) = false ∧ headAcc (ctxOf s 0 0) sp = some ⟨sp, st, 8, 8, false, 3, 0, 0⟩ ∧ boundOf s.cores[(0 : CoreIx)] 0 = some bound0
      ∧ (sp = .hbm → ∃ r ∈ headReq s 0 0, reqDone s r = true ∧ r.failed = failed) ∧ (ctxOf s 0 0).st ≠ .faulted := by decide +kernel

/-- WaitsAndSwitches: an access in scope of a FENCE and none, a barrier that is done and one that is not, a counter below and at its
value, and a quantum that is used up. -/
theorem witness_waits : (∀ a ∈ (ctxOf bench 0 0).accs, inScope 7 a = false) ∧ inScope 2 ⟨.hall, true, 0, 8, false, 0, 0, 0⟩ = true
    ∧ barrierDone { bench with sluices := bench.sluices.set 0 { Sluice.reset with held := [⟨0, 3, .here 0, 9, 0⟩] } } 0 0 3 = true ∧ barrierDone bench 0 0 3 = false
    ∧ (let s := withCore (fun c => { c with issued := 0x100 })
       asleep s (coreDom 0) = false ∧ runCtx s.cores[(0 : CoreIx)] = some 0 ∧ (s.cores[(0 : CoreIx)]).quantum ≠ 0
         ∧ (s.cores[(0 : CoreIx)]).quantum ≤ (s.cores[(0 : CoreIx)]).issued ∧ anyReady s.cores[(0 : CoreIx)] = true) := by decide +kernel

/-- SigbTrapAndTimeout: barriers that list the logical core and that do not, engine work done and open, contexts that have blocked. -/
theorem witness_sigb : ((barrierOf bench 0 3).map (fun e => e.sources.contains (.here 0)) = some true)
    ∧ ((barrierOf bench 0 4).map (fun e => e.sources.contains (.here 0)) = some false) ∧ barrierOf bench 0 0xFFFF = none
    ∧ (ctxOf bench 0 0).accs = [] ∧ condHolds bench 0 0 .engineDone = true
    ∧ condHolds (withCore (fun c => { c with mq := [⟨0, 0, .release none false⟩] })) 0 0 .engineDone = false
    ∧ (let s := withCtx (fun x => { x with st := .blocked, waits := [.barrier 4] })
       timersHeld s = false ∧ asleep s (coreDom 0) = false ∧ (ctxOf s 0 0).st = .blocked ∧ (s.cores[(0 : CoreIx)]).waitLimit ≠ 0) := by decide +kernel

/-! ### The engines -/

/-- An MMA of 2 × 3 × 4 in BF16 with operands at s3 and s4. -/
def mma0 (drain : DrainMode) : MmaF :=
  ⟨3, 4, 0, 3, .forward, .bf16, .bf16, false, drain, 0, .none, false, 2, 3, 4, none, false, false, false⟩

/-- MatrixInstructionsQueue: an MMA of each drain path, a WPRE and an MRELEASE that pass their checks and the headgate. -/
theorem witness_matrix_issue : (∀ d ∈ [DrainMode.keep, .direct, .flume, .raw], issuesAt bench 0 always (mmaUses (mma0 d)) 0 bound0 lcore0 = true
      ∧ (mmaCheck bench.cores[(0 : CoreIx)] 0 lcore0 (mma0 d) (rd ctx0 3) (rd ctx0 4) 0 (rd ctx0 3)).isNone = true)
    ∧ (match chainChecks image0 lcore0 (chainNow bench.cores[(0 : CoreIx)] 0 0) 0 ctx0.b (rd ctx0 3) 2 3 none false with | .ok ch => decide (ch = chainZero) | .error _ => false) = true
    ∧ wordBad (rd ctx0 4) = false ∧ extentBad lcore0 (rd ctx0 4) 4 (rowBytes .bf16 false 3) = false ∧ (bench.cores[(0 : CoreIx)]).mq.length < 8
    ∧ condHolds bench 0 0 (.lines (opLines 0 (rd ctx0 4) 4 6).1 (opLines 0 (rd ctx0 4) 4 6).2) = true
    ∧ condHolds bench 0 0 (.lines (opLines 0 (rd ctx0 3) 2 8).1 (opLines 0 (rd ctx0 3) 2 8).2) = true ∧ condHolds bench 0 0 .keptFree = true := by decide +kernel

/-- A VRUN of 2 × 4 in FP32 from s3 to s4 under chain 0. -/
def vrun0 : VrunF := ⟨3, 4, .fp32, false, 0, 0, 2, 4, none, false⟩

/-- A bank with one filled flume slot that chain 0 takes. -/
def flumed : State := withCore (fun c => { c with banks := c.banks.set 0 { VBank.reset with flume := [⟨0, 2, 3, 0, 0, [0, 1], 0, rd ctx0 4, 0⟩], next := 1 } })

/-- A core store that holds a definition of one STORE stage at 0x100. -/
def chained : State := withCore (fun c => { c with store := tsetMany 0 (tsetMany 0 [] 0x100 (leBytes 8 0x10)) 0x108 (leBytes 8 0x4400000000000000) })

/-- VectorInstructionsQueue: a VRUN, a VPOP of one slot and a VCHDEF that pass their checks and the headgate. -/
theorem witness_vector_issue : (bench.parts[(0 : PartIx)]).image = some image0 ∧ issuesAt bench 0 always [3, 4] 0 bound0 lcore0 = true
    ∧ (check1 lcore0 vrun0 (rd ctx0 3)).isNone = true
    ∧ (match chainChecks image0 lcore0 (chainNow bench.cores[(0 : CoreIx)] 0 0) 0 ctx0.b (rd ctx0 4) 2 4 none false with
       | .ok ch => (runLines 0 vrun0 (rd ctx0 3) (rd ctx0 4) ch ctx0.b).all (fun l => condHolds bench 0 0 (.lines l.1 l.2)) | .error _ => false) = true
    ∧ issuesAt flumed 0 always [] 0 bound0 lcore0 = true ∧ 1 ≤ ((flumed.cores[(0 : CoreIx)]).banks[(0 : Fin 2)]).flume.length
    ∧ (match chainChecks image0 lcore0 (chainNow flumed.cores[(0 : CoreIx)] 0 0) 0 ctx0.b (rd ctx0 4) 2 3 none false with | .ok _ => true | .error _ => false) = true
    ∧ issuesAt chained 0 always [1] 0 bound0 lcore0 = true ∧ 0x100 % 64 = 0 ∧ 0x100 + 72 ≤ lcore0.footprint
    ∧ chainBad ((List.range 9).map (fun k => word (leNat (readStore chained.cores[(0 : CoreIx)] (0x100 + 8 * k) 8)))) = none
    ∧ condHolds chained 0 0 (.entryFree 1) = true := by decide +kernel

/-- The state that a command leaves. -/
def after (c : Instr) (s : State) : State := match exec c s with | .next t => t | _ => s

/-- A core store that holds descriptor 0: 16 bytes from the core store to the hall buffer. -/
def described : State :=
  withCore (fun c => { c with store := tsetMany 0 (tsetMany 0 [] 0x400 (leBytes 8 0x0000000110000000)) 0x418 (leBytes 8 15) })

/-- StreamInstructionsQueue: an SSTART and an SRELEASE that pass their checks and the headgate. -/
theorem witness_stream_issue :
    issuesAt described 0 always [2, 1] 0 bound0 lcore0 = true
    ∧ sstartCheck described 0 bound0 lcore0 (descWords described.cores[(0 : CoreIx)] bound0 lcore0 0) (rd ctx0 2) (rd ctx0 1) 0 0 = none
    ∧ (described.cores[(0 : CoreIx)]).sq.length < 16 ∧ condHolds described 0 0 (.sctxIdle 0) = true
    ∧ (rd ctx0 2).toNat % 1024 = 0 ∧ (rd ctx0 2).toNat + 1024 * 504 ≤ lcore0.footprint := by decide +kernel

/-- EngineChecksAndHeadgate: a malformed operand word, one whose extent is too long, a release that is misaligned, a full queue. -/
theorem witness_engine_checks : wordBad (rd ctx0 1) = true
    ∧ (wordBad (rd ctx0 4) = false ∧ extentBad lcore0 (rd ctx0 4) 0x2000 (rowBytes .fp32 false 128) = true)
    ∧ (rd ctx0 1).toNat % 1024 ≠ 0 ∧ lcore0.footprint < (rd ctx0 2).toNat + 1024 * 505
    ∧ (let s := withCore (fun c => { c with mq := List.replicate 8 ⟨0, 0, .release none false⟩ })
       issuesAt s 0 always [] 0 bound0 lcore0 = true ∧ 8 ≤ (s.cores[(0 : CoreIx)]).mq.length ∧ tget 0 s.cnt.p[(0 : PartIx)] 6 < cntTop) := by decide +kernel

/-- The bench with an MMA in the matrix queue. -/
def mmaQueued (d : DrainMode) : State := after (.mma 0 always (mma0 d)) bench

/-- The bench with that MMA's one pass done. -/
def mmaFed (d : DrainMode) : State := after (.matrixPass 0 none none) (mmaQueued d)

/-- That MMA with a plan of two passes. -/
def twoPasses : State :=
  modCore (mmaQueued .keep) 0 (fun c => { c with mq := c.mq.map (fun e =>
    match e.kind with
    | .mma j => { e with kind := .mma { j with plan := [.pass 0 0 [0], .pass 0 1 [0]], dIx := 2 } }
    | _ => e) })

/-- MatrixArraysAdvance: an MMA that keeps its tile with a pass left whose tiles open, and a WPRE whose turn it is. -/
theorem witness_matrix_pass : asleep (mmaQueued .keep) (coreDom 0) = false
    ∧ ([mmaQueued .keep, twoPasses].map (fun s =>
        match passEntry s.cores[(0 : CoreIx)] with
        | some (k, e, j) =>
          let loaded := loadNext s 0 k 0 0 j
          some (decide (k = 0 ∧ e.ctx = 0 ∧ onKept j.f = true ∧ keepsTile s.cores[(0 : CoreIx)] k e.ctx = true ∧ j.plan[j.pIx]? = some (.pass 0 0 [0]))
            && (openTiles (startPass loaded.1.cores[(0 : CoreIx)] loaded.2) loaded.2 false 0 0 [(0, 0)]).isSome, j.plan[nextPass j.plan (j.pIx + 1)]?)
        | none => none)) = [some (true, none), some (true, some (.pass 0 1 [0]))]
    ∧ (let s := withCore (fun c => { c with mq := [⟨0, 0, .wpre ⟨4, .forward, .bf16, false, 3, 4, none⟩ (rd ctx0 4) false⟩] })
       passTurn s.cores[(0 : CoreIx)] = some (0, ⟨0, 0, .wpre ⟨4, .forward, .bf16, false, 3, 4, none⟩ (rd ctx0 4) false⟩) ∧ (arraysOf s.cores[(0 : CoreIx)])[0]? = some 0) := by
  decide +kernel

/-- MatrixDrainsLeave: a head whose pass has run, for each drain path that has one, with the flume empty and full. -/
theorem witness_matrix_drain : ∀ d ∈ [DrainMode.raw, .flume, .direct], asleep (mmaFed d) (coreDom 0) = false ∧ boundOf (mmaFed d).cores[(0 : CoreIx)] 0 = some bound0
    ∧ lcoreE (mmaFed d) 0 0 = some lcore0
    ∧ (match drainHead (mmaFed d).cores[(0 : CoreIx)] with
       | some (e, j, mg, nb, nt) => decide (e.ctx = 0 ∧ j.f.drain = d ∧ mg = 0 ∧ nb = 0 ∧ nt = 1)
           && (d != .direct || tileLines (mmaFed d).cores[(0 : CoreIx)] 0 j.chain j.slots j.out j.f.m j.f.n (drainRows j mg) nb)
       | none => false) = true
    ∧ ((mmaFed d).cores[(0 : CoreIx)]).banks[(0 : Fin 2)].flume.length < lcore0.flumeDepth ∧ lcore0.flumeDepth ≤ ((flumed.cores[(0 : CoreIx)]).banks[(0 : Fin 2)]).flume.length := by
  decide +kernel

/-- VectorHeadCompletes: each kind of work at the head of the vector queue. -/
theorem witness_vector_head : ∀ e ∈ [(⟨0, 0, 0, some 7, Vector.replicate 8 0, .chdef 31 chainZero⟩ : VEntry), ⟨0, 0, 0, none, Vector.replicate 8 0, .run vrun0 (rd ctx0 3) (rd ctx0 4) chainZero⟩,
      ⟨0, 0, 0, some 0, Vector.replicate 8 0, .pop [] 1 [chainZero]⟩],
    let s := withCore (fun c => { c with vq := [e] })
    asleep s (coreDom 0) = false ∧ (s.cores[(0 : CoreIx)]).vq = [e] ∧ boundOf s.cores[(0 : CoreIx)] e.ctx = some bound0 ∧ lcoreE s 0 0 = some lcore0 := by decide +kernel

/-- A stream of partition 0 with 512 bytes from the core store to a space, of which one chunk has been granted. -/
def stream0 (dst : Nat) (sig : Option Nat) : SCtx :=
  { part := 0, lcore := 0, sctx := 0, core := 0, ctx := 0, pc := 0, cnt := some 2, descIx := 0
    desc := { tensor := 0, src := 0, dst := dst, kind := 1, sig := sig, srcOff := 0, dstOff := 0, dims := [512, 1, 1, 1, 1], srcStr := [0, 0, 0, 0], dstStr := [0, 0, 0, 0]
              ring := 0, rate := 0, due := 0 }
    srcBase := 0x1000, dstBase := 0x2000, total := 512, granted := 1, landed := 0, age := 0, waited := 0, aged := false, queued := false, ending := false
    chunks := [⟨0, some (List.replicate 256 7), false⟩], buf := [], inst := 0, asked := 0, inbuf := [], flush := false, flushed := false }

/-- The bench with one stream on die 0. -/
def streaming (x : SCtx) : State := { bench with sluices := bench.sluices.set 0 { Sluice.reset with ctxs := [(5, x)] } }

/-- SluiceGrantsAndReleases: a stream that is eligible and one that is not, one that has waited the limit, a release at the head. -/
theorem witness_sluice : (∀ q ∈ [true, false], let x := { stream0 1 none with queued := q, waited := 0x800 }
      asleep (streaming x) (sluiceDom 0) = false ∧ ((streaming x).sluices[(0 : DieIx)]).ctxs = [(5, x)] ∧ (bench.cores[(0 : CoreIx)]).sq = []
      ∧ 0 < ((streaming x).sluices[(0 : DieIx)]).grants ∧ eligible (refill (streaming x) 0) 0 5 x = !q
      ∧ ((streaming x).sluices[(0 : DieIx)]).ageLimit ≠ 0 ∧ ((streaming x).sluices[(0 : DieIx)]).ageLimit ≤ x.waited)
    ∧ dieOfCore 0 = 0
    ∧ (let c := (withCore (fun c => { c with sq := [⟨0, .release 8 1 (some 1)⟩] })).cores[(0 : CoreIx)]; c.sq = ⟨0, .release 8 1 (some 1)⟩ :: [] ∧ c.sqTaken = false) := by decide +kernel

/-- ChunksLandAndStreamsComplete: a chunk for each destination, with the core's region running and stopped, and streams whose bytes have all landed, with and without a signal. -/
theorem witness_chunks : (∀ dst ∈ [0, 1], let x := stream0 dst none
      asleep (streaming x) (sluiceDom 0) = false ∧ streamAt (streaming x) 0 5 = some x ∧ x.chunks = ⟨0, some (List.replicate 256 7), false⟩ :: [] ∧ x.desc.src < 3 ∧ x.desc.dst < 2
        ∧ x.ending = false ∧ asleep (streaming x) (coreDom x.core) = false ∧ boundOf (streaming x).cores[x.core] x.ctx = some bound0 ∧ (ctxOf (streaming x) x.core x.ctx).st ≠ .faulted)
    ∧ (∀ sig ∈ [none, some 3], let x := { stream0 1 sig with landed := 512, granted := 2, chunks := [] }
      streamAt (streaming x) 0 5 = some x ∧ x.landed = x.total ∧ x.chunks = [] ∧ x.desc.dst ≠ 3 ∧ x.desc.src ≠ 4)
    ∧ (let s : State := { streaming { stream0 0 none with core := 19 } with dbg := { bench.dbg with stops := [(coreDom 19, ⟨0, 0, 0⟩)] } }
       asleep s (sluiceDom 0) = false ∧ asleep s (coreDom 19) = true) := by decide +kernel

/-! ### Memory, cellar dies, updates -/

/-- The bench with one cellar die changed. -/
def withCellar (c : CellarIx) (f : Cellar → Cellar) : State := { bench with cellars := bench.cellars.set c.val (f bench.cellars[c]) }

/-- A scalar access of eight bytes at block 0, at its die or not yet there. -/
def req0 (write : Bool) (here : Bool) : Req :=
  { id := 0, who := .scalar 0 0, part := 0, tensor := 1, write := write, addrs := (List.range 8).map (fun j => (j, j)), data := List.replicate 8 7, got := []
    atDie := if here then [0] else [], failed := false }

/-- The sector of that access. -/
def piece0 : Piece := { req := 0, pc := 0, bank := 0, row := 0, base := 0, aged := false, held := false }

/-- The bench with that access on its way, with a gradient in place of the parameter so that no block is versioned. -/
def asking (write here : Bool) : State :=
  let s := withCellar 0 (fun x => { x with pieces := if here then [piece0] else [] })
  { s with fuses := { Fuses.reset with m12 := false }, reqs := [req0 write here]
           parts := s.parts.set 0 { part0 with image := some { image0 with tensors := [⟨1, .gradient, 6, false, [1, 1024], 0, 4096, 0⟩] } }
           cores := s.cores.set 0 { core0 with ctx := core0.ctx.set 0 { ctx0 with accs := [⟨.hbm, write, 0, 8, false, 3, 0, 0⟩] } } }

/-- ScalarRequestsReachMemory: a read and a write that the die may take, and their sectors that are next to issue; no tag passes, so the read
fails. -/
theorem witness_scalar_request : ∀ w ∈ [false, true],
    asleep (asking w false) (cellarDom 0) = false ∧ stackDown (asking w false) 0 = false ∧ asleep (asking w false) (phyDom 0) = false ∧ variantG (asking w false) = true
    ∧ (∀ a ∈ (req0 w true).addrs, versionedAt (asking w false) 0 a.1 = false)
    ∧ mayTake (asking w false) 0 (req0 w false) = true ∧ pendingCount (asking w false).cellars[(0 : CellarIx)] + (basesAt (asking w false) 0 (req0 w false)).length ≤ 256
    ∧ nextPiece (asking w true) (asking w true).cellars[(0 : CellarIx)] 0 = some piece0 ∧ (pieceBytes (asking w true) (req0 w true) 0).length = 8
    ∧ (ctxOf (asking w true) 0 0).accs.any (fun a => a.space == .hbm) = true
    ∧ readCheck (asking w true) none (req0 w true) 0 .ok false ≠ [] := by decide +kernel

/-- SchedulerTimersMark: a sector that has not aged behind one of another pseudo-channel, one that holds. -/
theorem witness_timers : let x := (withCellar 0 (fun x => { x with pieces := [{ piece0 with pc := 1 }, piece0] })).cellars[(0 : CellarIx)]
    x.pieces = [{ piece0 with pc := 1 }] ++ piece0 :: [] ∧ x.gatherAge ≠ 0 ∧ x.pieces.find? (fun q => q.pc == 0 && !q.held) = some piece0
    ∧ asleep (withCellar 0 (fun x => { x with pieces := [{ piece0 with pc := 1 }, piece0] })) (cellarDom 0) = false := by decide +kernel

/-- ScrubAndTemperature: a scrub at the first and at the last block of a stack, a block that waits and is not written, a block that is. -/
theorem witness_scrub : (∀ b ∈ [0, 8, 294336 * (32 * 12) - 12], let s := withCellar 0 (fun x => { x with scrubNext := b, scrubSkipped := [b] })
      asleep s (cellarDom 0) = false ∧ stackDown s 0 = false ∧ (s.cellars[(0 : CellarIx)]).scrubHours ≠ 0 ∧ writeBusy s 0 b = false ∧ 0 < nStacks s
      ∧ (s.cellars[(0 : CellarIx)]).scrubSkipped.contains b = true ∧ (s.cellars[(0 : CellarIx)]).pieces = [])
    ∧ writeBusy (asking true true) 0 0 = true ∧ bench.pkg.cellarLink[(0 : CellarIx)] = true := by decide +kernel

/-- CellarHousekeeping: a copy in its middle and at its end with no plan active, a wait for a free block, a freed block of the die and of
another. -/
theorem witness_housekeeping : (∀ k ∈ [0, 285119], let s := withCellar 0 (fun x => { x with remap := some ⟨3, k, false, []⟩ })
      let t : State := { s with parts := State.reset.parts }
      stackDown s 0 = false ∧ (s.cellars[(0 : CellarIx)]).remap = some ⟨3, k, false, []⟩ ∧ (∀ p, active t p = false) ∧ asleep t (cellarDom 0) = false)
    ∧ (let s := withCellar 0 (fun x => { x with upd := { x.upd with binds := [⟨0, 0, true, [], [], [], true, false⟩] } })
       timersHeld s = false ∧ (s.cellars[(0 : CellarIx)]).upd.binds.find? (fun b => b.waiting && !b.dry) = some ⟨0, 0, true, [], [], [], true, false⟩)
    ∧ ({ bench with freed := [(0, 12)] } : State).freed = [(0, 12)] ∧ 12 % nStacks bench = 0 ∧ 13 % nStacks bench ≠ 0 := by decide +kernel

/-- A partition that reduces the gradient of tensor 3, on stack 2, into tensor 2, on stack 1; stack 2 has no tracker left. -/
def reducing (pos : Nat) (sums : List RSum) : State :=
  let s : State := { bench with
    parts := bench.parts.set 0 { part0 with image := some { image0 with
      tensors := tensors0 ++ [⟨3, .gradient, 6, false, [1, 1024], 0x2000, 4096, 0⟩], reductions := [⟨5, 2, 3, pos, 3, [0, 1]⟩] } }
    sluices := bench.sluices.set 0 { Sluice.reset with held := [⟨0, 3, .here 0, 9, 0⟩] } }
  setTag { s with cellars := (s.cellars.set 2 { s.cellars[(2 : CellarIx)] with trackers := List.replicate 256 ⟨0, 0, 0, false, 0, 0, false⟩ }).set 1
                    { s.cellars[(1 : CellarIx)] with upd := { Upd.reset with sums := sums } } } 2 (mkTag 0 0 (foldOf 3))

/-- LocalContributionsAndTokens: a contribution that is first in its list and one that is last; tokens of the step, held and not held, and of
another step. -/
theorem witness_local_contribution : (∀ x ∈ [(0, ([] : List RSum)), (1, [⟨0, 5, 0, 1, List.replicate 1024 0⟩])], let s := reducing x.1 x.2
      let l : TensorE := ⟨3, .gradient, 6, false, [1, 1024], 0x2000, 4096, 0⟩
      let t : TensorE := ⟨2, .gradient, 6, false, [1, 1024], 0x1000, 4096, 0⟩
      let u := (s.cellars[(1 : CellarIx)]).upd
      let e : ReductionE := ⟨5, 2, 3, x.1, 3, [0, 1]⟩
      asleep s (cellarDom 1) = false ∧ reductionOf s 0 5 = some e ∧ tensorOf s 0 3 = some l ∧ tensorOf s 0 2 = some t ∧ (s.parts[(0 : PartIx)]).step = .run
      ∧ serves s 1 0 t 0 = true ∧ 0 < elements t ∧ u.localRead = [] ∧ barrierDone s (dieOfCellar s 1) 0 3 = true ∧ granuleCheck s 0 l 0 .ok = []
      ∧ (∀ d : CellarIx, (s.cellars[d]).pieces = []) ∧ updStopped s.cellars[(1 : CellarIx)] = false ∧ nextPos u 0 e 0 = x.1 ∧ u.parked = []
      ∧ trackerFree s (cellarOf s (physAddr s 0 0x1000 / 4096)) = true)
    ∧ (∀ held ∈ [[], [(⟨0, 3, .here 0, 9, 0⟩ : Tok)]], ∀ k ∈ [9, 8], let s : State := { bench with toks := [(0, ⟨0, 3, .here 0, word k, 0⟩)], sluices := bench.sluices.set 0 { Sluice.reset with held := held } }
      asleep s (sluiceDom 0) = false ∧ s.toks[0]? = some (0, ⟨0, 3, .here 0, word k, 0⟩) ∧ active s 0 = true) := by decide +kernel

/-- A partition with one active binding of tensor 1, whose granule 0 has a SHADOW block. -/
def updating (ops : List W32) : State :=
  let s := withPart (fun q => { q with image := some { image0 with programs := [⟨1, ops⟩], bindings := [⟨0, 1, 0, 0, 0, [1], 0, 1024⟩] } })
  let s : State := { s with cellars := s.cellars.set 0 { s.cellars[(0 : CellarIx)] with upd := { Upd.reset with binds := [⟨0, 0, true, [], [], [], false, false⟩] } } }
  setMap s 0 0 ⟨(0, 0), some (512, 5), none⟩

/-- UpdateRunsNextGranule: a program that stores to its slot, and one whose load fails because nothing has been written. -/
theorem witness_update : ∀ x ∈ [([0x08000000], true), ([0x04000000, 0x08000000], false)], let s := updating x.1
    let e : BindingE := ⟨0, 1, 0, 0, 0, [1], 0, 1024⟩
    asleep s (cellarDom 0) = false ∧ dueGranules s 0 = [(0, 0, 0)] ∧ updStopped s.cellars[(0 : CellarIx)] = false ∧ (s.cellars[(0 : CellarIx)]).upd.fenced = false
    ∧ (match (s.parts[(0 : PartIx)]).image with
       | some im => decide (im.bindings[0]? = some e ∧ im.programs.find? (fun x => x.number == 1) = some ⟨1, x.1⟩)
           && (shadowsReady s 0 0 0).isSome && (((x.1.foldl (runMop 0 im e [] 0)
             ⟨s, (List.range 16).map (fun r => tgetMany 0 (s.cellars[(0 : CellarIx)]).upd.u (1024 * r) 1024), [], [], [], 0⟩).bad == []) == x.2)
       | none => false) = true ∧ (s.parts[(0 : PartIx)]).step = .run := by decide +kernel

/-! ### Steps, the coordinator, the mirror -/

/-- How a frame that the device addressed to itself arrives. -/
def loop0 : Arrival := ⟨none, 0, 2, 0, 0, 0, 0, 0, 0⟩

/-- A state with one such frame for partition 0 waiting. -/
def looped (s : State) (b : FBody) : State := { s with fab := { s.fab with loop := [⟨2, 0, 0, 0, 0, 0, 0, 0, b⟩] } }

/-- A frame to the own node arrives in every state, and nothing but the loop changes. -/
theorem looped_arrives (s : State) (b : FBody) (x : Bool) : arrive (looped s b) loop0 b x = .ok { s with fab := { s.fab with loop := [] } } := by
  simp [arrive, looped, loop0]

/-- A token of the bench's step with a kind, an attempt and a version. -/
def token0 (kind attempt version : Nat) : Token := ⟨0, 0, 9, word version, kind, attempt, 0, 0, 0⟩

/-- StepStartsAndCommits: a START, a COMMIT, the coordinator's last READY and a recorded COMMIT, each in the state that takes it; the frames
arrive (`looped_arrives`). -/
theorem witness_step_tokens : let q := fun (st : StepSt) => { part0 with step := st, image := some { image0 with bindings := [] } }
    ((q .waitStart).applied.contains (token0 1 0 4) = false ∧ (token0 1 0 4).group = part0.group ∧ (token0 1 0 4).epoch = part0.epoch ∧ (token0 1 0 4).step = part0.stepNo
      ∧ (token0 1 0 4).attempt = part0.attempt ∧ (token0 1 0 4).version = part0.version ∧ part0.vestUsed + 48 ≤ share0.vest ∧ (∀ c : CellarIx, (bench.cellars[c]).upd.parked = []))
    ∧ (token0 2 0 5).version = part0.version + 1 ∧ tsorted bench.vmap = true ∧ isCoord (q .prepared) = true ∧ tokenMade (q .prepared) = false
    ∧ (∀ r, r < part0.ranks → r = 1 ∨ r ∈ [0])
    ∧ (let s := withPart (fun q => { q with step := .solo, image := some { image0 with lcores := [], reductions := [] }, bind := [], vest := [⟨9, 0, .step (token0 2 0 5)⟩] })
       let s : State := { s with cores := State.reset.cores }
       asleep s mgmtDom = false ∧ stepDone s 0 = true ∧ recordedCommit s.parts[(0 : PartIx)] = some (token0 2 0 5)) := by decide +kernel

/-- A partition in RUN whose work is done. -/
def doneState (f : Machine.Part → Machine.Part) : State :=
  let s := withPart (fun q => f { q with image := some { image0 with lcores := [], reductions := [] }, bind := [] })
  { s with cores := State.reset.cores }

/-- ReadyDiscardAndTimers: work that is done with and without a twin, a discard that can end, missing ranks, a PREPARED step, a silent link, a
twin, a rank. -/
theorem witness_ready : (asleep (doneState id) mgmtDom = false ∧ stepDone (doneState id) 0 = true ∧ ((doneState id).parts[(0 : PartIx)]).twin ≠ .paired)
    ∧ (let s := doneState (fun q => { q with twin := .paired, vestMark := some (9, 0), vestAcked := some 9, mirrorVersion := 4 })
       stepDone s 0 = true ∧ (s.parts[(0 : PartIx)]).vestMark = some ((s.parts[(0 : PartIx)]).stepNo, 0) ∧ (s.parts[(0 : PartIx)]).mirrorVersion = (s.parts[(0 : PartIx)]).version)
    ∧ (let s := withPart (fun q => { q with discarding := true })
       (∀ n ∈ coresOf s 0, engineQuiet s.cores[n] = true) ∧ coresOf s 0 = [0] ∧ tsorted s.vmap = true ∧ (s.parts[(0 : PartIx)]).retention = none)
    ∧ (let s := withPart (fun q => { q with readySet := [0], step := .prepared })
       timersHeld s = false ∧ isCoord s.parts[(0 : PartIx)] = true ∧ tokenMade s.parts[(0 : PartIx)] = false
         ∧ (List.range (s.parts[(0 : PartIx)]).ranks).filter (fun r => !(s.parts[(0 : PartIx)]).readySet.contains r) ≠ [])
    ∧ ((∀ r : PartIx, (bench.parts[r]).twin = .none) ∧ part0.inGroup = true ∧ 1 < part0.ranks ∧ 1 ≠ part0.rank ∧ part0.allot.isSome = true) := by decide +kernel

/-- CoordinatorAndAbort: a READY that is not the last, a FAIL before a COMMIT, an ABORT of a running step, the last DISCARDED. -/
theorem witness_coordinator : isCoord part0 = true ∧ (0 < part0.ranks ∧ 0 ≠ 1 ∧ 0 ∉ part0.readySet) ∧ tokenMade part0 = false ∧ part0.step = .run
    ∧ part0.applied.contains (token0 3 0 4) = false ∧ (token0 3 0 4).attempt = part0.attempt
    ∧ (let q := { part0 with made := some (token0 3 0 4), step := .waitStart, discardedSet := [0] }
       isCoord q = true ∧ q.made = some (token0 3 0 4) ∧ (token0 3 0 4).step = q.stepNo ∧ (∀ r, r < q.ranks → r = 1 ∨ r ∈ q.discardedSet) ∧ q.failClassP = false
         ∧ (token0 3 0 4).attempt + 1 < q.maxAttempts) := by decide +kernel

/-- The bench with a twin on port 0, which is ACTIVE. -/
def twinned : State :=
  let s := withPart (fun q => { q with twin := .syncing, twinPort := 0, twinPart := 0, mirTodo := [2], mirrorVersion := 4 })
  { s with fab := { s.fab with ports := s.fab.ports.set 0 { s.fab.ports[(0 : PortIx)] with st := .active } } }

/-- How a frame comes in on that port. -/
def port0 : Arrival := ⟨some 0, 0, 2, 0, 0, 0, 0, 0, 0⟩

/-- MirrorKeepsTwin: a page outside every tensor that is to be sent, a page and a record that arrive on the twin port, a mirror that has caught up. -/
theorem witness_mirror : cellarsAsleep twinned = false ∧ 2 ∈ (twinned.parts[(0 : PartIx)]).mirTodo ∧ (∀ j, j < 16 → snapCheck twinned 0 (16 * 2 + j) false .ok = [])
    ∧ (∀ d : CellarIx, (twinned.cellars[d]).pieces = [])
    ∧ (∀ m ∈ [MirrorMsg.page 0 5 [7] true, .vest 9 none false, .release], (match arrive twinned port0 (.mirror m) true with
        | .ok u => decide ((u.parts[(0 : PartIx)]).twin ≠ .none ∧ (u.parts[(0 : PartIx)]).twinPort = 0 ∧ (u.parts[(0 : PartIx)]).twinPart = port0.spart) | .error _ => false) = true)
    ∧ (twinned.parts[(0 : PartIx)]).twin = .syncing ∧ (twinned.parts[(0 : PartIx)]).mirrorVersion = (twinned.parts[(0 : PartIx)]).version := by decide +kernel

/-! ### Boot -/

/-- The slot of an image whose key and signatures are 0xFF. -/
def slot0 : Tbl Byte := tsetMany 0xFF [] 0 (leBytes 4 0x4B494D47 ++ leBytes 2 1 ++ leBytes 2 0 ++ leBytes 4 0 ++ leBytes 4 0x20 ++ leBytes 8 0)

/-- A device in a boot stage, with a full hold-up bank, whose first fuse slot holds the hash of that image's key. -/
def bootAt (n : Nat) : State :=
  { State.reset with pkg := pkg0
                     boot := { Boot.reset with stage := n, vbank := 1440000, wants := [1, 2], recordRead := decide (3 ≤ n), flash := slot0, seqBase := 0x100000, seqLimit := 0x100000
                                               fuses := { Boot.reset.fuses with keys := [⟨sha384 (List.replicate 416 0xFF), false⟩] } }
                     pwr := { State.reset.pwr with powered := true, pwrGood := true } }

/-- A configuration block of MAGIC, FORMAT, LENGTH and, for the rest, zeros. -/
def cfgBlock : List Byte := leBytes 4 0x43464742 ++ leBytes 2 1 ++ leBytes 2 0x64 ++ List.replicate 88 0

/-- BootStagesRun: each stage can begin, a configuration block that is right and none, record writes that fit the bank, an image that is accepted and one that
is not, stacks that are wiped, no test left. -/
theorem witness_boot : (∀ n, n < 8 → booting (bootAt n) n = true ∧ stageRuns (bootAt n) n = true) ∧ neverFits (bootAt 2) 1 = false ∧ neverFits (bootAt 2) 2 = false
    ∧ (let s := modBoot (bootAt 1) (fun b => { b with flash := tsetMany 0xFF [] 0x400000 (cfgBlock ++ leBytes 4 (crc32c cfgBlock)) }); let bs := flashBytes s 0x400000 0x64
       booting s 1 = true ∧ fieldAt bs 0 4 = 0x43464742 ∧ fieldAt bs 4 2 = 1 ∧ fieldAt bs 6 2 = 0x64 ∧ fieldAt bs 0x60 4 = crc32c (bs.take 0x60))
    ∧ fieldAt (flashBytes (bootAt 1) 0x400000 0x64) 0 4 ≠ 0x43464742
    ∧ imageCause (bootAt 3) (flashBytes (bootAt 3)) ⟨true, true⟩ = (0, 0) ∧ imageCause (bootAt 3) (flashBytes (bootAt 3)) ⟨true, false⟩ = (7, 0)
    ∧ (∀ c : CellarIx, ((bootAt 6).cellars[c]).wipeBusy = false) ∧ testOver (bootAt 7) = true := by decide +kernel

/-- RecordAndWatchdog: a watchdog that runs, minimal mode, a section that may be written while the boot waits for it, or not, one that waits for energy. -/
theorem witness_record : (let s : State := { bootAt 4 with boot := { (bootAt 4).boot with wdRun := true, minimal := true } }
      timersHeld s = false ∧ s.boot.wdRun = true ∧ s.boot.minimal = true ∧ asleep s mgmtDom = false)
    ∧ (∀ aw ∈ [none, some (Await.record false), some (.record true), some .ready, some .fail], ∀ k ∈ [1, 2], let s := modBoot (bootAt 2) (fun b => { b with wants := [k], awaits := aw, recordRead := true })
        nextWant s = some k ∧ energyOk s k = true ∧ asleep s mgmtDom = false ∧ s.boot.wants = [k] ∧ s.boot.awaits = aw ∧ currentCopy s k = none
          ∧ (match payloadNow s k with | some x => decide (x.length + 40 ≤ sectSize k) | none => false) = true)
    ∧ currentCopy (storeSection (bootAt 8) 1 (bootBytes 1 2 3 4)) 1 = some (1, bootBytes 1 2 3 4)
    ∧ ((bootAt 8).fab.ports[(0 : PortIx)].st = .down ∧ (bootAt 8).fab.ports[(0 : PortIx)].locked = false ∧ 0 < portCount (bootAt 8))
    ∧ (let s : State := { bootAt 4 with boot := { (bootAt 4).boot with vbank := 0 } }; heldUp s = some 1 ∧ s.boot.holdupSent = false) := by decide +kernel

/-- ResetsAndPins: a device without power, one with power and a good or failed supply, one whose supply path is lost. -/
theorem witness_pins : (let s : State := { bench with pwr := { bench.pwr with powered := false } }; s.pwr.powered = false) ∧ (bootAt 8).pwr.powered = true
    ∧ (bootAt 8).pwr.pwrGood = true ∧ asleep (bootAt 8) pcieDom = false ∧ asleep (bootAt 8) mgmtDom = false ∧ 16 ∈ [1, 2, 4, 8, 16]
    ∧ (let s : State := { bootAt 8 with pwr := { (bootAt 8).pwr with pwrGood := false, lost := true } }; s.pwr.powered = true ∧ s.pwr.pwrGood = false ∧ s.pwr.lost = true) := by
  decide +kernel

/-! ### Comparisons -/

/-- The bench with one reduction item whose trio has a voter, or none, and whose comparison has found a difference or not. -/
def compared (vote : Option Nat) (differ : Option Nat) : State :=
  { bench with sed := { bench.sed with items := [⟨4, 0, 0, 0, 9, 0, [⟨600, 601, vote⟩], [], [], .reduction 7 0 [] [], differ⟩] } }

/-- A pantry record of an update unit that passes, or fails, its replay. -/
def record0 (expect : List Byte) : PanRec := { kind := 4, imported := false, hits := 1, unit := updUnit 0, step := 9, serial := 0, place := 0, operands := [1, 0, 0, 0], expect := expect }

/-- ComparisonsVotesAndSelfTest: items that agree, with and without a voter, that differ; records that pass and fail their replay. -/
theorem witness_compare : (∀ v ∈ [none, some 602], let s := compared v none
      (match s.sed.items[0]? with | some i => decide (itemAsleep s i = false ∧ i.differ = none ∧ realDiff s i = none ∧ (i.trios[0]?).map (·.vote) = some v) | none => false) = true
        ∧ (s.parts[(0 : PartIx)]).step = .run)
    ∧ (match (compared (some 602) (some 0)).sed.items[0]? with | some i => decide (i.differ = some 0 ∧ (i.trios[0]?).isSome = true) | none => false) = true
    ∧ (∀ x ∈ [(([1, 0, 0, 0] : List Byte), false), ([2, 0, 0, 0], true)], let s := putPantry { bench with parts := State.reset.parts } 0 (record0 x.1)
        asleep s (cellarDom 0) = false ∧ pantryRec s 0 = some (record0 x.1) ∧ (unitsFor s 4).contains (updUnit 0) = true ∧ replayFails (record0 x.1) = x.2) := by decide +kernel

/-! ### Power and heat -/

/-- The bench with power changed. -/
def withPwr (f : Pwr → Pwr) : State := { bench with pwr := f bench.pwr }

/-- A die whose faster clock waits for its set point. -/
def die0 : DieClk := { target := 2, level := 5, setPoint := levelMv 2, waiting := true, throttle := 3, hot := true, e0 := false, e0Low := 0 }

/-- ClockLevelsAndLimiter: each hypothesis, and the ends of the ranges of a droop. -/
theorem witness_clock : (asleep bench mgmtDom = false ∧ bench.pwr.lost = false ∧ bench.pwr.tripped = false ∧ (withPwr (fun p => { p with boost := true })).pwr.boost = true)
    ∧ (let s := withPwr (fun p => { p with dies := p.dies.set 0 die0 }); let x := s.pwr.dies[(0 : DieIx)]
       x.waiting = true ∧ (∀ mv ∈ [x.setPoint - 5, x.setPoint + 5], mv ≤ x.setPoint + 5 ∧ x.setPoint ≤ mv + 5) ∧ max (pkgLevel s) x.throttle ≠ x.target)
    ∧ (let set := levelMv (bench.pwr.dies[(0 : DieIx)]).level
       set - 61 + 60 < set ∧ (set - 60 + 30 < set ∧ set ≤ set - 60 + 60 ∧ bench.pwr.stretch[(0 : Fin 8)] = .none) ∧ (set - 31 + 30 < set) ∧ set ≤ set - 30 + 30)
    ∧ ((withPwr (fun p => { p with stretch := p.stretch.set 0 .deep })).pwr.stretch[(0 : Fin 8)] = .deep)
    ∧ ((bench.pwr.dies[(0 : DieIx)]).e0 = false ∧ bench.pwr.lim.e1 = false ∧ pkgLevel bench < 8)
    ∧ (released bench = true ∧ anyB3 bench = false ∧ avgWithin bench 20000 50 (capNow bench) = true) := by decide +kernel

/-- A device in P3, and one in which the exit from P3 has begun. -/
def sleeping (waking wipes : Bool) : State :=
  { withPwr (fun p => { p with pstate := 3, want := some 0, waking := waking })
      with cellars := bench.cellars.set 0 { bench.cellars[(0 : CellarIx)] with wipeBusy := wipes } }

/-- The bench with a command of the management side in the mailbox, after it has begun or before. -/
def running (s : State) (code part : Nat) (args : List Word) (begun : Bool) : State :=
  { s with mbox := { s.mbox with run := some ⟨code, part, 0, Vector.ofFn (fun (i : Fin 8) => args.getD i.val 0), .mgmt 0⟩, busy := true, outcome := none, begun := begun } }

/-- `RunsCmd` as a check that can be run. -/
def runsAt (s : State) (code : Nat) : Bool :=
  match s.mbox.run with
  | some c => decide (c.code = code ∧ s.mbox.outcome = none ∧ commandable s = true ∧ turnAway s c = none)
  | none => false

theorem runs_of {s : State} {code : Nat} (h : runsAt s code = true) : ∃ c, RunsCmd s code c := by
  unfold runsAt at h
  split at h
  · rename_i c hc
    obtain ⟨h1, h2, h3, h4⟩ := of_decide_eq_true h
    exact ⟨c, hc, h1, h2, h3, h4⟩
  · cases h

/-- HeatWearAndPowerStates: readings at the trip and below, a hot die and one that cools, a stack in B3, each way into and out of a power state, a
halt wave, the commands. -/
theorem witness_heat : asleep bench mgmtDom = false ∧ bench.pwr.cfg.tjThrottle ≤ 124 ∧ 0 + 3 < bench.pwr.cfg.tjThrottle ∧ bench.pwr.tripped = false
    ∧ ((withPwr (fun p => { p with dies := p.dies.set 0 die0 })).pwr.dies[(0 : DieIx)]).hot = true ∧ (bench.pwr.dies[(0 : DieIx)]).hot = false
    ∧ anyB3 { bench with cellars := bench.cellars.set 0 { bench.cellars[(0 : CellarIx)] with band := 3 } } = true
    ∧ (bench.dbg.halted = false ∧ bench.dbg.halting = false)
    ∧ ((sleeping false false).pwr.waking = false ∧ asleep (sleeping false false) mgmtDom = false ∧ wiping (sleeping true true) = true ∧ wiping (sleeping true false) = false)
    ∧ (let s : State := { bench with dbg := { bench.dbg with halting := true } }; s.dbg.halting = true ∧ 0x30 ∈ waveDoms s ∧ asleep s mgmtDom = false)
    ∧ (∀ n ∈ [0, 1, 2, 4], runsAt (running bench 0xC0 0 [word n] false) 0xC0 = true) ∧ runsAt (running bench 0xC1 0 [] false) 0xC1 = true
    ∧ (mayEnter bench 1 = true ∧ mayEnter bench 2 = false) := by decide +kernel

/-- An owner's blob. -/
def owner0 : List Byte := List.replicate blobBytes 0x11

/-- A state whose device has been provisioned and has an owner. -/
def ownedBy (s : State) : State :=
  { s with dbg := { s.dbg with level := 0 }, boot := { s.boot with fuses := { s.boot.fuses with lc := .provisioned }, owner := some owner0 } }

/-! ### Links -/

/-- A frame of another device's for a node, as a credit. -/
def frame0 (dest hops : Nat) : Frame := ⟨2, hops, 0, 0, dest, 7, 0, 0, .credit 0 0 0 9⟩

/-- The bench with port 0 changed from an ACTIVE one. -/
def withPort (f : Port → Port) : State :=
  { bench with fab := { bench.fab with ports := bench.fab.ports.set 0 (f { bench.fab.ports[(0 : PortIx)] with st := .active }) } }

/-- LinkFramesAct: a frame that the replay buffer holds, with and without an own REKEY, the ninth failure of it, a frame that waits for space. -/
theorem witness_link : (let s := withPort (fun x => { x with replay := [(0, frame0 3 0), (1, frame0 3 0)], txSeq := 2, rekey := some ⟨1, 1⟩, nackOf := some 0, retries := 8 })
      let x := s.fab.ports[(0 : PortIx)]
      asleep s (portDom 0) = false ∧ portActive x = true ∧ (∃ e ∈ x.replay, e.1 = 0) ∧ (∃ e ∈ x.replay, e.1 = 1) ∧ x.waiting = [] ∧ x.rekey = some ⟨1, 1⟩ ∧ x.txSeq ≠ 1
        ∧ x.nackOf = some 0 ∧ x.retries = 8 ∧ (∃ e ∈ x.replay.drop 1, e.1 = 1) ∧ (∀ e ∈ x.replay.drop 2, e.1 ≠ 1) ∧ (∀ e ∈ x.replay, e.1 ≠ 5))
    ∧ (let s := withPort (fun x => { x with waiting := [⟨frame0 3 0, none⟩] }); let x := s.fab.ports[(0 : PortIx)]
       x.waiting = [⟨frame0 3 0, none⟩] ∧ frameLen (frame0 3 0) ≤ tget 0 x.grants 16 + frameLen (frame0 3 0) ∧ replayRoom x (frame0 3 0) = true ∧ timersHeld s = false) := by
  decide +kernel

/-- The bench with port 0 ACTIVE and port 1 ACTIVE or training, and a route to node 3 over port 1. -/
def routed (st : PortSt) : State :=
  let s := withPort id
  { s with fab := { s.fab with ports := s.fab.ports.set 1 { s.fab.ports[(1 : PortIx)] with st := st }, routes := tset 0 [] 3 0x80000002 } }

/-- FramesForwardAndRetransmit: frames for node 3 within and beyond the hop limit, one without a route, one on the twin port; a stored frame. -/
theorem witness_forward : (let s := routed .active
      asleep s (portDom 0) = false ∧ portActive s.fab.ports[(0 : PortIx)] = true ∧ genOk s.fab.ports[(0 : PortIx)] 0 = true ∧ (∀ h ∈ [0, 3, 4], (frame0 3 h).dest ≠ s.fab.node ∧ (frame0 3 h).vl ≤ 2)
        ∧ isTwinPort s 0 = false ∧ routePort s (frame0 3 3) = some 1 ∧ (s.fab.ports[(1 : PortIx)]).waiting = []
        ∧ granted s.fab.ports[(1 : PortIx)] { frame0 3 3 with hops := 4 } = false)
    ∧ (entryPorts (routed .down) 3 portActive = [] ∧ entryPorts (routed .down) 3 training = [])
    ∧ isTwinPort twinned 0 = true ∧ portActive twinned.fab.ports[(0 : PortIx)] = true
    ∧ (match arrive (withPort id) port0 (.retry (0, 0) (0, 0)) false, arrive (withPort id) port0 (.dack [(0, 0)]) false, arrive (withPort id) port0 (.other 0x3F) false with
       | .ok _, .ok _, .ok _ => true | _, _, _ => false) = true
    ∧ (let x : PortDie := { bench.fab.dies[(0 : PortDieIx)] with store := [⟨0, frame0 3 0, true⟩] }
       x.store.find? (fun y => y.seq == 0) = some ⟨0, frame0 3 0, true⟩ ∧ x.store.find? (fun y => y.seq == 0 && y.again) = some ⟨0, frame0 3 0, true⟩) := by decide +kernel

/-- An owned device's port 0 that has asked for the peer's report. -/
def asked : State := ownedBy (withPort (fun x => { x with st := .auth, nonce := some (Vector.replicate 4 7) }))

/-- PortsTrainAndLinkCommands: a device's report that is accepted, a store node's, and reports that are not. -/
theorem witness_auth : lcOf asked = 2 ∧ (asked.fab.ports[(0 : PortIx)]).st = .auth ∧ (asked.fab.ports[(0 : PortIx)]).nonce = some (Vector.replicate 4 7)
    ∧ (asked.fab.ports[(0 : PortIx)]).waiting = [] ∧ (asked.fab.ports[(0 : PortIx)]).replay = [] ∧ asleep asked (portDom 0) = false
    ∧ (let x : PeerReport := ⟨true, 2, ownerDigest asked, Vector.replicate 4 7, none, Vector.replicate 4 8⟩
       peerOk asked (some (Vector.replicate 4 7)) x = true ∧ peerOk asked (some (Vector.replicate 4 9)) x = false)
    ∧ (∃ b, asked.boot.owner = some b ∧ List.replicate 48 0x11 ∈ storeCas b) := by
  refine ⟨by decide +kernel, by decide +kernel, by decide +kernel, by decide +kernel, by decide +kernel, by decide +kernel, by decide +kernel, owner0, rfl, by decide +kernel⟩

/-- PortsTrainAndLinkCommands: seven and six lanes, a lane at and above its limit, a host read, the commands. -/
theorem witness_ports : (∀ st ∈ [PortSt.detect, .down, .equalize, .align, .auth, .active],
      let s := withPort (fun x => { x with st := st, redetect := true }); asleep s (portDom 0) = false ∧ (s.fab.ports[(0 : PortIx)]).st = st)
    ∧ 7 ≤ laneCount (0x7F &&& 0xFF) ∧ laneCount (0x3F &&& 0xFF) < 7 ∧ (laneCount 0x7F = 7 ∧ laneCount (0x3F &&& 0x7F) = 6) ∧ 0 < portCount bench
    ∧ ((0xFF : BitVec 8).getLsbD 7 = true ∧ (bench.fab.dies[(0 : PortDieIx)]).uncorrLimit < (bench.fab.dies[(0 : PortDieIx)]).uncorrLimit + 1)
    ∧ (let s : State := { described with pcie := { described.pcie with up := true, reads := [⟨0, 3, some 0, 0, 0, 16⟩] }
                                         sluices := described.sluices.set 0 { Sluice.reset with ctxs := [(3, stream0 3 none)] } }
       asleep s pcieDom = false ∧ s.pcie.up = true ∧ streamAt s 0 3 = some (stream0 3 none))
    ∧ (∀ x ∈ [(0xE0, ([0xFFFD] : List Nat)), (0xE0, [0xFFFE]), (0xE1, [3, 1, 0x300000]), (0xE2, [3, 1, 0x300000]), (0xE3, [0, 0]), (0xE4, [0]), (0xE4, [18]), (0xE5, [4096, 4096]), (0xE5, [1, 0])],
        runsAt (running bench x.1 0 (x.2.map word) false) x.1 = true)
    ∧ inXfer 0x300000 4 = true ∧ inXfer 0x3FFFFC 4 = true ∧ isTwinPort twinned 0 = true ∧ active bench 0 = true
    ∧ (∀ p : PartIx, active { bench with parts := State.reset.parts } p = false) := by decide +kernel

/-! ### Frames of a step -/

/-- The bench with a channel of kind 0, a reduction of the gradient and a credit channel, in a step state. -/
def stepping (st : StepSt) : State :=
  withPart (fun q => { q with step := st, image := some { image0 with
    channels := [⟨6, 0, 1, 0x1000, 2, [], 0, 0, 0⟩], reductions := [⟨5, 2, 2, 0, 3, [1, 0]⟩]
    lcores := [{ lcore0 with descs := [[0x0000000400000000, 0, 0, 0, 0, 0, 0, 0, 0, 0, 0, 0, 0, 0, 0, 0]] }] } })

/-- StepFramesAreJudged: a frame of the step, one that waits for START, one of the next step, of a later attempt and a stale one; a partition that takes
none; the channel and its ring, the reduction and its first rank, a target's end, the barrier's remote source, digests, a writer that reads its
last manifest. The frames arrive (`looped_arrives`). -/
theorem witness_step_frames : let s := stepping .run
    (taking s 0 = true ∧ taking (withPart (fun q => { q with inGroup := false })) 0 = false)
    ∧ (tagOfFrame s 0 0 9 = .now ∧ tagOfFrame (stepping .waitStart) 0 0 9 = .waiting ∧ tagOfFrame s 0 0 10 = .next ∧ tagOfFrame s 0 1 9 = .later ∧ tagOfFrame s 0 0 8 = .stale)
    ∧ (match channelOf s 0 6 with | some c => decide (c.kind = 0 ∧ 4096 ≤ 4096 * c.ringPages) | none => false) = true ∧ ringDies s 0 6 ≠ []
    ∧ (match reductionOf s 0 5, tensorOf s 0 2 with
       | some r, some t => decide (r.ranks.contains 1 = true ∧ r.ranks.idxOf 1 = 0 ∧ 1 < r.ranks.length ∧ 1024 * 0 < elements t ∧ elements t ≤ 1024 * 1)
           && (match deputyOf s (granuleStack s 0 t 0) with
               | some c => decide ((s.cellars[c]).upd.reserve < freeSlots (s.cellars[c]).upd ∧ updStopped s.cellars[c] = false ∧ (s.cellars[c]).upd.parked = []
                   ∧ 0 < freeSlots (s.cellars[c]).upd ∧ (s.cellars[c]).upd.sums = [] ∧ (s.cellars[c]).upd.written = [])
               | none => false)
           && (deputyOf s (granuleStack s 0 t 1)).isSome
       | _, _ => false) = true
    ∧ (match barrierOf s 0 4, barrierOf s 0 3 with
       | some b, some b' => decide (b.sources.contains (.remote 1 0) = true ∧ b'.sources.contains (.remote 1 0) = false ∧ vestSize (.tok 4 1 0) + part0.vestUsed ≤ share0.vest)
       | _, _ => false) = true
    ∧ ((s.sed.digests[(0 : PartIx)]).own = [] ∧ part0.group ≠ part0.group + 1)
    ∧ (0 ≠ part0.ckp.cfg.storeNode + 1) := by decide +kernel

/-! ### The mailbox, the management network, I3C -/

/-- A header for a body of a kind and a length. -/
def header0 (s : State) (kind : Byte) (len : Nat) : MsgIn :=
  { tag := none, source := 1, port := 2, magic := BitVec.ofNat 32 mgmtMagic, version := 1, kind := kind, bodyLen := len, serial := s.fuses.serial, auth := true }

/-- MailboxAndSession: a repeated SEQ, an old one, a fresh one while a COMMAND runs, while the host's command runs, and while nothing runs; a code that no
table assigns; completions with and without a reset. -/
theorem witness_mailbox : (goodMsg bench (header0 bench 1 72) 1 72 = true ∧ goodMsg bench (header0 bench 2 4) 4 0 = false ∧ goodMsg bench (header0 bench 4 0) 4 0 = true)
    ∧ freshSeq bench 1 = true ∧ freshSeq bench 0 = false ∧ bench.mgmt.lastDone = none
    ∧ (bench.mgmt.running = none ∧ bench.mgmt.queued = none ∧ bench.mbox.busy = false ∧ (running bench 1 0 [] false).mbox.busy = true ∧ bench.pwr.tripped = false)
    ∧ (timersHeld bench = false ∧ asleep bench mgmtDom = false ∧ bench.pwr.lost = false ∧ netUp bench = true ∧ bench.mgmt.exhausted = false)
    ∧ (assigned 0x200 = false ∧ commandable (running bench 0x200 0 [] false) = true)
    ∧ resetsAfter bench 0x81 = true ∧ resetsAfter bench 1 = false := by decide +kernel

/-- NetworkAndI3cAnswer: untagged packets and tagged ones, an address of its own and another, I3C before and after it has an address, a PCIe link. -/
theorem witness_network : (hears bench = true ∧ tagOk bench none = true ∧ tagOk bench (some 7) = false)
    ∧ (let s : State := { bench with mgmt := { bench.mgmt with ip4 := 0x0A000001, ip6 := 5 } }; (0x0A000001 : W32) ≠ 0 ∧ (0x0A000001 : W32) = s.mgmt.ip4 ∧ (5 : BitVec 128) = s.mgmt.ip6
        ∧ (0x0A000002 : W32) ≠ s.mgmt.ip4 ∧ hears s = true)
    ∧ (i3cRuns bench = true ∧ bench.i3c.dynAddr = none)
    ∧ (let s : State := { bench with i3c := { bench.i3c with dynAddr := some 9, staticAddr := 3 } }; i3cRuns s = true ∧ s.i3c.dynAddr.isSome = true ∧ s.i3c.staticAddr = (3 : BitVec 7).toNat ∧ (3 : BitVec 7) ≠ 0)
    ∧ (let s : State := { bench with pcie := { bench.pcie with up := true }, boot := { bench.boot with fuses := { bench.boot.fuses with lc := .provisioned } } }
       s.pcie.up = true ∧ asleep s pcieDom = false ∧ lcOf s ≠ 0 ∧ asleep s mgmtDom = false) := by decide +kernel

/-! ### Commands in the mailbox -/

/-- A partition without a plan. -/
def idlePart (st : PlanSt) : State := withPart (fun q => { q with st := st, step := .idle, image := none, bind := [], inGroup := false, twin := .none })

/-- An image without tensors, barriers and reductions, of no length, so that a load reads no block for it. -/
def image1 : Image := { image0 with length := 0, tensors := [], barriers := [], reductions := [] }

/-- PlanCommands: each command in each state of a plan; an image that passes its checks and two that do not; a transfer. -/
theorem witness_plan : (∀ code ∈ [1, 2, 3, 4, 5, 6, 7, 8], ∀ st ∈ [PlanSt.empty, .loaded, .armed, .running, .halted], runsAt (running (idlePart st) code 0 [] false) code = true)
    ∧ (match loadCheck (idlePart .empty) 0 { image0 with magicOk := false } 0 4096, loadCheck (idlePart .empty) 0 { image0 with digestOk := false } 0 4096 with
       | some (k, _), some (k', _) => decide (k ≠ 2 ∧ k' = 2) | _, _ => false) = true
    ∧ (imageFault (idlePart .empty) 0 [] 0 4096).isSome = true ∧ loadCheck (idlePart .empty) 0 image1 0 0 = none
    ∧ (let s := running (idlePart .loaded) 7 0 [0, 0, 0x300000, 64] false
       match s.mbox.run with
       | some c => decide (xferError s c 0 = none ∧ versionedAt s 0 (argOf c 0) = false ∧ logicalAddr s 0 (argOf c 0) % 64 = 0 ∧ stackDown s (cellarOf s 0) = false
           ∧ partOfCmd s c = some 0 ∧ (s.cellars[cellarOf s 0]).pieces = [])
       | none => false) = true
    ∧ (∀ up ∈ [true, false], let s0 := idlePart .loaded
       let s := running { s0 with pcie := { s0.pcie with up := up, wins := s0.pcie.wins.set 0 { s0.pcie.wins[(0 : PartIx)] with size := 0x1000 } } } 7 0 [0, 1, 0, 64] false
       (match s.mbox.run with
       | some c => decide (xferError s c 0 = none ∧ argOf c 1 = 1 ∧ argOf c 3 = 64 ∧ s.pcie.up = up ∧ partOfCmd s c = some 0 ∧ turnAway s c = none)
       | none => false) = true) := by decide +kernel

/-- The step commands with a partition that holds a group key and a run checkpoint key, in a group or none of it, without tensors. -/
def grouped (f : Machine.Part → Machine.Part) : State :=
  let s := ownedBy (withPart (fun q => f { q with image := some { image1 with lcores := [] }, bind := [] }))
  { s with boot := { s.boot with keys := [⟨0, 1, 4, Vector.replicate 4 0⟩, ⟨0, 2, 0, Vector.replicate 4 3⟩] }, cores := State.reset.cores
           fab := { s.fab with ports := s.fab.ports.set 0 { s.fab.ports[(0 : PortIx)] with st := .active, peerSerial := 6, nonce := some (Vector.replicate 4 7) } } }

/-- Group 4, epoch 0; rank 0 of two, coordinator 0. -/
def join0 : List Nat := [4 * 2 ^ 32, 0x10000]

/-- What a twin of group 4 shows under a nonce. -/
def twin0 (nonce : Word) : TwinProof := ⟨⟨true, 2, ownerDigest (grouped id), Vector.replicate 4 nonce, none, Vector.replicate 4 8⟩, some 4, 1, 0, 0⟩

/-- A mirrored image of the partition. -/
def mirror0 : Mirror := { Mirror.empty with image := some image1, version := 4 }

/-- A state with a command, and a check of the command and the state. -/
def checks (s : State) (f : State → Cmd → Bool) : Bool := match s.mbox.run with | some c => f s c | none => false

/-- StepCommands: each command can run in each step state; an identity, a token; a recorded mirror. -/
theorem witness_step_commands :
    (∀ code ∈ [0x20, 0x21, 0x22, 0x23, 0x24, 0x25, 0x26, 0x27, 0x28, 0x29, 0x2A, 0x2B, 0x2C, 0x2D, 0x2E], ∀ begun ∈ [false, true],
      ∀ st ∈ [StepSt.idle, .waitStart, .run, .prepared, .stopped, .spare],
        let s := running (grouped (fun q => { q with step := st })) code 0 [] begun; runsAt s code = true ∧ s.mbox.begun = begun ∧ s.dbg.level < 3)
    ∧ badIdentity (grouped id) 0 (word (join0.getD 0 0)) (word (join0.getD 1 0)) = false
    ∧ wbit (word (join0.getD 1 0)) 48 = false ∧ wbit (word (join0.getD 1 0 + 2 ^ 48)) 48 = true
    ∧ badIdentity (grouped id) 0 (word (join0.getD 0 0)) (word (join0.getD 1 0 + 2 ^ 48)) = false
    ∧ (isCoord part0 = true ∧ isCoord { part0 with coord := 1 } = false)
    ∧ checks (running (grouped (fun q => { q with step := .prepared })) 0x27 0 ((tokenWords (token0 2 0 5)).map word) false) (fun s c =>
        let t := parseToken (fun i => c.args[i]); let q := s.parts[(0 : PartIx)]
        decide (t.group = q.group ∧ t.kind = 2 ∧ t.epoch.toNat ≤ q.epoch.toNat ∧ t.step = q.stepNo ∧ t.attempt = q.attempt ∧ t.version = q.version + 1)) = true
    ∧ checks (running (grouped (fun q => { q with step := .waitStart })) 0x29 0 [9, 0] false) (fun s c =>
        decide (c.args[0] = (s.parts[(0 : PartIx)]).stepNo ∧ argOf c 1 = (s.parts[(0 : PartIx)]).attempt)) = true
    ∧ checks (running (grouped id) 0x24 0 [1, 0] false) (fun s c => let q := s.parts[(0 : PartIx)]
        decide (q.inGroup = true ∧ wfield c.args[1] 15 0 < q.ranks ∧ q.epoch.toNat < wfield c.args[0] 31 0)) = true
    ∧ loadCheck (grouped (fun q => { q with st := .empty })) 0 image1 0 0 = none ∧ mirrorStep mirror0 9 = 9
    ∧ (∀ k : CellarIx, ((grouped id).cellars[k]).lostBlocks = []) ∧ wiping (grouped id) = false ∧ part0.ckp.wr = none ∧ 1 < part0.ranks := by decide +kernel

/-- StepCommands: TWIN_ATTACH and ASSUME_IDENTITY before and after the challenge, with a report that answers it and one that does not; GROUP_LEAVE of a
partition at rest whose twin is each; TWIN_RELEASE; a REPAIR of one block of the shard. -/
theorem witness_twin :
    (∀ begun ∈ [false, true], ∀ st ∈ [TwinSt.none, .lost, .handshake],
      checks (running (grouped (fun q => { q with step := .spare, twin := st })) 0x20 0 [6, 0] begun) (fun s c =>
        decide (c.args[0] = 6 ∧ wfield c.args[1] 20 16 = 0 ∧ 0 < portCount s ∧ (∀ r : PartIx, r ≠ 0 → (s.parts[r]).twin = .none) ∧ (s.parts[(0 : PartIx)]).twin = st
          ∧ (s.fab.ports[(0 : PortIx)]).nonce = some (Vector.replicate 4 7))) = true)
    ∧ (∀ begun ∈ [false, true], checks (running (grouped (fun q => { q with step := .spare })) 0x2B 0 (([0] ++ join0 ++ [6, 0]).map word) begun) (fun s c =>
        decide (badIdentity s 0 c.args[1] c.args[2] = false ∧ wfield c.args[4] 20 16 = 0 ∧ s.mbox.begun = begun ∧ c.args[3] = 6 ∧ c.args[1].extractLsb' 32 32 = 4)) = true)
    ∧ (let s := running (grouped (fun q => { q with inGroup := false })) 0x20 0 [6, 0] true
       runsAt s 0x20 = true ∧ (s.parts[(0 : PartIx)]).inGroup = false ∧ handshakeError s 0 0 6 (twin0 7) none = none)
    ∧ handshakeError (grouped id) 0 0 6 (twin0 7) (some 4) = none ∧ peerOk (grouped id) (some (Vector.replicate 4 9)) (twin0 7).report = false
    ∧ (∀ st ∈ [TwinSt.none, .lost, .paired], active (grouped (fun q => { q with st := .loaded, twin := st })) 0 = false)
    ∧ (let s := withPart (fun q => { q with step := .idle, twin := .paired })
       let s : State := { s with cellars := s.cellars.set 0 { s.cellars[(0 : CellarIx)] with lostBlocks := [0] } }
       lostOf s 0 = [0] ∧ (match lostKind s 0 0 with | .shard off _ => off == 0 | _ => false) = true ∧ mirroring s.parts[(0 : PartIx)] = true
         ∧ runsAt (running s 0x2D 0 [] false) 0x2D = true) := by decide +kernel

/-- A checkpoint that is being written, in its sending phase. -/
def ckpWr0 (dies pages : List Nat) (sent : Nat) : CkpWr :=
  { cut := 8, step := 8, epoch := 0, key := Vector.replicate 4 3, phase := .sending, delta := false, depth := 0, prev := 0, base := 8, hist := [], todoDies := dies, todoPages := pages
    pages := pages.length, index := 0, off := 0, data := [], sent := sent, acked := 0, content := contentOf [] }

/-- A loaded partition with a run key and a checkpoint configuration. -/
def restorable : State := grouped (fun q => { q with st := .loaded, step := .idle, ckp := { q.ckp with cfg := { q.ckp.cfg with every := 1 } } })

/-- SHA-256 of no bytes. -/
def empty0 : Nat := 38772261170797515502142737251560910253885555854579348417967781179871348437219

/-- The bytes of a manifest of cut 8 of shard 0 of none other, without pages and histories: table CK-3 up to its CRC, CRC, MAC. -/
def manifest0 : List Byte :=
  leBytes 4 0x434B4D46 ++ leBytes 2 1 ++ List.replicate 18 0 ++ leBytes 8 8 ++ leBytes 8 8 ++ List.replicate 8 0 ++ leBytes 8 8 ++ List.replicate 32 0
    ++ leBytes 32 empty0 ++ leBytes 32 empty0 ++ List.replicate 84 0 ++ leBytes 4 403143539 ++ leBytes 16 128350917938336731511243314796093634750

/-- The answer of a store that holds it, with its data object, which has no record. -/
def store0 : StoreAnswer := ⟨false, [(0, 8, manifest0)], [(8, [])]⟩

/-- CheckpointCommands: a restore from that answer; and one from which cut 9 is missing. -/
theorem witness_restore : let ms := readManifests restorable 0 store0
    store0.silent = false ∧ missingAt ms 0 (planDigest restorable 0) 8 = [] ∧ missingAt ms 0 (planDigest restorable 0) 9 = [0]
      ∧ (match manifestOf ms 0 8 with
         | some m => decide (m.kind = 0 ∧ m.shardPages = 0 ∧ openObject restorable 0 8 m [] = some [] ∧ contentOf (pageDigests restorable 0) = m.content)
         | none => false) = true := by decide +kernel

/-- CheckpointCommands: a writer with records of dies and pages left, one with nothing left, a full slot; a store that answers and one that is silent. -/
theorem witness_checkpoint :
    (∀ w ∈ [ckpWr0 [0, 1] [] 1, ckpWr0 [] [3, 4] 1, ckpWr0 [] [] 1], let s := withPart (fun q => { q with ckp := { q.ckp with wr := some w } })
      cellarsAsleep s = false ∧ w.phase = .sending ∧ storeRoom s 0 = true ∧ slotFull part0.ckp.cfg w.off (48 + histLen s 0 0) = false ∧ w.acked < w.sent ∧ timersHeld s = false)
    ∧ slotFull { part0.ckp.cfg with target := true } 1 48 = true
    ∧ (∀ code ∈ [0x40, 0x41, 0x42, 0x43], let s := running restorable code 0 [8, 1, 0x300000] false; runsAt s code = true
        ∧ checks s (fun s c => decide (restoreError s c 0 = none ∧ partOfCmd s c = some 0)) = true)
    ∧ (restorable.parts[(0 : PartIx)]).hists = [] := by decide +kernel

/-- SilentErrorCommands: units that exist and one that does not, the pantry with and without a record, a group's ranks. -/
theorem witness_silent : (∀ x ∈ [(0x60, ([0x1000] : List Nat)), (0x61, [0x1000]), (0x62, []), (0x63, [0, 0x300000]), (0x64, [0x300000]), (0x65, [1, 1]), (0x66, [4])],
      runsAt (running bench x.1 0 (x.2.map word) false) x.1 = true ∧ runsAt (running bench x.1 0 (x.2.map word) true) x.1 = true)
    ∧ unitKnown bench (arrayUnit 0 0) = true ∧ unitKnown bench 0xFFFF = false ∧ arrayUnit 0 0 % 65536 = arrayUnit 0 0 ∧ (unitOf bench (arrayUnit 0 0)).st = .inService
    ∧ (ownerOf bench 0 = some 0 ∧ active bench 0 = true ∧ ownerOf bench 1 = none)
    ∧ (inXfer 0x300000 16384 = true ∧ 0x300000 % 16384 = 0)
    ∧ (let s := putPantry { bench with parts := State.reset.parts } 0 (record0 [1, 0, 0, 0]); pantryRec s 0 = some (record0 [1, 0, 0, 0]) ∧ pantryRec s 1 = none
        ∧ (pantry s).find? (fun e => e.2.operands == (record0 []).operands) = some (0, record0 [1, 0, 0, 0]) ∧ testPlan s ≠ [] ∧ testPlan bench = [])
    ∧ 1 < part0.ranks ∧ 1 ≠ part0.rank ∧ heldDigests bench 0 3 = none := by decide +kernel

/-! ### Boot, security, partitions, debug -/

/-- A booted device without partitions, in a life-cycle state, with no section write waiting. -/
def device (lc : LcFuse) (own : Bool) (level : Nat) : State :=
  let s := bootAt 8
  { s with dbg := { s.dbg with level := level }
           boot := { s.boot with wants := [], fuses := { s.boot.fuses with lc := lc }, owner := if own then some owner0 else none } }

/-- BootCommands: every command runs, before and after it has begun; a section that waits, that is written and that failed; an image and a chunk within their
limits and beyond; a cause record and none. -/
theorem witness_boot_commands : (∀ code ∈ [0x80, 0x81, 0x82, 0x83, 0x84, 0x85, 0x86, 0x87, 0x93], ∀ begun ∈ [false, true],
      runsAt (running (device .factory false 0) code 0 [0x300000, 0x300000, 256] begun) code = true)
    ∧ (∀ x ∈ [([1], ([] : List Nat)), ([], []), ([], [1])], let s := modBoot (device .factory false 0) (fun b => { b with wants := x.1, failed := x.2 })
        neverFits s 1 = false ∧ s.boot.wants = x.1 ∧ s.boot.failed = x.2)
    ∧ (inXfer 0x300000 56 = true ∧ inXfer 0x3FFFC8 56 = true ∧ inXfer 0x3FFFC9 56 = false ∧ inXfer 0x2FFFFF 56 = false ∧ inXfer 0x300000 0x100000 = true)
    ∧ (let s := device .factory false 0; (imageCause s (flashBytes s) ⟨true, true⟩).1 = 0 ∧ (imageCause s (flashBytes s) ⟨true, false⟩).1 ≠ 0 ∧ minimal s = false)
    ∧ (let s := running (modBoot (device .factory false 0) (fun b => { b with minimal := true })) 0x84 0 [] false
       minimal s = true ∧ runsAt s 0x84 = true ∧ (imageCause s (flashBytes s) ⟨true, true⟩).1 = 0)
    ∧ (device .factory false 0).boot.causes = [] ∧ inXfer 0x300000 16 = true := by decide +kernel

/-- A booted device with an owner and partition 0, which holds `n` group keys from 4 on. -/
def keyed (n : Nat) : State :=
  let s := ownedBy bench
  { s with boot := { s.boot with keys := (List.range n).map (fun k => ⟨0, 1, 4 + k, Vector.replicate 4 0⟩), keyNonce := some (Vector.replicate 4 1) } }

/-- A request for a key, as a device of the same owner gives it, up to its signatures. -/
def request0 : List Byte := leBytes 4 0x41545354 ++ leBytes 2 1 ++ [2] ++ List.replicate 99 0 ++ ownerDigest (keyed 0) ++ List.replicate 63 0

/-- SecurityCommands: each command in the life-cycle state that permits it, before its section is written and after; a blob of this device and one of
another; a key that is held, one that is not, a full table; a request of a peer. -/
theorem witness_security : (∀ x ∈ [(0x88, LcFuse.provisioned, false), (0x89, .provisioned, false), (0x8A, .provisioned, true), (0x8B, .provisioned, true), (0x8C, .factory, false)],
      ∀ begun ∈ [false, true], let s := running (device x.2.1 x.2.2 0) x.1 0 [0x300000, 0, 0, 0, 0x300000] begun
      runsAt s x.1 = true ∧ s.mbox.begun = begun ∧ (recordKey s).isSome = true ∧ (∀ k ∈ [7, 8], neverFits s k = false ∧ k ∉ s.boot.wants ∧ k ∉ s.boot.failed))
    ∧ (∀ lc ∈ [LcFuse.provisioned, .factory], inXfer 0x300000 (reportSize (device lc false 0)) = true ∧ inXfer 0x3FFFFF (reportSize (device lc false 0)) = false)
    ∧ (inXfer 0x300000 blobBytes = true ∧ inXfer 0x3FFFFF blobBytes = false ∧ inXfer 0x300000 1 = true ∧ 40 + wrappedBytes + ([0] : List Byte).length ≤ 0x4000)
    ∧ (let s : State := { device .provisioned false 0 with fuses := { bench.fuses with serial := 0x77 } }
       blobSerial (sramRead s 0x300000 blobBytes) ≠ s.fuses.serial.toNat
         ∧ (let t := sramWrite s 0x3007C8 [0x77]; blobSerial (sramRead t 0x300000 blobBytes) = t.fuses.serial.toNat))
    ∧ (∀ code ∈ [0x8D, 0x8E, 0x8F, 0x90], ∀ n ∈ [0, 1, 4], let s := running (keyed n) code 0 [1, 4, 0x300000, 0x300000] false; runsAt s code = true
        ∧ s.boot.keyNonce = some (Vector.replicate 4 1) ∧ partOfCmd s ⟨code, 0, 0, Vector.replicate 8 0, .mgmt 0⟩ = some 0)
    ∧ (requestOk (sramWrite (keyed 1) 0x300000 request0) 0x300000 = true ∧ requestOk (keyed 1) 0x300000 = false)
    ∧ (keyName 1 4 = true ∧ keyName 3 0 = false ∧ (keyed 1).boot.keys.any (isKey 0 1 4) = true ∧ (keyed 0).boot.keys.any (isKey 0 1 4) = false
        ∧ ((keyed 4).boot.keys.filter (fun k => decide (k.part = 0))).length = 4 ∧ (keyed 4).boot.keys.any (isKey 0 2 4) = false) := by decide +kernel

/-- PartitionCommands: a request that finds its ranges, one whose core is taken, a layout that fails, a partition that can be destroyed and one that cannot. -/
theorem witness_partition : (∀ code ∈ [0x91, 0x92], ∀ level ∈ [0, 4], let s := ownedBy bench
      runsAt (running { s with dbg := { s.dbg with level := level } } code 0 [1] false) code = true)
    ∧ (∃ n : CoreIx, (allotReq ⟨0x91, 0, 0, #v[1, 0, 0, 0, 0, 0, 0, 0], .mgmt 0⟩).cores.getLsbD n.val = true ∧ coreFree bench n = false)
    ∧ (let r := allotReq ⟨0x91, 1, 0, #v[2, 0x0000006400000002, 0, 0, 0x00100010, 0x0101, 0, 0], .mgmt 0⟩
       (findRanges bench r).isSome = true ∧ badLayout bench r = false ∧ (bench.parts[(1 : PartIx)]).allot = none)
    ∧ (let r := allotReq ⟨0x91, 1, 0, #v[2, 0, 0, 0, 0, 0, 0, 0], .mgmt 0⟩; (findRanges bench r).isSome = true ∧ badLayout bench r = true)
    ∧ (let q := (idlePart .empty).parts[(0 : PartIx)]; q.st = .empty ∧ q.inGroup = false ∧ q.twin = .none ∧ q.allot = some share0) ∧ part0.inGroup = true := by decide +kernel

/-- An authorization record for a level. -/
def record1 (level : Byte) : List Byte :=
  leBytes 4 0x44424155 ++ leBytes 2 1 ++ [level, 2] ++ leBytes 8 0 ++ leBytes 8 1 ++ leBytes 8 1 ++ leBytes 8 2 ++ leBytes 8 3 ++ leBytes 8 4

/-- A device with an owner that has given a nonce. -/
def challenged : State :=
  let s := device .provisioned true 0
  { s with fuses := { s.fuses with serial := 0 }, dbg := { s.dbg with nonce := some [1, 2, 3, 4] }, boot := { s.boot with bootCount := 1, sram := tsetMany 0 [] 0x300000 (record1 2) } }

/-- DebugCommands: every command runs at each debug level; a record that is good and one that is not; counters. -/
theorem witness_debug : (∀ code ∈ [0xA0, 0xA1, 0xA2, 0xA3, 0xA4, 0xA5, 0xA6, 0xA7, 0xA8, 0xA9], ∀ level ∈ [0, 1, 3, 4],
      runsAt (running (device .provisioned true level) code 0xF [0x300000, 1] false) code = true)
    ∧ (∀ code ∈ [0xA7, 0xA9], runsAt (running (ownedBy bench) code 0 [2] false) code = true) ∧ lcOf (ownedBy bench) = 2 ∧ (ownedBy bench).dbg.level < 4
    ∧ (let r := parseAuth (tgetMany 0 challenged.boot.sram 0x300000 8720) ⟨true, true⟩
       r.magic = 0x44424155 ∧ r.format = 1 ∧ r.serial = challenged.fuses.serial.toNat ∧ r.count = challenged.boot.bootCount ∧ challenged.dbg.nonce = some r.nonce ∧ r.level = 2
         ∧ r.signer = 2 ∧ lcOf challenged = 2 ∧ challenged.dbg.level < r.level ∧ inXfer 0x300000 8720 = true)
    ∧ (∀ p : PartIx, (challenged.parts[p]).inGroup = false ∧ (challenged.parts[p]).twin = .none)
    ∧ (let s := device .provisioned true 3; s.pwr.pstate ≠ 3 ∧ s.dbg.halted = false ∧ s.dbg.halting = false ∧ s.trc.enable = false)
    ∧ (let s : State := { device .provisioned true 3 with trc := { bench.trc with enable := true, cfg := { bench.trc.cfg with cntPeriod := 1 } } }
       tracing s = true ∧ s.trc.cfg.cntPeriod ≠ 0 ∧ s.pwr.pstate < 2 ∧ asleep s mgmtDom = false ∧ s.pwr.powered = true ∧ s.pwr.lost = false ∧ timersHeld s = false)
    ∧ (∀ x ∈ [(true, 0, 0x20C), (true, 0, 0), (false, 2, 0x3000), (false, 3, 0), (false, 0, 0)], ∀ code ∈ [0xA3, 0xA4, 0xA5, 0xA6],
        let s := device .provisioned true 3
        let s : State := { s with dbg := { s.dbg with halted := x.1 }, trc := { s.trc with enable := true }, pwr := { s.pwr with pstate := x.2.1 } }
        (x.2.1 = 3 ∨ tracing s = true) ∧ runsAt (running s code 0xF [word x.2.2, word x.2.2] false) code = true)
    ∧ (∀ level ∈ [0, 4], let s := ownedBy bench; let s : State := { s with dbg := { s.dbg with level := level } }
        runsAt (running s 0xA7 0 [2] false) 0xA7 = true ∧ runsAt (running s 0xA9 0xF [1] false) 0xA9 = true) := by decide +kernel

/-- TestAccessPort: records without a magic number, with another nonce, and good ones; halts in each debug state; a chain that scans. -/
theorem witness_tap : challenged.pwr.powered = true ∧ challenged.dbg.level < 3
    ∧ (let r := parseAuth ((record1 2).take 8720) ⟨true, true⟩
       leNat (((record1 2).drop 8720).take 4) = 0 ∧ r.magic = 0x44424155 ∧ challenged.dbg.nonce = some r.nonce ∧ r.level ≤ 2 ∧ minimal challenged = false)
    ∧ (parseAuth ([] : List Byte) ⟨true, true⟩).magic = 0
    ∧ (let s : State := { device .provisioned true 4 with dbg := { bench.dbg with level := 4, halted := true } }; s.dbg.halted = true ∧ scannable s 0 = true)
    ∧ scannable (device .provisioned true 4) 0 = false := by decide +kernel

/-! ### Registers -/

/-- RegisterAccesses: an access of each kind of failure, both ends of the flash window, a window that the host may use and addresses that it may not, a core that runs and one that
does not, both owners of the mailbox. -/
theorem witness_registers : (accessFail bench 0x40000 8 = some 0 ∧ accessFail bench 0x3FFFF8 8 = some 0 ∧ accessFail bench 0x1000004 8 = some 3)
    ∧ (accessFail { bench with pkg := { bench.pkg with ucie := Vector.replicate 2 false } } (addrOf (.cc 0)) 8 = some 2)
    ∧ (accessFail { bench with fuses := { bench.fuses with m12 := false } } (addrOf (.cel 8)) 8 = some 1)
    ∧ (∀ o ∈ [0, 0x0FFFFFFC], accessFail bench (0x10000000 + o) 4 = none) ∧ bench.pwr.testHold = false
    ∧ (0x3FFFF8 % 8 = 0 ∧ 0x3FFFF8 < 0x400000) ∧ (0x1010000 : Nat) < 2 ^ 40
    ∧ (bench.pkg.ucie[dieOfCore 0] = true ∧ bench.pwr.pstate ≠ 3 ∧ coreRuns bench 0 = true ∧ coreRuns bench 1 = false)
    ∧ (let s : State := { bench with pcie := { bench.pcie with up := true }, mbox := { bench.mbox with owner := 2, busy := true, preempt := true } }; s.pcie.up = true ∧ s.mbox.owner = 2)
    ∧ (1 : Word).toNat % 4 = 1 ∧ bench.mbox.owner = 0 ∧ (0 < portDies bench ∧ bench.pkg.portLink[(0 : PortDieIx)] = true)
    ∧ ((bench.dbg.dumps[(0 : Fin 4)]).state = 0 ∧ (bench.dbg.dumps[(0 : Fin 4)]).enable = false) := by decide +kernel

/-- ErrorRegisters: every link that a read needs is up. -/
theorem witness_errors : asleep bench mgmtDom = false ∧ bench.pwr.testHold = false ∧ (∀ n : CoreIx, bench.pkg.ucie[dieOfCore n] = true)
    ∧ (∀ c : CellarIx, c.val < nStacks bench → bench.pkg.cellarLink[c] = true) ∧ 0 < nStacks bench ∧ (∀ d : PortDieIx, d.val < portDies bench → bench.pkg.portLink[d] = true) := by
  decide +kernel

/-- StepKeepsInvariant: the invariant holds with a command in the mailbox, and a step goes on from there. -/
theorem witness_invariant : MailboxInv { bench with mbox := { bench.mbox with run := some ⟨6, 0, 0, Vector.replicate 8 0, .mgmt 0⟩, busy := true }, pending := [.queryPlan] } :=
  ⟨rfl, by decide +kernel, by decide +kernel, by decide +kernel, by decide +kernel, by decide +kernel⟩

/-! ### The manual's worked examples -/

/-- The layer loop of the forecaster: the words of ADD s6, s6, 0x4B000000; LTU p1, s7, 48; BR to −40, guarded by p1. -/
theorem test_loop_words_decode :
    decodeIns 0 ⟨0x210, 0x0800030C4B000000, none⟩ = some (.add 0 always 6 6 (.imm 0x4B000000))
    ∧ decodeIns 0 ⟨0x220, 0x1400820F00000030, none⟩ = some (.ltu 0 always 1 7 (.imm 48))
    ∧ decodeIns 0 ⟨0x228, 0x18400000FFFFFFD8, none⟩ = some (.br 0 ⟨1, false⟩ 0 0xFFFFFFD8) := by decide +kernel

/-- The attention score tile: GUARD 0, DF 1, E4M3 twice, DRAIN 1, CHAIN 3, MASK_MODE 1, M = N = 1,024, K = 256, counter c2, REL_A. -/
def scoreTile : MmaF :=
  { saA := 10, saW := 11, saMask := 12, saOut := 13, df := .dataGrad, fmtA := .e4m3, fmtW := .e4m3, accIn := false, drain := .direct, chain := 3, mask := .upTo, bxa := false
    m := 1024, n := 1024, k := 256, cnt := some 2, relA := true, relW := false, bxw := false }

/-- The words of the attention score tile. -/
theorem test_mma_words : decodeIns 0 ⟨0, 0xC000051661A9991A, some 0x10004000402A0000⟩ = some (.mma 0 always scoreTile)
    ∧ encodeIns (.mma 0 always scoreTile) = some (0xC000051661A9991A, some 0x10004000402A0000) := by decide +kernel

/-- The refused contribution: words 0, A and B of the frame of granule 900 of reduction 0x021, step 20,481, rank 3. -/
theorem test_contribution_header :
    (let ws := headerWords ⟨1, 0, 0, 0, 0x105, 0x103, 0, 0, .contrib 0x21 1 0 3 900 0 20481 []⟩ 2048 0
     (ws[0]?, ws[2]?, ws[3]?)) = (some 0x0340010501030800, some 0x0211000003000384, some 0x5001) := by decide +kernel

/-- The block of the vehicle embedding: block 128,003 of an M12 part is local block 333, on stack 11, in row 27 of bank 36; its tag is at byte 616 of row 24,528
of bank 2; the fold of tensor 0x021A05 is 0x1805. -/
theorem test_block_place : cellarOf State.reset 128003 = 11 ∧ bankRow 333 0 = (36, 27) ∧ bankRow 333 4095 = (39, 27) ∧ tagPlace 333 = (2, 24528, 616) ∧ foldOf 0x021A05 = 0x1805 := by
  decide +kernel

/-- The window of array MA2 of core 27. -/
theorem test_register_window : addrOf (.ma 27 2) = 0x0101176000 := by decide +kernel

/-- A read of cellar die 9 of an M8 part fails, of kind 1 by table PK-13. -/
theorem test_absent_die : accessFail { bench with fuses := { bench.fuses with m12 := false } } 0x0209000000 8 = some 1 := by decide +kernel

/-- The attention output: 37.5 × 2 rounds to 72, encoded 0x69; 500 saturates to 448, encoded 0x7E. -/
theorem test_fp8_rounding : convert .e4m3 none (.fin false 75 0) = ⟨0x69, false⟩ ∧ convert .e4m3 none (.fin false 500 0) = ⟨0x7E, true⟩ := by decide +kernel

/-- Four ranks in list order: 16,777,216 + 1 + 1 − 16,777,216 is +0. -/
theorem test_list_order_sum : fadd (fadd (fadd 0x4B800000 0x3F800000) 0x3F800000) 0xCB800000 = 0 := by decide +kernel

/-- The default hold-up bank at 12 V holds 712.5 mJ; the writes of BOOT and FENCE need 7.20 mJ and 36.05 mJ. -/
theorem test_holdup_energy : let s := modBoot (bootAt 8) (fun b => { b with vbank := 1200000 })
    availableMj s = 712 ∧ requiredMj s 1 = 7 ∧ requiredMj s 3 = 36 := by decide +kernel

/-! ### Ill-formed commands are refused -/

/-- A command that each check of well-formedness refuses: a shift beyond 63, a branch to half a word, tile dimensions and formats of an MMA and a WPRE, block
exponents, a chain without a drain that reads it, rows of a VRUN, list lengths, counts of lines, a frame's header, step tag, payload and list, a type, a
link's generation, hop class and node, a ping's length, an access without a byte, a link width. -/
theorem test_ill_formed : ∀ c ∈ [Instr.shl 0 always 1 1 (.imm 64), .shr 0 always 1 1 (.imm 64), .sar 0 always 1 1 (.imm 64), .br 0 always 0 4, .bri 0 always 0 1 2,
      .mma 0 always { scoreTile with m := 8 }, .mma 0 always { scoreTile with fmtA := .fp32 }, .mma 0 always { scoreTile with bxa := true }, .mma 0 always { scoreTile with drain := .raw },
      .wpre 0 always ⟨1, .forward, .fp32, false, 16, 16, none⟩, .wpre 0 always ⟨1, .forward, .int8, false, 16, 8208, none⟩,
      .vrun 0 always { vrun0 with rows := 0 }, .vpop 0 always 33 none, .vchdef 0 always 1 0 none, .srelease 0 always 1 6145 none,
      .dack loop0 [], .dack loop0 [(3, 0)], .credit { loop0 with hops := 5 } 0 0 0 0, .credit loop0 256 0 0 0, .credit loop0 0 0 256 0, .put loop0 0 0 0 (2 ^ 56) [],
      .contrib loop0 0 8 0 0 0 0 0 ⟨[], ⟨none, false⟩⟩, .token loop0 65536 0 0 0 0, .retry loop0 (0, 0) (0, word (3 * 2 ^ 62)), .retryUs 0 (2 ^ 30), .storeData loop0 0 1 0 [] (),
      .unknownType loop0 256, .frameForward ⟨0, 0⟩ { frame0 0 0 with vl := 3 }, .ack 0 (2 ^ 32), .nack 0 (2 ^ 32) none, .vlcredit 0 3 0 0, .rekey 0 (2 ^ 32) 0, .auth 0 ⟨true, 2, [], Vector.replicate 4 0, none, Vector.replicate 4 0⟩ 65536 0,
      .digest loop0 0 65536 0 0, .start loop0 0 0 65536 (token0 1 0 0) true, .icmpEcho ⟨none, .v4 0⟩ (List.replicate 1501 0), .registerWrite .host 0 [], .failingRead 0 0,
      .pcieLinkUp 1 3], c.wellFormed = false := by decide +kernel

end Sys2Proof.Tests
end

section
/-! The control address map (table PK-5) as a map of register blocks and memory windows, what a successful access of a management core comes to, and the
obligations on register accesses (O57) and on the registers that clear (O58). -/

namespace Sys2Proof.Machine

/-- A number that is an index stands for it. -/
theorem toFin_of_eq {n i : Nat} {j : Fin n} (h : i = j.val) : toFin n i = some j := by
  subst h; simp [toFin]

/-! ### What an address reaches (table PK-5) -/

theorem targetOf_sram (s : State) {o : Nat} (h : o < 0x400000) : targetOf s (0x400000 + o) = .mem .sram o := by
  unfold targetOf
  rw [if_neg (by omega), if_neg (by omega), if_pos (by omega), Nat.add_sub_cancel_left]

theorem targetOf_flash (s : State) {o : Nat} (h : o < 0x10000000) : targetOf s (0x10000000 + o) = .mem .flash o := by
  unfold targetOf
  iterate 8 rw [if_neg (by omega)]
  rw [if_pos (by omega), Nat.add_sub_cancel_left]

theorem targetOf_gap (s : State) {a : Nat} (h : 0x40000 ≤ a) (h' : a < 0x400000) : targetOf s a = .none := by
  unfold targetOf
  rw [if_neg (by omega), if_pos h']

theorem targetOf_pkg (s : State) {o : Nat} (h : o < 0x10000) : targetOf s (0x1000000 + o) = .reg .pkg o := by
  unfold targetOf
  iterate 4 rw [if_neg (by omega)]
  rw [if_pos (by omega), Nat.add_sub_cancel_left]

/-- The `k`-th MiB of the management window holds the block that `mgmtBlock` gives for it. -/
theorem targetOf_mgmt (s : State) (k o : Nat) {t : Target} (ho : o < 0x100000) (hk : k < 16)
    (ht : ∀ x, x / 2 ^ 20 = k → x % 2 ^ 20 = o → mgmtBlock x = t) : targetOf s (0x2000000 + 0x100000 * k + o) = t := by
  unfold targetOf
  iterate 6 rw [if_neg (by omega)]
  rw [if_pos (by omega)]
  exact ht _ (by omega) (by omega)

theorem targetOf_die (s : State) (d : DieIx) {o : Nat} (h : o < 0x1000000) : targetOf s (0x100000000 + 0x1000000 * d.val + o) = dieBlock d o := by
  unfold targetOf
  iterate 10 rw [if_neg (by omega)]
  rw [if_pos (by omega), toFin_of_eq (j := d) (by omega)]
  simp only
  congr 1
  omega

theorem targetOf_cellar (s : State) (c : CellarIx) {o : Nat} (h : o < 0x1000000) :
    targetOf s (0x200000000 + 0x1000000 * c.val + o) = if o < 0x10000 then .reg (.cel c) o else .reg (.upd c) (o - 0x10000) := by
  unfold targetOf
  iterate 11 rw [if_neg (by omega)]
  rw [if_pos (by omega), toFin_of_eq (j := c) (by omega), show (0x200000000 + 0x1000000 * c.val + o) % 2 ^ 24 = o by omega]

theorem targetOf_portDie (s : State) (d : PortDieIx) {o : Nat} (h : o < 0x1000000) :
    targetOf s (0x300000000 + 0x1000000 * d.val + o) =
      if o < 0x100000 then .reg (.fab d) o else if d = 0 then .reg .pci (o - 0x100000) else .none := by
  unfold targetOf
  iterate 12 rw [if_neg (by omega)]
  rw [if_pos (by omega), toFin_of_eq (j := d) (by omega), show (0x300000000 + 0x1000000 * d.val + o) % 2 ^ 24 = o by omega]

/-- The compute die in whose window a core stands. -/
def windowDie (n : CoreIx) : DieIx := ⟨n.val / 20, by omega⟩

/-- The place of a core in the window of its die. -/
def windowPlace (n : CoreIx) : Nat := 0x100000 + 0x10000 * (n.val % 20)

theorem dieBlock_slc (d : DieIx) {o : Nat} (h : o < 0x100000) : dieBlock d o = .reg (.slc d) o := if_pos h

/-- The window of a core holds its CC, MA and VE registers (R21). -/
theorem dieBlock_core (n : CoreIx) {w : Nat} (h : w < 0x10000) :
    (w < 0x4000 → dieBlock (windowDie n) (windowPlace n + w) = .reg (.cc n) w)
    ∧ (∀ k : Fin 4, w / 0x1000 = 4 + k.val → dieBlock (windowDie n) (windowPlace n + w) = .reg (.ma n k) (w % 0x1000))
    ∧ (0x8000 ≤ w → dieBlock (windowDie n) (windowPlace n + w) = .reg (.ve n) (w - 0x8000)) := by
  have hm : ∀ k : Fin 4, w / 0x1000 = 4 + k.val → toFin 4 ((w - 0x4000) / 0x1000) = some k := fun k hk => toFin_of_eq (by omega)
  have hi : (windowPlace n + w - 0x100000) / 0x10000 = n.val % 20 := by unfold windowPlace; omega
  have hw : (windowPlace n + w) % 0x10000 = w := by unfold windowPlace; omega
  have hn : (⟨20 * (windowDie n).val + n.val % 20, by omega⟩ : CoreIx) = n := by simp only [windowDie, Nat.div_add_mod]
  have ht : ¬ windowPlace n + w < 0x100000 := by unfold windowPlace; omega
  unfold dieBlock
  rw [if_neg ht, toFin_of_eq (j := (⟨n.val % 20, by omega⟩ : Fin 20)) hi, hw]
  simp only [hn]
  refine ⟨fun hc => if_pos hc, fun k hk => ?_, fun hv => ?_⟩
  · rw [if_neg (by omega), if_pos (by omega), hm k hk]
  · rw [if_neg (by omega), if_neg (by omega)]

theorem targetOf_window (s : State) (n : CoreIx) {w : Nat} (h : w < 0x10000) :
    targetOf s (addrOf (.cc n) + w) = dieBlock (windowDie n) (windowPlace n + w) := by
  rw [← targetOf_die s (windowDie n) (by unfold windowPlace; omega)]
  simp only [addrOf, windowDie, windowPlace, Nat.add_assoc]

/-! ### Blocks of registers (table PK-5) -/

/-- The bytes of the control address map that a block of registers takes up. -/
def blockBytes : Block → Nat
  | .pkg => 0x10000
  | .stp _ | .ckp _ | .ma .. => 0x1000
  | .cc _ => 0x4000
  | .ve _ => 0x8000
  | .cel _ => 0x10000
  | .upd _ => 0xFF0000
  | .pci => 0xF00000
  | .boot | .sec | .sed | .dbg | .trc | .cnt | .pwr | .slc _ | .fab _ => 0x100000

/-- An address in a block reaches that block. -/
theorem targetOf_addrOf (s : State) (b : Block) {off : Nat} (h : off < blockBytes b) : targetOf s (addrOf b + off) = .reg b off := by
  have boot : ∀ x, x / 2 ^ 20 = 0 → x % 2 ^ 20 = off → x = off := fun x hq hr => by omega
  have inPart : ∀ (p : PartIx) x, off < 0x1000 → x % 2 ^ 20 = 0x1000 * p.val + off → x % 4096 = off ∧ toFin 8 (x % 2 ^ 20 / 4096) = some p := fun p x ho hr =>
    ⟨by omega, toFin_of_eq (by omega)⟩
  cases b with
  | pkg => exact targetOf_pkg s h
  | boot => exact targetOf_mgmt s 0 off h (by decide) fun x hq hr => by simp only [mgmtBlock, hq]; rw [boot x hq hr]
  | sec => exact targetOf_mgmt s 1 off h (by decide) fun x hq hr => by simp only [mgmtBlock, hq, hr]
  | stp p =>
    simp only [blockBytes] at h
    rw [addrOf, Nat.add_assoc]
    refine targetOf_mgmt s 2 _ (by omega) (by decide) fun x hq hr => ?_
    obtain ⟨ho, hp⟩ := inPart p x h hr
    simp only [mgmtBlock, hq, hp, ho]
  | sed => exact targetOf_mgmt s 3 off h (by decide) fun x hq hr => by simp only [mgmtBlock, hq, hr]
  | ckp p =>
    simp only [blockBytes] at h
    rw [addrOf, Nat.add_assoc]
    refine targetOf_mgmt s 4 _ (by omega) (by decide) fun x hq hr => ?_
    obtain ⟨ho, hp⟩ := inPart p x h hr
    simp only [mgmtBlock, hq, hp, ho]
  | dbg => exact targetOf_mgmt s 5 off h (by decide) fun x hq hr => by simp only [mgmtBlock, hq, hr]
  | trc => exact targetOf_mgmt s 6 off h (by decide) fun x hq hr => by simp only [mgmtBlock, hq, hr]
  | cnt => exact targetOf_mgmt s 7 off h (by decide) fun x hq hr => by simp only [mgmtBlock, hq, hr]
  | pwr => exact targetOf_mgmt s 8 off h (by decide) fun x hq hr => by simp only [mgmtBlock, hq, hr]
  | slc d => exact (targetOf_die s d (Nat.lt_trans h (by simp only [blockBytes]; decide))).trans (dieBlock_slc d h)
  | cc n =>
    simp only [blockBytes] at h
    rw [targetOf_window s n (by omega)]
    exact (dieBlock_core n (by omega)).1 h
  | ma n k =>
    simp only [blockBytes] at h
    rw [show addrOf (.ma n k) + off = addrOf (.cc n) + (0x4000 + 0x1000 * k.val + off) by simp only [addrOf, Nat.add_assoc], targetOf_window s n (by omega)]
    obtain ⟨-, ma, -⟩ := dieBlock_core n (w := 0x4000 + 0x1000 * k.val + off) (by omega)
    rw [ma k (by omega), show (0x4000 + 0x1000 * k.val + off) % 0x1000 = off by omega]
  | ve n =>
    simp only [blockBytes] at h
    rw [show addrOf (.ve n) + off = addrOf (.cc n) + (0x8000 + off) by simp only [addrOf, Nat.add_assoc], targetOf_window s n (by omega)]
    obtain ⟨-, -, ve⟩ := dieBlock_core n (w := 0x8000 + off) (by omega)
    rw [ve (by omega), Nat.add_sub_cancel_left]
  | cel c =>
    simp only [blockBytes] at h
    rw [addrOf, targetOf_cellar s c (by omega), if_pos h]
  | upd c =>
    simp only [blockBytes] at h
    rw [addrOf, Nat.add_assoc, targetOf_cellar s c (by omega), if_neg (by omega), Nat.add_sub_cancel_left]
  | fab d =>
    simp only [blockBytes] at h
    rw [addrOf, targetOf_portDie s d (by omega), if_pos h]
  | pci =>
    simp only [blockBytes] at h
    have e := targetOf_portDie s 0 (o := 0x100000 + off) (by omega)
    rw [if_neg (by omega), if_pos rfl, Nat.add_sub_cancel_left, ← Nat.add_assoc] at e
    exact e

/-! ### Accesses that succeed -/

/-- Does the variant hold the die of a block (table SC-1)? -/
def inVariant (s : State) : Block → Prop
  | .cel c | .upd c => c.val < nStacks s
  | .fab d => d.val < portDies s
  | _ => True

theorem two_le_portDies (s : State) : 2 ≤ portDies s := by unfold portDies; split <;> decide

/-- Below the windows of the cellar dies every die is there. -/
theorem dieAbsent_low (s : State) {a : Nat} (h : a < 0x200000000) : dieAbsent s a = false := by
  simp only [dieAbsent, Bool.or_eq_false_iff, decide_eq_false_iff_not]
  omega

theorem dieAbsent_cellar (s : State) {c o : Nat} (h : c < nStacks s) (h' : c < 12) (ho : o < 0x1000000) : dieAbsent s (0x200000000 + 0x1000000 * c + o) = false := by
  simp only [dieAbsent, Bool.or_eq_false_iff, decide_eq_false_iff_not]
  omega

theorem dieAbsent_portDie (s : State) {d o : Nat} (h : d < portDies s) (h' : d < 3) (ho : o < 0x1000000) : dieAbsent s (0x300000000 + 0x1000000 * d + o) = false := by
  simp only [dieAbsent, Bool.or_eq_false_iff, decide_eq_false_iff_not]
  omega

/-- The die of a block that the variant holds is there. -/
theorem dieAbsent_addrOf {s : State} {b : Block} {off : Nat} (hp : inVariant s b) (h : off < blockBytes b) : dieAbsent s (addrOf b + off) = false := by
  have hd := two_le_portDies s
  cases b with
  | cel c => simp only [blockBytes] at h; exact dieAbsent_cellar s hp c.isLt (by omega)
  | upd c => simp only [blockBytes] at h; rw [addrOf, Nat.add_assoc]; exact dieAbsent_cellar s hp c.isLt (by omega)
  | fab d => simp only [blockBytes] at h; exact dieAbsent_portDie s hp d.isLt (by omega)
  | pci => simp only [blockBytes] at h; exact (congrArg _ (Nat.add_assoc 0x300000000 0x100000 off)).trans (dieAbsent_portDie s (d := 0) (by omega) (by omega) (by omega))
  | _ => simp only [blockBytes] at h; refine dieAbsent_low s ?_; simp only [addrOf]; omega

theorem addrOf_mod (b : Block) : addrOf b % 8 = 0 := by cases b <;> simp only [addrOf] <;> omega

/-- A register of the block `b` answers a management core with the value `v`: it is there, and the links to it stand. -/
structure Reaches (s : State) (b : Block) (off v : Nat) : Prop where
  inBlock : off < blockBytes b
  present : inVariant s b
  linked : linkIsDown s (.reg b off) = false
  reads : regRead s b off = some v

theorem Reaches.aligned {s : State} {b : Block} {off v : Nat} (h : Reaches s b off v) : off % 8 = 0 := by
  have hr := h.reads
  unfold regRead at hr
  split at hr
  · cases hr
  · next ho => exact not_not.mp ho

/-- An access to a register that answers does not fail. -/
theorem accessFail_reaches {s : State} {b : Block} {off v : Nat} (h : Reaches s b off v) : accessFail s (addrOf b + off) 8 = none := by
  have ha := h.aligned
  have hp : populated s (.reg b off) = true := by
    rw [populated, Nat.div_mul_cancel (Nat.dvd_of_mod_eq_zero ha), h.reads]; rfl
  have hw : widthOk (.reg b off) (addrOf b + off) 8 = true := by
    have := addrOf_mod b
    exact decide_eq_true ⟨rfl, by omega⟩
  simp [accessFail, targetOf_addrOf s b h.inBlock, dieAbsent_addrOf h.present h.inBlock, hp, h.linked, hw]

theorem access_read {s : State} {b : Block} {off v : Nat} (h : Reaches s b off v) (hc : counterOf b off = none) (i : Fin 12) :
    access s (.mgmt i) (addrOf b + off) .read = clearRc (emit s (.answer (word v))) b off := by
  simp only [access, accessFail_reaches h, targetOf_addrOf s b h.inBlock, hc, h.reads, Option.getD_some]

theorem access_write {s : State} {b : Block} {off v : Nat} (h : Reaches s b off v) (i : Fin 12) (w : Word) :
    access s (.mgmt i) (addrOf b + off) (.write w) = writeReg s b off w (.mgmt i) := by
  simp only [access, accessFail_reaches h, targetOf_addrOf s b h.inBlock]

/-! ### Accesses of a device that makes them -/

theorem barred_false {s : State} (h : asleep s mgmtDom = false) (ht : s.pwr.testHold = false) : barred s = false := by
  rw [barred, h, ht]; rfl

theorem powered_of_barred {s : State} (h : barred s = false) : s.pwr.powered = true := by
  simp only [barred, asleep, Bool.or_eq_false_iff, Bool.not_eq_false'] at h
  exact h.1.1.1

/-- What may leave is recorded, and nothing else changes. -/
theorem emit_sent {s : State} {o : Out} (h : canSend s o = true) : emit s o = { s with egress := s.egress ++ [o] } := if_pos h

/-- A read of a register answers its value and clears its RC fields. -/
theorem accessReg_read {s : State} {b : Block} {off v : Nat} (hb : barred s = false) (h : Reaches s b off v) (hc : counterOf b off = none) (i : Fin 12) :
    accessReg s (.mgmt i) b off .read = .next (clearRc { s with egress := s.egress ++ [.answer (word v)] } b off) := by
  rw [accessReg, hb, if_neg Bool.false_ne_true, access_read h hc, emit_sent (show canSend s (.answer (word v)) = true from powered_of_barred hb)]

/-- A write to a register is judged by that register. -/
theorem accessReg_write {s : State} {b : Block} {off v : Nat} (hb : barred s = false) (h : Reaches s b off v) (i : Fin 12) (w : Word) :
    accessReg s (.mgmt i) b off (.write w) = .next (writeReg s b off w (.mgmt i)) := by
  rw [accessReg, hb, if_neg Bool.false_ne_true, access_write h]

/-! ### The registers that a management core reaches -/

variable {s : State}

/-- The link to a compute die stands, and the die has power. -/
theorem dieLink_up {d : DieIx} (hu : s.pkg.ucie[d] = true) (hp : s.pwr.pstate ≠ 3) : (!s.pkg.ucie[d] || s.pwr.pstate == 3) = false := by simp [hu, hp]

/-- SED_COUNT of a partition stands at 0x60 + 8p. -/
theorem sedRead_count (s : State) (p : PartIx) : sedRead s (0x60 + 8 * p.val) = some (sedCount s.sed.counts[p]) := by
  unfold sedRead
  iterate 5 rw [if_neg (by omega)]
  rw [if_pos (by omega), toFin_of_eq (j := p) (by omega)]
  rfl

theorem clearRc_sedCount (s : State) (p : PartIx) :
    clearRc s .sed (0x60 + 8 * p.val) = modSed s (fun x => { x with counts := x.counts.set p.val ⟨0, 0, 0⟩ p.isLt }) := by
  simp only [clearRc]
  rw [if_pos (by omega), toFin_of_eq (j := p) (by omega)]

theorem localPort_portDieOf (f : PortIx) : localPort (portDieOf f) (f.val % 6) = some f := by
  rw [localPort, if_pos (Nat.mod_lt _ (by decide))]
  exact toFin_of_eq (Nat.div_add_mod f.val 6)

/-- FAB_FEC of a port stands at 0x80 + 8j of its port die, `j` its number there. -/
theorem fabRead_fec (s : State) (f : PortIx) : fabRead s (portDieOf f) (0x80 + 8 * (f.val % 6)) = some (fecWord s.fab.ports[f]) := by
  unfold fabRead
  iterate 5 rw [if_neg (by omega)]
  rw [if_pos (by omega), show (0x80 + 8 * (f.val % 6) - 0x80) / 8 = f.val % 6 by omega, localPort_portDieOf]
  rfl

theorem clearRc_fec (s : State) (f : PortIx) :
    clearRc s (.fab (portDieOf f)) (0x80 + 8 * (f.val % 6)) = modPort s f (fun p => { p with corrected := 0, uncorr := 0, nacks := 0 }) := by
  simp (disch := omega) only [clearRc]
  rw [if_pos (by omega), show (0x80 + 8 * (f.val % 6) - 0x80) / 8 = f.val % 6 by omega, localPort_portDieOf]

/-! ### Where the error and count registers stand, and what they read as -/

theorem reaches_maErr {n : CoreIx} (hu : s.pkg.ucie[dieOfCore n] = true) (hp : s.pwr.pstate ≠ 3) (k : Fin 4) :
    Reaches s (.ma n k) 0x10 (maErr ((s.cores[n]).arrays[k]).regs) := ⟨of_decide_eq_true rfl, trivial, dieLink_up hu hp, rfl⟩

theorem reaches_veErr {n : CoreIx} (hu : s.pkg.ucie[dieOfCore n] = true) (hp : s.pwr.pstate ≠ 3) : Reaches s (.ve n) 0x10 (veErr (s.cores[n]).ve) :=
  ⟨of_decide_eq_true rfl, trivial, dieLink_up hu hp, rfl⟩

theorem reaches_slcTokens {d : DieIx} (hu : s.pkg.ucie[d] = true) (hp : s.pwr.pstate ≠ 3) :
    Reaches s (.slc d) 0x18 (place (s.sluices[d]).dup 47 32 + place (s.sluices[d]).stale 15 0) := ⟨of_decide_eq_true rfl, trivial, dieLink_up hu hp, rfl⟩

theorem reaches_celErr {c : CellarIx} (hc : c.val < nStacks s) (hl : s.pkg.cellarLink[c] = true) : Reaches s (.cel c) 0x10 (celErr s.cellars[c]) :=
  ⟨of_decide_eq_true rfl, hc, congrArg not hl, rfl⟩

theorem reaches_updErr {c : CellarIx} (hc : c.val < nStacks s) (hl : s.pkg.cellarLink[c] = true) : Reaches s (.upd c) 0x10 (updErr (s.cellars[c]).upd) :=
  ⟨of_decide_eq_true rfl, hc, congrArg not hl, rfl⟩

theorem reaches_updDiscards {c : CellarIx} (hc : c.val < nStacks s) (hl : s.pkg.cellarLink[c] = true) :
    Reaches s (.upd c) 0x18 (place (s.cellars[c]).upd.refused 63 48 + place (s.cellars[c]).upd.unlisted 47 32 + place (s.cellars[c]).upd.stale 31 16
      + place (s.cellars[c]).upd.dup 15 0) := ⟨of_decide_eq_true rfl, hc, congrArg not hl, rfl⟩

theorem reaches_stpErr (s : State) (p : PartIx) : Reaches s (.stp p) 0x78 (stpErr s.parts[p]) := ⟨of_decide_eq_true rfl, trivial, rfl, rfl⟩

theorem reaches_sedCount (s : State) (p : PartIx) : Reaches s .sed (0x60 + 8 * p.val) (sedCount s.sed.counts[p]) :=
  ⟨by simp only [blockBytes]; omega, trivial, rfl, by rw [regRead, if_neg (by omega)]; exact sedRead_count s p⟩

theorem reaches_ckpErr (s : State) (p : PartIx) : Reaches s (.ckp p) 0x38 (ckpErr (s.parts[p]).ckp) := ⟨of_decide_eq_true rfl, trivial, rfl, rfl⟩

theorem reaches_fabDiscards {d : PortDieIx} (hd : d.val < portDies s) (hl : s.pkg.portLink[d] = true) : Reaches s (.fab d) 0x18 (fabDiscards s.fab.dies[d]) :=
  ⟨of_decide_eq_true rfl, hd, congrArg not hl, rfl⟩

theorem reaches_fabFec {f : PortIx} (hd : (portDieOf f).val < portDies s) (hl : s.pkg.portLink[portDieOf f] = true) :
    Reaches s (.fab (portDieOf f)) (0x80 + 8 * (f.val % 6)) (fecWord s.fab.ports[f]) :=
  ⟨by simp only [blockBytes]; omega, hd, congrArg not hl, by rw [regRead, if_neg (by omega)]; exact fabRead_fec s f⟩

theorem reaches_trcLost (s : State) : Reaches s .trc 0x18 (place s.trc.lostCounter 47 32 + place s.trc.lostEvent 31 16 + place s.trc.lostFlow 15 0) :=
  ⟨of_decide_eq_true rfl, trivial, rfl, rfl⟩

theorem reaches_pwrErr (s : State) : Reaches s .pwr 0x20 (pwrErr s.pwr) := ⟨of_decide_eq_true rfl, trivial, rfl, rfl⟩

/-- Settles O58: a read of each register answers its value and clears its RC fields (`accessReg_read`, `clearRc`), a write reaches its W1C bits alone
(`accessReg_write`, `writeReg`). -/
theorem errorRegisters : Obligations.ErrorRegisters := by
  intro s hs ht
  have hb := barred_false hs ht
  refine ⟨fun n hu hp => ⟨fun k => ⟨?_, fun v => ?_⟩, ?_, fun v => ?_⟩, fun d hu hp => ?_, fun c hc hl => ⟨?_, fun v => ?_, ?_, fun v => ?_, ?_⟩,
    fun p => ⟨?_, fun v => ?_, ?_, ?_, fun v => ?_⟩, fun d hd hl => ⟨?_, fun f hf => ?_⟩, ?_, ?_, fun v => ?_⟩
  · exact accessReg_read hb (reaches_maErr hu hp k) rfl 0
  · exact accessReg_write hb (reaches_maErr hu hp k) 0 v
  · exact accessReg_read hb (reaches_veErr hu hp) rfl 0
  · exact accessReg_write hb (reaches_veErr hu hp) 0 v
  · exact accessReg_read hb (reaches_slcTokens hu hp) rfl 0
  · exact accessReg_read hb (reaches_celErr hc hl) rfl 0
  · exact accessReg_write hb (reaches_celErr hc hl) 0 v
  · exact accessReg_read hb (reaches_updErr hc hl) rfl 0
  · exact accessReg_write hb (reaches_updErr hc hl) 0 v
  · exact accessReg_read hb (reaches_updDiscards hc hl) rfl 0
  · exact accessReg_read hb (reaches_stpErr s p) rfl 0
  · exact accessReg_write hb (reaches_stpErr s p) 0 v
  · exact (accessReg_read hb (reaches_sedCount s p) rfl 0).trans (congrArg _ (clearRc_sedCount _ p))
  · exact accessReg_read hb (reaches_ckpErr s p) rfl 0
  · exact accessReg_write hb (reaches_ckpErr s p) 0 v
  · exact accessReg_read hb (reaches_fabDiscards hd hl) rfl 0
  · subst hf
    exact (accessReg_read hb (reaches_fabFec hd hl) rfl 0).trans (congrArg _ (clearRc_fec _ f))
  · exact accessReg_read hb (reaches_trcLost s) rfl 0
  · exact accessReg_read hb (reaches_pwrErr s) rfl 0
  · exact accessReg_write hb (reaches_pwrErr s) 0 v

/-! ### Words as bytes (R4) -/

theorem length_leBytes (n v : Nat) : (leBytes n v).length = n := by
  induction n generalizing v with
  | zero => rfl
  | succ n ih => rw [leBytes, List.length_cons, ih]

theorem leNat_leBytes (n v : Nat) : leNat (leBytes n v) = v % 256 ^ n := by
  induction n generalizing v with
  | zero => rw [leBytes, leNat, Nat.pow_zero, Nat.mod_one]
  | succ n ih =>
    rw [leBytes, leNat, ih, BitVec.toNat_ofNat, Nat.pow_succ' (m := 256)]
    exact Nat.mod_mul.symm

theorem leNat_leBytes_word (w : Word) : leNat (leBytes 8 w.toNat) = w.toNat := by
  rw [leNat_leBytes]; exact Nat.mod_eq_of_lt w.isLt

theorem word_toNat (w : Word) : word w.toNat = w := BitVec.eq_of_toNat_eq (by rw [word, BitVec.toNat_ofNat, Nat.mod_eq_of_lt w.isLt])

/-! ### REGISTER_WRITE and FAILING_READ, by what the address reaches -/

theorem exec_registerWrite (m : Master) (a : Nat) (bytes : List Byte) (s : State) : exec (.registerWrite m a bytes) s = execRegisterWrite m a bytes s := rfl

theorem exec_failingRead (a n : Nat) (s : State) : exec (.failingRead a n) s = execFailingRead a n s := rfl

/-- A write that fails is dropped and recorded (R23, R30). -/
theorem registerWrite_fails (hb : barred s = false) {a k : Nat} {bytes : List Byte} (h : accessFail s a bytes.length = some k) (i : Fin 12) :
    exec (.registerWrite (.mgmt i) a bytes) s = .next (accessError s k a) := by
  simp only [exec_registerWrite, execRegisterWrite, hb, h, Bool.false_eq_true, if_false]

theorem registerWrite_mem (hb : barred s = false) {a : Nat} {bytes : List Byte} {w : Window} {off : Nat} (h : accessFail s a bytes.length = none)
    (ht : targetOf s a = .mem w off) (i : Fin 12) : exec (.registerWrite (.mgmt i) a bytes) s = .next (memWrite s w off bytes) := by
  simp only [exec_registerWrite, execRegisterWrite, hb, h, ht, Bool.false_eq_true, if_false]

theorem registerWrite_reg (hb : barred s = false) {b : Block} {off v : Nat} (h : Reaches s b off v) (i : Fin 12) (w : Word) :
    exec (.registerWrite (.mgmt i) (addrOf b + off) (leBytes 8 w.toNat)) s = .next (writeReg s b off w (.mgmt i)) := by
  simp only [exec_registerWrite, execRegisterWrite, hb, length_leBytes, accessFail_reaches h, targetOf_addrOf s b h.inBlock, leNat_leBytes_word, word_toNat, Bool.false_eq_true, if_false]

/-- A host write below BAR2 is an access to the PKG window (R379). -/
theorem registerWrite_host (hb : barred s = false) {a : Nat} (ha : a < bar2) (w : Word) :
    exec (.registerWrite .host a (leBytes 8 w.toNat)) s = .next (hostAccess s a (.write w)) := by
  simp only [exec_registerWrite, execRegisterWrite, hb, if_neg (Nat.not_le.mpr ha), length_leBytes, leNat_leBytes_word, word_toNat, Bool.false_eq_true, if_false, if_true]

/-- A read that fails answers all ones and is recorded (R23, R30). -/
theorem failingRead_fails (hb : barred s = false) {a n k : Nat} (h : accessFail s a n = some k) :
    exec (.failingRead a n) s = .next { accessError s k a with egress := s.egress ++ [onesOut n] } := by
  have hc : canSend (accessError s k a) (onesOut n) = true := by unfold onesOut; split <;> exact powered_of_barred hb
  simp only [exec_failingRead, execFailingRead, hb, h, Bool.false_eq_true, if_false, emit_sent hc]
  rfl

theorem failingRead_mem (hb : barred s = false) {a n : Nat} {w : Window} {off : Nat} (h : accessFail s a n = none) (ht : targetOf s a = .mem w off) :
    exec (.failingRead a n) s = .next (emit (memRead s w off n).1 (bytesOut (memRead s w off n).2)) := by
  simp only [exec_failingRead, execFailingRead, hb, h, ht, Bool.false_eq_true, if_false]

/-- A read of the flash window that is not of 64 bits answers its bytes (R415). -/
theorem failingRead_flash (hb : barred s = false) {o n : Nat} (hn : n ≠ 8) (ho : o < 0x10000000) (h : accessFail s (0x10000000 + o) n = none) :
    exec (.failingRead (0x10000000 + o) n) s = .next { s with egress := s.egress ++ [.bytes (tgetMany 0xFF s.boot.flash o n)] } := by
  have hc : canSend s (.bytes (tgetMany 0xFF s.boot.flash o n)) = true := powered_of_barred hb
  rw [failingRead_mem hb h (targetOf_flash s ho), ← emit_sent hc]
  simp only [memRead, flashBytes, bytesOut, length_tgetMany, if_neg hn]

/-! ### Kinds of failure (table PK-13) -/

/-- Where nothing stands, an access fails with kind 0. -/
theorem accessFail_unpopulated {a n : Nat} (hd : dieAbsent s a = false) (ht : targetOf s a = .none) : accessFail s a n = some 0 := by
  simp [accessFail, hd, ht, populated]

/-- A word that crosses a word boundary of a register fails with kind 3. -/
theorem accessFail_misaligned {a : Nat} {b : Block} {off : Nat} (hd : dieAbsent s a = false) (ht : targetOf s a = .reg b off)
    (hp : (regRead s b (off / 8 * 8)).isSome = true) (hl : linkIsDown s (.reg b off) = false) (ha : a % 8 ≠ 0) : accessFail s a 8 = some 3 := by
  simp [accessFail, hd, ht, populated, hp, hl, widthOk, ha]

/-- An aligned word of a memory without a link does not fail. -/
theorem accessFail_memWord {a : Nat} {w : Window} {off : Nat} (hd : dieAbsent s a = false) (ht : targetOf s a = .mem w off)
    (hl : linkIsDown s (.mem w off) = false) (ha : a % 8 = 0) : accessFail s a 8 = none := by
  simp [accessFail, hd, ht, populated, hl, widthOk, ha]

/-- The first eight words of the PKG window are registers. -/
theorem regRead_pkg_isSome (s : State) (j : Fin 8) : (regRead s .pkg (8 * j.val)).isSome = true := by
  fin_cases j <;> rfl

/-- A read across two registers of the PKG window fails with kind 3. -/
theorem accessFail_pkg_misaligned (s : State) {o : Nat} (ho : o < 0x40) (h8 : o % 8 = 4) : accessFail s (0x1000000 + o) 8 = some 3 := by
  have hp := regRead_pkg_isSome s ⟨o / 8, by omega⟩
  exact accessFail_misaligned (dieAbsent_low s (by omega)) (targetOf_pkg s (by omega)) (by rwa [Nat.mul_comm]) rfl (by omega)

/-! ### The host's access (R53, R379) -/

theorem pkgRead_outside (s : State) {off : Nat} (h : 0x10000 ≤ off) : pkgRead s off = none := by
  unfold pkgRead
  simp (disch := omega) only [if_neg]

theorem hostAccess_outside (s : State) {a : Nat} (h : a < 0x1000000 ∨ 0x1010000 ≤ a) (w : Word) : hostAccess s a (.write w) = s := by
  have hk : (decide (0x1000000 ≤ a ∧ a % 8 = 0) && (pkgRead s (a - 0x1000000)).isSome) = false := by
    rcases h with h | h
    · rw [decide_eq_false (by omega), Bool.false_and]
    · rw [pkgRead_outside s (by omega), Option.isSome_none, Bool.and_false]
  simp only [hostAccess, hk, Bool.false_eq_true, if_false, ite_self]

theorem hostAccess_read (hup : s.pcie.up = true) {off v : Nat} (hr : pkgRead s off = some v) (h8 : off % 8 = 0) :
    hostAccess s (0x1000000 + off) .read = clearRc (emit s (.answer (word v))) .pkg off := by
  have h : 0x1000000 ≤ 0x1000000 + off ∧ (0x1000000 + off) % 8 = 0 := by omega
  simp [hostAccess, hup, h, hr]

theorem hostAccess_write (hup : s.pcie.up = true) {off v : Nat} (hr : pkgRead s off = some v) (h8 : off % 8 = 0) (w : Word) :
    hostAccess s (0x1000000 + off) (.write w) = pkgWrite s off w .host := by
  have h : 0x1000000 ≤ 0x1000000 + off ∧ (0x1000000 + off) % 8 = 0 := by omega
  simp [hostAccess, hup, h, hr]

theorem accessReg_host (hb : barred s = false) (off : Nat) (x : Access) : accessReg s .host .pkg off x = .next (hostAccess s (0x1000000 + off) x) := by
  rw [accessReg, hb, if_neg Bool.false_ne_true]; rfl

/-- A read of the host answers the register of the PKG window and clears its RC fields. -/
theorem accessReg_host_read (hb : barred s = false) (hup : s.pcie.up = true) {off v : Nat} (hr : pkgRead s off = some v) (h8 : off % 8 = 0) :
    accessReg s .host .pkg off .read = .next (clearRc { s with egress := s.egress ++ [.answer (word v)] } .pkg off) := by
  rw [accessReg_host hb, hostAccess_read hup hr h8, emit_sent (show canSend s (.answer (word v)) = true from powered_of_barred hb)]

/-! ### Management SRAM (R20) -/

/-- A word written to management SRAM is stored there. -/
theorem registerWrite_sram (hb : barred s = false) {o : Nat} (h8 : o % 8 = 0) (ho : o < 0x400000) (i : Fin 12) (w : Word) :
    exec (.registerWrite (.mgmt i) (0x400000 + o) (leBytes 8 w.toNat)) s = .next (sramWrite s o (leBytes 8 w.toNat)) := by
  refine registerWrite_mem hb ?_ (targetOf_sram s ho) i
  rw [length_leBytes]
  exact accessFail_memWord (dieAbsent_low s (by omega)) (targetOf_sram s ho) rfl (by omega)

theorem sramRead_word (s : State) (o : Nat) (w : Word) : leNat (sramRead (sramWrite s o (leBytes 8 w.toNat)) o 8) = w.toNat := by
  have h := sramRead_sramWrite s o (leBytes 8 w.toNat)
  rw [length_leBytes] at h
  rw [h, leNat_leBytes_word]

theorem sram_outside_word (s : State) {o x : Nat} (w : Word) (h : x < o ∨ o + 8 ≤ x) :
    tget 0 (sramWrite s o (leBytes 8 w.toNat)).boot.sram x = tget 0 s.boot.sram x :=
  tget_tsetMany_out _ _ _ _ _ (by rwa [length_leBytes])

/-! ### Where the registers stand -/

theorem reaches_ccCtrl {n : CoreIx} (hu : s.pkg.ucie[dieOfCore n] = true) (hp : s.pwr.pstate ≠ 3) :
    Reaches s (.cc n) 0x0 (place (s.cores[n]).waitLimit 47 32 + place (s.cores[n]).quantum 15 0) := ⟨of_decide_eq_true rfl, trivial, dieLink_up hu hp, rfl⟩

theorem reaches_maCtrl {n : CoreIx} (hu : s.pkg.ucie[dieOfCore n] = true) (hp : s.pwr.pstate ≠ 3) (k : Fin 4) :
    Reaches s (.ma n k) 0x0 (place ((s.cores[n]).arrays[k]).regs.ramp 23 16 + place (b2n ((s.cores[n]).arrays[k]).regs.parity) 1 1) :=
  ⟨of_decide_eq_true rfl, trivial, dieLink_up hu hp, rfl⟩

theorem reaches_pkgStatus (s : State) : Reaches s .pkg 0x38 (pkgStatus s) := ⟨of_decide_eq_true rfl, trivial, rfl, rfl⟩

theorem reaches_pkgMboxStatus (s : State) : Reaches s .pkg 0x1048 (mboxStatus s) := ⟨of_decide_eq_true rfl, trivial, rfl, rfl⟩

theorem reaches_secMboxOwner (s : State) : Reaches s .sec 0x8 (secOwner s) := ⟨of_decide_eq_true rfl, trivial, rfl, rfl⟩

theorem reaches_slcCtxSel {d : DieIx} (hu : s.pkg.ucie[d] = true) (hp : s.pwr.pstate ≠ 3) : Reaches s (.slc d) 0x60 (s.sluices[d]).sel :=
  ⟨of_decide_eq_true rfl, trivial, dieLink_up hu hp, rfl⟩

theorem reaches_fabRouteSel {d : PortDieIx} (hd : d.val < portDies s) (hl : s.pkg.portLink[d] = true) : Reaches s (.fab d) 0xC0 (s.fab.dies[d]).routeSel :=
  ⟨of_decide_eq_true rfl, hd, congrArg not hl, rfl⟩

theorem reaches_dbgStopSel (s : State) : Reaches s .dbg 0x10 s.dbg.stopSel := ⟨of_decide_eq_true rfl, trivial, rfl, rfl⟩

theorem reaches_celTemp {c : CellarIx} (hc : c.val < nStacks s) (hl : s.pkg.cellarLink[c] = true) :
    Reaches s (.cel c) 0x20 (place (s.cellars[c]).peak 23 16 + place (s.cellars[c]).temp 7 0) := ⟨of_decide_eq_true rfl, hc, congrArg not hl, rfl⟩

theorem reaches_pwrPower (s : State) : Reaches s .pwr 0x10 (pwrPower s) := ⟨of_decide_eq_true rfl, trivial, rfl, rfl⟩

theorem reaches_dbgDumpCfg (s : State) (i : Fin 4) : ∃ v, Reaches s .dbg (0x100 + 0x20 * i.val) v := by
  have hr : dbgRead s (0x100 + 0x20 * i.val) = dumpRead s.dbg.dumps[i] 0 := by
    unfold dbgRead
    iterate 6 rw [if_neg (by omega)]
    rw [if_pos (by omega), toFin_of_eq (j := i) (by omega), show (0x100 + 0x20 * i.val) % 0x20 = 0 by omega]
  exact ⟨_, by simp only [blockBytes]; omega, trivial, rfl, by rw [regRead, if_neg (by omega)]; exact hr⟩

/-! ### What the writes do -/

theorem dbgWrite_dumpCfg (s : State) (i : Fin 4) (v : Word) : dbgWrite s (0x100 + 0x20 * i.val) v = dumpWrite s i 0 v := by
  unfold dbgWrite
  iterate 3 rw [if_neg (by omega)]
  rw [if_pos (by omega), toFin_of_eq (j := i) (by omega), show (0x100 + 0x20 * i.val) % 0x20 = 0 by omega]

/-- CC_CTRL of a core whose partition is active: both fields are held (R11). -/
theorem ccWrite_ctrl_running {n : CoreIx} (h : coreRuns s n = true) (w : Word) :
    ccWrite s n 0x0 w = modCore s n (fun c => { c with
      waitHeld := if wfield w 47 32 = c.waitLimit then none else some (wfield w 47 32)
      quantumHeld := if wfield w 15 0 = c.quantum then none else some (wfield w 15 0) }) := by
  simp only [ccWrite, bField, h, if_true]

/-- CC_CTRL of an idle core: both fields take effect at once (R11). -/
theorem ccWrite_ctrl_idle {n : CoreIx} (h : coreRuns s n = false) (w : Word) :
    ccWrite s n 0x0 w = modCore s n (fun c => { c with waitLimit := wfield w 47 32, waitHeld := none, quantum := wfield w 15 0, quantumHeld := none }) := by
  simp only [ccWrite, bField, h, Bool.false_eq_true, if_false, if_true]

/-- MA_CTRL of a running core: a changed PARITY is dropped and recorded (R11). -/
theorem maWrite_ctrl_running {n : CoreIx} {k : Fin 4} (h : coreRuns s n = true) {w : Word} (hw : wbit w 1 ≠ ((s.cores[n]).arrays[k]).regs.parity) (m : Master) :
    let r := (((writeReg s (.ma n k) 0x0 w m).cores[n]).arrays[k]).regs
    r.parity = ((s.cores[n]).arrays[k]).regs.parity ∧ r.refused = true := by
  simp only [writeReg, maWrite, modCore_self, modArr, getElem_set_self', h, sField, if_true, decide_eq_true hw, Bool.or_true, and_self]

/-- DBG_STOP_SEL on an entry of the stop table (R471). -/
theorem dbgWrite_stopSel_some {v : Word} {e : Nat × Stop} (h : s.dbg.stops[v.toNat % 256]? = some e) :
    dbgWrite s 0x10 v = { s with dbg := { s.dbg with stopSel := v.toNat, stopCount := e.2.count, stopTime := e.2.time } } := by
  have hv : s.dbg.stops[wfield v 7 0]? = some e := h
  simp only [dbgWrite, hv]; rfl

/-- DBG_STOP_SEL beyond the stop table (R471). -/
theorem dbgWrite_stopSel_none {v : Word} (h : s.dbg.stops[v.toNat % 256]? = none) :
    dbgWrite s 0x10 v = { s with dbg := { s.dbg with stopSel := v.toNat, stopCount := 0, stopTime := 0 } } := by
  have hv : s.dbg.stops[wfield v 7 0]? = none := h
  simp only [dbgWrite, hv]; rfl

/-! ### Ownership of the mailbox (R438) -/

theorem secMboxOwner_mgmt (hb : barred s = false) (i : Fin 12) (v : Word) :
    exec (.secMboxOwner (.mgmt i) v) s = .next (writeOwner s (v.toNat % 4) (.mgmt i)) := accessReg_write hb (reaches_secMboxOwner s) i v

theorem secMboxOwner_host (hb : barred s = false) (hup : s.pcie.up = true) (v : Word) :
    exec (.secMboxOwner .host v) s = .next (writeOwner s (v.toNat % 4) .host) :=
  (accessReg_host hb 0x1090 (.write v)).trans (congrArg _ (hostAccess_write hup rfl rfl v))

theorem writeOwner_mgmt_takes (h : s.mbox.owner = 0) (i : Fin 12) : writeOwner s 1 (.mgmt i) = modMbox s (fun m => { m with owner := 1 }) := by
  simp [writeOwner, h]

/-- MGMT takes the mailbox from the host once BUSY is clear. -/
theorem writeOwner_mgmt_preempts (h : s.mbox.owner = 2) (i : Fin 12) :
    writeOwner s 1 (.mgmt i) = modMbox s (fun m => if m.busy then { m with owner := 2, preempt := true } else { m with owner := 1, preempt := false }) := by
  cases hb : s.mbox.busy <;> simp [writeOwner, settleOwner, modMbox, h, hb]

theorem writeOwner_mgmt_gives (h : s.mbox.owner = 1) (i : Fin 12) : writeOwner s 0 (.mgmt i) = modMbox s (fun m => { m with owner := 0 }) := by
  simp [writeOwner, h]

/-- MGMT cannot give the mailbox to the host. -/
theorem writeOwner_mgmt_host (s : State) (i : Fin 12) : writeOwner s 2 (.mgmt i) = s := by simp [writeOwner]

/-- MGMT cannot free the mailbox of the host. -/
theorem writeOwner_mgmt_frees (h : s.mbox.owner = 2) (i : Fin 12) : writeOwner s 0 (.mgmt i) = s := by simp [writeOwner, h]

theorem writeOwner_host_takes (h : s.mbox.owner = 0) : writeOwner s 2 .host = modMbox s (fun m => { m with owner := 2 }) := by simp [writeOwner, h]

theorem writeOwner_host_gives (h : s.mbox.owner = 2) (hp : s.mbox.preempt = false) : writeOwner s 0 .host = modMbox s (fun m => { m with owner := 0 }) := by
  simp [writeOwner, h, hp]

/-- What the host gives up while MGMT waits for it goes to MGMT. -/
theorem writeOwner_host_yields (h : s.mbox.owner = 2) (hp : s.mbox.preempt = true) (hb : s.mbox.busy = false) :
    writeOwner s 0 .host = modMbox s (fun m => { m with owner := 1, preempt := false }) := by
  simp [writeOwner, settleOwner, modMbox, h, hp, hb]

/-- The host cannot give the mailbox to MGMT. -/
theorem writeOwner_host_mgmt (s : State) : writeOwner s 1 .host = s := by simp [writeOwner]

/-! ### Dump triggers (R465) -/

theorem modDump_modDump (s : State) (i : Fin 4) (f g : Dump → Dump) : modDump (modDump s i f) i g = modDump s i (fun d => g (f d)) := by
  simp [modDump]

theorem modDump_eq_self (s : State) (i : Fin 4) : modDump s i (fun _ => s.dbg.dumps[i]) = s := by
  simp [modDump]

@[simp] theorem modDump_self (s : State) (i : Fin 4) (f : Dump → Dump) : (modDump s i f).dbg.dumps[i] = f s.dbg.dumps[i] := getElem_set_self' ..

theorem setEnable_same {i : Fin 4} {en : Bool} (h : en = (s.dbg.dumps[i]).enable) : setEnable s i en = s := if_pos h

theorem setEnable_arms {i : Fin 4} (h : (s.dbg.dumps[i]).enable = false) :
    setEnable s i true = modDump s i (fun d => { d with enable := true, state := 1, seen := [], lost := 0 }) := by
  simp only [setEnable, h, Bool.true_eq_false, if_false, if_true]

theorem setEnable_disarms {i : Fin 4} (h : (s.dbg.dumps[i]).enable = true) (h1 : (s.dbg.dumps[i]).state = 1) :
    setEnable s i false = modDump s i (fun d => { d with enable := false, state := 0, seen := [] }) := by
  simp only [setEnable, h, h1, Bool.false_eq_true, if_false, if_true, OfNat.one_ne_ofNat, modDump_modDump]

/-- The register of a trigger that is neither armed nor capturing takes the fields written. -/
theorem dumpWrite_free {i : Fin 4} (h1 : (s.dbg.dumps[i]).state ≠ 1) (h2 : (s.dbg.dumps[i]).state ≠ 2) (v : Word) :
    dumpWrite s i 0x0 v = setEnable (modDump s i (fun _ => dumpFields s.dbg.dumps[i] 0 v)) i (wbit v 0) := by
  have hr : ((s.dbg.dumps[i]).state == 1 || (s.dbg.dumps[i]).state == 2) = false := by rw [beq_false_of_ne h1, beq_false_of_ne h2]; rfl
  simp only [dumpWrite, sField, hr, Bool.false_eq_true, if_false, if_true]

/-- The fields of an armed trigger stay: a write that would change one is dropped and recorded. -/
theorem dumpWrite_armed {i : Fin 4} (h1 : (s.dbg.dumps[i]).state = 1) (v : Word) :
    dumpWrite s i 0x0 v
      = setEnable (if dumpFields s.dbg.dumps[i] 0 v ≠ s.dbg.dumps[i] then { s with dbg := { s.dbg with refused := true } } else s) i (wbit v 0) := by
  simp only [dumpWrite, sField, h1, beq_self_eq_true, Bool.true_or, if_true, modDump_eq_self, decide_eq_true_eq]

/-- A trigger that is neither armed nor capturing takes the fields written, and ENABLE arms it. -/
theorem dumpWrite_arms {i : Fin 4} {v : Word} (h1 : (s.dbg.dumps[i]).state ≠ 1) (h2 : (s.dbg.dumps[i]).state ≠ 2) (he : (s.dbg.dumps[i]).enable = false)
    (hv : v.getLsbD 0 = true) :
    dumpWrite s i 0x0 v = modDump s i (fun _ => { dumpFields s.dbg.dumps[i] 0 v with enable := true, state := 1, seen := [], lost := 0 }) := by
  have he' : ((modDump s i (fun _ => dumpFields s.dbg.dumps[i] 0 v)).dbg.dumps[i]).enable = false := by rw [modDump_self]; exact he
  rw [dumpWrite_free h1 h2, wbit, hv, setEnable_arms he', modDump_modDump]

/-- A write that would change a field of an armed trigger leaves the trigger and is recorded. -/
theorem dumpWrite_refused {i : Fin 4} {v : Word} (h1 : (s.dbg.dumps[i]).state = 1) (he : (s.dbg.dumps[i]).enable = true)
    (hv : v.getLsbD 0 = true) (hf : dumpFields s.dbg.dumps[i] 0 v ≠ s.dbg.dumps[i]) : dumpWrite s i 0x0 v = { s with dbg := { s.dbg with refused := true } } := by
  rw [dumpWrite_armed h1, if_pos hf, wbit, hv]
  exact setEnable_same he.symm

/-- ENABLE written 0 disarms an armed trigger. -/
theorem dumpWrite_disarms {i : Fin 4} {v : Word} (h1 : (s.dbg.dumps[i]).state = 1) (he : (s.dbg.dumps[i]).enable = true)
    (hv : v.getLsbD 0 = false) (hf : dumpFields s.dbg.dumps[i] 0 v = s.dbg.dumps[i]) :
    dumpWrite s i 0x0 v = modDump s i (fun d => { d with enable := false, state := 0, seen := [] }) := by
  rw [dumpWrite_armed h1, if_neg (not_not.mpr hf), wbit, hv, setEnable_disarms he h1]

theorem dbgDumpCfg_write (hb : barred s = false) (i : Fin 4) (v : Word) : exec (.dbgDumpCfg i v) s = .next (dumpWrite s i 0x0 v) := by
  obtain ⟨_, h⟩ := reaches_dbgDumpCfg s i
  exact (accessReg_write hb h 0 v).trans (congrArg _ (dbgWrite_dumpCfg s i v))

/-- Settles O57: each access is first resolved by the address it is made at (`registerWrite_…`, `failingRead_…`, `accessReg_read`, `accessReg_write`,
`accessReg_host`); what then remains is the rule of the one register, stated above. -/
theorem registerAccesses : Obligations.RegisterAccesses := by
  intro s hs ht
  have hb := barred_false hs ht
  refine ⟨fun i a bytes k h => ⟨registerWrite_fails hb h i, ?_⟩, fun o n hn ho h => ?_, fun i o bytes ho h => ?_, fun a h h' => ?_, fun a h8 h h' => ?_,
    fun i o w h8 ho => ?_, fun a w ha h => ?_, fun n w hu hp => ?_, fun n k w hu hp hrun hne => ?_, fun i => ⟨?_, ?_, fun v => ?_⟩, fun hup => ⟨?_, ?_⟩,
    fun i v => ?_, fun d v hu hp => ?_, fun d v hd hl => ?_, fun v => ⟨fun e he => ?_, fun he => ?_⟩, fun c v hc hl => ?_, fun v => ?_, fun i v => ?_⟩
  · exact failingRead_fails hb h
  · exact failingRead_flash hb hn ho h
  · exact registerWrite_mem hb h (targetOf_flash s ho) i
  · exact accessFail_unpopulated (dieAbsent_low s (by omega)) (targetOf_gap s h h')
  · obtain ⟨o, rfl⟩ := Nat.exists_eq_add_of_le h
    exact accessFail_pkg_misaligned s (by omega) (by omega)
  · exact ⟨_, registerWrite_sram hb h8 ho i w, rfl, sramRead_word s o w, fun x hx => sram_outside_word s w hx⟩
  · rw [registerWrite_host hb ha, hostAccess_outside s h]
  · have hx := registerWrite_reg hb (reaches_ccCtrl hu hp) 0 w
    change _ = Host.Outcome.next (ccWrite s n 0x0 w) at hx
    cases hrun : coreRuns s n with
    | true =>
      rw [ccWrite_ctrl_running hrun] at hx
      exact ⟨_, hx, rfl, fun j hj => modCore_ne s n _ j hj, modCore_self s n _⟩
    | false =>
      rw [ccWrite_ctrl_idle hrun] at hx
      exact ⟨_, hx, rfl, fun j hj => modCore_ne s n _ j hj, modCore_self s n _⟩
  · exact ⟨_, registerWrite_reg hb (reaches_maCtrl hu hp k) 0 w, rfl, maWrite_ctrl_running hrun hne _⟩
  · exact accessReg_read hb (reaches_pkgStatus s) rfl i
  · exact accessReg_read hb (reaches_pkgMboxStatus s) rfl i
  · exact accessReg_write hb (reaches_pkgStatus s) i v
  · exact accessReg_host_read hb hup (v := pkgStatus s) rfl rfl
  · exact accessReg_host_read hb hup (v := mboxStatus s) rfl rfl
  · rw [secMboxOwner_mgmt hb]
    refine ⟨fun hv ho => ?_, fun hv ho => ?_, fun hv ho => ?_, fun hv => ?_, fun hv ho => ?_, fun hup => ?_⟩
    · rw [hv, writeOwner_mgmt_takes ho]; rfl
    · rw [hv, writeOwner_mgmt_preempts ho, modMbox]; split <;> rfl
    · rw [hv, writeOwner_mgmt_gives ho]; rfl
    · rw [hv, writeOwner_mgmt_host]
    · rw [hv, writeOwner_mgmt_frees ho]
    · rw [secMboxOwner_host hb hup]
      refine ⟨fun hv ho => ?_, fun hv ho hp => ?_, fun hv ho hp hbusy => ?_, fun hv => ?_⟩
      · rw [hv, writeOwner_host_takes ho]; rfl
      · rw [hv, writeOwner_host_gives ho hp, ← hp]; rfl
      · rw [hv, writeOwner_host_yields ho hp hbusy]; rfl
      · rw [hv, writeOwner_host_mgmt]
  · exact accessReg_write hb (reaches_slcCtxSel hu hp) 0 v
  · exact accessReg_write hb (reaches_fabRouteSel hd hl) 0 v
  · exact (accessReg_write hb (reaches_dbgStopSel s) 0 v).trans (congrArg _ (dbgWrite_stopSel_some he))
  · exact (accessReg_write hb (reaches_dbgStopSel s) 0 v).trans (congrArg _ (dbgWrite_stopSel_none he))
  · exact ⟨_, accessReg_write hb (reaches_celTemp hc hl) 0 v, rfl, modCellar_self s c _, fun j hj => modCellar_ne s c _ j hj⟩
  · exact accessReg_write hb (reaches_pwrPower s) 0 v
  · refine ⟨fun h1 h2 he hv => ?_, fun h1 he hv hf => ?_, fun h1 he hv hf => ?_⟩
    · exact (dbgDumpCfg_write hb i v).trans (congrArg _ (dumpWrite_arms h1 h2 he hv))
    · exact (dbgDumpCfg_write hb i v).trans (congrArg _ (dumpWrite_refused h1 he hv hf))
    · exact (dbgDumpCfg_write hb i v).trans (congrArg _ (dumpWrite_disarms h1 he hv hf))

end Sys2Proof.Machine
end

section
/-! What a report, a trace packet, an exception and a failed request leave of the state, what a reset keeps, and the obligation on resets, pins, power
and links (O38). -/

namespace Sys2Proof.Machine

/-! ### Parts of the state that stay -/

/-- What outlives a reset or decides what it leaves, with the boot stage. -/
structure Lasting where
  fuses : Fuses
  pending : List Instr
  pwr : Pwr
  burnt : SecFuse
  flash : Tbl Byte
  wdFlag : Bool
  stage : Nat

/-- What lasts of a state. -/
def lasting (s : State) : Lasting := ⟨s.fuses, s.pending, s.pwr, s.boot.fuses, s.boot.flash, s.boot.wdFlag, s.boot.stage⟩

/-- What reports, trace packets, exceptions and the failure of a request leave alone: what lasts, the links to the cellar dies, the cellar dies, HBM3 and
the PCIe endpoint. -/
structure Still where
  lasting : Lasting
  cellarLink : Vector Bool 12
  cellars : Vector Cellar 12
  hbm : Tbl Byte
  pcie : Pcie

/-- What stays of a state. -/
def still (s : State) : Still := ⟨lasting s, s.pkg.cellarLink, s.cellars, s.hbm, s.pcie⟩

variable {s t : State}

theorem lasting_of_still (h : still t = still s) : lasting t = lasting s := congrArg Still.lasting h

/-- What each change of a list keeps, all of them together keep. -/
theorem each_keeps {α β : Type} (view : State → β) {f : State → α → State} (hf : ∀ s a, view (f s a) = view s) (l : List α) (s : State) :
    view (each l s f) = view s := by
  induction l generalizing s with
  | nil => rfl
  | cons a l ih => exact (ih (f s a)).trans (hf s a)

/-- What both branches keep, a choice keeps. -/
theorem ite_keeps {β : Type} (view : State → β) {c : Prop} [Decidable c] {a b : State} {x : β} (ha : view a = x) (hb : view b = x) :
    view (if c then a else b) = x := by
  split
  · exact ha
  · exact hb

/-- What a change keeps, it keeps also where it may be left out. -/
theorem optional_keeps {β : Type} (view : State → β) {c : Prop} [Decidable c] {a b : State} {x : β} (hb : view b = view a) (ha : view a = x) :
    view (if c then b else a) = x := ite_keeps view (hb.trans ha) ha

/-! ### Reports -/

theorem still_emit (s : State) (o : Out) : still (emit s o) = still s := by rw [emit_frame]; rfl

theorem still_exhaustSeq (s : State) : still (exhaustSeq s) = still s := still_emit _ _

theorem still_reserveSeq (s : State) : still (reserveSeq s) = still s :=
  ite_keeps still rfl (ite_keeps still rfl (ite_keeps still (still_exhaustSeq s) rfl))

theorem still_sendReport (s : State) (code part : Nat) (epoch : W32) (step : Word) (detail : List Nat) :
    still (sendReport s code part epoch step detail) = still s :=
  ite_keeps still ((still_emit _ _).trans (still_reserveSeq s)) ((still_emit _ _).trans (still_reserveSeq s))

theorem still_partReport (s : State) (p : PartIx) (code : Nat) (detail : List Nat) : still (partReport s p code detail) = still s := still_sendReport ..

theorem still_devReport (s : State) (code : Nat) (detail : List Nat) : still (devReport s code detail) = still s := still_sendReport ..

theorem reported_emit {code part : Nat} {detail : List Nat} (h : reported s code part detail) (o : Out) : reported (emit s o) code part detail := by
  rw [emit_frame]; exact h

/-- The report just sent is the newest in the queue, whether or not older ones had to go (R387). -/
theorem reported_sendReport (s : State) (code part : Nat) (epoch : W32) (step : Word) (detail : List Nat) :
    reported (sendReport s code part epoch step detail) code part detail := by
  unfold sendReport
  dsimp only
  split
  · refine reported_emit ?_ _
    exact ⟨_, List.getLast?_concat, rfl, rfl, rfl⟩
  · refine reported_emit ?_ _
    exact ⟨_, List.getLast?_concat, rfl, rfl, rfl⟩

theorem reported_devReport (s : State) (code : Nat) (detail : List Nat) : reported (devReport s code detail) code 0xF detail := reported_sendReport ..

theorem emit_cores (s : State) (o : Out) : (emit s o).cores = s.cores := by rw [emit_frame]

theorem exhaustSeq_cores (s : State) : (exhaustSeq s).cores = s.cores := emit_cores _ _

theorem reserveSeq_cores (s : State) : (reserveSeq s).cores = s.cores :=
  ite_keeps State.cores rfl (ite_keeps State.cores rfl (ite_keeps State.cores (exhaustSeq_cores s) rfl))

theorem sendReport_cores (s : State) (code part : Nat) (epoch : W32) (step : Word) (detail : List Nat) :
    (sendReport s code part epoch step detail).cores = s.cores :=
  ite_keeps State.cores ((emit_cores _ _).trans (reserveSeq_cores s)) ((emit_cores _ _).trans (reserveSeq_cores s))

theorem devReport_cores (s : State) (code : Nat) (detail : List Nat) : (devReport s code detail).cores = s.cores := sendReport_cores ..

/-! ### Trace packets -/

theorem still_rawPacket (s : State) (type source aux : Nat) (words : List Nat) : still (rawPacket s type source aux words) = still s := still_emit _ _

theorem still_leadPackets (s : State) : still (leadPackets s) = still s := by
  have first : still (if s.trc.first then { rawPacket s 0x01 0x7E 1 [s.rtime] with trc := { s.trc with first := false } } else s) = still s :=
    ite_keeps still (still_rawPacket ..) rfl
  exact ite_keeps still first ((still_rawPacket ..).trans first)

theorem still_packetNow (s : State) (type source aux : Nat) (words : List Nat) : still (packetNow s type source aux words) = still s :=
  ite_keeps still ((still_rawPacket ..).trans (still_leadPackets s)) rfl

theorem still_packet (s : State) (type source aux : Nat) (words : List Nat) : still (packet s type source aux words) = still s :=
  ite_keeps still (still_packetNow ..) rfl

theorem still_lossyPacket (s : State) (k : Lossy) (type source aux : Nat) (words : List Nat) : still (lossyPacket s k type source aux words) = still s :=
  ite_keeps still rfl (ite_keeps still rfl (still_packet ..))

theorem still_traceEvent (s : State) (code detail : Nat) : still (traceEvent s code detail) = still s := ite_keeps still (still_lossyPacket ..) rfl

theorem still_flowFlush (s : State) (n : CoreIx) : still (flowFlush s n) = still s := by
  unfold flowFlush
  split
  · rfl
  · exact ite_keeps still rfl (still_lossyPacket ..)

theorem still_flowPc (s : State) (n : CoreIx) (i : CtxIx) (reason : Nat) (pc : BitVec 40) : still (flowPc s n i reason pc) = still s :=
  ite_keeps still rfl ((still_lossyPacket ..).trans (still_flowFlush s n))

/-! ### Frames -/

theorem still_sendVlcredit (s : State) (f : PortIx) (key len : Nat) : still (sendVlcredit s f key len) = still s := ite_keeps still (still_emit _ _) rfl

theorem still_freeIngress (s : State) (e : Egress) : still (freeIngress s e) = still s := by
  unfold freeIngress
  split
  · rfl
  · exact still_sendVlcredit ..

theorem still_launch (s : State) (f : PortIx) (fr : Frame) : still (launch s f fr) = still s := by
  unfold launch
  refine (still_emit _ _).trans (optional_keeps still (still_emit _ _) (ite_keeps still ?_ rfl))
  split <;> rfl

theorem still_pumpN (s : State) (f : PortIx) (fuel : Nat) : still (pumpN s f fuel) = still s := by
  induction fuel generalizing s with
  | zero => rfl
  | succ fuel ih =>
    unfold pumpN
    refine ite_keeps still rfl ?_
    split
    · rfl
    · exact (ih _).trans ((still_freeIngress ..).trans (still_launch ..))

theorem still_enqueue (s : State) (f : PortIx) (fr : Frame) (origin : Option (PortIx × Nat)) : still (enqueue s f fr origin) = still s := still_pumpN ..

theorem still_sendFrame (s : State) (spart dpart dest vl : Nat) (b : FBody) : still (sendFrame s spart dpart dest vl b) = still s := by
  unfold sendFrame
  refine ite_keeps still rfl ?_
  split
  · exact still_enqueue ..
  · rfl

theorem still_sendStep (s : State) (p : PartIx) (rank : Nat) (m : StepMsg) : still (sendStep s p rank m) = still s := still_sendFrame ..

/-! ### Exceptions -/

theorem still_modCtx (s : State) (n : CoreIx) (i : CtxIx) (f : Ctx → Ctx) : still (modCtx s n i f) = still s := rfl

theorem still_modPart (s : State) (p : PartIx) (f : Part → Part) : still (modPart s p f) = still s := rfl

theorem still_stopOne (s : State) (p : PartIx) (n : CoreIx) : still (stopOne s p n) = still s := by
  unfold stopOne
  split
  · exact still_flowPc ..
  · rfl

theorem still_stopPart (s : State) (p : PartIx) : still (stopPart s p) = still s := each_keeps still (fun s n => still_stopOne s p n) ..

theorem still_beginStop (s : State) (p : PartIx) : still (beginStop s p) = still s := each_keeps still (fun _ _ => by rfl) ..

theorem still_failStep (s : State) (p : PartIx) (classH : Bool) (cause : Nat) : still (failStep s p classH cause) = still s :=
  ite_keeps still ((still_partReport ..).trans (still_sendStep ..)) rfl

theorem still_haltWave (s : State) (cause : Nat) : still (haltWave s cause) = still s := ite_keeps still rfl (still_traceEvent ..)

theorem still_raise (s : State) (n : CoreIx) (i : CtxIx) (e : Exc) (pc : BitVec 40) (info : Word) : still (raise s n i e pc info) = still s := by
  unfold raise
  refine ite_keeps still rfl ?_
  split
  · rfl
  · refine optional_keeps still (still_haltWave ..) (optional_keeps still ((still_modPart ..).trans (still_stopPart ..)) ?_)
    exact (still_failStep ..).trans ((still_partReport ..).trans ((still_beginStop ..).trans ((still_modPart ..).trans
      ((still_traceEvent ..).trans ((still_flowPc ..).trans (still_modCtx ..))))))

theorem still_engineFault (s : State) (n : CoreIx) (i : CtxIx) (pc : BitVec 40) (engine : Nat) (f : EngFault) :
    still (engineFault s n i pc engine f) = still s := still_raise ..

/-! ### Streams and requests that fail -/

theorem still_streamFault (s : State) (d : DieIx) (phys : Nat) (f : EngFault) : still (streamFault s d phys f) = still s := by
  unfold streamFault
  split
  · rfl
  · exact (still_engineFault ..).trans (ite_keeps still rfl rfl)

theorem still_failHostStreams (s : State) : still (failHostStreams s) = still s :=
  each_keeps still (fun _ d => each_keeps still (fun s phys => still_streamFault s d phys _) ..) ..

theorem still_writeChunk (s : State) (d : DieIx) (phys : Nat) (x : SCtx) (c : Nat) (bs : List Byte) : still (writeChunk s d phys x c bs) = still s :=
  ite_keeps still rfl rfl

theorem still_finishReq (s : State) (r : Req) : still (finishReq s r) = still s := by
  unfold finishReq
  split
  · exact ite_keeps still rfl rfl
  · dsimp only
    split
    · rfl
    · exact ite_keeps still rfl (ite_keeps still (ite_keeps still rfl rfl) (still_writeChunk ..))

theorem still_failDown (s : State) (c : CellarIx) (r : Req) : still (failDown s c r) = still s := by
  have failed : ∀ u, still u = still s → still (match u.reqs.find? (fun x => x.id == r.id) with
      | some r => if reqDone u r then finishReq u r else u
      | none => u) = still s := by
    intro u hu
    split
    · exact optional_keeps still (still_finishReq ..) hu
    · exact hu
  unfold failDown
  refine failed _ ?_
  split
  · exact still_streamFault ..
  · exact ite_keeps still rfl rfl

/-- The failure of what a cellar die has taken leaves no piece of a request there. -/
theorem still_failTaken (s : State) (c : CellarIx) : still (failTaken s c) = still (modCellar s c (fun x => { x with pieces := [] })) :=
  each_keeps still (fun s id => by
    split
    · rfl
    · exact still_failDown ..) ..

/-! ### Reset (R417, R428, R444) -/

theorem lasting_freeRetained (s : State) (p : PartIx) : lasting (freeRetained s p) = lasting s := each_keeps lasting (fun s e => by split <;> rfl) ..

theorem lasting_abandon (s : State) (p : PartIx) (cause : Nat) : lasting (abandon s p cause) = lasting s := by
  unfold abandon
  split
  · rfl
  · exact (lasting_of_still (still_partReport ..)).trans (ite_keeps lasting (lasting_freeRetained s p) rfl)

/-- The debug level of a device that has been reset (R444). -/
def resetLevel (s : State) : Nat := if isFactory s then 4 else 0

theorem resetLevel_congr (h : lasting t = lasting s) : resetLevel t = resetLevel s :=
  congrArg (fun l : Lasting => if l.burnt.lc == .factory then 4 else 0) h

/-- The reset state with what lasts of a state `u`, a debug level, the last stage reached and the debug level that a report is owed for. -/
def resetFrom (u : State) (level last : Nat) (owed : Option Nat) : State :=
  { State.reset with
    fuses := u.fuses, keyEpochs := u.keyEpochs, freeIx := u.freeIx, egress := u.egress, pending := u.pending
    boot := { Boot.reset with flash := u.boot.flash, fuses := u.boot.fuses, wdFlag := u.boot.wdFlag, lastStage := last }
    dbg := { Dbg.reset with level := level, levelOwed := owed }
    pwr := { Pwr.reset with powered := u.pwr.powered, pwrGood := u.pwr.pwrGood, tripped := u.pwr.tripped, testHold := u.pwr.testHold } }

/-- A reset sets the state back after it has abandoned checkpoints and traced a change of the debug level; neither touches what lasts. -/
theorem deviceReset_eq (s : State) : ∃ u last owed, lasting u = lasting s ∧ deviceReset s = resetFrom u (resetLevel s) last owed := by
  have h := each_keeps lasting (fun s p => lasting_abandon s p 4) (ixs 8) s
  unfold deviceReset
  generalize each (ixs 8) s (fun s p => abandon s p 4) = u at h ⊢
  have traced : lasting (if u.dbg.level = resetLevel u then u else traceEvent u 0x0F (resetLevel u)) = lasting s :=
    ite_keeps lasting h ((lasting_of_still (still_traceEvent ..)).trans h)
  rw [← resetLevel_congr h]
  exact ⟨_, _, _, traced, rfl⟩

/-- The power state and the latches of the always-on domain outlive a reset. -/
theorem deviceReset_pwr (s : State) : (deviceReset s).pwr =
    { Pwr.reset with powered := s.pwr.powered, pwrGood := s.pwr.pwrGood, tripped := s.pwr.tripped, testHold := s.pwr.testHold } := by
  obtain ⟨u, last, owed, h, hr⟩ := deviceReset_eq s
  have hp : u.pwr = s.pwr := congrArg Lasting.pwr h
  rw [hr, ← hp]; rfl

theorem deviceReset_wdFlag (s : State) : (deviceReset s).boot.wdFlag = s.boot.wdFlag := by
  obtain ⟨u, last, owed, h, hr⟩ := deviceReset_eq s
  rw [hr]; exact congrArg Lasting.wdFlag h

/-- A reset leaves a state as after a reset. -/
theorem afterReset_deviceReset (s : State) : AfterReset s (deviceReset s) := by
  obtain ⟨u, last, owed, h, hr⟩ := deviceReset_eq s
  rw [hr]
  exact {
    fuses := ⟨congrArg Lasting.fuses h, congrArg Lasting.burnt h⟩
    flash := congrArg Lasting.flash h
    stage := rfl
    level := by show resetLevel s = _; simp only [resetLevel, isFactory, beq_iff_eq]
    cores := ⟨rfl, rfl, rfl⟩
    memory := ⟨rfl, rfl, rfl⟩
    parts := ⟨rfl, rfl, rfl, rfl⟩
    queue := congrArg Lasting.pending h }

/-- What a reset leaves depends on the fuses, the flash and the commands to come alone. -/
theorem AfterReset.of_same {u : State} (h : AfterReset u t) (hf : u.fuses = s.fuses) (hb : u.boot = s.boot) (hp : u.pending = s.pending) :
    AfterReset s t where
  fuses := by rw [← hf, ← hb]; exact h.fuses
  flash := by rw [← hb]; exact h.flash
  stage := h.stage
  level := by rw [← hb]; exact h.level
  cores := h.cores
  memory := h.memory
  parts := h.parts
  queue := by rw [← hp]; exact h.queue

/-- The power state and the latches of the always-on domain are no part of what a reset leaves. -/
theorem AfterReset.setPwr (h : AfterReset s t) (pwr : Pwr) : AfterReset s { t with pwr := pwr } :=
  ⟨h.fuses, h.flash, h.stage, h.level, h.cores, h.memory, h.parts, h.queue⟩

/-- The watchdog's flag and the report that a change of the debug level is owed are no part of what a reset leaves. -/
theorem AfterReset.setMarks (h : AfterReset s t) (wdFlag : Bool) (owed : Option Nat) :
    AfterReset s { t with dbg := { t.dbg with levelOwed := owed }, boot := { t.boot with wdFlag := wdFlag } } :=
  ⟨h.fuses, h.flash, h.stage, h.level, h.cores, h.memory, h.parts, h.queue⟩

/-! ### Power and reset pins (R494, R497 to R503) -/

theorem exec_powerUp (e : Bool) (s : State) : exec (.powerUp e) s = execPowerUp e s := rfl

theorem exec_powerRemoval (s : State) : exec .powerRemoval s = execPowerRemoval s := rfl

theorem exec_resetN (e : Bool) (s : State) : exec (.resetN e) s = execResetN e s := rfl

theorem exec_pwrGoodFall (high : Bool) (s : State) : exec (.pwrGoodFall high) s = execPwrGoodFall high s := rfl

theorem exec_pwrGoodRise (s : State) : exec .pwrGoodRise s = execPwrGoodRise s := rfl

theorem exec_coreUndervoltage (s : State) : exec .coreUndervoltage s = execCoreUndervoltage s := rfl

theorem powerUp_off (h : s.pwr.powered = false) (e : Bool) :
    exec (.powerUp e) s = .next { deviceReset s with pwr := { (deviceReset s).pwr with powered := true, pwrGood := true, testHold := e } } := by
  simp only [exec_powerUp, execPowerUp, h, Bool.false_eq_true, if_false]

theorem powerRemoval_on (h : s.pwr.powered = true) : exec .powerRemoval s = .next (losePower s) := by
  simp only [exec_powerRemoval, execPowerRemoval, h, if_true]

theorem resetN_on (h : s.pwr.powered = true) (e : Bool) :
    exec (.resetN e) s = .next { deviceReset s with pwr := { (deviceReset s).pwr with testHold := e } } := by
  simp only [exec_resetN, execResetN, h, Bool.not_true, Bool.false_eq_true, if_false]

theorem pwrGoodFall_on (h : s.pwr.powered = true) (hg : s.pwr.pwrGood = true) (high : Bool) :
    exec (.pwrGoodFall high) s = .next (modPwr s (fun p => { p with pwrGood := false, lost := p.lost || high })) := by
  simp only [exec_pwrGoodFall, execPwrGoodFall, h, hg, Bool.not_true, Bool.or_self, Bool.false_eq_true, if_false]

/-- The supply that returns ends in a reset where its loss has been taken up, and in nothing else where it has not (R503). -/
theorem pwrGoodRise_on (h : s.pwr.powered = true) (hg : s.pwr.pwrGood = false) :
    exec .pwrGoodRise s = .next (if s.pwr.lost then deviceReset (modPwr s (fun p => { p with pwrGood := true }))
      else modPwr s (fun p => { p with pwrGood := true })) := by
  simp only [exec_pwrGoodRise, execPwrGoodRise, h, hg, Bool.not_true, Bool.or_self, Bool.false_eq_true, if_false, modPwr_pwr]

theorem coreUndervoltage_on (h : s.pwr.powered = true) : exec .coreUndervoltage s = .next (modPwr s (fun p => { p with lost := true })) := by
  simp only [exec_coreUndervoltage, execCoreUndervoltage, h, if_true]

/-- The loss of power is a reset that releases the latches and the watchdog's flag with them. -/
theorem afterReset_losePower (s : State) : AfterReset s (losePower s) := by
  have h : AfterReset s (deviceReset (modPwr (if s.pwr.tripped then emit s (.pin 0 true) else s) (fun p => { p with lost := true }))) :=
    (afterReset_deviceReset _).of_same (ite_keeps State.fuses (by rw [emit_frame]) rfl) (ite_keeps State.boot (by rw [emit_frame]) rfl)
      (ite_keeps State.pending (by rw [emit_frame]) rfl)
  unfold losePower
  dsimp only
  generalize deviceReset _ = r at h ⊢
  exact (h.setMarks false none).setPwr _

/-! ### Test access port and endpoint (R379, R390, R449) -/

theorem exec_trstN (s : State) : exec .trstN s = .next { s with dbg := { s.dbg with tapIr := 1, tapScan := 0 } } := rfl

theorem exec_pciePerstN (s : State) : exec .pciePerstN s = execPciePerstN s := rfl

theorem exec_pcieLinkUp (speed : Fin 6) (width : Nat) (s : State) : exec (.pcieLinkUp speed width) s = execPcieLinkUp speed width s := rfl

/-- The endpoint after its reset: no link, no IDE stream, no read outstanding, every vector masked. -/
def endpointReset (s : State) : State :=
  { s with pcie := { s.pcie with up := false, speed := 0, width := 0, ide := false, reads := [], table := msixReset, pba := 0, d3hot := false, aer := 0 } }

theorem still_pcieReset (s : State) : still (pcieReset s) = still (endpointReset s) :=
  optional_keeps still (still_devReport ..) (still_failHostStreams (endpointReset s))

/-- A link that was up is reported down. -/
theorem reported_pcieReset (h : s.pcie.up = true) : reported (pcieReset s) 0x44 0xF [0, 0, 0] := by
  simp only [pcieReset, h, if_true]
  exact reported_devReport ..

theorem pciePerstN_awake (h : asleep s pcieDom = false) : exec .pciePerstN s = .next (pcieReset s) := by
  simp only [exec_pciePerstN, execPciePerstN, h, Bool.false_eq_true, if_false]

theorem pcieLinkUp_awake (h : asleep s pcieDom = false) (hs : s.boot.stage = 8) (speed : Fin 6) {width : Nat} (hw : width ∈ [1, 2, 4, 8, 16]) :
    exec (.pcieLinkUp speed width) s = .next (devReport { s with pcie := { s.pcie with up := true, speed := speed.val + 1, width := width } } 0x44
      [speed.val + 1, width, b2n s.pcie.ide]) := by
  simp only [exec_pcieLinkUp, execPcieLinkUp, h, hs, hw, bne_self_eq_false, decide_true, Bool.not_true, Bool.or_self, Bool.false_eq_true, if_false]

/-! ### Links of the package (R29, R383) -/

theorem exec_linkDown (l : LinkName) (s : State) : exec (.linkDown l) s = execLinkDown l s := rfl

theorem exec_ucieTrainerror (d : DieIx) (s : State) : exec (.ucieTrainerror d) s = execUcieTrainerror d s := rfl

theorem linkDown_awake (h : asleep s mgmtDom = false) (l : LinkName) : exec (.linkDown l) s = .next (linkDown s l) := by
  simp only [exec_linkDown, execLinkDown, h, Bool.false_eq_true, if_false]

/-- The link of a cellar die goes down, and no piece of a request stays on the die. -/
theorem linkDown_cellar (s : State) (c : CellarIx) :
    (linkDown s (.cellar c)).pkg.cellarLink[c] = false ∧ ((linkDown s (.cellar c)).cellars[c]).pieces = [] := by
  have h : still (linkDown s (.cellar c)) = still (modCellar _ c _) := still_failTaken ..
  have hl := congrArg Still.cellarLink h
  have hc := congrArg Still.cellars h
  simp only [still] at hl hc
  rw [hl, hc]
  exact ⟨getElem_set_self' .., by rw [modCellar_self]⟩

theorem modCellar_eq_self {c : CellarIx} {f : Cellar → Cellar} (h : f s.cellars[c] = s.cellars[c]) : modCellar s c f = s := by
  rw [modCellar, h]
  simp only [Fin.getElem_fin, Vector.set_getElem_self]

/-- Where a cellar die has taken nothing, nothing fails. -/
theorem failTaken_idle {c : CellarIx} (h : (s.cellars[c]).pieces = []) : failTaken s c = s := by
  have emptied : modCellar s c (fun x => { x with pieces := [] }) = s := modCellar_eq_self (by rw [← h])
  simp only [failTaken, h, List.map_nil, List.eraseDups_nil, each, List.foldl_nil, emptied]

/-- A cellar die that has taken nothing loses its link and nothing else. -/
theorem linkDown_cellar_idle {c : CellarIx} (h : (s.cellars[c]).pieces = []) :
    linkDown s (.cellar c) = modPkg s (fun p => { p with cellarLink := p.cellarLink.set c.val false c.isLt }) := failTaken_idle h

/-- The module retrains three times; then its link is down (R383). -/
theorem ucieTrainerror_awake (h : asleep s mgmtDom = false) (d : DieIx) :
    exec (.ucieTrainerror d) s = .next (modPkg s (fun p =>
      { p with ucieTries := p.ucieTries.set d.val (s.pkg.ucieTries[d] + 1) d.isLt
               ucie := if s.pkg.ucieTries[d] < 3 then p.ucie else p.ucie.set d.val false d.isLt })) := by
  simp only [exec_ucieTrainerror, execUcieTrainerror, h, Bool.false_eq_true, if_false]
  by_cases hn : s.pkg.ucieTries[d] < 3
  · simp only [hn, if_true]
    rw [if_neg (by omega)]
  · simp only [hn, if_false]
    rw [if_pos (by omega)]
    rfl

/-- Settles O38: each pin, supply and link event answers the state stated above; a reset keeps what lasts (`afterReset_deviceReset`), and the reset of the
endpoint keeps everything beside it (`still_pcieReset`). What PERST leaves of the MSI-X table and the pending bits is log entry 207, of D3hot and the
logged errors log entry 249, and partition 0xF of the reports log entry 31. -/
theorem resetsAndPins : Obligations.ResetsAndPins := by
  intro s
  refine ⟨fun e h => ?_, fun h => ⟨?_, fun e => ?_, fun hg high => ?_, fun hg => ⟨fun hl => ?_, fun hl => ?_⟩, ?_⟩, ?_, fun h => ?_,
    fun h => ⟨?_, fun c => ⟨?_, fun hc => ?_⟩, fun d => ?_⟩, fun speed width h hs hw => ?_⟩
  · exact ⟨_, powerUp_off h e, (afterReset_deviceReset s).setPwr _, rfl, rfl, rfl⟩
  · exact ⟨_, powerRemoval_on h, afterReset_losePower s, rfl, rfl, rfl⟩
  · refine ⟨_, resetN_on h e, (afterReset_deviceReset s).setPwr _, ?_, ?_, rfl, deviceReset_wdFlag s⟩
    · rw [deviceReset_pwr]; exact h
    · rw [deviceReset_pwr]
  · exact pwrGoodFall_on h hg high
  · rw [pwrGoodRise_on h hg, hl]
    exact ⟨_, rfl, (afterReset_deviceReset _).of_same rfl rfl rfl, by rw [if_pos rfl, deviceReset_pwr]; rfl⟩
  · rw [pwrGoodRise_on h hg, hl]; rfl
  · exact coreUndervoltage_on h
  · exact exec_trstN s
  · have hk := still_pcieReset s
    have hl := congrArg Still.lasting hk
    exact ⟨_, pciePerstN_awake h, congrArg Still.pcie hk, reported_pcieReset, congrArg Still.hbm hk, congrArg Lasting.stage hl, congrArg Lasting.pwr hl⟩
  · exact linkDown_awake h .bridge
  · exact ⟨_, linkDown_awake h (.cellar c), linkDown_cellar s c⟩
  · rw [linkDown_awake h, linkDown_cellar_idle hc]; rfl
  · refine ⟨_, ucieTrainerror_awake h d, getElem_set_self' .., ?_, rfl⟩
    rw [modPkg_pkg]
    split
    · rfl
    · exact getElem_set_self' ..
  · exact ⟨_, pcieLinkUp_awake h hs speed hw, congrArg Still.pcie (still_devReport ..), reported_devReport .., devReport_cores ..⟩

end Sys2Proof.Machine
end

section
/-! The command mailbox is changed by few commands: every other operation of the device leaves it alone. One lemma per operation, in the order of the
model's files; each follows the operation's own choices. -/

namespace Sys2Proof.Machine

/-! ### Keeping the mailbox -/

/-- An outcome leaves the mailbox as it stood. -/
structure KeepsMbox (s : State) (r : Res) : Prop where
  mbox : ∀ t, r = .next t → t.mbox = s.mbox

/-- An outcome keeps the invariant of the mailbox. -/
structure KeepsInv (s : State) (r : Res) : Prop where
  inv : MailboxInv s → ∀ t, r = .next t → MailboxInv t

theorem keeps_next {s t : State} (h : t.mbox = s.mbox) : KeepsMbox s (.next t) where
  mbox u hu := by
    injection hu with hu
    rw [← hu, h]

theorem keeps_ite {s : State} {c : Prop} [Decidable c] {a b : Res} (ha : KeepsMbox s a) (hb : KeepsMbox s b) : KeepsMbox s (if c then a else b) := by
  split
  · exact ha
  · exact hb

theorem KeepsMbox.of_eq {s u : State} {r : Res} (h : KeepsMbox u r) (hu : u.mbox = s.mbox) : KeepsMbox s r := ⟨fun t ht => (h.mbox t ht).trans hu⟩

/-- What each change of a list leaves alone, all of them together leave alone. -/
theorem foldl_keeps {α β γ : Type} (view : β → γ) {f : β → α → β} (hf : ∀ b a, view (f b a) = view b) (l : List α) (b : β) :
    view (l.foldl f b) = view b := by
  induction l generalizing b with
  | nil => rfl
  | cons a l ih => exact (ih (f b a)).trans (hf b a)

theorem foldl_mbox {α : Type} {f : State → α → State} (hf : ∀ s a, (f s a).mbox = s.mbox) (l : List α) (s : State) : (l.foldl f s).mbox = s.mbox :=
  foldl_keeps State.mbox hf l s

theorem each_mbox {α : Type} {f : State → α → State} (hf : ∀ s a, (f s a).mbox = s.mbox) (l : List α) (s : State) : (each l s f).mbox = s.mbox :=
  foldl_mbox hf l s

theorem foldl_fst_mbox {α β : Type} {f : State × β → α → State × β} (hf : ∀ x a, (f x a).1.mbox = x.1.mbox) (l : List α) (x : State × β) :
    (l.foldl f x).1.mbox = x.1.mbox := foldl_keeps (fun x : State × β => x.1.mbox) hf l x

/-- A chain of changes of which each may fail. -/
theorem foldl_bind_keeps {α β : Type} (view : State → β) {f : State → α → Option State} (hf : ∀ s t a, f s a = some t → view t = view s) {l : List α}
    {s t : State} (h : l.foldl (fun x a => x.bind (fun u => f u a)) (some s) = some t) : view t = view s := by
  induction l generalizing s with
  | nil => injection h with h; rw [h]
  | cons a l ih =>
    rw [List.foldl_cons, Option.bind_some] at h
    cases hu : f s a with
    | some u => exact (ih (hu ▸ h)).trans (hf s u a hu)
    | none =>
      have never : l.foldl (fun x a => x.bind (fun u => f u a)) none = none := by
        clear h ih
        induction l with
        | nil => rfl
        | cons b l ih => exact ih
      rw [hu, never] at h
      contradiction

theorem fst_mbox {α : Type} {x : State × α} {s t : State} {a : α} (h : x = (t, a)) (hx : x.1.mbox = s.mbox) : t.mbox = s.mbox := by rw [← hx, h]

theorem ite_fst_mbox {α : Type} {c : Prop} [Decidable c] {a b : State × α} {m : Mbox} (ha : a.1.mbox = m) (hb : b.1.mbox = m) :
    (if c then a else b).1.mbox = m := by
  split
  · exact ha
  · exact hb

/-! ### Keeping its invariant -/

/-- The invariant speaks of the mailbox alone. -/
theorem MailboxInv.of_mbox {s t : State} (hs : MailboxInv s) (h : t.mbox = s.mbox) : MailboxInv t := by
  obtain ⟨busy, outcome, done, owner, preempt, rejects⟩ := hs
  constructor <;> rw [h] <;> assumption

theorem KeepsMbox.inv {s : State} {r : Res} (h : KeepsMbox s r) : KeepsInv s r := ⟨fun hs t ht => hs.of_mbox (h.mbox t ht)⟩

theorem keepsInv_next {s t : State} (h : MailboxInv s → MailboxInv t) : KeepsInv s (.next t) where
  inv hs u hu := by
    injection hu with hu
    exact hu ▸ h hs

/-- A command in the mailbox that runs. -/
theorem MailboxInv.busy_of_run {s : State} (hs : MailboxInv s) {c : Cmd} (h : s.mbox.run = some c) : s.mbox.busy = true := by rw [hs.busy, h]; rfl

/-- What the completion of a running command leaves in the mailbox keeps the invariant, whether or not it has come. -/
theorem MailboxInv.setOutcome {s t : State} (hs : MailboxInv s) {c : Cmd} (h : s.mbox.run = some c) {o : Option Done} {g : Bool}
    (ht : t.mbox = { s.mbox with outcome := o, begun := g }) : MailboxInv t := by
  have hb := hs.busy_of_run h
  obtain ⟨busy, -, done, owner, preempt, rejects⟩ := hs
  constructor <;> rw [ht]
  · exact busy
  · exact fun _ => hb
  · exact done
  · exact owner
  · exact preempt
  · exact rejects

/-- A mailbox command keeps the invariant where its own work leaves the mailbox alone (R50, R51). -/
theorem runCmd_inv {f : State → Cmd → CmdRes} (h : ∀ s c, (f s c).1.mbox = s.mbox) (code : Nat) (s : State) : KeepsInv s (runCmd code s f) where
  inv hs t ht := by
    obtain rfl | ⟨c, e, hc, -, rfl⟩ | ⟨c, hc, rfl⟩ := runCmd_cases ht
    · exact hs
    · exact hs.setOutcome hc (g := s.mbox.begun) rfl
    · exact hs.setOutcome hc.held (by rw [modMbox_mbox, h])

theorem runPartCmd_inv {f : State → Cmd → PartIx → CmdRes} (h : ∀ s c p, (f s c p).1.mbox = s.mbox) (code : Nat) (s : State) :
    KeepsInv s (runPartCmd code s f) :=
  runCmd_inv (fun s c => by
    split
    · exact h ..
    · rfl) code s

/-! ### Ops -/

theorem modCtx_mbox (s : State) (n : CoreIx) (i : CtxIx) (f : Ctx → Ctx) : (modCtx s n i f).mbox = s.mbox := modCore_mbox ..

theorem modUpd_mbox (s : State) (c : CellarIx) (f : Upd → Upd) : (modUpd s c f).mbox = s.mbox := modCellar_mbox ..

theorem modBank_mbox (s : State) (n : CoreIx) (b : Fin 2) (f : VBank → VBank) : (modBank s n b f).mbox = s.mbox := modCore_mbox ..

theorem emit_mbox (s : State) (o : Out) : (emit s o).mbox = s.mbox := ite_keeps State.mbox rfl rfl

theorem wantSection_mbox (s : State) (k : Nat) : (wantSection s k).mbox = s.mbox := rfl

theorem bump_mbox (s : State) : (bump s).mbox = s.mbox := rfl

theorem freeBytes_mbox (s : State) (n : Nat) : (freeBytes s n).1.mbox = s.mbox := rfl

theorem look_mbox (s : State) : (look s).mbox = s.mbox := rfl

theorem incCnt_mbox (s : State) (n : CoreIx) (i : CtxIx) (k : Option Cnt) : (incCnt s n i k).mbox = s.mbox := by
  unfold incCnt
  split
  · rfl
  · exact modCtx_mbox ..

theorem writeBlock_mbox (s : State) (b : Nat) (ws : List (Nat × Byte)) (fresh : Bool) (version fold : Nat) : (writeBlock s b ws fresh version
    fold).mbox = s.mbox :=
  setTag_mbox ..

theorem markPage_mbox (s : State) (p : PartIx) (b : Nat) : (markPage s p b).mbox = s.mbox := modPart_mbox ..

theorem spoil_mbox (s : State) (b : Nat) (own : Tracker → Bool) : (spoil s b own).mbox = s.mbox := modCellar_mbox ..

theorem engineWrite_mbox (s : State) (b : Nat) (bytes : List Byte) (version fold : Nat) : (engineWrite s b bytes version fold).mbox = s.mbox :=
  (writeBlock_mbox ..).trans (spoil_mbox ..)

theorem looseWrite_mbox (s : State) (b : Nat) (ws : List (Nat × Byte)) (version fold : Nat) : (looseWrite s b ws version fold).mbox = s.mbox :=
  (writeBlock_mbox ..).trans (spoil_mbox ..)

theorem logTagFail_mbox (s : State) (c : CellarIx) (causes : List TagCause) (source block : Nat) : (logTagFail s c causes source block).mbox = s.mbox := by
  unfold logTagFail
  split
  · rfl
  · exact modCellar_mbox ..

theorem accessError_mbox (s : State) (kind addr : Nat) : (accessError s kind addr).mbox = s.mbox := modPkg_mbox ..

/-! ### Watch -/

theorem countP_mbox (s : State) (p : PartIx) (i k : Nat) : (countP s p i k).mbox = s.mbox := rfl

theorem countG_mbox (s : State) (i k : Nat) : (countG s i k).mbox = s.mbox := rfl

theorem settleTime_mbox (s : State) : (settleTime s).mbox = s.mbox := by
  simp only [settleTime, apply_ite State.mbox, countG_mbox, look_mbox, ite_self]

theorem accrue_mbox (s : State) (part : Option PartIx) : (accrue s part).mbox = s.mbox := by
  unfold accrue
  split
  · exact ite_keeps State.mbox rfl (each_mbox (fun _ _ => (bump_mbox ..).trans (countP_mbox ..)) ..)
  · exact (each_mbox (fun _ _ => (bump_mbox ..).trans (countG_mbox ..)) ..).trans (settleTime_mbox ..)

theorem sampleSet_mbox (s : State) (part : Option PartIx) (coin : Bool) (is : List Nat) : (sampleSet s part coin is).1.mbox = s.mbox :=
  ite_keeps State.mbox rfl (accrue_mbox ..)

theorem sample_mbox (s : State) (part : Option PartIx) (i : Nat) (coin : Bool) : (sample s part i coin).1.mbox = s.mbox := by
  simp only [sample, sampleSet_mbox]

theorem sampleAll_mbox (s : State) (part : Option PartIx) (coin : Bool) : (sampleAll s part coin).1.mbox = s.mbox := sampleSet_mbox ..

theorem newWindow_mbox (s : State) (p : PartIx) : (newWindow s p).mbox = s.mbox := accrue_mbox ..

theorem newGlobalWindow_mbox (s : State) : (newGlobalWindow s).mbox = s.mbox := accrue_mbox ..

theorem rawPacket_mbox (s : State) (type source aux : Nat) (words : List Nat) : (rawPacket s type source aux words).mbox = s.mbox := emit_mbox ..

theorem leadPackets_mbox (s : State) : (leadPackets s).mbox = s.mbox := by
  simp only [leadPackets, apply_ite State.mbox, rawPacket_mbox, ite_self]

theorem packetNow_mbox (s : State) (type source aux : Nat) (words : List Nat) : (packetNow s type source aux words).mbox = s.mbox :=
  ite_keeps State.mbox ((rawPacket_mbox ..).trans (leadPackets_mbox ..)) rfl

theorem packet_mbox (s : State) (type source aux : Nat) (words : List Nat) : (packet s type source aux words).mbox = s.mbox :=
  ite_keeps State.mbox ((packetNow_mbox ..).trans (look_mbox ..)) rfl

theorem dropPacket_mbox (s : State) (k : Lossy) : (dropPacket s k).mbox = s.mbox := rfl

theorem lossyPacket_mbox (s : State) (k : Lossy) (type source aux : Nat) (words : List Nat) : (lossyPacket s k type source aux words).mbox = s.mbox :=
  ite_keeps State.mbox rfl ((ite_keeps State.mbox (dropPacket_mbox ..) (packet_mbox ..)).trans (bump_mbox ..))

theorem traceEvent_mbox (s : State) (code detail : Nat) : (traceEvent s code detail).mbox = s.mbox := ite_keeps State.mbox (lossyPacket_mbox ..) rfl

theorem flowFlush_mbox (s : State) (n : CoreIx) : (flowFlush s n).mbox = s.mbox := by
  unfold flowFlush
  split
  · rfl
  · exact ite_keeps State.mbox rfl (lossyPacket_mbox ..)

theorem flowBit_mbox (s : State) (n : CoreIx) (i : CtxIx) (taken : Bool) : (flowBit s n i taken).mbox = s.mbox :=
  ite_keeps State.mbox rfl (optional_keeps State.mbox (flowFlush_mbox ..) rfl)

theorem flowPc_mbox (s : State) (n : CoreIx) (i : CtxIx) (reason : Nat) (pc : BitVec 40) : (flowPc s n i reason pc).mbox = s.mbox :=
  ite_keeps State.mbox rfl ((lossyPacket_mbox ..).trans ((bump_mbox ..).trans ((modCore_mbox ..).trans (flowFlush_mbox ..))))

theorem flowResync_mbox (s : State) (n : CoreIx) (i : CtxIx) (pc : BitVec 40) : (flowResync s n i pc).mbox = s.mbox :=
  ite_keeps State.mbox (flowPc_mbox ..) rfl

theorem flowSwitch_mbox (s : State) (n : CoreIx) (before : Option CtxIx) : (flowSwitch s n before).mbox = s.mbox := by
  unfold flowSwitch
  split
  · exact ite_keeps State.mbox rfl (flowPc_mbox ..)
  · rfl

theorem stopDomain_mbox (s : State) (dom cause : Nat) : (stopDomain s dom cause).mbox = s.mbox :=
  ite_keeps State.mbox rfl ((packetNow_mbox ..).trans ((look_mbox ..).trans (bump_mbox ..)))

theorem resumeDomain_mbox (s : State) (dom : Nat) : (resumeDomain s dom).mbox = s.mbox := by
  unfold resumeDomain
  split
  · rfl
  · exact (packetNow_mbox ..).trans (look_mbox ..)

/-! ### Send -/

theorem sendVlcredit_mbox (s : State) (f : PortIx) (key len : Nat) : (sendVlcredit s f key len).mbox = s.mbox := ite_keeps State.mbox (emit_mbox ..) rfl

theorem freeIngress_mbox (s : State) (e : Egress) : (freeIngress s e).mbox = s.mbox := by
  unfold freeIngress
  split
  · rfl
  · exact (sendVlcredit_mbox ..).trans (modPort_mbox ..)

theorem launch_mbox (s : State) (f : PortIx) (fr : Frame) : (launch s f fr).mbox = s.mbox := by
  unfold launch
  refine (emit_mbox ..).trans ((modPort_mbox ..).trans (optional_keeps State.mbox ((emit_mbox ..).trans (modPort_mbox ..)) (ite_keeps State.mbox ?_
    (countG_mbox ..))))
  split
  · exact (countP_mbox ..).trans (countG_mbox ..)
  · exact countG_mbox ..

theorem pumpN_mbox (s : State) (f : PortIx) (fuel : Nat) : (pumpN s f fuel).mbox = s.mbox := by
  induction fuel generalizing s with
  | zero => rfl
  | succ fuel ih =>
    unfold pumpN
    refine ite_keeps State.mbox rfl ?_
    split
    · rfl
    · exact (ih _).trans ((freeIngress_mbox ..).trans ((launch_mbox ..).trans (modPort_mbox ..)))

theorem pump_mbox (s : State) (f : PortIx) : (pump s f).mbox = s.mbox := pumpN_mbox ..

theorem enqueue_mbox (s : State) (f : PortIx) (fr : Frame) (origin : Option (PortIx × Nat)) : (enqueue s f fr origin).mbox = s.mbox :=
  (pump_mbox ..).trans (modPort_mbox ..)

theorem numberFrame_mbox (s : State) (d : PortDieIx) (fr : Frame) : (numberFrame s d fr).1.mbox = s.mbox := modPortDie_mbox ..

theorem sendFrame_mbox (s : State) (spart dpart dest vl : Nat) (b : FBody) : (sendFrame s spart dpart dest vl b).mbox = s.mbox := by
  unfold sendFrame
  refine ite_keeps State.mbox rfl ?_
  dsimp only
  split
  · exact (enqueue_mbox ..).trans (numberFrame_mbox ..)
  · exact modPortDie_mbox ..

theorem sendRank_mbox (s : State) (p : PartIx) (rank vl : Nat) (b : FBody) : (sendRank s p rank vl b).mbox = s.mbox := sendFrame_mbox ..

theorem sendStep_mbox (s : State) (p : PartIx) (rank : Nat) (m : StepMsg) : (sendStep s p rank m).mbox = s.mbox := sendRank_mbox ..

theorem sendTwin_mbox (s : State) (p : PartIx) (vl : Nat) (b : FBody) : (sendTwin s p vl b).mbox = s.mbox := by
  unfold sendTwin
  split
  · rfl
  · exact (enqueue_mbox ..).trans (numberFrame_mbox ..)

theorem exhaustSeq_mbox (s : State) : (exhaustSeq s).mbox = s.mbox := emit_mbox ..

theorem reserveSeq_mbox (s : State) : (reserveSeq s).mbox = s.mbox :=
  ite_keeps State.mbox rfl (ite_keeps State.mbox (wantSection_mbox ..) (ite_keeps State.mbox (exhaustSeq_mbox ..) (wantSection_mbox ..)))

theorem sendReport_mbox (s : State) (code part : Nat) (epoch : W32) (step : Word) (detail : List Nat) : (sendReport s code part epoch step
    detail).mbox = s.mbox := by
  simp only [sendReport, apply_ite State.mbox, emit_mbox, modPortDie_mbox, reserveSeq_mbox, ite_self]

theorem partReport_mbox (s : State) (p : PartIx) (code : Nat) (detail : List Nat) : (partReport s p code detail).mbox = s.mbox := sendReport_mbox ..

theorem devReport_mbox (s : State) (code : Nat) (detail : List Nat) : (devReport s code detail).mbox = s.mbox := sendReport_mbox ..

theorem msix_mbox (s : State) (v : Nat) : (msix s v).mbox = s.mbox := by
  unfold msix
  refine ite_keeps State.mbox rfl ?_
  split
  · exact ite_keeps State.mbox rfl (emit_mbox ..)
  · rfl

theorem hostWrite_mbox (s : State) (p : PartIx) (off : Nat) (bs : List Byte) : (hostWrite s p off bs).mbox = s.mbox :=
  (emit_mbox ..).trans (countG_mbox ..)

theorem setPlan_mbox (s : State) (p : PartIx) (st : PlanSt) : (setPlan s p st).mbox = s.mbox :=
  ite_keeps State.mbox rfl ((msix_mbox ..).trans (modPart_mbox ..))

theorem dackFor_mbox (s : State) (h : Arrival) : (dackFor s h).mbox = s.mbox := by
  unfold dackFor
  split
  · rfl
  · exact sendFrame_mbox ..

theorem stepFrame_mbox (s : State) (p : PartIx) (rank vl : Nat) (b : FBody) : (stepFrame s p rank vl b).mbox = s.mbox :=
  ite_keeps State.mbox rfl (sendRank_mbox ..)

theorem countNoTarget_mbox (s : State) (h : Arrival) : (countNoTarget s h).mbox = s.mbox := modPortDie_mbox ..

theorem countStale_mbox (s : State) (h : Arrival) : (countStale s h).mbox = s.mbox := modPortDie_mbox ..

theorem sendRetry_mbox (s : State) (h : Arrival) (p : PartIx) (b : FBody) : (sendRetry s h p b).mbox = s.mbox := by
  unfold sendRetry
  split
  · exact sendFrame_mbox ..
  · rfl

theorem sendNack_mbox (s : State) (f : PortIx) : (sendNack s f).mbox = s.mbox := (emit_mbox ..).trans (modPort_mbox ..)

theorem received_mbox (s : State) (f : PortIx) (gen len : Nat) : (received s f gen len).mbox = s.mbox :=
  (countG_mbox ..).trans ((emit_mbox ..).trans (modPort_mbox ..))

theorem arrive_error_mbox {s t : State} {h : Arrival} {b : FBody} {onTwin : Bool} (ha : arrive s h b onTwin = .error t) : t.mbox = s.mbox := by
  unfold arrive at ha
  split at ha
  · split at ha
    · split at ha
      · contradiction
      · injection ha with ha; rw [← ha]
    · injection ha with ha; rw [← ha]
  · next f _ =>
    split at ha
    · injection ha with ha; rw [← ha]
    · split at ha
      · injection ha with ha; rw [← ha]; exact sendNack_mbox ..
      · have taken : ∀ k a : Nat, (countP (sendVlcredit (received s f h.gen a) f k a) h.dpart 11 a).mbox = s.mbox :=
          fun k a => (countP_mbox ..).trans ((sendVlcredit_mbox ..).trans (received_mbox ..))
        dsimp only at ha
        split at ha
        · injection ha with ha
          rw [← ha]
          exact optional_keeps State.mbox (dackFor_mbox ..) ((countNoTarget_mbox ..).trans (taken ..))
        · contradiction

theorem arrive_ok_mbox {s t : State} {h : Arrival} {b : FBody} {onTwin : Bool} (ha : arrive s h b onTwin = .ok t) : t.mbox = s.mbox := by
  unfold arrive at ha
  split at ha
  · split at ha
    · split at ha
      · injection ha with ha; rw [← ha]
      · contradiction
    · contradiction
  · split at ha
    · contradiction
    · split at ha
      · contradiction
      · dsimp only at ha
        split at ha
        · contradiction
        · injection ha with ha
          rw [← ha]
          exact (countP_mbox ..).trans ((sendVlcredit_mbox ..).trans (received_mbox ..))

/-! ### Switch -/

theorem wakeCtx_mbox (s : State) (n : CoreIx) (i : CtxIx) : (wakeCtx s n i).mbox = s.mbox := ite_keeps State.mbox (modCtx_mbox ..) rfl

theorem wake_mbox (s : State) (n : CoreIx) : (wake s n).mbox = s.mbox :=
  (flowSwitch_mbox ..).trans ((modCore_mbox ..).trans (each_mbox (fun _ _ => wakeCtx_mbox ..) ..))

theorem wakePart_mbox (s : State) (p : PartIx) : (wakePart s p).mbox = s.mbox := each_mbox (fun _ _ => wake_mbox ..) ..

theorem countSwitch_mbox (s : State) (n : CoreIx) : (countSwitch s n).mbox = s.mbox := by
  unfold countSwitch
  split
  · exact countP_mbox ..
  · rfl

theorem leave_mbox (s : State) (n : CoreIx) (i : CtxIx) (st : CtxSt) (waits : List Cond) : (leave s n i st waits).mbox = s.mbox :=
  (countSwitch_mbox ..).trans ((flowSwitch_mbox ..).trans ((modCore_mbox ..).trans (flowFlush_mbox ..)))

theorem stopOne_mbox (s : State) (p : PartIx) (n : CoreIx) : (stopOne s p n).mbox = s.mbox := by
  unfold stopOne
  refine (modCore_mbox ..).trans ?_
  split
  · exact flowPc_mbox ..
  · rfl

theorem stopPart_mbox (s : State) (p : PartIx) : (stopPart s p).mbox = s.mbox := each_mbox (fun _ _ => stopOne_mbox ..) ..

theorem beginStop_mbox (s : State) (p : PartIx) : (beginStop s p).mbox = s.mbox := each_mbox (fun _ _ => modCore_mbox ..) ..

theorem settleStop_mbox (s : State) (n : CoreIx) : (settleStop s n).mbox = s.mbox := by
  unfold settleStop
  refine ite_keeps State.mbox ?_ rfl
  split
  · exact stopOne_mbox ..
  · exact modCore_mbox ..

theorem settleStops_mbox (s : State) : (settleStops s).mbox = s.mbox := each_mbox (fun _ _ => settleStop_mbox ..) ..

/-! ### Stop -/

theorem haltWave_mbox (s : State) (cause : Nat) : (haltWave s cause).mbox = s.mbox := ite_keeps State.mbox rfl (traceEvent_mbox ..)

theorem settleHalt_mbox (s : State) : (settleHalt s).mbox = s.mbox := ite_keeps State.mbox (devReport_mbox ..) rfl

theorem restart_mbox (s : State) : (restart s).mbox = s.mbox := (each_mbox (fun _ _ => wake_mbox ..) ..).trans (each_mbox (fun _ _ => pump_mbox ..) ..)

theorem resumeAll_mbox (s : State) : (resumeAll s).mbox = s.mbox :=
  ite_keeps State.mbox rfl ((restart_mbox ..).trans (each_mbox (fun _ _ => resumeDomain_mbox ..) ..))

/-! ### Exc -/

theorem failStep_mbox (s : State) (p : PartIx) (classH : Bool) (cause : Nat) : (failStep s p classH cause).mbox = s.mbox :=
  ite_keeps State.mbox ((partReport_mbox ..).trans ((sendStep_mbox ..).trans (modPart_mbox ..))) rfl

theorem raise_mbox (s : State) (n : CoreIx) (i : CtxIx) (e : Exc) (pc : BitVec 40) (info : Word) : (raise s n i e pc info).mbox = s.mbox := by
  unfold raise
  refine ite_keeps State.mbox rfl ?_
  split
  · rfl
  · exact optional_keeps State.mbox (haltWave_mbox ..) (optional_keeps State.mbox ((modPart_mbox ..).trans (stopPart_mbox ..)) ((failStep_mbox
      ..).trans ((partReport_mbox ..).trans ((beginStop_mbox ..).trans ((modPart_mbox ..).trans ((traceEvent_mbox ..).trans ((flowPc_mbox ..).trans
      (modCtx_mbox ..))))))))

theorem raiseHere_mbox (s : State) (n : CoreIx) (i : CtxIx) (e : Exc) (info : Word) : (raiseHere s n i e info).mbox = s.mbox := raise_mbox ..

theorem operandRange_mbox (s : State) (n : CoreIx) (i : CtxIx) (engine check detail : Nat) : (operandRange s n i engine check detail).mbox = s.mbox :=
  raiseHere_mbox ..

theorem engineFault_mbox (s : State) (n : CoreIx) (i : CtxIx) (pc : BitVec 40) (engine : Nat) (f : EngFault) : (engineFault s n i pc engine f).mbox =
    s.mbox :=
  raise_mbox ..

/-! ### Operands -/

theorem goOn_mbox (s : State) (n : CoreIx) (i : CtxIx) (words cycles : Nat) : (goOn s n i words cycles).mbox = s.mbox := modCore_mbox ..

theorem advance_mbox (s : State) (n : CoreIx) (i : CtxIx) (words : Nat) : (advance s n i words).mbox = s.mbox := goOn_mbox ..

theorem issueRun_mbox {effect : State → CtxIx → Bound → LCoreE → State} (h : ∀ u x x2 x3, (effect u x x2 x3).mbox = u.mbox) (s : State) (n : CoreIx)
    (g : Guard) (words : Nat) (uses : List Reg) : (issueRun s n g words uses effect).mbox = s.mbox := by
  unfold issueRun
  split
  · rfl
  · split
    · rfl
    · split
      · rfl
      · exact ite_keeps State.mbox (raiseHere_mbox ..) (ite_keeps State.mbox (goOn_mbox ..) (ite_keeps State.mbox (leave_mbox ..) (h ..)))

theorem issue_mbox {effect : State → CtxIx → Bound → LCoreE → State} (h : ∀ u x x2 x3, (effect u x x2 x3).mbox = u.mbox) (s : State) (n : CoreIx) (g
    : Guard) (words : Nat) (uses : List Reg) : (issue s n g words uses effect).mbox = s.mbox :=
  ite_keeps State.mbox rfl (optional_keeps State.mbox (settleStop_mbox ..) (issueRun_mbox (fun _ _ _ _ => h ..) ..))

theorem gate_mbox {go : State → State} (h : ∀ u, (go u).mbox = u.mbox) (s : State) (n : CoreIx) (i : CtxIx) (ks : List Cond) : (gate s n i ks
    go).mbox = s.mbox :=
  ite_keeps State.mbox (h ..) (leave_mbox ..)

theorem headgate_mbox {go : State → State} (h : ∀ u, (go u).mbox = u.mbox) (s : State) (n : CoreIx) (i : CtxIx) (b : Bound) (ks : List Cond) :
    (headgate s n i b ks go).mbox = s.mbox :=
  ite_keeps State.mbox (h ..) ((leave_mbox ..).trans (countP_mbox ..))

theorem result_mbox (s : State) (n : CoreIx) (i : CtxIx) (sd : Reg) (v : Word) (words : Nat) : (result s n i sd v words).mbox = s.mbox :=
  (advance_mbox ..).trans (modCtx_mbox ..)

theorem scalar_mbox (s : State) (n : CoreIx) (g : Guard) (sd : Reg) (uses : List Reg) (f : Ctx → Word) : (scalar s n g sd uses f).mbox = s.mbox :=
  issue_mbox (fun _ _ _ _ => result_mbox ..) ..

theorem predicate_mbox (s : State) (n : CoreIx) (g : Guard) (pd : Pred) (uses : List Reg) (f : Ctx → Bool) : (predicate s n g pd uses f).mbox = s.mbox :=
  issue_mbox (fun _ _ _ _ => (advance_mbox ..).trans (modCtx_mbox ..)) ..

/-! ### Alu -/

theorem aluInstr_mbox (o : AluOp) (n : CoreIx) (g : Guard) (sd sa : Reg) (op : Op2) (s : State) : (aluInstr o n g sd sa op s).mbox = s.mbox :=
  scalar_mbox ..

theorem cmpInstr_mbox (f : Word → Word → Bool) (n : CoreIx) (g : Guard) (pd : Pred) (sa : Reg) (op : Op2) (s : State) : (cmpInstr f n g pd sa op
    s).mbox = s.mbox :=
  predicate_mbox ..

theorem rr_mbox (f : Word → Word → Word) (n : CoreIx) (g : Guard) (sd sa sb : Reg) (s : State) : (rr f n g sd sa sb s).mbox = s.mbox := scalar_mbox ..

theorem ff_mbox (f : W32 → W32 → W32) (n : CoreIx) (g : Guard) (sd sa sb : Reg) (s : State) : (ff f n g sd sa sb s).mbox = s.mbox := scalar_mbox ..

/-! ### Keys -/

theorem modFlash_mbox (s : State) (f : Tbl Byte → Tbl Byte) : (modFlash s f).mbox = s.mbox := rfl

theorem eraseTarget_mbox (s : State) (k : Nat) : (eraseTarget s k).mbox = s.mbox := modFlash_mbox ..

theorem programTarget_mbox (s : State) (k : Nat) (payload : List Byte) : (programTarget s k payload).mbox = s.mbox := modFlash_mbox ..

theorem eraseSection_mbox (s : State) (k : Nat) : (eraseSection s k).mbox = s.mbox := modFlash_mbox ..

theorem freshSecret_mbox (s : State) : (freshSecret s).1.mbox = s.mbox := rfl

theorem fullReport_mbox (s : State) (nonce : Vector Word 4) (p : Nat) : (fullReport s nonce p).1.mbox = s.mbox := by
  unfold fullReport
  split
  · rfl
  · exact freeBytes_mbox s signBytes

theorem challenge_mbox (s : State) (f : PortIx) : (challenge s f).mbox = s.mbox := (emit_mbox ..).trans ((modPort_mbox ..).trans (freshSecret_mbox ..))

theorem giveReport_mbox (s : State) (f : PortIx) (nonce : Vector Word 4) (p : Nat) : (giveReport s f nonce p).mbox = s.mbox := by
  simp only [giveReport, emit_mbox, fullReport_mbox]

/-! ### Sed -/

theorem setUnit_mbox (s : State) (u : Nat) (e : UnitE) : (setUnit s u e).mbox = s.mbox := modSed_mbox ..

theorem listSuspect_mbox (s : State) (u : Nat) : (listSuspect s u).mbox = s.mbox := by
  unfold listSuspect
  refine ite_keeps State.mbox rfl ((setUnit_mbox ..).trans (ite_keeps State.mbox rfl ?_))
  dsimp only
  split
  · rfl
  · exact (modSed_mbox ..).trans (setUnit_mbox ..)

theorem markFenced_mbox (s : State) (u : Nat) : (markFenced s u).mbox = s.mbox :=
  (devReport_mbox ..).trans ((traceEvent_mbox ..).trans ((wantSection_mbox ..).trans (setUnit_mbox ..)))

theorem fenceArray_mbox (s : State) (n : CoreIx) (k : Fin 4) : (fenceArray s n k).mbox = s.mbox :=
  ite_keeps State.mbox rfl ((markFenced_mbox ..).trans ((ite_keeps State.mbox rfl (modPkg_mbox ..)).trans (modCore_mbox ..)))

theorem fenceGroup_mbox (s : State) (n : CoreIx) (g : Fin 8) : (fenceGroup s n g).mbox = s.mbox :=
  ite_keeps State.mbox rfl ((markFenced_mbox ..).trans ((ite_keeps State.mbox rfl (modPkg_mbox ..)).trans (modCore_mbox ..)))

theorem fenceCore_mbox (s : State) (n : CoreIx) : (fenceCore s n).mbox = s.mbox :=
  ite_keeps State.mbox rfl ((markFenced_mbox ..).trans ((modPkg_mbox ..).trans (modCore_mbox ..)))

theorem orderFence_mbox (s : State) (u cause : Nat) : (orderFence s u cause).mbox = s.mbox := by
  unfold orderFence
  refine ite_keeps State.mbox rfl ?_
  dsimp only
  split
  · split
    · exact (modCore_mbox ..).trans ((devReport_mbox ..).trans ((wantSection_mbox ..).trans ((listSuspect_mbox ..).trans (setUnit_mbox ..))))
    · exact (devReport_mbox ..).trans ((wantSection_mbox ..).trans ((listSuspect_mbox ..).trans (setUnit_mbox ..)))
  · split
    · exact (modCore_mbox ..).trans ((devReport_mbox ..).trans ((wantSection_mbox ..).trans ((listSuspect_mbox ..).trans (setUnit_mbox ..))))
    · exact (devReport_mbox ..).trans ((wantSection_mbox ..).trans ((listSuspect_mbox ..).trans (setUnit_mbox ..)))
  · split
    · exact (modCore_mbox ..).trans ((devReport_mbox ..).trans ((wantSection_mbox ..).trans ((listSuspect_mbox ..).trans (setUnit_mbox ..))))
    · exact (devReport_mbox ..).trans ((wantSection_mbox ..).trans ((listSuspect_mbox ..).trans (setUnit_mbox ..)))
  · split
    · exact (modUpd_mbox ..).trans ((devReport_mbox ..).trans ((wantSection_mbox ..).trans ((listSuspect_mbox ..).trans (setUnit_mbox ..))))
    · exact (devReport_mbox ..).trans ((wantSection_mbox ..).trans ((listSuspect_mbox ..).trans (setUnit_mbox ..)))
  · exact (devReport_mbox ..).trans ((wantSection_mbox ..).trans ((listSuspect_mbox ..).trans (setUnit_mbox ..)))

theorem coreFences_mbox (s : State) (n : CoreIx) : (coreFences s n).mbox = s.mbox :=
  (ite_keeps State.mbox rfl (ite_keeps State.mbox (fenceCore_mbox ..) (ite_keeps State.mbox ((fenceCore_mbox ..).trans (orderFence_mbox ..))
    rfl))).trans ((each_mbox (fun _ _ => ite_keeps State.mbox (fenceGroup_mbox ..) rfl) ..).trans (each_mbox (fun _ _ => ite_keeps State.mbox
    (fenceArray_mbox ..) rfl) ..))

theorem passParked_mbox (s : State) (c : CellarIx) : (passParked s c).mbox = s.mbox := by
  unfold passParked
  split
  · rfl
  · exact (modUpd_mbox ..).trans (modUpd_mbox ..)

theorem updFence_mbox (s : State) (c : CellarIx) : (updFence s c).mbox = s.mbox :=
  ite_keeps State.mbox (optional_keeps State.mbox (devReport_mbox ..) ((markFenced_mbox ..).trans ((modPkg_mbox ..).trans ((passParked_mbox ..).trans
    (modUpd_mbox ..))))) rfl

theorem orderPcFence_mbox (s : State) (c : CellarIx) (pc cause : Nat) : (orderPcFence s c pc cause).mbox = s.mbox :=
  ite_keeps State.mbox ((devReport_mbox ..).trans (modCellar_mbox ..)) ((orderFence_mbox ..).trans (modCellar_mbox ..))

theorem pcEvent_mbox (s : State) (c : CellarIx) (pc : Nat) : (pcEvent s c pc).mbox = s.mbox :=
  optional_keeps State.mbox (orderPcFence_mbox ..) ((modSed_mbox ..).trans (look_mbox ..))

theorem readEvents_mbox (s : State) (c : CellarIx) (block : Nat) (ks : List TagCause) : (readEvents s c block ks).mbox = s.mbox :=
  ite_keeps State.mbox (pcEvent_mbox ..) rfl

theorem modCounts_mbox (s : State) (p : PartIx) (f : SedCount → SedCount) : (modCounts s p f).mbox = s.mbox := modSed_mbox ..

theorem ineligible_mbox (s : State) (p : PartIx) : (ineligible s p).mbox = s.mbox := modCounts_mbox ..

theorem addItem_mbox (s : State) (i : SedItem) : (addItem s i).mbox = s.mbox := (countG_mbox ..).trans ((countP_mbox ..).trans (modSed_mbox ..))

theorem sampleTile_mbox (s : State) (n : CoreIx) (p : PartIx) (halves pins : List (Nat × Nat)) (work : Work) : (sampleTile s n p halves pins
    work).1.mbox = s.mbox :=
  ite_fst_mbox ((ineligible_mbox ..).trans (modSed_mbox ..)) (ite_fst_mbox ((addItem_mbox ..).trans ((modCore_mbox ..).trans (modSed_mbox ..)))
    (modSed_mbox ..))

theorem sampleGranule_mbox (s : State) (c : CellarIx) (p : PartIx) (kind ordinal : Nat) (work : Work) : (sampleGranule s c p kind ordinal
    work).1.mbox = s.mbox :=
  ite_fst_mbox (addItem_mbox ..) rfl

theorem sampleUpdate_mbox (s : State) (c : CellarIx) (p : PartIx) (work : Work) : (sampleUpdate s c p work).1.mbox = s.mbox :=
  (sampleGranule_mbox ..).trans (modSed_mbox ..)

theorem sampleReduction_mbox (s : State) (c : CellarIx) (p : PartIx) (red granule : Nat) (loc sum : List W32) : (sampleReduction s c p red granule
    loc sum).mbox = s.mbox :=
  ite_keeps State.mbox (addItem_mbox ..) rfl

theorem releaseItem_mbox (s : State) (i : SedItem) : (releaseItem s i).mbox = s.mbox := by
  unfold releaseItem
  split
  · rfl
  · refine ite_keeps State.mbox rfl ((modCore_mbox ..).trans (each_mbox (fun _ _ => ?_) ..))
    dsimp only
    split
    · rfl
    · exact modCore_mbox ..

theorem clearItems_mbox (s : State) (p : PartIx) : (clearItems s p).mbox = s.mbox :=
  (modSed_mbox ..).trans (each_mbox (fun _ _ => releaseItem_mbox ..) ..)

theorem dropItem_mbox (s : State) (ix : Nat) : (dropItem s ix).mbox = s.mbox := modSed_mbox ..

theorem suspect_mbox (s : State) (u : Nat) : (suspect s u).mbox = s.mbox :=
  ite_keeps State.mbox ((wantSection_mbox ..).trans ((listSuspect_mbox ..).trans (setUnit_mbox ..))) rfl

theorem blame_mbox (s : State) (u : Nat) (i : SedItem) : (blame s u i).mbox = s.mbox :=
  ite_keeps State.mbox (setUnit_mbox ..) (optional_keeps State.mbox (orderFence_mbox ..) ((wantSection_mbox ..).trans ((suspect_mbox ..).trans
    (setUnit_mbox ..))))

theorem agree_mbox (s : State) (u : Nat) : (agree s u).mbox = s.mbox :=
  ite_keeps State.mbox rfl (ite_keeps State.mbox ((devReport_mbox ..).trans ((wantSection_mbox ..).trans (setUnit_mbox ..))) (setUnit_mbox ..))

theorem verdict_mbox (s : State) (v : Nat) (i : SedItem) (t : Trio) (voted missing same : Bool) : (verdict s v i t voted missing same).mbox = s.mbox :=
  (partReport_mbox ..).trans ((traceEvent_mbox ..).trans (modSed_mbox ..))

theorem voteFail_mbox (s : State) (i : SedItem) (cause : Nat) : (voteFail s i cause).mbox = s.mbox := (failStep_mbox ..).trans (beginStop_mbox ..)

theorem putPantry_mbox (s : State) (i : Nat) (r : PanRec) : (putPantry s i r).mbox = s.mbox := modCellar_mbox ..

theorem storePattern_mbox (s : State) (r : PanRec) : (storePattern s r).1.mbox = s.mbox :=
  (devReport_mbox ..).trans ((wantSection_mbox ..).trans ((wantSection_mbox ..).trans (putPantry_mbox ..)))

theorem fenceNow_mbox (s : State) (u : Nat) : (fenceNow s u).mbox = s.mbox := by
  unfold fenceNow
  dsimp only
  split
  · split
    · exact coreFences_mbox ..
    · rfl
  · split
    · exact coreFences_mbox ..
    · rfl
  · split
    · exact updFence_mbox ..
    · rfl
  · rfl

/-! ### Vest -/

theorem capture_mbox (s : State) (p : PartIx) (step : Word) (attempt : Nat) (r : VRec) : (capture s p step attempt r).mbox = s.mbox := by
  unfold capture
  refine ite_keeps State.mbox ?_ ((failStep_mbox ..).trans ((beginStop_mbox ..).trans ((partReport_mbox ..).trans (modPart_mbox ..))))
  dsimp only
  split
  · exact (sendTwin_mbox ..).trans (modPart_mbox ..)
  · exact (sendTwin_mbox ..).trans (modPart_mbox ..)
  · exact modPart_mbox ..

theorem keepVest_mbox (s : State) (p : PartIx) (keep : VestRec → Bool) : (keepVest s p keep).mbox = s.mbox := modPart_mbox ..

/-! ### Dump -/

theorem modDump_mbox (s : State) (i : Fin 4) (f : Dump → Dump) : (modDump s i f).mbox = s.mbox := rfl

theorem numberWriter_mbox (p : PartIx) (tensor : Nat) (w : Writer) (die : CellarIx) (s : State) (i : Fin 4) : (numberWriter p tensor w die s i).mbox
    = s.mbox :=
  ite_keeps State.mbox (ite_keeps State.mbox ((traceEvent_mbox ..).trans (modDump_mbox ..)) (modDump_mbox ..)) rfl

theorem dumpSee_mbox (s : State) (p : PartIx) (tensor : Nat) (w : Writer) (die : CellarIx) : (dumpSee s p tensor w die).mbox = s.mbox :=
  ite_keeps State.mbox (each_mbox (fun _ _ => numberWriter_mbox ..) ..) rfl

theorem dumpPacket_mbox (s : State) (type source aux : Nat) (words : List Nat) : (dumpPacket s type source aux words).mbox = s.mbox :=
  ite_keeps State.mbox (packet_mbox ..) (look_mbox ..)

theorem endDump_mbox (s : State) (i : Fin 4) (st : Nat) : (endDump s i st).mbox = s.mbox := by
  unfold endDump
  refine optional_keeps State.mbox (haltWave_mbox ..) ?_
  split
  · refine (partReport_mbox ..).trans ((traceEvent_mbox ..).trans ((modDump_mbox ..).trans (ite_keeps State.mbox ?_ (dumpPacket_mbox ..))))
    split
    · exact ite_keeps State.mbox (hostWrite_mbox ..) rfl
    · rfl
  · refine (devReport_mbox ..).trans ((traceEvent_mbox ..).trans ((modDump_mbox ..).trans (ite_keeps State.mbox ?_ (dumpPacket_mbox ..))))
    split
    · exact ite_keeps State.mbox (hostWrite_mbox ..) rfl
    · rfl

theorem copySector_mbox (w : Writer) (die : CellarIx) (off : Nat) (bs : List Byte) (s : State) (i : Fin 4) : (copySector w die off bs s i).mbox =
    s.mbox := by
  unfold copySector
  refine ite_keeps State.mbox (ite_keeps State.mbox ((modDump_mbox ..).trans ((modDump_mbox ..).trans (ite_keeps State.mbox (bump_mbox ..) rfl)))
    (ite_keeps State.mbox ?_ ((dumpPacket_mbox ..).trans ((modDump_mbox ..).trans (ite_keeps State.mbox (bump_mbox ..) rfl))))) rfl
  split
  · exact (ite_keeps State.mbox (hostWrite_mbox ..) (endDump_mbox ..)).trans ((modDump_mbox ..).trans (ite_keeps State.mbox (bump_mbox ..) rfl))
  · exact (modDump_mbox ..).trans (ite_keeps State.mbox (bump_mbox ..) rfl)

theorem dumpSector_mbox (s : State) (w : Writer) (die : CellarIx) (off : Nat) (bs : List Byte) : (dumpSector s w die off bs).mbox = s.mbox :=
  ite_keeps State.mbox (each_mbox (fun _ _ => copySector_mbox ..) ..) rfl

theorem dumpRange_mbox (s : State) (w : Writer) (die : CellarIx) (off : Nat) (bs : List Byte) : (dumpRange s w die off bs).mbox = s.mbox :=
  each_mbox (fun _ _ => dumpSector_mbox ..) ..

theorem dumpDone_mbox (s : State) (w : Writer) : (dumpDone s w).mbox = s.mbox := each_mbox (fun _ _ => ite_keeps State.mbox (endDump_mbox ..) rfl) ..

theorem dumpStepEnd_mbox (s : State) (p : PartIx) (st : Nat) : (dumpStepEnd s p st).mbox = s.mbox :=
  each_mbox (fun _ _ => ite_keeps State.mbox rfl (ite_keeps State.mbox (endDump_mbox ..) (ite_keeps State.mbox (modDump_mbox ..) rfl))) ..

theorem dumpAbort_mbox (s : State) : (dumpAbort s).mbox = s.mbox := each_mbox (fun _ _ => ite_keeps State.mbox (endDump_mbox ..) rfl) ..

/-! ### Hbm -/

theorem mkReq_mbox (s : State) (who : Requester) (p : PartIx) (tensor : Nat) (write : Bool) (offs : List Nat) (data : List Byte) : (mkReq s who p
    tensor write offs data).mbox = s.mbox :=
  rfl

theorem dropReq_mbox (s : State) (id : Nat) : (dropReq s id).mbox = s.mbox := rfl

theorem cured_mbox (s : State) (c : CellarIx) : (cured s c).mbox = s.mbox := (modCellar_mbox ..).trans (countG_mbox ..)

/-! ### Tokens -/

theorem sendToken_mbox (s : State) (p : PartIx) (b lcore : Nat) : (sendToken s p b lcore).mbox = s.mbox := by
  unfold sendToken
  dsimp only
  split
  · rfl
  · exact each_mbox (fun _ _ => stepFrame_mbox ..) ..

theorem judgeToken_mbox (s : State) (d : DieIx) (t : Tok) : (judgeToken s d t).mbox = s.mbox :=
  ite_keeps State.mbox (modSluice_mbox ..) (ite_keeps State.mbox (modSluice_mbox ..) (modSluice_mbox ..))

/-! ### Stream -/

theorem modStream_mbox (s : State) (d : DieIx) (phys : Nat) (f : SCtx → SCtx) : (modStream s d phys f).mbox = s.mbox := modSluice_mbox ..

theorem hostAsk_mbox (s : State) (d : DieIx) (phys : Nat) : (hostAsk s d phys).mbox = s.mbox := by
  unfold hostAsk
  split
  · rfl
  · refine ite_keeps State.mbox rfl (ite_keeps State.mbox (modStream_mbox ..) (ite_keeps State.mbox rfl ?_))
    refine (each_mbox (fun s r => ?_) ..).trans (modStream_mbox ..)
    exact emit_mbox ..

theorem hostAskAll_mbox (s : State) (d : DieIx) (phys : Nat) : (hostAskAll s d phys).mbox = s.mbox := each_mbox (fun _ _ => hostAsk_mbox ..) ..

theorem execSstart_keeps (n : CoreIx) (g : Guard) (saSrc saDst : Reg) (sctx : Fin 64) (desc : BitVec 16) (cnt : Option Cnt) (s : State) : KeepsMbox s
    (execSstart n g saSrc saDst sctx desc cnt s) := by
  unfold execSstart
  refine keeps_next (issue_mbox (fun _ _ _ _ => ?_) ..)
  dsimp only
  split
  · exact operandRange_mbox ..
  · exact headgate_mbox (fun _ => (hostAskAll_mbox ..).trans ((advance_mbox ..).trans ((modCore_mbox ..).trans ((modPart_mbox ..).trans
      (modSluice_mbox ..))))) ..

theorem execSrelease_keeps (n : CoreIx) (g : Guard) (saOff : Reg) (lines : Nat) (cnt : Option Cnt) (s : State) : KeepsMbox s (execSrelease n g saOff
    lines cnt s) :=
  keeps_next (issue_mbox (fun _ _ _ _ => ite_keeps State.mbox (operandRange_mbox ..) (headgate_mbox (fun _ => (advance_mbox ..).trans (modCore_mbox
    ..)) ..)) ..)

theorem execSreleaseRecord_keeps (n : CoreIx) (s : State) : KeepsMbox s (execSreleaseRecord n s) := by
  unfold execSreleaseRecord
  refine keeps_ite (keeps_next rfl) ?_
  split
  · exact keeps_ite (keeps_next rfl) (keeps_next ((wake_mbox ..).trans ((incCnt_mbox ..).trans (modCore_mbox ..))))
  · exact keeps_next rfl

theorem refill_mbox (s : State) (d : DieIx) : (refill s d).mbox = s.mbox := modSluice_mbox ..

theorem writeChunk_mbox (s : State) (d : DieIx) (phys : Nat) (x : SCtx) (c : Nat) (bs : List Byte) : (writeChunk s d phys x c bs).mbox = s.mbox :=
  ite_keeps State.mbox (mkReq_mbox ..) rfl

theorem grant_mbox (s : State) (d : DieIx) (phys : Nat) (x : SCtx) : (grant s d phys x).mbox = s.mbox := by
  unfold grant
  dsimp only
  split
  · exact (mkReq_mbox ..).trans ((modStream_mbox ..).trans (optional_keeps State.mbox (modCore_mbox ..) ((modSluice_mbox ..).trans (countG_mbox ..))))
  · exact (hostAskAll_mbox ..).trans ((writeChunk_mbox ..).trans ((modStream_mbox ..).trans (optional_keeps State.mbox (modCore_mbox ..)
      ((modSluice_mbox ..).trans (countG_mbox ..)))))

theorem grantAll_mbox (s : State) (d : DieIx) (room : Nat) (busy : List CoreIx) (l : List (Nat × Nat)) : (grantAll s d room busy l).mbox = s.mbox := by
  induction l generalizing s room busy with
  | nil => cases room <;> rfl
  | cons e rest ih =>
    obtain - | room := room
    · rfl
    · unfold grantAll
      split
      · exact ih ..
      · exact ite_keeps State.mbox ((ih ..).trans (grant_mbox ..)) (ih ..)

theorem takeStarts_mbox (s : State) (d : DieIx) : (takeStarts s d).mbox = s.mbox := by
  unfold takeStarts
  refine each_mbox (fun _ _ => ?_) ..
  split
  · exact (wake_mbox ..).trans ((modStream_mbox ..).trans (modCore_mbox ..))
  · exact modCore_mbox ..

theorem execSluiceGrant_keeps (d : DieIx) (s : State) : KeepsMbox s (execSluiceGrant d s) :=
  keeps_ite (keeps_next rfl) (keeps_next ((each_mbox (fun _ _ => hostAskAll_mbox ..) ..).trans ((grantAll_mbox ..).trans ((modSluice_mbox ..).trans
    ((modSluice_mbox ..).trans ((takeStarts_mbox ..).trans (refill_mbox ..)))))))

theorem idleStream_mbox (s : State) (d : DieIx) (phys : Nat) : (idleStream s d phys).mbox = s.mbox := modSluice_mbox ..

theorem streamFault_mbox (s : State) (d : DieIx) (phys : Nat) (f : EngFault) : (streamFault s d phys f).mbox = s.mbox := by
  unfold streamFault
  split
  · rfl
  · exact (engineFault_mbox ..).trans ((modSluice_mbox ..).trans (ite_keeps State.mbox (idleStream_mbox ..) (modStream_mbox ..)))

theorem sendCredit_mbox (s : State) (p : PartIx) (c : ChannelE) : (sendCredit s p c).mbox = s.mbox := (stepFrame_mbox ..).trans (modPart_mbox ..)

theorem tookFromRing_mbox (s : State) (p : PartIx) (ch pos len : Nat) : (tookFromRing s p ch pos len).mbox = s.mbox := by
  unfold tookFromRing
  dsimp only
  split
  · exact optional_keeps State.mbox (sendCredit_mbox ..) (modPart_mbox ..)
  · exact modPart_mbox ..

theorem sendChunk_mbox (s : State) (d : DieIx) (phys : Nat) (x : SCtx) (c : Nat) (bs : List Byte) : (sendChunk s d phys x c bs).mbox = s.mbox := by
  unfold sendChunk
  dsimp only
  split
  · rfl
  · refine ite_keeps State.mbox ?_ (each_mbox (fun _ _ => stepFrame_mbox ..) ..)
    split
    · rfl
    · exact ite_keeps State.mbox (modStream_mbox ..) ((stepFrame_mbox ..).trans (modStream_mbox ..))

theorem landBytes_mbox (s : State) (d : DieIx) (phys : Nat) (x : SCtx) (c : Nat) (bs : List Byte) : (landBytes s d phys x c bs).mbox = s.mbox := by
  unfold landBytes
  dsimp only
  split
  · exact modCore_mbox ..
  · rfl
  · rfl
  · exact each_mbox (fun _ _ => hostWrite_mbox ..) ..
  · exact sendChunk_mbox ..

theorem captureInput_mbox (s : State) (x : SCtx) (c : Nat) (bs : List Byte) : (captureInput s x c bs).mbox = s.mbox :=
  ite_keeps State.mbox rfl (capture_mbox ..)

theorem execChunkWritten_keeps (d : DieIx) (phys : Fin 8192) (fault : Option EngFault) (s : State) : KeepsMbox s (execChunkWritten d phys fault s) := by
  unfold execChunkWritten
  refine keeps_ite (keeps_next rfl) ?_
  split
  · exact keeps_next rfl
  · split
    · exact keeps_next (streamFault_mbox ..)
    · split
      · exact keeps_ite (keeps_next rfl) (keeps_next ((wake_mbox ..).trans (optional_keeps State.mbox (idleStream_mbox ..) (optional_keeps State.mbox
          ((emit_mbox ..).trans (modStream_mbox ..)) (optional_keeps State.mbox (tookFromRing_mbox ..) ((modStream_mbox ..).trans ((landBytes_mbox
          ..).trans (captureInput_mbox ..))))))))
      · exact keeps_next rfl

theorem execStreamComplete_keeps (d : DieIx) (phys : Fin 8192) (s : State) : KeepsMbox s (execStreamComplete d phys s) := by
  unfold execStreamComplete
  refine keeps_ite (keeps_next rfl) ?_
  split
  · exact keeps_next rfl
  · refine keeps_ite (keeps_next ((wake_mbox ..).trans (ite_keeps State.mbox ?_ ?_))) (keeps_next rfl)
    · split
      · refine (sendCredit_mbox ..).trans ?_
        split
        · exact (sendToken_mbox ..).trans ((dumpDone_mbox ..).trans ((incCnt_mbox ..).trans (idleStream_mbox ..)))
        · exact (dumpDone_mbox ..).trans ((incCnt_mbox ..).trans (idleStream_mbox ..))
      · split
        · exact (sendToken_mbox ..).trans ((dumpDone_mbox ..).trans ((incCnt_mbox ..).trans (idleStream_mbox ..)))
        · exact (dumpDone_mbox ..).trans ((incCnt_mbox ..).trans (idleStream_mbox ..))
    · split
      · exact (sendToken_mbox ..).trans ((dumpDone_mbox ..).trans ((incCnt_mbox ..).trans (idleStream_mbox ..)))
      · exact (dumpDone_mbox ..).trans ((incCnt_mbox ..).trans (idleStream_mbox ..))

/-! ### Burst -/

theorem setMap_mbox (s : State) (p : PartIx) (b : Nat) (e : MapE) : (setMap s p b e).mbox = s.mbox := rfl

theorem openTracker_mbox (s : State) (c : CellarIx) (r : Req) (block : Nat) : (openTracker s c r block).mbox = s.mbox := by
  unfold openTracker
  split
  · rfl
  · exact modCellar_mbox ..

theorem withHbm_mbox (s : State) (m : Tbl Byte) : ({ s with hbm := m } : State).mbox = s.mbox := rfl

theorem copyRetained_mbox {s t : State} {p : PartIx} {b : Nat} (h : copyRetained s p b = some t) : t.mbox = s.mbox := by
  simp only [copyRetained] at h
  split at h
  · injection h with h; rw [← h]
  · split at h
    · contradiction
    · refine (congrArg State.mbox (Option.some.inj h)).symm.trans ?_
      rw [setMap_mbox, setTag_mbox, withHbm_mbox, countG_mbox, countG_mbox]

theorem prepare_mbox {s t : State} {c : CellarIx} {r : Req} (h : prepare s c r = some t) : t.mbox = s.mbox := by
  unfold prepare at h
  split at h
  · contradiction
  · next u hu =>
    injection h with h
    rw [← h]
    exact (modReq_mbox ..).trans ((each_mbox (fun s b => markPage_mbox ..) ..).trans (foldl_bind_keeps State.mbox (fun _ _ _ => copyRetained_mbox) hu))

theorem joinPieces_mbox (s : State) (c : CellarIx) (r : Req) : (joinPieces s c r).mbox = s.mbox := by
  unfold joinPieces
  refine (modReq_mbox ..).trans ?_
  dsimp only
  split
  · exact (dumpSee_mbox ..).trans ((modCellar_mbox ..).trans ((modCellar_mbox ..).trans (each_mbox (fun _ _ => openTracker_mbox ..) ..)))
  · exact (modCellar_mbox ..).trans ((modCellar_mbox ..).trans (each_mbox (fun _ _ => openTracker_mbox ..) ..))

theorem takeRequest_mbox {s0 s : State} (h : s.mbox = s0.mbox) (c : CellarIx) (req : Nat) : (takeRequest s0 s c req).mbox = s0.mbox := by
  unfold takeRequest
  split
  · rfl
  · exact ite_keeps State.mbox rfl ((joinPieces_mbox ..).trans h)

theorem failReq_mbox (s : State) (c : CellarIx) (r : Req) (block : Nat) (causes : List TagCause) : (failReq s c r block causes).mbox = s.mbox := by
  unfold failReq
  split
  · rfl
  · dsimp only
    split
    · exact (modReq_mbox ..).trans ((readEvents_mbox ..).trans (logTagFail_mbox ..))
    · exact (streamFault_mbox ..).trans ((modReq_mbox ..).trans ((readEvents_mbox ..).trans (logTagFail_mbox ..)))

theorem dumpPiece_mbox (s : State) (c : CellarIx) (r : Req) (base : Nat) : (dumpPiece s c r base).mbox = s.mbox := by
  unfold dumpPiece
  split
  · exact each_mbox (fun _ _ => dumpSector_mbox ..) ..
  · rfl

theorem issuePiece_mbox (s : State) (c : CellarIx) (r : Req) (base : Nat) (err : ReadErr) : (issuePiece s c r base err).mbox = s.mbox := by
  unfold issuePiece
  refine (ite_keeps State.mbox (ite_keeps State.mbox (failReq_mbox ..) (optional_keeps State.mbox (setTag_mbox ..) ((dumpPiece_mbox ..).trans
    ((writeBlock_mbox ..).trans (spoil_mbox ..))))) ((ite_keeps State.mbox rfl ((failReq_mbox ..).trans (ite_keeps State.mbox (cured_mbox ..)
    rfl))).trans (modReq_mbox ..))).trans (optional_keeps State.mbox (modCellar_mbox ..) ((modCellar_mbox ..).trans ?_))
  split
  · exact (countP_mbox ..).trans (countG_mbox ..)
  · exact countG_mbox ..

theorem finishReq_mbox (s : State) (r : Req) : (finishReq s r).mbox = s.mbox := by
  unfold finishReq
  split
  · exact ite_keeps State.mbox rfl (dropReq_mbox ..)
  · dsimp only
    split
    · exact dropReq_mbox ..
    · exact (ite_keeps State.mbox (modStream_mbox ..) (ite_keeps State.mbox (optional_keeps State.mbox (idleStream_mbox ..) (modStream_mbox ..))
        ((writeChunk_mbox ..).trans (modStream_mbox ..)))).trans (dropReq_mbox ..)

theorem issueBase_mbox (s : State) (c : CellarIx) (q : Piece) (err : ReadErr) : (issueBase s c q err).mbox = s.mbox := by
  unfold issueBase
  refine (each_mbox (fun _ _ => ?_) ..).trans (modCellar_mbox ..)
  dsimp only
  split
  · rfl
  · split
    · exact optional_keeps State.mbox (finishReq_mbox ..) (issuePiece_mbox ..)
    · exact issuePiece_mbox ..

theorem settleBlock_mbox (s : State) (c : CellarIx) (b : Nat) : (settleBlock s c b).mbox = s.mbox :=
  each_mbox (fun _ _ => ite_keeps State.mbox (issueBase_mbox ..) rfl) ..

theorem execBurstIssue_keeps (c : CellarIx) (pc : Fin 32) (err : ReadErr) (reread : Bool) (s : State) : KeepsMbox s (execBurstIssue c pc err reread s) := by
  unfold execBurstIssue
  refine keeps_ite (keeps_next rfl) ?_
  split
  · exact keeps_next rfl
  · exact keeps_next (issueBase_mbox ..)

theorem failDown_mbox (s : State) (c : CellarIx) (r : Req) : (failDown s c r).mbox = s.mbox := by
  unfold failDown
  dsimp only
  split
  · refine optional_keeps State.mbox (finishReq_mbox ..) ?_
    split
    · exact (streamFault_mbox ..).trans ((modReq_mbox ..).trans (modReq_mbox ..))
    · exact (ite_keeps State.mbox rfl (modReq_mbox ..)).trans ((accessError_mbox ..).trans (modReq_mbox ..))
  · split
    · exact (streamFault_mbox ..).trans ((modReq_mbox ..).trans (modReq_mbox ..))
    · exact (ite_keeps State.mbox rfl (modReq_mbox ..)).trans ((accessError_mbox ..).trans (modReq_mbox ..))

theorem failTaken_mbox (s : State) (c : CellarIx) : (failTaken s c).mbox = s.mbox := by
  unfold failTaken
  refine (each_mbox (fun _ _ => ?_) ..).trans (modCellar_mbox ..)
  split
  · rfl
  · exact failDown_mbox ..

theorem execCellarRequest_keeps (c : CellarIx) (req : Nat) (s : State) : KeepsMbox s (execCellarRequest c req s) := by
  unfold execCellarRequest
  refine keeps_ite (keeps_next rfl) ?_
  split
  · exact keeps_next rfl
  · refine keeps_ite (keeps_next rfl) (keeps_ite (keeps_next (failDown_mbox ..)) ?_)
    split
    · exact keeps_next rfl
    · next h => exact keeps_next (takeRequest_mbox (prepare_mbox h) ..)

theorem performReq_mbox (s : State) (r : Req) : (performReq s r).mbox = s.mbox := by
  unfold performReq
  refine each_mbox (fun _ _ => ?_) ..
  split
  · rfl
  · refine ite_keeps State.mbox (failDown_mbox ..) ((each_mbox (fun _ _ => settleBlock_mbox ..) ..).trans (ite_keeps State.mbox rfl ?_))
    split
    · rfl
    · next t h =>
        split
        · exact (joinPieces_mbox ..).trans (prepare_mbox h)
        · exact prepare_mbox h

theorem landNow_mbox (s : State) (d : DieIx) (phys c : Nat) : (landNow s d phys c).mbox = s.mbox := by
  unfold landNow
  dsimp only
  split
  · split
    · refine (performReq_mbox ..).trans ?_
      split
      · exact performReq_mbox ..
      · rfl
    · split
      · exact performReq_mbox ..
      · rfl
  · split
    · refine (landBytes_mbox ..).trans ((ite_keeps State.mbox rfl (captureInput_mbox ..)).trans ?_)
      split
      · refine (performReq_mbox ..).trans ?_
        split
        · exact performReq_mbox ..
        · rfl
      · split
        · exact performReq_mbox ..
        · rfl
    · split
      · refine (performReq_mbox ..).trans ?_
        split
        · exact performReq_mbox ..
        · rfl
      · split
        · exact performReq_mbox ..
        · rfl

theorem endStreams_mbox (s : State) (p : PartIx) : (endStreams s p).mbox = s.mbox :=
  each_mbox (fun _ _ => each_mbox (fun _ _ => (idleStream_mbox ..).trans (each_mbox (fun _ _ => landNow_mbox ..) ..)) ..) ..

/-! ### Scale -/

theorem putHist_mbox (s : State) (p : PartIx) (h : HistAt) (k : Nat) (e : HistE) : (putHist s p h k e).mbox = s.mbox := by
  unfold putHist
  split
  · exact modCellar_mbox ..
  · exact writeBlock_mbox ..

theorem loadHists_mbox (s : State) (p : PartIx) (t : Tbl (Tbl HistE)) : (loadHists s p t).mbox = s.mbox :=
  each_mbox (fun _ _ => each_mbox (fun _ _ => putHist_mbox ..) ..) ..

theorem packHists_mbox (s : State) (c : CellarIx) : (packHists s c).mbox = s.mbox :=
  foldl_fst_mbox (fun _ _ => (each_mbox (fun _ _ => putHist_mbox ..) ..).trans (modPart_mbox ..)) ..

theorem makeRoom_mbox (s : State) (c : CellarIx) (n : Nat) : (makeRoom s c n).mbox = s.mbox := ite_keeps State.mbox rfl (packHists_mbox ..)

theorem createHists_mbox (s : State) (p : PartIx) (im : Image) : (createHists s p im).mbox = s.mbox :=
  (each_mbox (fun _ _ => (each_mbox (fun _ _ => putHist_mbox ..) ..).trans ((modPart_mbox ..).trans (makeRoom_mbox ..))) ..).trans (modPart_mbox ..)

theorem moveHists_mbox (s : State) (p : PartIx) : (moveHists s p).mbox = s.mbox := by
  unfold moveHists
  refine each_mbox (fun _ _ => ?_) ..
  split
  · rfl
  · exact optional_keeps State.mbox ((each_mbox (fun _ _ => putHist_mbox ..) ..).trans (modPart_mbox ..)) (makeRoom_mbox ..)

theorem setScales_mbox (s : State) (p : PartIx) : (setScales s p).mbox = s.mbox := modPart_mbox ..

theorem recordAmax_mbox (s : State) (p : PartIx) (t : TensorE) (xs : List (W32 × Bool)) : (recordAmax s p t xs).mbox = s.mbox :=
  ite_keeps State.mbox (modPart_mbox ..) rfl

theorem flipHistories_mbox (s : State) (p : PartIx) (k : Nat) : (flipHistories s p k).mbox = s.mbox :=
  (moveHists_mbox ..).trans ((modPart_mbox ..).trans (each_mbox (fun _ _ => putHist_mbox ..) ..))

/-! ### Update -/

theorem engineRead_mbox (s : State) (p : PartIx) (t : TensorE) (off len : Nat) (err : ReadErr) : (engineRead s p t off len err).1.mbox = s.mbox :=
  (countG_mbox ..).trans (optional_keeps State.mbox (cured_mbox ..) (settleBlock_mbox ..))

theorem readGranule_mbox (s : State) (p : PartIx) (t : TensorE) (g : Nat) (err : ReadErr) : (readGranule s p t g err).1.mbox = s.mbox :=
  engineRead_mbox ..

theorem windowBytes_mbox (s : State) (a len : Nat) : (windowBytes s a len).1.mbox = s.mbox :=
  ite_fst_mbox (accessError_mbox ..) (ite_fst_mbox ((freeBytes_mbox ..).trans ((readEvents_mbox ..).trans ((logTagFail_mbox ..).trans ((bump_mbox
    ..).trans ((countG_mbox ..).trans (settleBlock_mbox ..)))))) ((bump_mbox ..).trans ((countG_mbox ..).trans (settleBlock_mbox ..))))

theorem windowStore_mbox (s : State) (a : Nat) (bs : List Byte) (version fold : Nat) : (windowStore s a bs version fold).mbox = s.mbox :=
  (ite_keeps State.mbox ((readEvents_mbox ..).trans (logTagFail_mbox ..)) (looseWrite_mbox ..)).trans ((bump_mbox ..).trans (countG_mbox ..))

theorem updBoundary_mbox (s : State) (c : CellarIx) : (updBoundary s c).mbox = s.mbox := ite_keeps State.mbox rfl (modUpd_mbox ..)

theorem reportLost_mbox (s : State) (c : CellarIx) (b : Nat) : (reportLost s c b).mbox = s.mbox := by
  unfold reportLost
  dsimp only
  split
  · exact (partReport_mbox ..).trans (modCellar_mbox ..)
  · exact (devReport_mbox ..).trans (modCellar_mbox ..)

theorem cellarFault_mbox (s : State) (p : PartIx) : (cellarFault s p).mbox = s.mbox := (failStep_mbox ..).trans (beginStop_mbox ..)

theorem writeTarget_mbox (s : State) (p : PartIx) (red : Nat) (t : TensorE) (g : Nat) (sum : List W32) : (writeTarget s p red t g sum).mbox = s.mbox :=
  (dumpRange_mbox ..).trans ((engineWrite_mbox ..).trans ((settleBlock_mbox ..).trans ((countG_mbox ..).trans (dumpSee_mbox ..))))

theorem closeSum_mbox (s : State) (c : CellarIx) (p : PartIx) (e : ReductionE) (g : Nat) : (closeSum s c p e g).mbox = s.mbox := by
  unfold closeSum
  split
  · rfl
  · refine ite_keeps State.mbox rfl ?_
    split
    · rfl
    · exact (updBoundary_mbox ..).trans ((sampleReduction_mbox ..).trans ((countP_mbox ..).trans (optional_keeps State.mbox (dumpDone_mbox ..)
        ((modUpd_mbox ..).trans (writeTarget_mbox ..)))))

theorem stagingFault_mbox (s : State) (c : CellarIx) (p : PartIx) (err : Staging) : (stagingFault s c p err).1.mbox = s.mbox := by
  unfold stagingFault
  dsimp only
  split
  · exact ite_keeps State.mbox (modUpd_mbox ..) rfl
  · exact (cellarFault_mbox ..).trans ((modUpd_mbox ..).trans (ite_keeps State.mbox (modUpd_mbox ..) rfl))

theorem engineReadFails_mbox (s : State) (p : PartIx) (source b : Nat) (ks : List TagCause) : (engineReadFails s p source b ks).mbox = s.mbox :=
  (cellarFault_mbox ..).trans ((reportLost_mbox ..).trans ((readEvents_mbox ..).trans (logTagFail_mbox ..)))

theorem park_mbox (s : State) (c : CellarIx) (y : Parked) : (park s c y).1.mbox = s.mbox := ite_fst_mbox (modUpd_mbox ..) (modUpd_mbox ..)

theorem contribute_mbox (s : State) (c : CellarIx) (p : PartIx) (e : ReductionE) (g i : Nat) (vals : List W32) : (contribute s c p e g i vals).1.mbox
    = s.mbox :=
  ite_fst_mbox (modUpd_mbox ..) (ite_fst_mbox (park_mbox ..) (ite_fst_mbox (modUpd_mbox ..) ((closeSum_mbox ..).trans (modUpd_mbox ..))))

theorem soloFeed_mbox (s : State) (p : PartIx) (e : ReductionE) (g fuel : Nat) : (soloFeed s p e g fuel).mbox = s.mbox := by
  induction fuel generalizing s with
  | zero => rfl
  | succ fuel ih =>
    unfold soloFeed
    split
    · rfl
    · split
      · rfl
      · dsimp only
        split
        · rfl
        · refine ite_keeps State.mbox rfl ?_
          split
          · next t h => exact (ih _).trans (fst_mbox h (contribute_mbox ..))
          · next t h => exact fst_mbox h (contribute_mbox ..)

theorem soloFeedAll_mbox (s : State) (p : PartIx) : (soloFeedAll s p).mbox = s.mbox := by
  unfold soloFeedAll
  split
  · rfl
  · exact each_mbox (fun _ _ => each_mbox (fun _ _ => soloFeed_mbox ..) ..) ..

theorem resumeParked_mbox (s : State) (c : CellarIx) (p : PartIx) : (resumeParked s c p).mbox = s.mbox := by
  unfold resumeParked
  refine ite_keeps State.mbox rfl ((updBoundary_mbox ..).trans (optional_keeps State.mbox (soloFeedAll_mbox ..) ((each_mbox (fun _ _ => ?_) ..).trans
    (modUpd_mbox ..))))
  dsimp only
  split
  · rfl
  · exact (closeSum_mbox ..).trans ((modUpd_mbox ..).trans (modUpd_mbox ..))

theorem execLocalContribution_keeps (c : CellarIx) (p : PartIx) (red : Nat) (x : GranuleRead) (s : State) :
    KeepsMbox s (execLocalContribution c p red x s) := by
  unfold execLocalContribution
  refine keeps_ite (keeps_next rfl) ?_
  dsimp only
  split
  · exact keeps_next rfl
  · split
    · refine keeps_ite (keeps_next rfl) ?_
      split
      · next ht => exact keeps_next (fst_mbox ht (stagingFault_mbox ..))
      · next ht =>
        have staged := fst_mbox ht (stagingFault_mbox ..)
        split
        · next hr =>
          have read := (fst_mbox hr (readGranule_mbox ..)).trans staged
          split
          · next hc =>
            refine keeps_next ((updBoundary_mbox ..).trans ?_)
            exact optional_keeps State.mbox (soloFeedAll_mbox ..) ((modUpd_mbox ..).trans ((fst_mbox hc (contribute_mbox ..)).trans read))
          · next hc => exact keeps_next ((fst_mbox hc (contribute_mbox ..)).trans read)
        · next hr => exact keeps_next ((engineReadFails_mbox ..).trans ((fst_mbox hr (readGranule_mbox ..)).trans staged))
    · exact keeps_next rfl

theorem openShadow_mbox {s t : State} {p : PartIx} {b : Nat} (h : openShadow s p b = some t) : t.mbox = s.mbox := by
  unfold openShadow at h
  dsimp only at h
  split at h
  · injection h with h; rw [← h]
  · split at h
    · contradiction
    · injection h with h
      rw [← h]
      exact (setMap_mbox ..).trans ((engineWrite_mbox ..).trans ((countG_mbox ..).trans ((countG_mbox ..).trans (settleBlock_mbox ..))))

theorem flipVersions_mbox (s : State) (p : PartIx) : (flipVersions s p).mbox = s.mbox := by
  unfold flipVersions
  refine each_mbox (fun _ _ => ?_) ..
  split
  · rfl
  · exact (setMap_mbox ..).trans (ite_keeps State.mbox rfl rfl)

theorem freeShadows_mbox (s : State) (p : PartIx) : (freeShadows s p).mbox = s.mbox := by
  unfold freeShadows
  refine each_mbox (fun _ _ => ?_) ..
  split
  · rfl
  · exact setMap_mbox ..

theorem freeRetained_mbox (s : State) (p : PartIx) : (freeRetained s p).mbox = s.mbox := by
  unfold freeRetained
  refine (modPart_mbox ..).trans (each_mbox (fun _ _ => ?_) ..)
  dsimp only
  split
  · rfl
  · exact setMap_mbox ..

theorem execSweepEntry_keeps (c : CellarIx) (s : State) : KeepsMbox s (execSweepEntry c s) := by
  unfold execSweepEntry
  refine keeps_ite (keeps_next rfl) ?_
  split
  · exact keeps_next rfl
  · exact keeps_next rfl

theorem activateOn_mbox (s : State) (c : CellarIx) (p : PartIx) (e : BindingE) (k : Nat) : (activateOn s c p e k).mbox = s.mbox := by
  unfold activateOn
  dsimp only
  split
  · exact modUpd_mbox ..
  · split
    · exact (modUpd_mbox ..).trans ((bump_mbox ..).trans (optional_keeps State.mbox (cured_mbox ..) ((countG_mbox ..).trans (settleBlock_mbox ..))))
    · exact (engineReadFails_mbox ..).trans ((bump_mbox ..).trans ((countG_mbox ..).trans (settleBlock_mbox ..)))

theorem activate_mbox (s : State) (p : PartIx) : (activate s p).mbox = s.mbox := by
  unfold activate
  split
  · rfl
  · exact each_mbox (fun _ _ => ite_keeps State.mbox rfl (each_mbox (fun _ _ => ite_keeps State.mbox rfl (activateOn_mbox ..)) ..)) ..

theorem execLocalToken_keeps (d : DieIx) (ix : Nat) (s : State) : KeepsMbox s (execLocalToken d ix s) := by
  unfold execLocalToken
  refine keeps_ite (keeps_next rfl) ?_
  split
  · exact keeps_ite (keeps_next ((activate_mbox ..).trans ((wakePart_mbox ..).trans (judgeToken_mbox ..)))) (keeps_next rfl)
  · exact keeps_next rfl

theorem storeGranule_mbox (s : State) (p : PartIx) (k : Nat) (t : TensorE) (g : Nat) (raws : List Nat) : (storeGranule s p k t g raws).mbox = s.mbox := by
  unfold storeGranule
  dsimp only
  split
  · rfl
  · next u h =>
    split
    · exact openShadow_mbox h
    · exact (markPage_mbox ..).trans ((dumpRange_mbox ..).trans ((engineWrite_mbox ..).trans ((countG_mbox ..).trans ((dumpSee_mbox ..).trans
        (openShadow_mbox h)))))

theorem shadowsReady_mbox {s t : State} {p : PartIx} {k g : Nat} (h : shadowsReady s p k g = some t) : t.mbox = s.mbox :=
  foldl_bind_keeps State.mbox (fun _ _ _ => openShadow_mbox) h

theorem copyReads_mbox (s : State) (p : PartIx) (l : List (TensorE × Nat)) (errs : List ReadErr) : (copyReads s p l errs).1.mbox = s.mbox := by
  induction l generalizing s errs with
  | nil => rfl
  | cons e rest ih =>
    unfold copyReads
    split
    · next t h => exact (ih ..).trans (fst_mbox h (engineRead_mbox ..))
    · next t _ _ h => exact fst_mbox h (engineRead_mbox ..)

theorem poolWaits_mbox (s : State) (c : CellarIx) (p : PartIx) (k g : Nat) : (poolWaits s c p k g).mbox = s.mbox :=
  (ite_keeps State.mbox rfl ((partReport_mbox ..).trans (modUpd_mbox ..))).trans (modUpd_mbox ..)

theorem granuleDone_mbox (s : State) (c : CellarIx) (p : PartIx) (k g : Nat) : (granuleDone s c p k g).mbox = s.mbox := by
  unfold granuleDone
  dsimp only
  split
  · exact (modUpd_mbox ..).trans (countP_mbox ..)
  · split
    · exact (modUpd_mbox ..).trans (countP_mbox ..)
    · exact (updBoundary_mbox ..).trans (optional_keeps State.mbox (dumpDone_mbox ..) ((modUpd_mbox ..).trans (countP_mbox ..)))

theorem runMop_mbox (p : PartIx) (im : Image) (e : BindingE) (consts : List W32) (g : Nat) (x : GranSt) (w : W32) :
    (runMop p im e consts g x w).s.mbox = x.s.mbox := by
  unfold runMop
  dsimp only
  split
  · split
    · rfl
    · exact readGranule_mbox ..
  · split
    · rfl
    · exact ite_keeps State.mbox (recordAmax_mbox ..) ((storeGranule_mbox ..).trans (recordAmax_mbox ..))
  · split
    · rfl
    · exact ite_keeps State.mbox (recordAmax_mbox ..) ((storeGranule_mbox ..).trans (recordAmax_mbox ..))
  · rfl

theorem runGranule_mbox (s : State) (c : CellarIx) (p : PartIx) (k g : Nat) (errs : List ReadErr) : (runGranule s c p k g errs).mbox = s.mbox := by
  unfold runGranule
  split
  · rfl
  · split
    · rfl
    · split
      · rfl
      · extract_lets b u0 w x v
        have ran : x.s.mbox = s.mbox := foldl_keeps (fun x : GranSt => x.s.mbox) (fun x w => runMop_mbox ..) ..
        have came : v.mbox = s.mbox := (modUpd_mbox ..).trans ran
        clear_value v x w u0 b
        cases x.bad with
        | nil =>
          have chosen := (sampleUpdate_mbox v c p (.update k g w x.outs)).trans came
          generalize sampleUpdate v c p (.update k g w x.outs) = r at chosen ⊢
          obtain ⟨u, _ | _⟩ := r
          · exact (granuleDone_mbox ..).trans chosen
          · exact chosen
        | cons cause causes => exact (engineReadFails_mbox ..).trans ran

theorem execUpdGranule_keeps (c : CellarIx) (staging : Staging) (reads : List ReadErr) (s : State) : KeepsMbox s (execUpdGranule c staging reads s) := by
  have ready : ∀ (u : State) (p : PartIx) (k g : Nat), ((shadowsReady u p k g).getD u).mbox = u.mbox := by
    intro u p k g
    cases h : shadowsReady u p k g with
    | none => rfl
    | some v => exact shadowsReady_mbox h
  have waited : ∀ (l : List (PartIx × Nat × Nat)) (u : State), (each l u (fun s d => poolWaits s c d.1 d.2.1 d.2.2)).mbox = u.mbox :=
    fun l u => each_mbox (fun s d => poolWaits_mbox ..) l u
  unfold execUpdGranule
  refine keeps_ite (keeps_next rfl) ?_
  dsimp only
  split
  · exact keeps_next (waited ..)
  · split
    · next t h => exact keeps_next ((fst_mbox h (stagingFault_mbox ..)).trans (waited ..))
    · next t h =>
      have staged := (fst_mbox h (stagingFault_mbox ..)).trans (waited ..)
      split
      · next h' => exact keeps_next ((engineReadFails_mbox ..).trans ((fst_mbox h' (copyReads_mbox ..)).trans staged))
      · next h' => exact keeps_next ((runGranule_mbox ..).trans ((ready ..).trans ((fst_mbox h' (copyReads_mbox ..)).trans staged)))

theorem execPoolReportMs_keeps (c : CellarIx) (s : State) : KeepsMbox s (execPoolReportMs c s) := by
  unfold execPoolReportMs
  refine keeps_ite (keeps_next rfl) ?_
  split
  · exact keeps_next rfl
  · exact keeps_next ((partReport_mbox ..).trans (modUpd_mbox ..))

theorem clearUpd_mbox (s : State) (p : PartIx) (discard : Bool) : (clearUpd s p discard).mbox = s.mbox :=
  each_mbox (fun _ _ => (updBoundary_mbox ..).trans (modUpd_mbox ..)) ..

/-! ### Ckp -/

theorem readPage_mbox (s : State) (p : PartIx) (g : Nat) (retained : Bool) (errs : List ReadErr) : (readPage s p g retained errs).1.mbox = s.mbox := by
  have settled : ∀ (l : List Nat) (u : State), (each l u (fun s j => settleBlock s (cellarOf s (blockNamed s p (16 * g + j) retained))
      (blockNamed s p (16 * g + j) retained))).mbox = u.mbox := each_mbox (fun _ _ => settleBlock_mbox ..)
  simp only [readPage]
  refine (foldl_fst_mbox (fun x j => ?_) ..).trans (settled ..)
  refine ite_fst_mbox rfl ?_
  split
  · exact optional_keeps State.mbox (cured_mbox ..) rfl
  · exact (readEvents_mbox ..).trans (logTagFail_mbox ..)

theorem modCkp_mbox (s : State) (p : PartIx) (f : Ckp → Ckp) : (modCkp s p f).mbox = s.mbox := modPart_mbox ..

theorem modWr_mbox (s : State) (p : PartIx) (f : CkpWr → CkpWr) : (modWr s p f).mbox = s.mbox := modCkp_mbox ..

theorem putObject_mbox (s : State) (p : PartIx) (kind : Nat) (cut : Word) (off : Nat) (bs : List Byte) : (putObject s p kind cut off bs).mbox = s.mbox :=
  ite_keeps State.mbox ((modWr_mbox ..).trans ((emit_mbox ..).trans (each_mbox (fun _ _ => hostWrite_mbox ..) ..))) (each_mbox (fun _ _ =>
    (modWr_mbox ..).trans (sendFrame_mbox ..)) ..)

theorem endRetention_mbox (s : State) (p : PartIx) : (endRetention s p).mbox = s.mbox := ite_keeps State.mbox (freeRetained_mbox ..) rfl

theorem abandon_mbox (s : State) (p : PartIx) (cause : Nat) : (abandon s p cause).mbox = s.mbox := by
  unfold abandon
  split
  · rfl
  · exact (partReport_mbox ..).trans ((modCkp_mbox ..).trans (endRetention_mbox ..))

theorem takeCut_mbox (s : State) (p : PartIx) : (takeCut s p).mbox = s.mbox := by
  unfold takeCut
  refine ite_keeps State.mbox rfl (ite_keeps State.mbox ?_ ?_)
  · dsimp only
    split
    · exact (putObject_mbox ..).trans (modPart_mbox ..)
    · exact (partReport_mbox ..).trans (modCkp_mbox ..)
  · dsimp only
    split
    · exact (sendFrame_mbox ..).trans (modCkp_mbox ..)
    · exact modCkp_mbox ..

theorem beginData_mbox (s : State) (p : PartIx) (m : Option Manifest) : (beginData s p m).mbox = s.mbox := modCkp_mbox ..

theorem ckpAdvance_mbox (s : State) (p : PartIx) : (ckpAdvance s p).mbox = s.mbox := by
  unfold ckpAdvance
  dsimp only
  split
  · rfl
  · refine ite_keeps State.mbox rfl ?_
    split
    · exact ite_keeps State.mbox (beginData_mbox ..) ((sendFrame_mbox ..).trans (modWr_mbox ..))
    · exact (putObject_mbox ..).trans (modWr_mbox ..)
    · exact (partReport_mbox ..).trans (modCkp_mbox ..)
    · rfl

theorem ckpAck_mbox (s : State) (p : PartIx) : (ckpAck s p).mbox = s.mbox := (ckpAdvance_mbox ..).trans (modWr_mbox ..)

theorem putRecord_mbox (s : State) (p : PartIx) (w : CkpWr) (type pos : Nat) (plain : List Byte) : (putRecord s p w type pos plain).mbox = s.mbox :=
  (modWr_mbox ..).trans (putObject_mbox ..)

theorem execCkpPageSend_keeps (x : SnapRead) (s : State) : KeepsMbox s (execCkpPageSend x s) := by
  unfold execCkpPageSend
  refine keeps_ite (keeps_next rfl) ?_
  dsimp only
  split
  · exact keeps_next rfl
  · refine keeps_ite (keeps_next rfl) ?_
    split
    · refine keeps_ite (keeps_next (abandon_mbox ..)) (keeps_next ?_)
      split
      · exact optional_keeps State.mbox ((ckpAdvance_mbox ..).trans ((modWr_mbox ..).trans (endRetention_mbox ..))) ((modWr_mbox ..).trans
          (putRecord_mbox ..))
      · exact (modWr_mbox ..).trans (putRecord_mbox ..)
    · split
      · refine keeps_next ?_
        split
        · exact ite_keeps State.mbox ((ckpAdvance_mbox ..).trans ((modWr_mbox ..).trans (endRetention_mbox ..))) rfl
        · rfl
      · refine keeps_ite (keeps_next (abandon_mbox ..)) ?_
        split
        · next t h =>
            exact keeps_next (fst_mbox h (readPage_mbox ..))
        · next t h =>
            refine keeps_next ?_
            split
            · exact optional_keeps State.mbox ((ckpAdvance_mbox ..).trans ((modWr_mbox ..).trans (endRetention_mbox ..))) ((modCkp_mbox ..).trans
                ((modWr_mbox ..).trans ((putRecord_mbox ..).trans ((countG_mbox ..).trans (fst_mbox h (readPage_mbox ..))))))
            · exact (modCkp_mbox ..).trans ((modWr_mbox ..).trans ((putRecord_mbox ..).trans ((countG_mbox ..).trans (fst_mbox h (readPage_mbox
                ..)))))

theorem execCkpTimeout_keeps (p : PartIx) (s : State) : KeepsMbox s (execCkpTimeout p s) := by
  unfold execCkpTimeout
  refine keeps_ite (keeps_next rfl) ?_
  split
  · exact keeps_next rfl
  · exact keeps_next (ite_keeps State.mbox (abandon_mbox ..) rfl)

theorem manifestData_mbox (s : State) (p : PartIx) (off : Nat) (obj : Word) (bytes : List Byte) : (manifestData s p off obj bytes).mbox = s.mbox := by
  unfold manifestData
  dsimp only
  split
  · exact ite_keeps State.mbox (beginData_mbox ..) rfl
  · rfl

/-! ### Memory -/

theorem scrubOne_mbox (s : State) (c : CellarIx) (b : Nat) (err : ReadErr) : (scrubOne s c b err).mbox = s.mbox := by
  unfold scrubOne
  dsimp only
  split
  · exact optional_keeps State.mbox (cured_mbox ..) ((countG_mbox ..).trans (settleBlock_mbox ..))
  · exact (readEvents_mbox ..).trans ((modCellar_mbox ..).trans ((countG_mbox ..).trans (settleBlock_mbox ..)))

theorem execScrubBlock_keeps (c : CellarIx) (err : ReadErr) (s : State) : KeepsMbox s (execScrubBlock c err s) :=
  keeps_ite (keeps_next rfl) (keeps_ite (keeps_next rfl) (keeps_ite (keeps_next ((modCellar_mbox ..).trans (modCellar_mbox ..))) (keeps_next
    ((scrubOne_mbox ..).trans (modCellar_mbox ..)))))

theorem execScrubRetry_keeps (c : CellarIx) (x : BlockRead) (s : State) : KeepsMbox s (execScrubRetry c x s) :=
  keeps_ite (keeps_next rfl) (keeps_ite (keeps_next ((scrubOne_mbox ..).trans (modCellar_mbox ..))) (keeps_next rfl))

theorem pcFenceEffect_mbox (s : State) (c : CellarIx) : (pcFenceEffect s c).mbox = s.mbox := by
  unfold pcFenceEffect
  split
  · rfl
  · simp only [markFenced_mbox, modCellar_mbox]

theorem pcFencePass_mbox (s : State) (p : PartIx) : (pcFencePass s p).mbox = s.mbox := by
  unfold pcFencePass
  refine each_mbox (fun _ _ => ?_) ..
  split
  · exact ite_keeps State.mbox (optional_keeps State.mbox (pcFenceEffect_mbox ..) (modCellar_mbox ..)) rfl
  · rfl

theorem loseBlock_mbox (s : State) (c : CellarIx) (b : Nat) : (loseBlock s c b).mbox = s.mbox := (reportLost_mbox ..).trans (modCellar_mbox ..)

theorem execRemapCopy_keeps (x : StackRead) (s : State) : KeepsMbox s (execRemapCopy x s) := by
  unfold execRemapCopy
  refine keeps_ite (keeps_next rfl) ?_
  dsimp only
  split
  · exact keeps_next rfl
  · exact keeps_ite (keeps_next rfl) (keeps_ite (keeps_next ((modCellar_mbox ..).trans ((ite_keeps State.mbox (ite_keeps State.mbox (cured_mbox ..)
      rfl) (ite_keeps State.mbox rfl (loseBlock_mbox ..))).trans ((countG_mbox ..).trans ((countG_mbox ..).trans (settleBlock_mbox ..))))))
      (keeps_next (optional_keeps State.mbox (pcFenceEffect_mbox ..) ((modCellar_mbox ..).trans ((ite_keeps State.mbox (ite_keeps State.mbox
      (cured_mbox ..) rfl) (ite_keeps State.mbox rfl (loseBlock_mbox ..))).trans ((countG_mbox ..).trans ((countG_mbox ..).trans
      (settleBlock_mbox ..))))))))

theorem startWipe_mbox (s : State) : (startWipe s).mbox = s.mbox := rfl

/-! ### Rebind -/

theorem moveCore_mbox (s : State) (p : PartIx) (l : Nat) (old new : CoreIx) (share : Option Nat) : (moveCore s p l old new share).mbox = s.mbox := by
  unfold moveCore
  refine (modPart_mbox ..).trans ((modCore_mbox ..).trans ?_)
  split
  · exact modCore_mbox ..
  · rfl

theorem rebind_mbox (s : State) (p : PartIx) : (rebind s p).1.mbox = s.mbox := by
  unfold rebind
  refine foldl_fst_mbox (fun _ _ => ?_) ..
  split
  · refine ite_fst_mbox ?_ rfl
    split
    · exact moveCore_mbox ..
    · rfl
  · rfl

theorem unbindAll_mbox (s : State) (p : PartIx) : (unbindAll s p).mbox = s.mbox := (modPart_mbox ..).trans (each_mbox (fun _ _ => modCore_mbox ..) ..)

theorem bindAll_mbox (s : State) (p : PartIx) : (bindAll s p).1.mbox = s.mbox := by
  unfold bindAll
  refine foldl_fst_mbox (fun _ _ => ?_) ..
  split
  · rfl
  · dsimp only
    split
    · rfl
    · exact (modPart_mbox ..).trans (modCore_mbox ..)
    · exact (modPart_mbox ..).trans (modCore_mbox ..)

theorem haltPlan_mbox (s : State) (p : PartIx) (cause : Nat) : (haltPlan s p cause).mbox = s.mbox :=
  (pcFencePass_mbox ..).trans ((modPart_mbox ..).trans ((setPlan_mbox ..).trans (each_mbox (fun _ _ => modCore_mbox ..) ..)))

theorem applyCredit_mbox (s : State) (p : PartIx) (src spart chan limit : Nat) : (applyCredit s p src spart chan limit).mbox = s.mbox := by
  unfold applyCredit
  split
  · rfl
  · exact modPart_mbox ..

theorem freshChannels_mbox (s : State) (p : PartIx) : (freshChannels s p).mbox = s.mbox := by
  unfold freshChannels
  split
  · rfl
  · exact (each_mbox (fun _ _ => applyCredit_mbox ..) ..).trans ((modPart_mbox ..).trans (modPart_mbox ..))

theorem soloInputs_mbox (s : State) (p : PartIx) : (soloInputs s p).mbox = s.mbox := by
  unfold soloInputs
  refine (soloFeedAll_mbox ..).trans ((activate_mbox ..).trans (each_mbox (fun _ _ => ?_) ..))
  split
  · exact each_mbox (fun _ _ => judgeToken_mbox ..) ..
  · rfl

theorem startStep_mbox (s : State) (p : PartIx) : (startStep s p).mbox = s.mbox := by
  unfold startStep
  dsimp only
  split
  · exact optional_keeps State.mbox (soloInputs_mbox ..) ((each_mbox (fun _ _ => resumeParked_mbox ..) ..).trans ((activate_mbox ..).trans
      ((clearItems_mbox ..).trans ((modSed_mbox ..).trans ((traceEvent_mbox ..).trans ((each_mbox (fun _ _ => ite_keeps State.mbox ((flowPc_mbox
      ..).trans (modCore_mbox ..)) rfl) ..).trans ((each_mbox (fun _ _ => modCore_mbox ..) ..).trans (modPart_mbox ..))))))))
  · exact (each_mbox (fun _ _ => sendCredit_mbox ..) ..).trans (optional_keeps State.mbox (soloInputs_mbox ..) ((each_mbox (fun _ _ =>
      resumeParked_mbox ..) ..).trans ((activate_mbox ..).trans ((clearItems_mbox ..).trans ((modSed_mbox ..).trans ((traceEvent_mbox ..).trans
      ((each_mbox (fun _ _ => ite_keeps State.mbox ((flowPc_mbox ..).trans (modCore_mbox ..)) rfl) ..).trans ((each_mbox (fun _ _ =>
      modCore_mbox ..) ..).trans (modPart_mbox ..)))))))))

theorem settleHeld_mbox (s : State) (p : PartIx) (flip : Bool) : (settleHeld s p flip).mbox = s.mbox := by
  have cores : ∀ (l : List CoreIx) (u : State), (each l u coreFences).mbox = u.mbox := each_mbox coreFences_mbox
  have cellars : ∀ (l : List CellarIx) (u : State), (each l u updFence).mbox = u.mbox := each_mbox updFence_mbox
  simp only [settleHeld, modPart_mbox, pcFencePass_mbox, cellars, cores]

theorem settleBind_mbox (p : PartIx) (r : State × Option Nat) : (settleBind p r).1.mbox = r.1.mbox := by
  unfold settleBind
  split
  · rfl
  · simp only [partReport_mbox, haltPlan_mbox]

theorem boundary_mbox (s : State) (p : PartIx) (flip : Bool) : (boundary s p flip).1.mbox = s.mbox := by
  rw [boundary, settleBind_mbox, rebind_mbox, settleHeld_mbox]

/-! ### Steps -/

theorem modDigests_mbox (s : State) (p : PartIx) (f : Digests → Digests) : (modDigests s p f).mbox = s.mbox := modSed_mbox ..

theorem compareDigest_mbox (s : State) (p : PartIx) (rank : Nat) (v : Word) (d : BitVec 256) : (compareDigest s p rank v d).mbox = s.mbox := by
  unfold compareDigest
  split
  · rfl
  · exact (ite_keeps State.mbox (modDigests_mbox ..) ((partReport_mbox ..).trans (modSed_mbox ..))).trans (modDigests_mbox ..)

theorem clearDigests_mbox (s : State) (p : PartIx) : (clearDigests s p).mbox = s.mbox := modDigests_mbox ..

theorem digestReady_mbox (s : State) (p : PartIx) : (digestReady s p).mbox = s.mbox :=
  ite_keeps State.mbox rfl ((each_mbox (fun _ _ => compareDigest_mbox ..) ..).trans ((each_mbox (fun _ _ => sendRank_mbox ..) ..).trans
    (modDigests_mbox ..)))

theorem sendImage_mbox (s : State) (p : PartIx) : (sendImage s p).mbox = s.mbox := by
  unfold sendImage
  dsimp only
  split
  · rfl
  · exact ite_keeps State.mbox (each_mbox (fun _ _ => sendTwin_mbox ..) ..) rfl

theorem startMirror_mbox (s : State) (p : PartIx) (pages : List Nat) : (startMirror s p pages).mbox = s.mbox :=
  optional_keeps State.mbox (ite_keeps State.mbox (sendTwin_mbox ..) (digestReady_mbox ..)) ((modPart_mbox ..).trans (sendImage_mbox ..))

theorem execMirrorPage_keeps (p : PartIx) (x : PageRead) (s : State) : KeepsMbox s (execMirrorPage p x s) := by
  unfold execMirrorPage
  refine keeps_ite (keeps_next rfl) (keeps_ite (keeps_next rfl) ?_)
  dsimp only
  split
  · next t h =>
      exact keeps_next (fst_mbox h (readPage_mbox ..))
  · next t h =>
      exact keeps_ite (keeps_next ((each_mbox (fun _ _ => sendTwin_mbox ..) ..).trans ((modDigests_mbox ..).trans ((modPart_mbox ..).trans
        ((countG_mbox ..).trans (fst_mbox h (readPage_mbox ..))))))) (keeps_next (optional_keeps State.mbox (digestReady_mbox ..) ((modDigests_mbox
        ..).trans ((modPart_mbox ..).trans ((countG_mbox ..).trans (fst_mbox h (readPage_mbox ..)))))))

theorem sendMirrorAck_mbox (s : State) (p : PartIx) (kind : Nat) (v : Word) : (sendMirrorAck s p kind v).mbox = s.mbox := sendTwin_mbox ..

theorem execMirror_keeps (h : Arrival) (m : MirrorMsg) (s : State) : KeepsMbox s (execMirror h m s) := by
  unfold execMirror
  split
  · next t h =>
      exact keeps_next (arrive_error_mbox h)
  · next t h =>
      refine keeps_ite (keeps_next ((countNoTarget_mbox ..).trans (arrive_ok_mbox h))) ?_
      dsimp only
      split
      · exact keeps_ite (keeps_next ((sendMirrorAck_mbox ..).trans ((modPart_mbox ..).trans (arrive_ok_mbox h)))) (keeps_next ((modPart_mbox
          ..).trans (arrive_ok_mbox h)))
      · exact keeps_next ((ite_keeps State.mbox (sendMirrorAck_mbox ..) rfl).trans ((modPart_mbox ..).trans (arrive_ok_mbox h)))
      · exact keeps_next (optional_keeps State.mbox (modPart_mbox ..) (arrive_ok_mbox h))
      · exact keeps_next ((modPart_mbox ..).trans (arrive_ok_mbox h))

theorem releaseVest_mbox (s : State) (p : PartIx) (v : Word) : (releaseVest s p v).mbox = s.mbox := keepVest_mbox ..

theorem staleMsg_mbox (s : State) (p : PartIx) : (staleMsg s p).mbox = s.mbox := modPart_mbox ..

theorem execMirrorAck_keeps (h : Arrival) (group epoch : W32) (sender kind : Nat) (value : Word) (s : State) : KeepsMbox s (execMirrorAck h group
    epoch sender kind value s) := by
  unfold execMirrorAck
  split
  · next t h =>
      exact keeps_next (arrive_error_mbox h)
  · next t h =>
      refine keeps_ite (keeps_next ((staleMsg_mbox ..).trans (arrive_ok_mbox h))) ?_
      dsimp only
      split
      · exact keeps_next ((modPart_mbox ..).trans (arrive_ok_mbox h))
      · exact keeps_next (optional_keeps State.mbox (digestReady_mbox ..) ((releaseVest_mbox ..).trans ((modPart_mbox ..).trans (arrive_ok_mbox h))))
      · exact keeps_next (arrive_ok_mbox h)

theorem goReady_mbox (s : State) (p : PartIx) (unpaired : Bool) : (goReady s p unpaired).mbox = s.mbox :=
  optional_keeps State.mbox (partReport_mbox ..) ((traceEvent_mbox ..).trans ((sendStep_mbox ..).trans (modPart_mbox ..)))

theorem execReady_keeps (p : PartIx) (s : State) : KeepsMbox s (execReady p s) :=
  keeps_ite (keeps_next rfl) (keeps_ite (keeps_next rfl) (keeps_ite (keeps_ite (keeps_next ((sendTwin_mbox ..).trans (modPart_mbox ..))) (keeps_ite
    (keeps_next (goReady_mbox ..)) (keeps_next rfl))) (keeps_ite (keeps_ite (keeps_next rfl) (keeps_next ((partReport_mbox ..).trans (modPart_mbox
    ..)))) (keeps_next (goReady_mbox ..)))))

theorem commitStep_mbox (s : State) (p : PartIx) (t : Token) : (commitStep s p t).1.mbox = s.mbox := by
  have dropped : ∀ (l : List CoreIx) (u : State), (each l u (fun s n => modCore s n (fun c => dropFlumes (dropKept c)))).mbox = u.mbox :=
    each_mbox (fun _ _ => modCore_mbox ..)
  simp only [commitStep, boundary_mbox, dropped, freshChannels_mbox, clearUpd_mbox, apply_ite State.mbox, releaseVest_mbox, ite_self,
    startMirror_mbox, takeCut_mbox, setScales_mbox, traceEvent_mbox, countP_mbox, modPart_mbox, flipHistories_mbox, flipVersions_mbox, capture_mbox,
    dumpStepEnd_mbox]

theorem applyCommit_mbox (s : State) (p : PartIx) (t : Token) : (applyCommit s p t).mbox = s.mbox := by
  simp only [applyCommit, apply_ite State.mbox, haltPlan_mbox, startStep_mbox, modPart_mbox, commitStep_mbox, ite_self]

theorem beginDiscard_mbox (s : State) (p : PartIx) (byAbort : Bool) : (beginDiscard s p byAbort).mbox = s.mbox :=
  (modPart_mbox ..).trans (stopPart_mbox ..)

theorem execDiscardComplete_keeps (p : PartIx) (s : State) : KeepsMbox s (execDiscardComplete p s) := by
  have stored : ∀ (l : List CoreIx) (u : State), (each l u (fun s n =>
      each (ixs 4) s (fun s i =>
        each ((ctxOf s n i).accs.filter (fun a => a.store && a.space == .hall)) s (fun s a =>
          writeHall s (dieOfCore n) ((hallView s p (dieOfCore n)).1 + a.addr) (leBytes a.size a.data))))).mbox = u.mbox :=
    each_mbox (fun _ _ => each_mbox (fun _ _ => each_mbox (fun _ _ => writeHall_mbox ..) ..) ..)
  have discarded : ∀ (l : List CoreIx) (u : State), (each l u (fun s n => modCore s n (discardCore p))).mbox = u.mbox :=
    each_mbox (fun _ _ => modCore_mbox ..)
  unfold execDiscardComplete
  refine keeps_ite (keeps_next rfl) (keeps_ite (keeps_next rfl) ?_)
  simp only
  refine keeps_ite (keeps_next ?_) (keeps_ite (keeps_next ?_) (keeps_ite (keeps_next ?_) (keeps_next ?_))) <;>
    simp only [abandon_mbox, haltPlan_mbox, apply_ite State.mbox, sendStep_mbox, boundary_mbox, freshChannels_mbox, modPart_mbox, clearUpd_mbox,
      modSed_mbox, dumpStepEnd_mbox, traceEvent_mbox, countP_mbox, freeShadows_mbox, discarded, endStreams_mbox, stored, ite_self]

theorem makeToken_mbox (s : State) (p : PartIx) (kind : Nat) (version : Word) : (makeToken s p kind version).1.mbox = s.mbox := rfl

theorem broadcast_mbox (s : State) (p : PartIx) (m : StepMsg) : (broadcast s p m).mbox = s.mbox := each_mbox (fun _ _ => sendStep_mbox ..) ..

theorem applyAbort_mbox (s : State) (p : PartIx) (t : Token) : (applyAbort s p t).mbox = s.mbox := (beginDiscard_mbox ..).trans (modPart_mbox ..)

theorem tryCommit_mbox (s : State) (p : PartIx) : (tryCommit s p).mbox = s.mbox := by
  simp only [tryCommit, apply_ite State.mbox, applyCommit_mbox, broadcast_mbox, modPart_mbox, makeToken_mbox, ite_self]

theorem execCoordReady_keeps (h : Arrival) (group epoch : W32) (sender : Nat) (step : Word) (attempt : Nat) (unpaired : Bool) (s : State) : KeepsMbox
    s (execCoordReady h group epoch sender step attempt unpaired s) := by
  unfold execCoordReady
  split
  · next t h =>
      exact keeps_next (arrive_error_mbox h)
  · next t h =>
      exact keeps_ite (keeps_next ((staleMsg_mbox ..).trans (arrive_ok_mbox h))) (keeps_ite (keeps_next ((tryCommit_mbox ..).trans ((modPart_mbox
        ..).trans (arrive_ok_mbox h)))) (keeps_next (arrive_ok_mbox h)))

theorem execFail_keeps (h : Arrival) (group epoch : W32) (sender : Nat) (step : Word) (attempt : Nat) (classH : Bool) (cause : Nat) (s : State) :
    KeepsMbox s (execFail h group epoch sender step attempt classH cause s) := by
  unfold execFail
  split
  · next t h => exact keeps_next (arrive_error_mbox h)
  · next t h =>
    have came := arrive_ok_mbox h
    refine keeps_ite (keeps_next ((staleMsg_mbox ..).trans came)) (keeps_ite (keeps_ite (keeps_next ?_) (keeps_next ?_)) (keeps_next came)) <;>
      simp only [apply_ite State.mbox, applyAbort_mbox, broadcast_mbox, modPart_mbox, partReport_mbox, came, ite_self]

theorem sendStart_mbox (s : State) (p : PartIx) : (sendStart s p).mbox = s.mbox := by
  have sent : ∀ (t : Token) (l : List Nat) (u : State), (each l u (fun s r => sendStep s p r (.start t))).mbox = u.mbox :=
    fun t => each_mbox (fun _ _ => sendStep_mbox ..)
  simp only [sendStart, sent, modPart_mbox, makeToken_mbox]

theorem execDiscarded_keeps (h : Arrival) (group epoch : W32) (sender : Nat) (step : Word) (attempt : Nat) (s : State) : KeepsMbox s (execDiscarded h
    group epoch sender step attempt s) := by
  unfold execDiscarded
  split
  · next t h =>
      exact keeps_next (arrive_error_mbox h)
  · next t h =>
      exact keeps_ite (keeps_next ((staleMsg_mbox ..).trans (arrive_ok_mbox h))) (keeps_ite (keeps_next (arrive_ok_mbox h)) (keeps_ite (keeps_next
        ((modPart_mbox ..).trans (arrive_ok_mbox h))) (keeps_ite (keeps_next ((modPart_mbox ..).trans (arrive_ok_mbox h))) (keeps_ite (keeps_next
        ((partReport_mbox ..).trans ((modPart_mbox ..).trans (arrive_ok_mbox h)))) (keeps_next ((sendStart_mbox ..).trans ((modPart_mbox
        ..).trans (arrive_ok_mbox h))))))))

theorem takeToken_mbox {effect : State → State} (h : ∀ u, (effect u).mbox = u.mbox) (s : State) (p : PartIx) (group epoch : W32) (sender : Nat)
    (t : Token) (kind : Nat) (macOk : Bool) (fits : Part → Bool) : (takeToken s p group epoch sender t kind macOk fits effect).mbox = s.mbox :=
  ite_keeps State.mbox (staleMsg_mbox ..) (ite_keeps State.mbox rfl (ite_keeps State.mbox ((partReport_mbox ..).trans (modPart_mbox ..)) (ite_keeps
    State.mbox (h ..) (staleMsg_mbox ..))))

theorem execStart_keeps (h : Arrival) (group epoch : W32) (sender : Nat) (t : Token) (macOk : Bool) (s : State) : KeepsMbox s (execStart h group
    epoch sender t macOk s) := by
  unfold execStart
  split
  · next t h =>
      exact keeps_next (arrive_error_mbox h)
  · next t h =>
      exact keeps_next ((takeToken_mbox (fun _ => (capture_mbox ..).trans ((startStep_mbox ..).trans ((modPart_mbox ..).trans ((setPlan_mbox
        ..).trans (ite_keeps State.mbox (newWindow_mbox ..) rfl))))) ..).trans (arrive_ok_mbox h))

theorem execCommit_keeps (h : Arrival) (group epoch : W32) (sender : Nat) (t : Token) (macOk : Bool) (s : State) : KeepsMbox s (execCommit h group
    epoch sender t macOk s) := by
  unfold execCommit
  split
  · next t h =>
      exact keeps_next (arrive_error_mbox h)
  · next t h =>
      exact keeps_next ((takeToken_mbox (fun _ => applyCommit_mbox ..) ..).trans (arrive_ok_mbox h))

theorem execAbort_keeps (h : Arrival) (group epoch : W32) (sender : Nat) (t : Token) (macOk : Bool) (s : State) : KeepsMbox s (execAbort h group
    epoch sender t macOk s) := by
  unfold execAbort
  split
  · next t h =>
      exact keeps_next (arrive_error_mbox h)
  · next t h =>
      exact keeps_next ((takeToken_mbox (fun _ => applyAbort_mbox ..) ..).trans (arrive_ok_mbox h))

theorem execSoloCommit_keeps (p : PartIx) (s : State) : KeepsMbox s (execSoloCommit p s) := by
  unfold execSoloCommit
  refine keeps_ite (keeps_next rfl) (keeps_ite (keeps_next rfl) ?_)
  dsimp only
  split
  · exact keeps_next rfl
  · exact keeps_ite (keeps_next ((partReport_mbox ..).trans (commitStep_mbox ..))) (keeps_ite (keeps_next ((haltPlan_mbox ..).trans ((partReport_mbox
      ..).trans (commitStep_mbox ..)))) (keeps_next ((freshChannels_mbox ..).trans ((modPart_mbox ..).trans ((partReport_mbox ..).trans
      (commitStep_mbox ..))))))

theorem execCommitTimeout_keeps (p : PartIx) (s : State) : KeepsMbox s (execCommitTimeout p s) :=
  keeps_ite (keeps_next rfl) (keeps_ite (keeps_next ((partReport_mbox ..).trans (modPart_mbox ..))) (keeps_next rfl))

theorem twinLost_mbox (s : State) (p : PartIx) : (twinLost s p).mbox = s.mbox := (partReport_mbox ..).trans (modPart_mbox ..)

theorem peerLost_mbox (s : State) (p : PartIx) (port rank : Nat) : (peerLost s p port rank).mbox = s.mbox := partReport_mbox ..

theorem execPeerLost_keeps (x : Silent) (s : State) : KeepsMbox s (execPeerLost x s) := by
  unfold execPeerLost
  refine keeps_ite (keeps_next rfl) ?_
  split
  · refine keeps_ite (keeps_next (each_mbox (fun _ _ => twinLost_mbox ..) ..)) (keeps_ite (keeps_next rfl) (keeps_next (each_mbox (fun _ _ =>
      ite_keeps State.mbox ?_ rfl) ..)))
    split
    · exact peerLost_mbox ..
    · rfl
  · exact keeps_ite (keeps_next (peerLost_mbox ..)) (keeps_next rfl)
  · exact keeps_ite (keeps_next (twinLost_mbox ..)) (keeps_next rfl)

theorem execHeartbeat_keeps (p : PartIx) (s : State) : KeepsMbox s (execHeartbeat p s) := by
  unfold execHeartbeat
  refine keeps_ite (keeps_next rfl) ?_
  dsimp only
  split
  · exact keeps_next rfl
  · exact keeps_next ((emit_mbox ..).trans (reserveSeq_mbox ..))

/-! ### Fabric -/

theorem noTarget_mbox (s : State) (h : Arrival) : (noTarget s h).mbox = s.mbox := (dackFor_mbox ..).trans (countNoTarget_mbox ..)

theorem stale_mbox (s : State) (h : Arrival) : (stale s h).mbox = s.mbox := (dackFor_mbox ..).trans (countStale_mbox ..)

theorem ringWrite_mbox (s : State) (p : PartIx) (c : ChannelE) (pos : Nat) (bytes : List Byte) : (ringWrite s p c pos bytes).mbox = s.mbox := by
  simp only [ringWrite, modPart_mbox]
  refine each_mbox (fun _ _ => ?_) ..
  rfl

theorem putAccepted_mbox (s : State) (h : Arrival) (c : ChannelE) (pos : Nat) (bytes : List Byte) (b : FBody) : (putAccepted s h c pos bytes b).mbox
    = s.mbox :=
  ite_keeps State.mbox rfl (ringWrite_mbox ..)

theorem execPut_keeps (h : Arrival) (chan pos attempt step : Nat) (bytes : List Byte) (s : State) : KeepsMbox s (execPut h chan pos attempt step
    bytes s) := by
  unfold execPut
  split
  · next t h =>
      exact keeps_next (arrive_error_mbox h)
  · next t h =>
      refine keeps_ite (keeps_next ((noTarget_mbox ..).trans (arrive_ok_mbox h))) ?_
      split
      · split
        · exact keeps_ite (keeps_next ((dackFor_mbox ..).trans ((putAccepted_mbox ..).trans (arrive_ok_mbox h)))) (keeps_next ((noTarget_mbox
            ..).trans (arrive_ok_mbox h)))
        · exact keeps_next ((noTarget_mbox ..).trans (arrive_ok_mbox h))
      · exact keeps_next ((sendRetry_mbox ..).trans (arrive_ok_mbox h))
      · exact keeps_next ((sendRetry_mbox ..).trans (arrive_ok_mbox h))
      · exact keeps_next ((sendRetry_mbox ..).trans (arrive_ok_mbox h))
      · exact keeps_next ((stale_mbox ..).trans (arrive_ok_mbox h))

theorem execCredit_keeps (h : Arrival) (chan limit attempt step : Nat) (s : State) : KeepsMbox s (execCredit h chan limit attempt step s) := by
  unfold execCredit
  split
  · next t h =>
      exact keeps_next (arrive_error_mbox h)
  · next t h =>
      refine keeps_ite (keeps_next ((countNoTarget_mbox ..).trans (arrive_ok_mbox h))) ?_
      split
      · exact keeps_next ((applyCredit_mbox ..).trans (arrive_ok_mbox h))
      · exact keeps_next ((applyCredit_mbox ..).trans (arrive_ok_mbox h))
      · exact keeps_next ((countStale_mbox ..).trans (arrive_ok_mbox h))
      · exact keeps_next ((modPart_mbox ..).trans (arrive_ok_mbox h))

theorem countUpd_mbox (s : State) (p : PartIx) (red granule : Nat) (unlisted : Bool) : (countUpd s p red granule unlisted).mbox = s.mbox :=
  modUpd_mbox ..

/-- What CONTRIB does with a contribution that its partition takes in this step or, `soon`, in the next (R271). -/
def contribTake (s : State) (h : Arrival) (red fmt : Nat) (e : Int) (rank granule attempt step : Nat) (x : ContribData) (soon : Bool) : Res :=
  let back := fun (s : State) => sendRetry s h h.dpart (.contrib red fmt e rank granule attempt step x.raws)
  match contribDie s h.dpart red granule with
  | none => .next (back s)
  | some c =>
    match stagingFault s c h.dpart x.staging with
    | (s, true) => .next (back s)
    | (s, false) =>
      let vals := contribVals fmt e x.raws
      let keep := fun (s : State) (stepNo : Word) => dackFor (capture s h.dpart stepNo attempt (.contrib red granule rank fmt e x.raws)) h
      let now := (s.parts[h.dpart]).stepNo
      if soon then
        match park s c ⟨h.dpart, red, granule, rank, now + 1, vals⟩ with
        | (s, true) => .next (updBoundary (keep s (now + 1)) c)
        | (s, false) => .next (back s)
      else
        match (reductionOf s h.dpart red).filter (fun r => listed s h.dpart r rank granule) with
        | none => .next (dackFor (countUpd s h.dpart red granule true) h)
        | some r =>
          match contribute s c h.dpart r granule (r.ranks.idxOf rank) vals with
          | (s, true) => .next (updBoundary (keep s now) c)
          | (s, false) => .next (back s)


theorem contribTake_keeps (s : State) (h : Arrival) (red fmt : Nat) (e : Int) (rank granule attempt step : Nat) (x : ContribData) (soon : Bool) :
    KeepsMbox s (contribTake s h red fmt e rank granule attempt step x soon) := by
  have kept : ∀ (u : State) (stepNo : Word) (v : VRec) (c : CellarIx), (updBoundary (dackFor (capture u h.dpart stepNo attempt v) h) c).mbox = u.mbox :=
    fun u stepNo v c => (updBoundary_mbox ..).trans ((dackFor_mbox ..).trans (capture_mbox ..))
  unfold contribTake
  dsimp only
  split
  · exact keeps_next (sendRetry_mbox ..)
  · split
    · next ht => exact keeps_next ((sendRetry_mbox ..).trans (fst_mbox ht (stagingFault_mbox ..)))
    · next ht =>
      have staged := fst_mbox ht (stagingFault_mbox ..)
      refine keeps_ite ?_ ?_
      · split
        · next hv => exact keeps_next ((kept ..).trans ((fst_mbox hv (park_mbox ..)).trans staged))
        · next hv => exact keeps_next ((sendRetry_mbox ..).trans ((fst_mbox hv (park_mbox ..)).trans staged))
      · split
        · exact keeps_next ((dackFor_mbox ..).trans ((countUpd_mbox ..).trans staged))
        · split
          · next hv => exact keeps_next ((kept ..).trans ((fst_mbox hv (contribute_mbox ..)).trans staged))
          · next hv => exact keeps_next ((sendRetry_mbox ..).trans ((fst_mbox hv (contribute_mbox ..)).trans staged))


/-- CONTRIB, once it has arrived. -/
theorem execContrib_arrived {s u : State} {h : Arrival} {red fmt : Nat} {e : Int} {rank granule attempt step : Nat} {x : ContribData}
    (hu : arrive s h (.contrib red fmt e rank granule attempt step x.raws) false = .ok u) :
    execContrib h red fmt e rank granule attempt step x s
      = if !taking u h.dpart then .next (noTarget u h)
        else
          match tagOfFrame u h.dpart attempt step with
          | .now => contribTake u h red fmt e rank granule attempt step x false
          | .waiting => contribTake u h red fmt e rank granule attempt step x false
          | .later => .next (sendRetry u h h.dpart (.contrib red fmt e rank granule attempt step x.raws))
          | .next => contribTake u h red fmt e rank granule attempt step x true
          | .stale => .next (stale (countUpd u h.dpart red granule false) h) := by
  unfold execContrib
  simp only [hu]
  rfl


theorem execContrib_keeps (h : Arrival) (red fmt : Nat) (e : Int) (rank granule attempt step : Nat) (x : ContribData) (s : State) :
    KeepsMbox s (execContrib h red fmt e rank granule attempt step x s) := by
  cases ha : arrive s h (.contrib red fmt e rank granule attempt step x.raws) false with
  | error t =>
    unfold execContrib
    simp only [ha]
    exact keeps_next (arrive_error_mbox ha)
  | ok u =>
    have arrived := arrive_ok_mbox ha
    rw [execContrib_arrived ha]
    refine keeps_ite (keeps_next ((noTarget_mbox ..).trans arrived)) ?_
    split
    · exact (contribTake_keeps ..).of_eq arrived
    · exact (contribTake_keeps ..).of_eq arrived
    · exact keeps_next ((sendRetry_mbox ..).trans arrived)
    · exact (contribTake_keeps ..).of_eq arrived
    · exact keeps_next ((stale_mbox ..).trans ((countUpd_mbox ..).trans arrived))

theorem execToken_keeps (h : Arrival) (rank lcore barrier attempt step : Nat) (s : State) : KeepsMbox s (execToken h rank lcore barrier attempt step
    s) := by
  unfold execToken
  split
  · next t h =>
      exact keeps_next (arrive_error_mbox h)
  · next t h =>
      refine keeps_ite (keeps_next ((noTarget_mbox ..).trans (arrive_ok_mbox h))) ?_
      dsimp only
      split
      · split
        · exact keeps_next ((noTarget_mbox ..).trans (arrive_ok_mbox h))
        · exact keeps_ite (keeps_next ((noTarget_mbox ..).trans (arrive_ok_mbox h))) (keeps_next ((dackFor_mbox ..).trans ((activate_mbox ..).trans
            ((wakePart_mbox ..).trans ((each_mbox (fun _ _ => judgeToken_mbox ..) ..).trans ((capture_mbox ..).trans (arrive_ok_mbox h)))))))
      · exact keeps_next ((sendRetry_mbox ..).trans (arrive_ok_mbox h))
      · exact keeps_next ((sendRetry_mbox ..).trans (arrive_ok_mbox h))
      · exact keeps_next ((sendRetry_mbox ..).trans (arrive_ok_mbox h))
      · exact keeps_next ((stale_mbox ..).trans (arrive_ok_mbox h))

theorem execRetry_keeps (h : Arrival) (ab w01 : Word × Word) (s : State) : KeepsMbox s (execRetry h ab w01 s) := by
  unfold execRetry
  split
  · next t h =>
      exact keeps_next (arrive_error_mbox h)
  · next t h =>
      dsimp only
      split
      · exact keeps_next (arrive_ok_mbox h)
      · exact keeps_next ((modPortDie_mbox ..).trans (arrive_ok_mbox h))

theorem execRetryUs_keeps (die : PortDieIx) (seq : Nat) (s : State) : KeepsMbox s (execRetryUs die seq s) := by
  unfold execRetryUs
  refine keeps_ite (keeps_next rfl) ?_
  split
  · exact keeps_next rfl
  · dsimp only
    split
    · exact keeps_next ((enqueue_mbox ..).trans (modPortDie_mbox ..))
    · exact keeps_next ((modPortDie_mbox ..).trans (modPortDie_mbox ..))

theorem execDigest_keeps (h : Arrival) (group : W32) (sender : Nat) (version : Word) (d : BitVec 256) (s : State) : KeepsMbox s (execDigest h group
    sender version d s) := by
  unfold execDigest
  split
  · next t h =>
      exact keeps_next (arrive_error_mbox h)
  · next t h =>
      exact keeps_ite (keeps_next (arrive_ok_mbox h)) (keeps_ite (keeps_next ((compareDigest_mbox ..).trans (arrive_ok_mbox h))) (keeps_ite
        (keeps_next (arrive_ok_mbox h)) (keeps_next ((modDigests_mbox ..).trans (arrive_ok_mbox h)))))

theorem execStoreData_keeps (h : Arrival) (off len : Nat) (obj : Word) (bytes : List Byte) (u : Unit) (s : State) :
    KeepsMbox s (execStoreData h off len obj bytes u s) := by
  unfold execStoreData
  split
  · next ha => exact keeps_next (arrive_error_mbox ha)
  · next ha => exact keeps_ite (keeps_next (arrive_ok_mbox ha)) (keeps_next ((manifestData_mbox ..).trans (arrive_ok_mbox ha)))

theorem dackOne_mbox (s : State) (e : Nat × Nat) : (dackOne s e).mbox = s.mbox := by
  unfold dackOne
  split
  · rfl
  · split
    · rfl
    · dsimp only
      split
      · split
        · exact optional_keeps State.mbox (ckpAck_mbox ..) (modPortDie_mbox ..)
        · exact modPortDie_mbox ..
      · exact modPortDie_mbox ..

theorem execDack_keeps (h : Arrival) (seqs : List (Nat × Nat)) (s : State) : KeepsMbox s (execDack h seqs s) := by
  unfold execDack
  split
  · next t h =>
      exact keeps_next (arrive_error_mbox h)
  · next t h =>
      exact keeps_next ((each_mbox (fun _ _ => dackOne_mbox ..) ..).trans (arrive_ok_mbox h))

theorem execUnknownType_keeps (h : Arrival) (type : Nat) (s : State) : KeepsMbox s (execUnknownType h type s) := by
  unfold execUnknownType
  split
  · next t h =>
      exact keeps_next (arrive_error_mbox h)
  · next t h =>
      exact keeps_next ((countNoTarget_mbox ..).trans (arrive_ok_mbox h))

theorem execFrameForward_keeps (l : LinkIn) (f : Frame) (s : State) : KeepsMbox s (execFrameForward l f s) := by
  unfold execFrameForward
  refine keeps_ite (keeps_next rfl) (keeps_ite (keeps_next rfl) (keeps_ite (keeps_next (sendNack_mbox ..)) (keeps_ite (keeps_next ((sendVlcredit_mbox
    ..).trans ((modPortDie_mbox ..).trans (received_mbox ..)))) (keeps_ite (keeps_next (optional_keeps State.mbox ((devReport_mbox ..).trans
    (modPortDie_mbox ..)) ((look_mbox ..).trans ((sendVlcredit_mbox ..).trans ((modPortDie_mbox ..).trans (received_mbox ..)))))) ?_))))
  dsimp only
  split
  · exact keeps_next ((enqueue_mbox ..).trans ((modPort_mbox ..).trans ((countG_mbox ..).trans (received_mbox ..))))
  · exact keeps_next ((sendVlcredit_mbox ..).trans ((modPortDie_mbox ..).trans ((countG_mbox ..).trans (received_mbox ..))))

theorem replayFrom_mbox (s : State) (port : PortIx) (ix : Nat) : (replayFrom s port ix).mbox = s.mbox := each_mbox (fun _ _ => emit_mbox ..) ..

theorem portDown_mbox (s : State) (port : PortIx) (locked redetect : Bool) : (portDown s port locked redetect).mbox = s.mbox := modPort_mbox ..

theorem execNack_keeps (port : PortIx) (named : Nat) (sent : Option Bool) (s : State) : KeepsMbox s (execNack port named sent s) := by
  unfold execNack
  refine keeps_ite (keeps_next rfl) (keeps_ite (keeps_next rfl) ?_)
  dsimp only
  split
  · exact keeps_next ((sendNack_mbox ..).trans (modPort_mbox ..))
  · exact keeps_ite (keeps_next rfl) (keeps_ite (keeps_next ((replayFrom_mbox ..).trans (modPort_mbox ..))) (keeps_next (modPort_mbox ..)))

theorem fenceLane_mbox (s : State) (port : PortIx) (lane : Fin 8) (cause : Nat) : (fenceLane s port lane cause).mbox = s.mbox :=
  (devReport_mbox ..).trans ((markFenced_mbox ..).trans ((modPkg_mbox ..).trans ((modPortDie_mbox ..).trans ((modPort_mbox ..).trans (devReport_mbox
    ..)))))

theorem portHeldDown_mbox (s : State) (port : PortIx) : (portHeldDown s port).mbox = s.mbox :=
  (devReport_mbox ..).trans ((modPortDie_mbox ..).trans (portDown_mbox ..))

theorem laneFence_mbox (s : State) (port : PortIx) (lane : Fin 8) (cause : Nat) : (laneFence s port lane cause).mbox = s.mbox :=
  ite_keeps State.mbox rfl (ite_keeps State.mbox ((modPort_mbox ..).trans (fenceLane_mbox ..)) (portHeldDown_mbox ..))

theorem execDetect_keeps (port : PortIx) (lanes : BitVec 8) (s : State) : KeepsMbox s (execDetect port lanes s) :=
  keeps_ite (keeps_next rfl) (keeps_ite (keeps_next rfl) (keeps_ite (keeps_next (modPort_mbox ..)) (keeps_next (portDown_mbox ..))))

theorem execEqualize_keeps (port : PortIx) (lanes : BitVec 8) (s : State) : KeepsMbox s (execEqualize port lanes s) := by
  unfold execEqualize
  refine keeps_ite (keeps_next rfl) (keeps_ite (keeps_next rfl) (keeps_ite (keeps_next (ite_keeps State.mbox (portHeldDown_mbox ..) (portDown_mbox
    ..))) (keeps_next ((ite_keeps State.mbox (modPort_mbox ..) (challenge_mbox ..)).trans ?_))))
  split
  · exact fenceLane_mbox ..
  · rfl

theorem authFailed_mbox (s : State) (port : PortIx) (serial : Word) : (authFailed s port serial).mbox = s.mbox :=
  (devReport_mbox ..).trans ((modPortDie_mbox ..).trans (portDown_mbox ..))

theorem grantBuffers_mbox (s : State) (port : PortIx) : (grantBuffers s port).mbox = s.mbox := each_mbox (fun _ _ => sendVlcredit_mbox ..) ..

theorem execAuth_keeps (port : PortIx) (peer : PeerReport) (node : Nat) (serial : Word) (s : State) : KeepsMbox s (execAuth port peer node serial s) :=
  keeps_ite (keeps_next rfl) (keeps_ite (keeps_next rfl) (keeps_ite (keeps_next (authFailed_mbox ..)) (keeps_ite (keeps_next ((authFailed_mbox
    ..).trans (giveReport_mbox ..))) (keeps_next ((pump_mbox ..).trans ((replayFrom_mbox ..).trans (optional_keeps State.mbox (grantBuffers_mbox ..)
    ((modPort_mbox ..).trans (giveReport_mbox ..)))))))))

theorem execPortTrainingTimeout_keeps (port : PortIx) (s : State) : KeepsMbox s (execPortTrainingTimeout port s) := by
  unfold execPortTrainingTimeout
  refine keeps_ite (keeps_next rfl) ?_
  split
  · exact keeps_next (portDown_mbox ..)
  · exact keeps_next (portDown_mbox ..)
  · exact keeps_next (portDown_mbox ..)
  · exact keeps_next (portDown_mbox ..)
  · exact keeps_next (authFailed_mbox ..)
  · exact keeps_next rfl
  · exact keeps_next rfl

theorem execHostReadData_keeps (p : PartIx) (off : Nat) (bytes : List Byte) (s : State) : KeepsMbox s (execHostReadData p off bytes s) := by
  unfold execHostReadData
  refine keeps_ite (keeps_next rfl) ?_
  split
  · exact keeps_next rfl
  · refine keeps_ite (keeps_next rfl) ?_
    dsimp only
    split
    · exact keeps_next ((hostAskAll_mbox ..).trans ((modStream_mbox ..).trans (countG_mbox ..)))
    · exact keeps_next ((modStream_mbox ..).trans (countG_mbox ..))
    · exact keeps_next ((ckpAck_mbox ..).trans (countG_mbox ..))

/-! ### Power -/

theorem modDie_mbox (s : State) (d : DieIx) (f : DieClk → DieClk) : (modDie s d f).mbox = s.mbox := modPwr_mbox ..

theorem modLim_mbox (s : State) (f : Limiter → Limiter) : (modLim s f).mbox = s.mbox := modPwr_mbox ..

theorem traceStretch_mbox (before s : State) : (traceStretch before s).mbox = s.mbox :=
  each_mbox (fun _ _ => ite_keeps State.mbox (traceEvent_mbox ..) rfl) ..

theorem afterStretch_mbox (before s : State) : (afterStretch before s).mbox = s.mbox := (settleTime_mbox ..).trans (traceStretch_mbox ..)

theorem endBoost_mbox (s : State) : (endBoost s).mbox = s.mbox :=
  ite_keeps State.mbox ((settleTime_mbox ..).trans ((traceEvent_mbox ..).trans (modPwr_mbox ..))) rfl

theorem tickBoost_mbox (s : State) : (tickBoost s).mbox = s.mbox :=
  ite_keeps State.mbox (ite_keeps State.mbox rfl (endBoost_mbox ..)) (ite_keeps State.mbox ((settleTime_mbox ..).trans ((traceEvent_mbox ..).trans
    (modPwr_mbox ..))) rfl)

theorem setTarget_mbox (s : State) (d : DieIx) (t : Nat) : (setTarget s d t).mbox = s.mbox :=
  ite_keeps State.mbox rfl (ite_keeps State.mbox (modDie_mbox ..) (ite_keeps State.mbox (modDie_mbox ..) (modDie_mbox ..)))

theorem execControlTick_keeps (s : State) : KeepsMbox s (execControlTick s) :=
  keeps_ite (keeps_next rfl) (keeps_next ((each_mbox (fun _ _ => setTarget_mbox ..) ..).trans ((tickBoost_mbox ..).trans (modPwr_mbox ..))))

theorem execDroop_keeps (r : Fin 8) (mv : Nat) (s : State) : KeepsMbox s (execDroop r mv s) := by
  unfold execDroop
  split
  · exact keeps_next ((afterStretch_mbox ..).trans (modPwr_mbox ..))
  · exact keeps_next ((afterStretch_mbox ..).trans (modPwr_mbox ..))
  · exact keeps_next rfl

theorem execStretchHoldNs_keeps (r : Fin 8) (clear : Bool) (s : State) : KeepsMbox s (execStretchHoldNs r clear s) := by
  unfold execStretchHoldNs
  refine keeps_ite (keeps_next ((afterStretch_mbox ..).trans (modPwr_mbox ..))) ?_
  split
  · exact keeps_next ((afterStretch_mbox ..).trans (modPwr_mbox ..))
  · exact keeps_next rfl

theorem limitAction_mbox (s : State) (rule : Nat) : (limitAction s rule).mbox = s.mbox := (devReport_mbox ..).trans (modPwr_mbox ..)

theorem stepDown_mbox (s : State) (rule : Nat) : (stepDown s rule).mbox = s.mbox :=
  ite_keeps State.mbox (ite_keeps State.mbox (limitAction_mbox ..) (ite_keeps State.mbox ((devReport_mbox ..).trans (modLim_mbox ..)) rfl))
    ((limitAction_mbox ..).trans ((modLim_mbox ..).trans (endBoost_mbox ..)))

theorem ruleE0_mbox (s : State) (d : DieIx) (amps : Nat) : (ruleE0 s d amps).mbox = s.mbox :=
  ite_keeps State.mbox (ite_keeps State.mbox (ite_keeps State.mbox (modDie_mbox ..) ((afterStretch_mbox ..).trans (modDie_mbox ..))) (modDie_mbox ..))
    (optional_keeps State.mbox ((limitAction_mbox ..).trans ((afterStretch_mbox ..).trans (modDie_mbox ..))) rfl)

theorem ruleE1_mbox (s : State) (watts : Nat) : (ruleE1 s watts).mbox = s.mbox :=
  ite_keeps State.mbox (ite_keeps State.mbox (ite_keeps State.mbox (modLim_mbox ..) ((afterStretch_mbox ..).trans (modLim_mbox ..))) (modLim_mbox ..))
    (optional_keeps State.mbox ((stepDown_mbox ..).trans ((afterStretch_mbox ..).trans (modLim_mbox ..))) rfl)

theorem ruleE2_mbox (s : State) (watts : Nat) : (ruleE2 s watts).mbox = s.mbox := optional_keeps State.mbox (stepDown_mbox ..) (modLim_mbox ..)

theorem ruleE3_mbox (s : State) (watts : Nat) : (ruleE3 s watts).mbox = s.mbox := optional_keeps State.mbox (stepDown_mbox ..) (modLim_mbox ..)

theorem ruleE4_mbox (s : State) : (ruleE4 s).mbox = s.mbox := optional_keeps State.mbox (stepDown_mbox ..) (modLim_mbox ..)

theorem execLimiterSample_keeps (watts amps0 amps1 : Nat) (s : State) : KeepsMbox s (execLimiterSample watts amps0 amps1 s) :=
  keeps_ite (keeps_next rfl) (keeps_next (optional_keeps State.mbox (modLim_mbox ..) ((ruleE4_mbox ..).trans ((ruleE3_mbox ..).trans ((ruleE2_mbox
    ..).trans ((ruleE1_mbox ..).trans ((ruleE0_mbox ..).trans ((ruleE0_mbox ..).trans (modPwr_mbox ..)))))))))

theorem thermTrip_mbox (s : State) (sensor reading : Nat) : (thermTrip s sensor reading).mbox = s.mbox :=
  ite_keeps State.mbox rfl ((devReport_mbox ..).trans ((wantSection_mbox ..).trans ((emit_mbox ..).trans ((modPwr_mbox ..).trans (each_mbox (fun _ _
    => stopDomain_mbox ..) ..)))))

theorem sensorEvent_mbox (s : State) (sensor reading : Nat) (rises : Bool) : (sensorEvent s sensor reading rises).mbox = s.mbox :=
  ite_keeps State.mbox ((emit_mbox ..).trans (emit_mbox ..)) rfl

theorem noteHeat_mbox (s : State) (die t : Nat) : (noteHeat s die t).mbox = s.mbox := modPwr_mbox ..

theorem setHot_mbox (s : State) (d : DieIx) (t : Nat) : (setHot s d t).mbox = s.mbox :=
  (ite_keeps State.mbox rfl (sensorEvent_mbox ..)).trans (modDie_mbox ..)

theorem execJunctionReading_keeps (die0 die1 : Vector Byte 32) (port0 port1 port2 : Vector Byte 4) (mpd : Vector Byte 2) (s : State) : KeepsMbox s
    (execJunctionReading die0 die1 port0 port1 port2 mpd s) :=
  keeps_ite (keeps_next rfl) (keeps_next ((each_mbox (fun _ _ => ite_keeps State.mbox (thermTrip_mbox ..) rfl) ..).trans ((each_mbox (fun _ _ =>
    noteHeat_mbox ..) ..).trans ((setHot_mbox ..).trans ((setHot_mbox ..).trans (modPwr_mbox ..))))))

theorem execThrottleStep_keeps (die : Option DieIx) (s : State) : KeepsMbox s (execThrottleStep die s) := by
  unfold execThrottleStep
  refine keeps_ite (keeps_next rfl) ?_
  split
  · exact keeps_ite (keeps_next ((devReport_mbox ..).trans ((modPwr_mbox ..).trans (modDie_mbox ..)))) (keeps_ite (keeps_next (modDie_mbox ..))
      (keeps_next rfl))
  · split
    · exact keeps_next rfl
    · exact keeps_next ((devReport_mbox ..).trans ((modPwr_mbox ..).trans ((modLim_mbox ..).trans (endBoost_mbox ..))))

theorem execTempReading_keeps (c : CellarIx) (temp : Byte) (s : State) : KeepsMbox s (execTempReading c temp s) :=
  keeps_ite (keeps_next rfl) (keeps_ite (keeps_next rfl) (keeps_ite (keeps_next (optional_keeps State.mbox (thermTrip_mbox ..) ((noteHeat_mbox
    ..).trans (modCellar_mbox ..)))) (keeps_next (optional_keeps State.mbox (thermTrip_mbox ..) ((noteHeat_mbox ..).trans (optional_keeps State.mbox
    (each_mbox (fun _ _ => ite_keeps State.mbox (resumeParked_mbox ..) rfl) ..) ((ite_keeps State.mbox rfl ((sensorEvent_mbox ..).trans
    (traceEvent_mbox ..))).trans (modCellar_mbox ..))))))))

/-! ### Record -/

theorem loadWear_mbox (s : State) : (loadWear s).mbox = s.mbox := by
  unfold loadWear
  split
  · rfl
  · rfl

theorem sendHeld_mbox (s : State) (old : Nat) : (sendHeld s old).mbox = s.mbox := each_mbox (fun _ _ => emit_mbox ..) ..

theorem storeSection_mbox (s : State) (k : Nat) (payload : List Byte) : (storeSection s k payload).mbox = s.mbox :=
  optional_keeps State.mbox (sendHeld_mbox ..) ((modBoot_mbox ..).trans (programTarget_mbox ..))

theorem loseSection_mbox (s : State) (k : Nat) : (loseSection s k).mbox = s.mbox :=
  (devReport_mbox ..).trans ((modBoot_mbox ..).trans (eraseTarget_mbox ..))

theorem writeNext_mbox (s : State) (good : Bool) : (writeNext s good).mbox = s.mbox := by
  unfold writeNext
  split
  · rfl
  · refine ite_keeps State.mbox (eraseTarget_mbox ..) ?_
    dsimp only
    split
    · exact (modBoot_mbox ..).trans (eraseTarget_mbox ..)
    · exact (ite_keeps State.mbox (storeSection_mbox ..) (loseSection_mbox ..)).trans ((modBoot_mbox ..).trans (eraseTarget_mbox ..))

theorem execHoldupWait_keeps (s : State) : KeepsMbox s (execHoldupWait s) := by
  unfold execHoldupWait
  refine keeps_ite (keeps_next rfl) ?_
  split
  · exact keeps_next rfl
  · exact keeps_ite (keeps_next rfl) (keeps_next ((devReport_mbox ..).trans ((modBoot_mbox ..).trans (eraseTarget_mbox ..))))

/-! ### Boot -/

theorem nextStage_mbox (s : State) : (nextStage s).mbox = s.mbox := modBoot_mbox ..

theorem flushReports_mbox (s : State) : (flushReports s).mbox = s.mbox := each_mbox (fun _ _ => emit_mbox ..) ..

theorem startNet_mbox (s : State) : (startNet s).mbox = s.mbox := rfl

/-- The device with the numbers of its messages taken from a reservation (R433). -/
def renumbered (s : State) (base floor : Nat) (spent : Bool) : State :=
  let s := modBoot s (fun b => { b with seqBase := if spent then base else base + 2 ^ 18, fmFloor := floor })
  { s with mgmt := { s.mgmt with
    queue := s.mgmt.queue.zipIdx.map (fun e => { e.1 with seq := base + e.2 }), nextSeq := base + s.mgmt.queue.length } }

/-- Has the reservation run out (R433)? -/
def seqSpent (base : Nat) : Bool := decide (2 ^ 32 - 2 ^ 18 < base + 2 ^ 18)

theorem takeSeqBase_eq (s : State) (base floor : Nat) : takeSeqBase s base floor
    = if seqSpent base then exhaustSeq (renumbered s base floor (seqSpent base)) else renumbered s base floor (seqSpent base) := rfl

theorem renumbered_mbox (s : State) (base floor : Nat) (spent : Bool) : (renumbered s base floor spent).mbox = s.mbox := rfl

theorem takeSeqBase_mbox (s : State) (base floor : Nat) : (takeSeqBase s base floor).mbox = s.mbox := by
  rw [takeSeqBase_eq]
  exact optional_keeps State.mbox (exhaustSeq_mbox _) (renumbered_mbox ..)

theorem startPorts_mbox (s : State) : (startPorts s).mbox = s.mbox := each_mbox (fun _ _ => ite_keeps State.mbox (modPort_mbox ..) rfl) ..

theorem endRecord_mbox (s : State) (low : Bool) : (endRecord s low).mbox = s.mbox :=
  ite_keeps State.mbox ((devReport_mbox ..).trans ((flushReports_mbox ..).trans ((startNet_mbox ..).trans (modBoot_mbox ..)))) ((nextStage_mbox
    ..).trans (modBoot_mbox ..))

theorem endReady_mbox (s : State) : (endReady s).mbox = s.mbox := by
  simp only [endReady, flushReports_mbox, startPorts_mbox, nextStage_mbox, startNet_mbox, modSed_mbox, modBoot_mbox]

theorem logPrevious_mbox (s : State) (attempts count : Nat) : (logPrevious s attempts count).1.mbox = s.mbox :=
  ite_fst_mbox (modBoot_mbox ..) (ite_fst_mbox (modBoot_mbox ..) rfl)

theorem owedLevel_mbox (s : State) : (owedLevel s).mbox = s.mbox := by
  unfold owedLevel
  split
  · rfl
  · exact devReport_mbox ..

theorem copyImage_mbox (s : State) : (copyImage s).mbox = s.mbox := modBoot_mbox ..

theorem linksUp_mbox (s : State) : (linksUp s).mbox = s.mbox := modPkg_mbox ..

theorem zeroSram_mbox (s : State) : (zeroSram s).mbox = s.mbox := rfl

theorem loadUnit_mbox (s : State) (u : Nat) : (loadUnit s u).mbox = s.mbox := by
  unfold loadUnit
  dsimp only
  split
  · split
    · exact (modCore_mbox ..).trans (setUnit_mbox ..)
    · exact setUnit_mbox ..
  · split
    · exact (modCore_mbox ..).trans (setUnit_mbox ..)
    · exact setUnit_mbox ..
  · split
    · exact (modCore_mbox ..).trans (setUnit_mbox ..)
    · exact setUnit_mbox ..
  · split
    · exact (modUpd_mbox ..).trans (setUnit_mbox ..)
    · exact setUnit_mbox ..
  · split
    · exact (modCellar_mbox ..).trans (setUnit_mbox ..)
    · exact setUnit_mbox ..
  · split
    · exact (modPort_mbox ..).trans (setUnit_mbox ..)
    · exact setUnit_mbox ..
  · exact setUnit_mbox ..

theorem countUnits_mbox (s : State) : (countUnits s).mbox = s.mbox := modPkg_mbox ..

theorem fenceShort_mbox (s : State) : (fenceShort s).mbox = s.mbox := by
  unfold fenceShort
  refine each_mbox (fun _ _ => ?_) ..
  split
  · exact ite_keeps State.mbox rfl (coreFences_mbox ..)
  · exact coreFences_mbox ..

theorem loadFence_mbox (s : State) : (loadFence s).mbox = s.mbox := by
  unfold loadFence
  split
  · split
    · exact countUnits_mbox ..
    · exact (fenceShort_mbox ..).trans ((each_mbox (fun _ _ => (markFenced_mbox ..).trans ((countUnits_mbox ..).trans ((loadUnit_mbox ..).trans
        (setUnit_mbox ..)))) ..).trans ((countUnits_mbox ..).trans ((each_mbox (fun _ _ => ite_keeps State.mbox rfl (setUnit_mbox ..)) ..).trans
        ((each_mbox (fun _ _ => loadUnit_mbox ..) ..).trans (modBoot_mbox ..)))))
  · exact countUnits_mbox ..

theorem loadPantry_mbox (s : State) : (loadPantry s).mbox = s.mbox := by
  unfold loadPantry
  refine each_mbox (fun _ _ => ?_) ..
  split
  · exact putPantry_mbox ..
  · rfl

theorem beginTest_mbox (s : State) (cmd : Bool) : (beginTest s cmd).mbox = s.mbox := modSed_mbox ..

theorem failHostStreams_mbox (s : State) : (failHostStreams s).mbox = s.mbox := each_mbox (fun _ _ => each_mbox (fun _ _ => streamFault_mbox ..) ..) ..

theorem pcieReset_mbox (s : State) : (pcieReset s).mbox = s.mbox := optional_keeps State.mbox (devReport_mbox ..) (failHostStreams_mbox ..)

theorem linkDown_mbox (s : State) (l : LinkName) : (linkDown s l).mbox = s.mbox := by
  unfold linkDown
  split
  · exact modPkg_mbox ..
  · exact modPkg_mbox ..
  · exact modPkg_mbox ..
  · exact (failTaken_mbox ..).trans (modPkg_mbox ..)

/-! ### PState -/

theorem wipeAll_mbox (s : State) : (wipeAll s).mbox = s.mbox :=
  (zeroSram_mbox ..).trans ((startWipe_mbox ..).trans (each_mbox (fun _ _ => abandon_mbox ..) ..))

theorem setPstate_mbox (s : State) (n : Nat) : (setPstate s n).mbox = s.mbox :=
  (devReport_mbox ..).trans ((settleTime_mbox ..).trans (ite_keeps State.mbox ((modPwr_mbox ..).trans (traceEvent_mbox ..)) ((traceEvent_mbox
    ..).trans (modPwr_mbox ..))))

theorem accrueAll_mbox (s : State) : (accrueAll s).mbox = s.mbox := (accrue_mbox ..).trans (each_mbox (fun _ _ => accrue_mbox ..) ..)

theorem enterP2_mbox (s : State) : (enterP2 s).mbox = s.mbox :=
  (each_mbox (fun _ _ => modDie_mbox ..) ..).trans ((setPstate_mbox ..).trans ((each_mbox (fun _ _ => stopDomain_mbox ..) ..).trans (accrueAll_mbox
    ..)))

theorem enterP3_mbox (s : State) : (enterP3 s).mbox = s.mbox := by
  have stopped : ∀ (l : List Nat) (u : State), (each l u (fun s d => stopDomain s d 2)).mbox = u.mbox := each_mbox (fun _ _ => stopDomain_mbox ..)
  have off : ∀ (l : List (Fin 2)) (u : State), (each l u (fun s d => modDie s d (fun x => { x with setPoint := 0, waiting := false }))).mbox = u.mbox :=
    each_mbox (fun _ _ => modDie_mbox ..)
  simp only [enterP3, modPkg_mbox, off, pcieReset_mbox, setPstate_mbox, stopped, wantSection_mbox, accrueAll_mbox]

theorem freshDies_mbox (s : State) : (freshDies s).mbox = s.mbox := rfl

theorem leaveP2_mbox (s : State) : (leaveP2 s).mbox = s.mbox :=
  (restart_mbox ..).trans ((setPstate_mbox ..).trans ((each_mbox (fun _ _ => resumeDomain_mbox ..) ..).trans (each_mbox (fun _ _ => modDie_mbox ..)
    ..)))

theorem wakeP3_mbox (s : State) : (wakeP3 s).mbox = s.mbox :=
  (each_mbox (fun _ _ => resumeDomain_mbox ..) ..).trans ((modPwr_mbox ..).trans ((wipeAll_mbox ..).trans ((linksUp_mbox ..).trans (freshDies_mbox
    ..))))

theorem leaveP3_mbox (s : State) : (leaveP3 s).mbox = s.mbox :=
  (startPorts_mbox ..).trans ((setPstate_mbox ..).trans ((modPwr_mbox ..).trans ((loadPantry_mbox ..).trans (loadFence_mbox ..))))

theorem reach_mbox (s : State) (n : Nat) : (reach s n).mbox = s.mbox := by
  have left : (if n = s.pwr.pstate then s else if s.pwr.pstate = 2 then leaveP2 s else if s.pwr.pstate = 3 then leaveP3 s else s).mbox = s.mbox :=
    ite_keeps State.mbox rfl (ite_keeps State.mbox (leaveP2_mbox ..) (ite_keeps State.mbox (leaveP3_mbox ..) rfl))
  unfold reach
  refine ite_keeps State.mbox left ?_
  split
  · exact (enterP2_mbox ..).trans left
  · exact (enterP3_mbox ..).trans left
  · exact (setPstate_mbox ..).trans left

/-! ### Mailbox -/

theorem okWith_mbox (s : State) (results : List Nat) : (okWith s results).1.mbox = s.mbox := rfl

theorem errWith_mbox (s : State) (e : Nat) : (errWith s e).1.mbox = s.mbox := rfl

theorem respond_mbox (s : State) (seq : Nat) (words : List Word) : (respond s seq words).mbox = s.mbox := emit_mbox ..

theorem sramWrite_mbox (s : State) (off : Nat) (bs : List Byte) : (sramWrite s off bs).mbox = s.mbox := modBoot_mbox ..

/-! ### BootCmd -/

theorem freeLength_mbox (s : State) (off lo : Nat) : (freeLength s off lo).1.mbox = s.mbox := bump_mbox ..

theorem askWrite_mbox (s : State) (k : Nat) : (askWrite s k).1.mbox = s.mbox := (wantSection_mbox ..).trans (modBoot_mbox ..)

theorem endWrite_mbox {back : State → State} {f : State → CmdRes} (h : ∀ u, (back u).mbox = u.mbox) (h1 : ∀ u, (f u).1.mbox = u.mbox) (s : State) (k
    : Nat) : (endWrite s k back f).1.mbox = s.mbox :=
  ite_fst_mbox rfl (ite_fst_mbox ((errWith_mbox ..).trans ((h ..).trans (modBoot_mbox ..))) (h1 ..))

theorem clearAttempts_mbox (s : State) (results : List Nat) : (clearAttempts s results).1.mbox = s.mbox :=
  ite_fst_mbox ((askWrite_mbox ..).trans (modBoot_mbox ..)) (endWrite_mbox (fun _ => modBoot_mbox ..) (fun _ => okWith_mbox ..) ..)

theorem execBootImageBegin_inv (ok : Bool) (s : State) : KeepsInv s (execBootImageBegin ok s) :=
  runCmd_inv (fun _ _ => ite_fst_mbox (errWith_mbox ..) (ite_fst_mbox (errWith_mbox ..) ((okWith_mbox ..).trans (modFlash_mbox ..)))) ..

theorem execBootImageChunk_inv (ok : Bool) (s : State) : KeepsInv s (execBootImageChunk ok s) :=
  runCmd_inv (fun _ _ => ite_fst_mbox (errWith_mbox ..) (ite_fst_mbox (errWith_mbox ..) (ite_fst_mbox (errWith_mbox ..) ((okWith_mbox ..).trans
    (modFlash_mbox ..))))) ..

theorem execBootImageEnd_inv (x : ImageProof) (s : State) : KeepsInv s (execBootImageEnd x s) :=
  runCmd_inv (fun _ _ => ite_fst_mbox (clearAttempts_mbox ..) (ite_fst_mbox rfl (ite_fst_mbox (okWith_mbox ..) (clearAttempts_mbox ..)))) ..

theorem writeReport_mbox (s : State) (off : Nat) (nonce : Vector Word 4) (p : Nat) : (writeReport s off nonce p).1.mbox = s.mbox := by
  simp only [writeReport, ite_fst_mbox, errWith_mbox, okWith_mbox, sramWrite_mbox, fullReport_mbox]

theorem authorised_mbox {f : State → CmdRes} (h : ∀ u, (f u).1.mbox = u.mbox) (s : State) (c : Cmd) (len : Nat) (ok : Bool) : (authorised s c len ok
    f).1.mbox = s.mbox :=
  ite_fst_mbox (errWith_mbox ..) (ite_fst_mbox (errWith_mbox ..) (h ..))

theorem stage_mbox (s : State) (k : Nat) (bs : List Byte) : (stage s k bs).mbox = s.mbox := modBoot_mbox ..

theorem execSecTakeOwnership_inv (ok : Bool) (s : State) : KeepsInv s (execSecTakeOwnership ok s) := by
  unfold execSecTakeOwnership
  refine runCmd_inv (fun _ _ => ite_fst_mbox (endWrite_mbox (fun _ => rfl) (fun _ => (okWith_mbox ..).trans (modBoot_mbox ..)) ..) (authorised_mbox
    (fun _ => ?_) ..)) ..
  split
  · exact (askWrite_mbox ..).trans (stage_mbox ..)
  · exact errWith_mbox ..

theorem execSecReleaseOwnership_inv (x : Erasing) (s : State) : KeepsInv s (execSecReleaseOwnership x s) :=
  runCmd_inv (fun _ _ => authorised_mbox (fun _ => ite_fst_mbox (errWith_mbox ..) ((okWith_mbox ..).trans ((modBoot_mbox ..).trans (eraseSection_mbox
    ..)))) ..) ..

theorem execSecScrap_inv (x : Erasing) (s : State) : KeepsInv s (execSecScrap x s) :=
  runCmd_inv (fun _ _ => authorised_mbox (fun _ => ite_fst_mbox (errWith_mbox ..) ((okWith_mbox ..).trans ((modBoot_mbox ..).trans
    ((eraseSection_mbox ..).trans (eraseSection_mbox ..))))) ..) ..

theorem execSecProvision_inv (x : Provision) (s : State) : KeepsInv s (execSecProvision x s) :=
  runCmd_inv (fun _ _ => ite_fst_mbox (endWrite_mbox (fun _ => rfl) (fun _ => (okWith_mbox ..).trans (modBoot_mbox ..)) ..) (authorised_mbox (fun _
    => ite_fst_mbox (errWith_mbox ..) ((askWrite_mbox ..).trans ((stage_mbox ..).trans (freeBytes_mbox ..)))) ..)) ..

theorem execSecKeyRequest_inv (s : State) : KeepsInv s (execSecKeyRequest s) := by
  unfold execSecKeyRequest
  refine runPartCmd_inv (fun _ _ _ => ?_) ..
  dsimp only
  split
  · exact (modBoot_mbox ..).trans ((writeReport_mbox ..).trans (freshSecret_mbox ..))
  · rfl

theorem takeKey_mbox (s : State) (p : PartIx) (kind ident : Nat) (secret : Vector Word 4) (results : List Nat) : (takeKey s p kind ident secret
    results).1.mbox = s.mbox :=
  ite_fst_mbox (errWith_mbox ..) ((okWith_mbox ..).trans (modBoot_mbox ..))

theorem execSecSharedExport_inv (accepted : Bool) (s : State) : KeepsInv s (execSecSharedExport accepted s) := by
  unfold execSecSharedExport
  refine runPartCmd_inv (fun _ _ _ => ?_) ..
  simp only [apply_ite Prod.fst, apply_ite State.mbox, errWith_mbox, okWith_mbox, sramWrite_mbox, freeBytes_mbox, freeLength_mbox, ite_self]

theorem execSecSharedImport_inv (blob : Option SharedBlob) (s : State) : KeepsInv s (execSecSharedImport blob s) := by
  unfold execSecSharedImport
  refine runPartCmd_inv (fun _ _ _ => ite_fst_mbox (errWith_mbox ..) ?_) ..
  split
  · exact ite_fst_mbox (takeKey_mbox ..) (errWith_mbox ..)
  · exact errWith_mbox ..

theorem freshShare_mbox (s : State) (p : PartIx) (a : Allot) : (freshShare s p a).mbox = s.mbox := rfl

theorem execPartCreate_inv (s : State) : KeepsInv s (execPartCreate s) := by
  unfold execPartCreate
  refine runCmd_inv (fun _ _ => ?_) ..
  split
  · exact errWith_mbox ..
  · refine ite_fst_mbox (errWith_mbox ..) (ite_fst_mbox (errWith_mbox ..) ?_)
    dsimp only
    split
    · exact errWith_mbox ..
    · exact ite_fst_mbox (errWith_mbox ..) ((okWith_mbox ..).trans ((modPart_mbox ..).trans (freshShare_mbox ..)))

theorem execPartDestroy_inv (s : State) : KeepsInv s (execPartDestroy s) := by
  unfold execPartDestroy
  refine runPartCmd_inv (fun s _ _ => ?_) ..
  simp only
  split
  · exact errWith_mbox ..
  · simp only [apply_ite Prod.fst, apply_ite State.mbox, errWith_mbox, okWith_mbox, modPart_mbox, modBoot_mbox, freshShare_mbox, ite_self]

/-! ### Ctl -/

theorem guardBit_mbox (s : State) (n : CoreIx) (g : Guard) : (guardBit s n g).mbox = s.mbox := by
  unfold guardBit
  split
  · exact ite_keeps State.mbox rfl ((flowResync_mbox ..).trans (flowBit_mbox ..))
  · rfl

theorem jump_mbox (s : State) (n : CoreIx) (i : CtxIx) (sd : Reg) (target : Word) : (jump s n i sd target).mbox = s.mbox :=
  (flowResync_mbox ..).trans ((modCtx_mbox ..).trans ((result_mbox ..).trans (flowBit_mbox ..)))

theorem execBri_keeps (n : CoreIx) (g : Guard) (sd sa : Reg) (off : W32) (s : State) : KeepsMbox s (execBri n g sd sa off s) :=
  keeps_next ((issue_mbox (fun _ _ _ _ => ite_keeps State.mbox ((flowPc_mbox ..).trans (jump_mbox ..)) (raiseHere_mbox ..)) ..).trans (guardBit_mbox
    ..))

theorem queueAccess_mbox (s : State) (n : CoreIx) (i : CtxIx) (b : Bound) (a : Acc) : (queueAccess s n i b a).mbox = s.mbox := by
  unfold queueAccess
  dsimp only
  split
  · exact (mkReq_mbox ..).trans (modCtx_mbox ..)
  · exact modCtx_mbox ..

theorem execLoad_keeps (n : CoreIx) (g : Guard) (r sa : Reg) (sp : Space) (size : Fin 4) (signed : Bool) (off : BitVec 28) (bad : Bool) (s : State) :
    KeepsMbox s (execLoad n g r sa sp size signed off bad s) := by
  unfold execLoad
  refine keeps_next (issue_mbox (fun _ _ _ _ => ?_) ..)
  dsimp only
  split
  · exact raiseHere_mbox ..
  · split
    · exact ite_keeps State.mbox (raiseHere_mbox ..) (result_mbox ..)
    · exact (advance_mbox ..).trans (queueAccess_mbox ..)

theorem execStore_keeps (n : CoreIx) (g : Guard) (r sa : Reg) (sp : Space) (size : Fin 4) (off : BitVec 28) (s : State) : KeepsMbox s (execStore n g
    r sa sp size off s) := by
  unfold execStore
  refine keeps_next (issue_mbox (fun _ _ _ _ => ?_) ..)
  dsimp only
  split
  · exact raiseHere_mbox ..
  · split
    · exact (advance_mbox ..).trans (modCore_mbox ..)
    · exact (advance_mbox ..).trans (queueAccess_mbox ..)

theorem execLoadData_keeps (n : CoreIx) (i : CtxIx) (sp : Space) (s : State) : KeepsMbox s (execLoadData n i sp s) := by
  unfold execLoadData
  refine keeps_ite (keeps_next rfl) ?_
  dsimp only
  split
  · refine keeps_ite (keeps_next rfl) ?_
    split
    · exact keeps_next rfl
    · exact keeps_next ((wake_mbox ..).trans (modCtx_mbox ..))
    · split
      · exact keeps_next rfl
      · exact keeps_ite (keeps_next rfl) (keeps_ite (keeps_next ((raise_mbox ..).trans ((modCtx_mbox ..).trans (dropReq_mbox ..)))) (keeps_next
          ((wake_mbox ..).trans ((modCtx_mbox ..).trans ((modCtx_mbox ..).trans (dropReq_mbox ..))))))
  · exact keeps_next rfl

theorem execStoreComplete_keeps (n : CoreIx) (i : CtxIx) (sp : Space) (s : State) : KeepsMbox s (execStoreComplete n i sp s) := by
  unfold execStoreComplete
  refine keeps_ite (keeps_next rfl) ?_
  dsimp only
  split
  · refine keeps_ite (keeps_next rfl) ?_
    split
    · exact keeps_next rfl
    · exact keeps_next ((wake_mbox ..).trans ((modCtx_mbox ..).trans (writeHall_mbox ..)))
    · split
      · exact keeps_next rfl
      · exact keeps_ite (keeps_next ((wake_mbox ..).trans ((modCtx_mbox ..).trans (dropReq_mbox ..)))) (keeps_next rfl)
  · exact keeps_next rfl

theorem execSigb_keeps (n : CoreIx) (g : Guard) (b : BitVec 16) (s : State) : KeepsMbox s (execSigb n g b s) :=
  keeps_next (issue_mbox (fun _ _ _ _ => ite_keeps State.mbox (raiseHere_mbox ..) (gate_mbox (fun _ => (advance_mbox ..).trans (sendToken_mbox ..))
    ..)) ..)

theorem execRdsr_keeps (n : CoreIx) (g : Guard) (sd : Reg) (sel : Fin 8) (s : State) : KeepsMbox s (execRdsr n g sd sel s) := by
  unfold execRdsr
  refine keeps_next (issue_mbox (fun _ _ _ _ => ?_) ..)
  dsimp only
  split
  · exact result_mbox ..
  · exact result_mbox ..
  · exact result_mbox ..
  · exact result_mbox ..
  · exact result_mbox ..
  · exact (result_mbox ..).trans (look_mbox ..)
  · exact (result_mbox ..).trans ((bump_mbox ..).trans (modCore_mbox ..))
  · exact result_mbox ..

theorem deliverTrds_mbox (s : State) (n : CoreIx) (i : CtxIx) : (deliverTrds s n i).mbox = s.mbox := modCore_mbox ..

theorem execQuantum_keeps (n : CoreIx) (s : State) : KeepsMbox s (execQuantum n s) := by
  unfold execQuantum
  refine keeps_ite (keeps_next rfl) ?_
  dsimp only
  split
  · exact keeps_next rfl
  · exact keeps_ite (keeps_next (leave_mbox ..)) (keeps_next rfl)

theorem execWaitTimeout_keeps (n : CoreIx) (i : CtxIx) (s : State) : KeepsMbox s (execWaitTimeout n i s) := by
  unfold execWaitTimeout
  refine keeps_ite (keeps_next rfl) (keeps_ite ?_ (keeps_next rfl))
  split
  · exact keeps_next (raiseHere_mbox ..)
  · exact keeps_next rfl

/-! ### Load -/

theorem imageRead_mbox (s : State) (p : PartIx) (reads : List ReadErr) (off len : Nat) : (imageRead s p reads off len).mbox = s.mbox := by
  unfold imageRead
  dsimp only
  split
  · exact (readEvents_mbox ..).trans ((logTagFail_mbox ..).trans ((countG_mbox ..).trans (each_mbox (fun _ _ => optional_keeps State.mbox (cured_mbox
      ..) (countG_mbox ..)) ..)))
  · exact each_mbox (fun _ _ => optional_keeps State.mbox (cured_mbox ..) (countG_mbox ..)) ..

/-! ### Plan -/

theorem execLoadPlan_inv (im : Image) (s : State) : KeepsInv s (execLoadPlan im s) := by
  unfold execLoadPlan
  refine runPartCmd_inv (fun _ _ _ => ite_fst_mbox (errWith_mbox ..) ?_) ..
  split
  · exact ite_keeps State.mbox rfl (imageRead_mbox ..)
  · exact (okWith_mbox ..).trans ((createHists_mbox ..).trans ((modPart_mbox ..).trans ((setPlan_mbox ..).trans (imageRead_mbox ..))))

theorem dropMap_mbox (s : State) (p : PartIx) : (dropMap s p).mbox = s.mbox := rfl

theorem placeTables_mbox (s : State) (p : PartIx) (l : Nat) : (placeTables s p l).mbox = s.mbox := by
  unfold placeTables
  split
  · exact modCore_mbox ..
  · rfl

theorem armMap_mbox (s : State) (p : PartIx) (v : Nat) : (armMap s p v).mbox = s.mbox :=
  (ite_keeps State.mbox ((modPart_mbox ..).trans (dropMap_mbox ..)) ((freeRetained_mbox ..).trans (freeShadows_mbox ..))).trans (abandon_mbox ..)

theorem armPlan_mbox (s : State) (p : PartIx) (step version : Word) : (armPlan s p step version).mbox = s.mbox := by
  have cleared : ∀ (l : List CoreIx) (u : State), (each l u (fun s n => modCore s n (fun c =>
      { clearCore c with cycles := 0, lines := [], pins := [] }))).mbox = u.mbox := each_mbox (fun _ _ => modCore_mbox ..)
  have placed : ∀ (l : List Nat) (u : State), (each l u (fun s l => placeTables s p l)).mbox = u.mbox := each_mbox (fun _ _ => placeTables_mbox ..)
  have mapped : ∀ u : State, u.mbox = s.mbox → (bindAll (unbindAll u p) p).1.mbox = s.mbox :=
    fun u hu => (bindAll_mbox ..).trans ((unbindAll_mbox ..).trans hu)
  unfold armPlan
  dsimp only
  split
  · next h =>
    refine (partReport_mbox ..).trans ((haltPlan_mbox ..).trans (fst_mbox h (mapped _ ?_)))
    simp only [modPart_mbox, cleared, clearDigests_mbox, apply_ite State.mbox, clearUpd_mbox, armMap_mbox, ite_self]
  · next h =>
    have bound := fst_mbox h (mapped _ (by
      simp only [modPart_mbox, cleared, clearDigests_mbox, apply_ite State.mbox, clearUpd_mbox, armMap_mbox, ite_self]))
    rw [setPlan_mbox, modPart_mbox, freshChannels_mbox, setScales_mbox, placed, bound]

theorem execArm_inv (s : State) : KeepsInv s (execArm s) :=
  runPartCmd_inv (fun _ _ _ => ite_fst_mbox (errWith_mbox ..) ((okWith_mbox ..).trans (optional_keeps State.mbox (startMirror_mbox ..) (armPlan_mbox
    ..)))) ..

theorem execHaltPlan_inv (s : State) : KeepsInv s (execHaltPlan s) := by
  unfold execHaltPlan
  refine runPartCmd_inv (fun _ _ _ => ?_) ..
  split
  · exact (okWith_mbox ..).trans (haltPlan_mbox ..)
  · exact (okWith_mbox ..).trans (modPart_mbox ..)
  · exact errWith_mbox ..

theorem releasePlan_mbox (s : State) (p : PartIx) : (releasePlan s p).mbox = s.mbox := by
  have released : ∀ (l : List CoreIx) (u : State), (each l u (fun s n => modCore s n releaseCore)).mbox = u.mbox :=
    each_mbox (fun _ _ => modCore_mbox ..)
  simp only [releasePlan, modPart_mbox, setPlan_mbox, clearDigests_mbox, clearUpd_mbox, dropMap_mbox, released, endStreams_mbox, abandon_mbox]

theorem execQueryShape_inv (s : State) : KeepsInv s (execQueryShape s) := by
  unfold execQueryShape
  refine runPartCmd_inv (fun _ _ _ => ?_) ..
  split
  · exact ite_fst_mbox (errWith_mbox ..) (okWith_mbox ..)
  · exact okWith_mbox ..

theorem windowWrite_mbox (s : State) (p : PartIx) (off : Nat) (bs : List Byte) : (windowWrite s p off bs).mbox = s.mbox :=
  ite_keeps State.mbox (accessError_mbox ..) (optional_keeps State.mbox (markPage_mbox ..) ((windowStore_mbox ..).trans (settleBlock_mbox ..)))

theorem windowRead_mbox (s : State) (p : PartIx) (off len : Nat) : (windowRead s p off len).1.mbox = s.mbox := windowBytes_mbox ..

theorem execPartWrite_inv (host : List Byte) (s : State) : KeepsInv s (execPartWrite host s) := by
  unfold execPartWrite
  refine runPartCmd_inv (fun _ _ _ => ?_) ..
  split
  · exact errWith_mbox ..
  · exact ite_fst_mbox rfl ((okWith_mbox ..).trans ((each_mbox (fun _ _ => windowWrite_mbox ..) ..).trans (ite_keeps State.mbox rfl (emit_mbox ..))))

theorem execPartRead_inv (s : State) : KeepsInv s (execPartRead s) := by
  have written : ∀ (p : PartIx) (l : List (Nat × List Byte)) (u : State), (each l u (fun s e => hostWrite s p e.1 e.2)).mbox = u.mbox :=
    fun p => each_mbox (fun _ _ => hostWrite_mbox ..)
  unfold execPartRead
  refine runPartCmd_inv (fun s c p => ?_) ..
  have read : ∀ l : List (Nat × Nat), (l.foldl (fun (x : State × List Byte) e => ((windowRead x.1 p e.1 e.2).1, x.2 ++ (windowRead x.1 p e.1 e.2).2))
      (s, [])).1.mbox = s.mbox := by
    refine fun l => foldl_fst_mbox (fun _ _ => ?_) l (s, [])
    exact windowRead_mbox ..
  split
  · exact errWith_mbox ..
  · simp only [apply_ite Prod.fst, apply_ite State.mbox, okWith_mbox, sramWrite_mbox, written, read, ite_self]

/-! ### StepCmd -/

theorem setTwin_mbox (s : State) (p : PartIx) (serial : Word) (port part rank : Nat) : (setTwin s p serial port part rank).mbox = s.mbox :=
  modPart_mbox ..

theorem sendVest_mbox (s : State) (p : PartIx) : (sendVest s p).mbox = s.mbox := each_mbox (fun _ _ => sendTwin_mbox ..) ..

theorem execTwinAttach_inv (answer : Option TwinProof) (s : State) : KeepsInv s (execTwinAttach answer s) := by
  unfold execTwinAttach
  refine runPartCmd_inv (fun _ _ _ => ite_fst_mbox (errWith_mbox ..) (ite_fst_mbox (errWith_mbox ..) ?_)) ..
  dsimp only
  split
  · exact errWith_mbox ..
  · refine ite_fst_mbox (errWith_mbox ..) (ite_fst_mbox (errWith_mbox ..) ?_)
    split
    · exact (challenge_mbox ..).trans (modPart_mbox ..)
    · split
      · exact (errWith_mbox ..).trans ((modPart_mbox ..).trans (giveReport_mbox ..))
      · exact (okWith_mbox ..).trans ((startMirror_mbox ..).trans ((sendVest_mbox ..).trans ((modPart_mbox ..).trans ((setTwin_mbox ..).trans
          (giveReport_mbox ..)))))

theorem dropTwin_mbox (s : State) (p : PartIx) : (dropTwin s p).mbox = s.mbox := modPart_mbox ..

theorem execTwinRelease_inv (s : State) : KeepsInv s (execTwinRelease s) :=
  runPartCmd_inv (fun _ _ _ => ite_fst_mbox (errWith_mbox ..) (ite_fst_mbox (errWith_mbox ..) ((okWith_mbox ..).trans ((dropTwin_mbox ..).trans
    (sendTwin_mbox ..))))) ..

theorem joinGroup_mbox (s : State) (p : PartIx) (a b : Word) : (joinGroup s p a b).mbox = s.mbox := (modPart_mbox ..).trans (clearDigests_mbox ..)

theorem execGroupJoin_inv (s : State) : KeepsInv s (execGroupJoin s) :=
  runPartCmd_inv (fun _ _ _ => ite_fst_mbox (errWith_mbox ..) (ite_fst_mbox (errWith_mbox ..) (ite_fst_mbox (errWith_mbox ..) (ite_fst_mbox
    (errWith_mbox ..) ((okWith_mbox ..).trans (joinGroup_mbox ..)))))) ..

theorem execGroupLeave_inv (s : State) : KeepsInv s (execGroupLeave s) :=
  runPartCmd_inv (fun _ _ _ => ite_fst_mbox (errWith_mbox ..) (ite_fst_mbox (errWith_mbox ..) ((okWith_mbox ..).trans (modPart_mbox ..)))) ..

theorem execReconfigure_inv (s : State) : KeepsInv s (execReconfigure s) :=
  runPartCmd_inv (fun _ _ _ => ite_fst_mbox (ite_fst_mbox rfl (okWith_mbox ..)) (ite_fst_mbox (errWith_mbox ..) (ite_fst_mbox (errWith_mbox ..)
    (ite_fst_mbox (errWith_mbox ..) (ite_fst_mbox ((beginDiscard_mbox ..).trans (modPart_mbox ..)) ((okWith_mbox ..).trans (modPart_mbox ..))))))) ..

theorem execReadToken_inv (s : State) : KeepsInv s (execReadToken s) := by
  unfold execReadToken
  refine runPartCmd_inv (fun _ _ _ => ite_fst_mbox (errWith_mbox ..) ?_) ..
  split
  · exact errWith_mbox ..
  · exact okWith_mbox ..

theorem execFlip_inv (macOk : Bool) (s : State) : KeepsInv s (execFlip macOk s) :=
  runPartCmd_inv (fun _ _ _ => ite_fst_mbox (errWith_mbox ..) (ite_fst_mbox (errWith_mbox ..) (ite_fst_mbox (errWith_mbox ..) ((okWith_mbox ..).trans
    (applyCommit_mbox ..))))) ..

theorem execDiscard_inv (s : State) : KeepsInv s (execDiscard s) :=
  runPartCmd_inv (fun _ _ _ => ite_fst_mbox (ite_fst_mbox rfl (okWith_mbox ..)) (ite_fst_mbox (errWith_mbox ..) (ite_fst_mbox (errWith_mbox ..)
    (beginDiscard_mbox ..)))) ..

theorem execGo_inv (s : State) : KeepsInv s (execGo s) :=
  runPartCmd_inv (fun _ _ _ => ite_fst_mbox (errWith_mbox ..) (ite_fst_mbox (errWith_mbox ..) (ite_fst_mbox (errWith_mbox ..) ((okWith_mbox ..).trans
    (sendStart_mbox ..))))) ..

theorem execFmHalt_inv (s : State) : KeepsInv s (execFmHalt s) := by
  unfold execFmHalt
  refine runPartCmd_inv (fun _ _ _ => ite_fst_mbox (ite_fst_mbox rfl (okWith_mbox ..)) ?_) ..
  dsimp only
  split
  · exact (okWith_mbox ..).trans ((abandon_mbox ..).trans (haltPlan_mbox ..))
  · exact (modPart_mbox ..).trans (ite_keeps State.mbox rfl (beginDiscard_mbox ..))
  · exact errWith_mbox ..

theorem execBecomeSpare_inv (s : State) : KeepsInv s (execBecomeSpare s) := by
  have abandoned : ∀ (l : List PartIx) (u : State), (each l u (fun s p => abandon s p 4)).mbox = u.mbox := each_mbox (fun _ _ => abandon_mbox ..)
  unfold execBecomeSpare
  refine runPartCmd_inv (fun s _ p => ?_) ..
  simp only [apply_ite Prod.fst, apply_ite State.mbox, errWith_mbox, okWith_mbox, modPart_mbox, startWipe_mbox, abandoned, ite_self]

theorem execAssumeIdentity_inv (x : TwinProof) (s : State) : KeepsInv s (execAssumeIdentity x s) := by
  unfold execAssumeIdentity
  refine runPartCmd_inv (fun _ _ _ => ite_fst_mbox (errWith_mbox ..) (ite_fst_mbox (errWith_mbox ..) (ite_fst_mbox (errWith_mbox ..) ?_))) ..
  dsimp only
  split
  · exact errWith_mbox ..
  · refine ite_fst_mbox (errWith_mbox ..) (ite_fst_mbox (challenge_mbox ..) ?_)
    split
    · exact (errWith_mbox ..).trans (giveReport_mbox ..)
    · exact (okWith_mbox ..).trans ((modPart_mbox ..).trans ((setTwin_mbox ..).trans ((joinGroup_mbox ..).trans (giveReport_mbox ..))))

theorem restoreBlock_mbox (s : State) (p : PartIx) (off version : Nat) (bytes : List Byte) : (restoreBlock s p off version bytes).mbox = s.mbox :=
  (engineWrite_mbox ..).trans ((countG_mbox ..).trans (ite_keeps State.mbox (markPage_mbox ..) rfl))

theorem execRestore_inv (got : Option Mirror) (s : State) : KeepsInv s (execRestore got s) := by
  have restored : ∀ (p : PartIx) (v : Nat) (l : List (Nat × List Byte)) (u : State), (l.foldl (fun s e => restoreBlock s p (4096 * e.1) v e.2) u).mbox
      = u.mbox := fun p v => foldl_mbox (fun _ _ => restoreBlock_mbox ..)
  unfold execRestore
  refine runPartCmd_inv (fun _ _ _ => ite_fst_mbox (errWith_mbox ..) ?_) ..
  split
  · exact errWith_mbox ..
  · split
    · exact errWith_mbox ..
    · split
      · rfl
      · refine ite_fst_mbox (errWith_mbox ..) ?_
        simp only [apply_ite Prod.fst, apply_ite State.mbox, okWith_mbox, armPlan_mbox, loadHists_mbox, createHists_mbox, modPart_mbox, setPlan_mbox]
        split
        · rfl
        · split <;> simp only [okWith_mbox, startStep_mbox, freshChannels_mbox, startMirror_mbox, restored, armPlan_mbox, loadHists_mbox,
            createHists_mbox, modPart_mbox, setPlan_mbox]

theorem execRepair_inv (got : Option (List (Nat × Nat × List Byte))) (s : State) : KeepsInv s (execRepair got s) := by
  unfold execRepair
  refine runPartCmd_inv (fun _ _ _ => ite_fst_mbox (errWith_mbox ..) ?_) ..
  dsimp only
  split
  · exact errWith_mbox ..
  · refine ite_fst_mbox ((okWith_mbox ..).trans (each_mbox (fun _ _ => ?_) ..)) ((partReport_mbox ..).trans ((modPart_mbox ..).trans (each_mbox (fun
      _ _ => ?_) ..)))
    · split
      · exact restoreBlock_mbox ..
      · rfl
    · split
      · exact restoreBlock_mbox ..
      · rfl

/-! ### CkpCmd -/

theorem execCkpAbandon_inv (s : State) : KeepsInv s (execCkpAbandon s) := by
  unfold execCkpAbandon
  refine runPartCmd_inv (fun _ _ _ => ?_) ..
  split
  · exact okWith_mbox ..
  · exact (okWith_mbox ..).trans (abandon_mbox ..)

theorem restorePage_mbox (s : State) (p : PartIx) (off : Nat) (c : Word) (bytes : List Byte) : (restorePage s p off c bytes).mbox = s.mbox :=
  (each_mbox (fun _ _ => (engineWrite_mbox ..).trans (countG_mbox ..)) ..).trans ((modCkp_mbox ..).trans (markPage_mbox ..))

theorem loadObjects_mbox (ms : List (Nat × Word × Manifest)) (objects : List (Word × List Byte)) (k : Nat) (p : PartIx) (c0 : Word) (total fuel : Nat)
    (c : Word) (s : State) (written : List Nat) : (loadObjects ms objects k p c0 total fuel c s written).1.mbox = s.mbox := by
  induction fuel generalizing c s written with
  | zero => rfl
  | succ fuel ih =>
    unfold loadObjects
    split
    · split
      · rfl
      · next rs _ =>
        have hists : (if c = c0 then loadHists s p (histsIn s p rs) else s).mbox = s.mbox := optional_keeps State.mbox (loadHists_mbox ..) rfl
        have pages := (foldl_fst_mbox (f := fun (x : State × List Nat) r =>
            if x.2.contains r.pos then x else (restorePage x.1 p r.pos c0 r.plain, x.2 ++ [r.pos])) (fun _ _ => ite_fst_mbox rfl (restorePage_mbox ..))
          (rs.filter (fun r => r.type == 1)) (_, written)).trans hists
        exact ite_fst_mbox pages ((ih ..).trans pages)
    · rfl

theorem readObject_mbox (s : State) (p : PartIx) (kind shard : Nat) (c : Word) (len : Nat) : (readObject s p kind shard c len).mbox = s.mbox :=
  each_mbox (fun _ _ => ite_keeps State.mbox (emit_mbox ..) (sendFrame_mbox ..)) ..

theorem loseTensors_mbox (s : State) (p : PartIx) : (loseTensors s p).mbox = s.mbox := by
  simp only [loseTensors]
  refine each_mbox (fun s o => ?_) ..
  rw [bump_mbox, setTag_mbox, withHbm_mbox, freeBytes_mbox]

theorem restoreFail_mbox (s : State) (p : PartIx) (hists : Tbl (Tbl HistE)) (frozen : PageSet) (e : Nat) : (restoreFail s p hists frozen e).1.mbox =
    s.mbox :=
  (loseTensors_mbox ..).trans ((modCkp_mbox ..).trans (loadHists_mbox ..))

theorem searchStore_mbox (s : State) (c : Cmd) (p : PartIx) (a : StoreAnswer) : (searchStore s c p a).1.mbox = s.mbox :=
  (sramWrite_mbox ..).trans (each_mbox (fun _ _ => readObject_mbox ..) ..)

theorem loadCut_mbox (s : State) (p : PartIx) (a : StoreAnswer) (cut : Word) (missing : List Nat) : (loadCut s p a cut missing).1.mbox = s.mbox := by
  unfold loadCut
  dsimp only
  split
  · exact restoreFail_mbox ..
  · split
    · next t h =>
        refine (restoreFail_mbox ..).trans ((fst_mbox h (loadObjects_mbox ..)).trans ((modCkp_mbox ..).trans (each_mbox (fun _ _ => ?_) ..)))
        split
        · exact readObject_mbox ..
        · rfl
    · next t _ h =>
        refine ite_fst_mbox ((restoreFail_mbox ..).trans ((fst_mbox h (loadObjects_mbox ..)).trans ((modCkp_mbox ..).trans (each_mbox (fun _ _ => ?_)
          ..)))) ((okWith_mbox ..).trans ((modCkp_mbox ..).trans ((fst_mbox h (loadObjects_mbox ..)).trans ((modCkp_mbox ..).trans (each_mbox (fun _
          _ => ?_) ..)))))
        · split
          · exact readObject_mbox ..
          · rfl
        · split
          · exact readObject_mbox ..
          · rfl

theorem execCkpRestore_inv (answer : Option StoreAnswer) (s : State) : KeepsInv s (execCkpRestore answer s) := by
  unfold execCkpRestore
  refine runPartCmd_inv (fun _ _ _ => ?_) ..
  split
  · exact errWith_mbox ..
  · split
    · exact modCkp_mbox ..
    · refine ite_fst_mbox (restoreFail_mbox ..) ?_
      simp only
      split
      · rw [loadCut_mbox, searchStore_mbox]
      · rw [modCkp_mbox, searchStore_mbox]

theorem execCkpFind_inv (a : StoreAnswer) (s : State) : KeepsInv s (execCkpFind a s) := by
  unfold execCkpFind
  refine runPartCmd_inv (fun _ _ _ => ?_) ..
  split
  · exact errWith_mbox ..
  · exact ite_fst_mbox (errWith_mbox ..) ((okWith_mbox ..).trans ((bump_mbox ..).trans (searchStore_mbox ..)))

/-! ### Chain -/

theorem raiseIssue_mbox (s : State) (n : CoreIx) (i : CtxIx) (e : IssueFault) : (raiseIssue s n i e).mbox = s.mbox := by
  cases e with
  | range e k d => exact operandRange_mbox ..
  | seq v => exact raiseHere_mbox ..

theorem chainDone_mbox (s : State) (n : CoreIx) (p : PartIx) (q : ChSt) : (chainDone s n p q).mbox = s.mbox := by
  unfold chainDone
  refine (each_mbox (fun _ _ => ?_) ..).trans (modCore_mbox ..)
  split
  · rfl
  · exact recordAmax_mbox ..

theorem vectorFault_mbox (s : State) (n : CoreIx) (i : CtxIx) (pc : BitVec 40) (f : EngFault) : (vectorFault s n i pc f).mbox = s.mbox :=
  (engineFault_mbox ..).trans (modCore_mbox ..)

theorem vectorCorr_mbox (s : State) (n : CoreIx) : (vectorCorr s n).mbox = s.mbox := modCore_mbox ..

/-! ### Matrix -/

theorem queueMma_mbox (s : State) (n : CoreIx) (i : CtxIx) (b : Bound) (f : MmaF) (a w mask out : Word) (ch : Chain) : (queueMma s n i b f a w mask
    out ch).mbox = s.mbox :=
  (modCore_mbox ..).trans ((countP_mbox ..).trans (modSed_mbox ..))

theorem execMma_keeps (n : CoreIx) (g : Guard) (f : MmaF) (s : State) : KeepsMbox s (execMma n g f s) := by
  unfold execMma
  refine keeps_next (issue_mbox (fun _ _ _ _ => ?_) ..)
  dsimp only
  split
  · exact raiseIssue_mbox ..
  · rfl
  · split
    · exact raiseIssue_mbox ..
    · exact headgate_mbox (fun _ => (advance_mbox ..).trans (queueMma_mbox ..)) ..

theorem execWpre_keeps (n : CoreIx) (g : Guard) (f : WpreF) (s : State) : KeepsMbox s (execWpre n g f s) :=
  keeps_next (issue_mbox (fun _ _ _ _ => ite_keeps State.mbox (raiseIssue_mbox ..) (ite_keeps State.mbox (raiseIssue_mbox ..) (headgate_mbox (fun _
    => (advance_mbox ..).trans (modCore_mbox ..)) ..))) ..)

theorem sampleGroup_mbox (s : State) (n : CoreIx) (p : PartIx) (j : MmaJob) (ix : Nat) (blocks : List Nat) : (sampleGroup s n p j ix blocks).1.mbox =
    s.mbox :=
  ite_fst_mbox (ineligible_mbox ..) rfl

theorem dropJob_mbox (s : State) (n : CoreIx) (k : Nat) (e : MEntry) (j : MmaJob) : (dropJob s n k e j).mbox = s.mbox :=
  (modCore_mbox ..).trans (modSed_mbox ..)

theorem matrixFault_mbox (s : State) (n : CoreIx) (k : Nat) (e : MEntry) (j : MmaJob) (f : EngFault) : (matrixFault s n k e j f).mbox = s.mbox :=
  (engineFault_mbox ..).trans ((modCore_mbox ..).trans (dropJob_mbox ..))

theorem matrixCorr_mbox (s : State) (n : CoreIx) (corr : Option (Fin 4)) : (matrixCorr s n corr).mbox = s.mbox := by
  unfold matrixCorr
  split
  · rfl
  · exact modCore_mbox ..

theorem completeHead_mbox (s : State) (n : CoreIx) : (completeHead s n).mbox = s.mbox := by
  unfold completeHead
  split
  · rfl
  · dsimp only
    split
    · refine ite_keeps State.mbox (modCore_mbox ..) ((incCnt_mbox ..).trans ?_)
      split
      · exact optional_keeps State.mbox (each_mbox (fun _ _ => ineligible_mbox ..) ..) (optional_keeps State.mbox (modCore_mbox ..) (modCore_mbox ..))
      · exact optional_keeps State.mbox (modCore_mbox ..) (modCore_mbox ..)
    · exact (incCnt_mbox ..).trans (modCore_mbox ..)
    · exact (incCnt_mbox ..).trans (optional_keeps State.mbox (modCore_mbox ..) (modCore_mbox ..))

theorem completeHeads_mbox (fuel : Nat) (n : CoreIx) (s : State) : (completeHeads fuel n s).mbox = s.mbox := by
  induction fuel generalizing s with
  | zero => rfl
  | succ fuel ih =>
    unfold completeHeads
    dsimp only
    split
    · exact modCore_mbox ..
    · exact ite_keeps State.mbox (modCore_mbox ..) (ite_keeps State.mbox ((completeHead_mbox ..).trans (modCore_mbox ..))
        ((ih _).trans ((completeHead_mbox ..).trans (modCore_mbox ..))))

theorem settleMq_mbox (s : State) (n : CoreIx) : (settleMq s n).mbox = s.mbox := (wake_mbox ..).trans (completeHeads_mbox ..)

theorem groupItem_mbox (s : State) (n : CoreIx) (p : PartIx) (j : MmaJob) (base mg : Nat) (blocks : List Nat) (ts : List Tile) (ordinal : Nat) :
    (groupItem s n p j base mg blocks ts ordinal).mbox = s.mbox :=
  addItem_mbox ..

theorem loadNext_mbox (s : State) (n : CoreIx) (k : Nat) (p : PartIx) (base : Nat) (j : MmaJob) : (loadNext s n k p base j).1.mbox = s.mbox :=
  ite_fst_mbox rfl (modCore_mbox ..)

theorem finish_mbox (n : CoreIx) (k : Nat) (p : PartIx) (s : State) (j : MmaJob) (base : Nat) : (onePass.finish n k p s j base).mbox = s.mbox :=
  ite_keeps State.mbox ((loadNext_mbox ..).trans (modCore_mbox ..)) (modCore_mbox ..)

theorem onePass_mbox (s : State) (n : CoreIx) (k : Nat) (e : MEntry) (j : MmaJob) (p : PartIx) : (onePass s n k e j p).mbox = s.mbox := by
  simp only [onePass]
  split
  · split
    · exact loadNext_mbox ..
    · simp only [finish_mbox, countG_mbox, countP_mbox, apply_ite Prod.fst, apply_ite State.mbox, sampleGroup_mbox, loadNext_mbox, ite_self]
  · split
    · exact loadNext_mbox ..
    · simp only [apply_ite State.mbox, finish_mbox, groupItem_mbox, modCore_mbox, countG_mbox, loadNext_mbox, ite_self]
  · exact loadNext_mbox ..

theorem execMatrixPass_keeps (n : CoreIx) (fault : Option EngFault) (corr : Option (Fin 4)) (s : State) : KeepsMbox s (execMatrixPass n fault corr s) := by
  unfold execMatrixPass
  refine keeps_ite (keeps_next rfl) ?_
  dsimp only
  split
  · exact keeps_next ((settleMq_mbox ..).trans (matrixCorr_mbox ..))
  · split
    · exact keeps_next ((settleMq_mbox ..).trans ((matrixFault_mbox ..).trans (matrixCorr_mbox ..)))
    · split
      · exact keeps_next (matrixCorr_mbox ..)
      · exact keeps_next ((settleMq_mbox ..).trans ((onePass_mbox ..).trans (matrixCorr_mbox ..)))

theorem sampleClear_mbox (s : State) (n : CoreIx) (p : PartIx) (j : MmaJob) (base : Nat) : (sampleClear s n p j base).mbox = s.mbox := by
  unfold sampleClear
  split
  · exact ite_keeps State.mbox (optional_keeps State.mbox (groupItem_mbox ..) (sampleGroup_mbox ..)) rfl
  · rfl

theorem tileDrained_mbox (s : State) (n : CoreIx) (p : PartIx) (bk : Fin 2) (base : Nat) (j : MmaJob) (h : Option (Nat × Nat)) (ntiles : Nat) :
    (tileDrained s n p bk base j h ntiles).mbox = s.mbox :=
  (modCore_mbox ..).trans (sampleClear_mbox ..)

theorem flumeDrain_mbox (s : State) (n : CoreIx) (b : Bound) (lc : LCoreE) (e : MEntry) (j : MmaJob) (mg nb nt : Nat) : (flumeDrain s n b lc e j mg
    nb nt).mbox = s.mbox :=
  ite_keeps State.mbox ((tileDrained_mbox ..).trans (modCore_mbox ..)) (modBank_mbox ..)

theorem execMatrixDrain_keeps (n : CoreIx) (fault : Option (Engine × EngFault)) (corr : Option (Fin 4)) (s : State) : KeepsMbox s (execMatrixDrain n
    fault corr s) := by
  unfold execMatrixDrain
  refine keeps_ite (keeps_next rfl) ?_
  dsimp only
  split
  · exact keeps_next ((settleMq_mbox ..).trans (matrixCorr_mbox ..))
  · split
    · exact keeps_next ((settleMq_mbox ..).trans ((matrixFault_mbox ..).trans (matrixCorr_mbox ..)))
    · exact keeps_next ((settleMq_mbox ..).trans ((vectorFault_mbox ..).trans ((dropJob_mbox ..).trans (matrixCorr_mbox ..))))
    · split
      · exact keeps_next (matrixCorr_mbox ..)
      · split
        · exact keeps_next (matrixCorr_mbox ..)
        · split
          · exact keeps_next (matrixCorr_mbox ..)
          · exact keeps_next ((settleMq_mbox ..).trans ((tileDrained_mbox ..).trans ((modCore_mbox ..).trans (matrixCorr_mbox ..))))
          · exact keeps_next ((settleMq_mbox ..).trans ((flumeDrain_mbox ..).trans (matrixCorr_mbox ..)))
          · exact keeps_ite (keeps_next (matrixCorr_mbox ..)) (keeps_next ((settleMq_mbox ..).trans ((tileDrained_mbox ..).trans ((chainDone_mbox
              ..).trans ((modCore_mbox ..).trans ((sampleTile_mbox ..).trans (matrixCorr_mbox ..)))))))

theorem execFlumeTileWrite_keeps (n : CoreIx) (bank : Fin 2) (s : State) : KeepsMbox s (execFlumeTileWrite n bank s) := by
  unfold execFlumeTileWrite
  refine keeps_ite (keeps_next rfl) ?_
  dsimp only
  split
  · exact keeps_next rfl
  · split
    · exact keeps_next rfl
    · split
      · exact keeps_next rfl
      · exact keeps_ite (keeps_next rfl) (keeps_next ((settleMq_mbox ..).trans (flumeDrain_mbox ..)))

theorem execWpreComplete_keeps (n : CoreIx) (s : State) : KeepsMbox s (execWpreComplete n s) := by
  unfold execWpreComplete
  refine keeps_ite (keeps_next rfl) ?_
  dsimp only
  split
  · exact keeps_next rfl
  · split
    · exact keeps_next ((settleMq_mbox ..).trans (modCore_mbox ..))
    · exact keeps_next rfl

/-! ### Vector -/

theorem execVrun_keeps (n : CoreIx) (g : Guard) (f : VrunF) (s : State) : KeepsMbox s (execVrun n g f s) := by
  unfold execVrun
  refine keeps_next (issue_mbox (fun _ _ _ _ => ?_) ..)
  dsimp only
  split
  · exact raiseIssue_mbox ..
  · rfl
  · split
    · exact raiseIssue_mbox ..
    · exact headgate_mbox (fun _ => (advance_mbox ..).trans (modCore_mbox ..)) ..

theorem execVpop_keeps (n : CoreIx) (g : Guard) (count : Nat) (cnt : Option Cnt) (s : State) : KeepsMbox s (execVpop n g count cnt s) := by
  unfold execVpop
  refine keeps_next (issue_mbox (fun _ _ _ _ => ?_) ..)
  dsimp only
  split
  · rfl
  · split
    · exact raiseIssue_mbox ..
    · exact headgate_mbox (fun _ => (advance_mbox ..).trans ((modBank_mbox ..).trans (modCore_mbox ..))) ..

theorem execVchdef_keeps (n : CoreIx) (g : Guard) (saDef : Reg) (entry : Fin 32) (cnt : Option Cnt) (s : State) : KeepsMbox s (execVchdef n g saDef
    entry cnt s) := by
  unfold execVchdef
  refine keeps_next (issue_mbox (fun _ _ _ _ => ite_keeps State.mbox (raiseIssue_mbox ..) (headgate_mbox (fun _ => ?_) ..)) ..)
  dsimp only
  split
  · exact raiseIssue_mbox ..
  · exact headgate_mbox (fun _ => (advance_mbox ..).trans (modCore_mbox ..)) ..

theorem oneTile_mbox (s : State) (n : CoreIx) (env : State → ChEnv) (ch : Chain) (src : List (Nat × Nat)) (nb : Nat) (reds : List RedEl) (rows : List
    (Nat × List (Nat × W32))) : (oneTile s n env ch src nb reds rows).1.mbox = s.mbox :=
  (chainDone_mbox ..).trans (sampleTile_mbox ..)

theorem runVrun_mbox (s : State) (n : CoreIx) (e : VEntry) (b : Bound) (f : VrunF) (src out : Word) (ch : Chain) : (runVrun s n e b f src out
    ch).mbox = s.mbox :=
  (modCore_mbox ..).trans (foldl_fst_mbox (fun _ _ => oneTile_mbox ..) ..)

theorem runVpop_mbox (s : State) (n : CoreIx) (e : VEntry) (b : Bound) (lc : LCoreE) (count : Nat) (chs : List Chain) : (runVpop s n e b lc count
    chs).mbox = s.mbox := by
  simp only [runVpop, modBank_mbox]
  refine (each_mbox (fun s id => ?_) ..).trans (foldl_fst_mbox (fun x w => ?_) ..)
  · split
    · rfl
    · rw [modCore_mbox]
  · rw [oneTile_mbox]

theorem popVec_mbox (s : State) (n : CoreIx) (e : VEntry) (base : Nat) (rel count : Bool) : (popVec s n e base rel count).mbox = s.mbox :=
  (wake_mbox ..).trans (optional_keeps State.mbox (incCnt_mbox ..) ((deliverTrds_mbox ..).trans ((modCtx_mbox ..).trans (modCore_mbox ..))))

theorem execVectorComplete_keeps (n : CoreIx) (fault : Option EngFault) (corr : Bool) (s : State) : KeepsMbox s (execVectorComplete n fault corr s) := by
  unfold execVectorComplete
  refine keeps_ite (keeps_next rfl) ?_
  dsimp only
  split
  · exact keeps_next (ite_keeps State.mbox (vectorCorr_mbox ..) rfl)
  · split
    · exact keeps_next (ite_keeps State.mbox (vectorCorr_mbox ..) rfl)
    · split
      · exact keeps_next ((vectorFault_mbox ..).trans ((popVec_mbox ..).trans (ite_keeps State.mbox (vectorCorr_mbox ..) rfl)))
      · exact keeps_next (ite_keeps State.mbox (vectorCorr_mbox ..) rfl)
      · split
        · exact keeps_next ((popVec_mbox ..).trans ((runVrun_mbox ..).trans (ite_keeps State.mbox (vectorCorr_mbox ..) rfl)))
        · exact keeps_next ((popVec_mbox ..).trans ((runVpop_mbox ..).trans (ite_keeps State.mbox (vectorCorr_mbox ..) rfl)))
        · exact keeps_next ((popVec_mbox ..).trans ((modBank_mbox ..).trans (ite_keeps State.mbox (vectorCorr_mbox ..) rfl)))

/-! ### Replay -/

theorem storeItem_mbox (s : State) (i : SedItem) (unit : Nat) (d : DiffAt) : (storeItem s i unit d).mbox = s.mbox := storePattern_mbox ..

theorem settleItem_mbox (s : State) (ix : Nat) (i : SedItem) : (settleItem s ix i).mbox = s.mbox := by
  unfold settleItem
  dsimp only
  split
  · exact (granuleDone_mbox ..).trans ((releaseItem_mbox ..).trans (dropItem_mbox ..))
  · exact (releaseItem_mbox ..).trans (dropItem_mbox ..)

theorem agreeAll_mbox (s : State) (i : SedItem) : (agreeAll s i).mbox = s.mbox := each_mbox (fun _ _ => agree_mbox ..) ..

theorem execCompare_keeps (ix : Nat) (fault : CompareFault) (same : Bool) (s : State) : KeepsMbox s (execCompare ix fault same s) := by
  unfold execCompare
  split
  · exact keeps_next rfl
  · refine keeps_ite (keeps_next rfl) (keeps_ite (keeps_next ((voteFail_mbox ..).trans ((verdict_mbox ..).trans ((releaseItem_mbox ..).trans
      ((dropItem_mbox ..).trans (modCounts_mbox ..)))))) ?_)
    dsimp only
    split
    · exact keeps_next ((agreeAll_mbox ..).trans ((settleItem_mbox ..).trans (modCounts_mbox ..)))
    · exact keeps_ite (keeps_next ((modSed_mbox ..).trans ((modCounts_mbox ..).trans (modCounts_mbox ..)))) (keeps_next ((voteFail_mbox ..).trans
        ((verdict_mbox ..).trans ((blame_mbox ..).trans ((blame_mbox ..).trans ((releaseItem_mbox ..).trans ((dropItem_mbox ..).trans
        ((modCounts_mbox ..).trans (modCounts_mbox ..)))))))))

theorem execVote_keeps (ix : Nat) (res : VoteResult) (at0 : Option DiffAt) (s : State) : KeepsMbox s (execVote ix res at0 s) := by
  unfold execVote
  split
  · exact keeps_next rfl
  · split
    · exact keeps_next rfl
    · refine keeps_ite (keeps_next rfl) ?_
      dsimp only
      split
      · refine keeps_next ((settleItem_mbox ..).trans ((verdict_mbox ..).trans ?_))
        split
        · exact (storeItem_mbox ..).trans (blame_mbox ..)
        · exact blame_mbox ..
      · refine keeps_next ((voteFail_mbox ..).trans ((verdict_mbox ..).trans ((releaseItem_mbox ..).trans ((dropItem_mbox ..).trans ?_))))
        split
        · exact (storeItem_mbox ..).trans (blame_mbox ..)
        · exact blame_mbox ..
      · refine keeps_next ((voteFail_mbox ..).trans ((verdict_mbox ..).trans ?_))
        split
        · exact (suspect_mbox ..).trans ((suspect_mbox ..).trans ((suspect_mbox ..).trans ((releaseItem_mbox ..).trans (dropItem_mbox ..))))
        · exact (suspect_mbox ..).trans ((suspect_mbox ..).trans ((releaseItem_mbox ..).trans (dropItem_mbox ..)))

theorem testDone_mbox (s : State) (unit record run failed : Nat) : (testDone s unit record run failed).mbox = s.mbox := modSed_mbox ..

theorem selftestRecord_mbox (unit record : Nat) (fault : Bool) (s : State) : (selftestRecord unit record fault s).mbox = s.mbox := by
  unfold selftestRecord
  split
  · exact testDone_mbox ..
  · exact ite_keeps State.mbox rfl ((ite_keeps State.mbox rfl ((fenceNow_mbox ..).trans ((orderFence_mbox ..).trans ((wantSection_mbox ..).trans
      ((wantSection_mbox ..).trans ((putPantry_mbox ..).trans (setUnit_mbox ..))))))).trans ((testDone_mbox ..).trans ((countG_mbox ..).trans
      (ite_keeps State.mbox (countG_mbox ..) rfl))))

/-! ### SedCmd -/

theorem execSelftestRecord_keeps (unit record : Nat) (fault : Bool) (s : State) : KeepsMbox s (execSelftestRecord unit record fault s) := by
  unfold execSelftestRecord
  dsimp only
  split
  · exact keeps_next rfl
  · exact keeps_ite (keeps_next rfl) (keeps_next (selftestRecord_mbox ..))

theorem commandFence_mbox (s : State) (u : Nat) : (commandFence s u).mbox = s.mbox := by
  unfold commandFence
  dsimp only
  split
  · split
    · exact optional_keeps State.mbox (coreFences_mbox ..) (orderFence_mbox ..)
    · rfl
  · split
    · exact optional_keeps State.mbox (coreFences_mbox ..) (orderFence_mbox ..)
    · rfl
  · split
    · exact optional_keeps State.mbox (coreFences_mbox ..) (orderFence_mbox ..)
    · rfl
  · split
    · exact (updFence_mbox ..).trans (orderFence_mbox ..)
    · rfl
  · split
    · exact orderPcFence_mbox ..
    · rfl
  · split
    · exact laneFence_mbox ..
    · rfl

theorem execSedFence_inv (s : State) : KeepsInv s (execSedFence s) :=
  runCmd_inv (fun _ _ => ite_fst_mbox (errWith_mbox ..) (ite_fst_mbox (errWith_mbox ..) ((okWith_mbox ..).trans (commandFence_mbox ..)))) ..

theorem execSedSelftest_inv (s : State) : KeepsInv s (execSedSelftest s) := by
  unfold execSedSelftest
  refine runCmd_inv (fun _ _ => ?_) ..
  dsimp only
  split
  · exact ite_fst_mbox ((okWith_mbox ..).trans ((modSed_mbox ..).trans (ite_keeps State.mbox rfl (beginTest_mbox ..)))) (ite_keeps State.mbox rfl
      (beginTest_mbox ..))
  · exact (okWith_mbox ..).trans (ite_keeps State.mbox rfl (beginTest_mbox ..))

theorem execSedPantryRead_inv (s : State) : KeepsInv s (execSedPantryRead s) := by
  unfold execSedPantryRead
  refine runCmd_inv (fun _ _ => ite_fst_mbox (errWith_mbox ..) (ite_fst_mbox (errWith_mbox ..) (ite_fst_mbox (errWith_mbox ..) ?_))) ..
  split
  · exact okWith_mbox ..
  · exact (okWith_mbox ..).trans (sramWrite_mbox ..)

theorem execSedPantryLoad_inv (s : State) : KeepsInv s (execSedPantryLoad s) := by
  unfold execSedPantryLoad
  refine runCmd_inv (fun _ _ => ite_fst_mbox (errWith_mbox ..) (ite_fst_mbox (errWith_mbox ..) ?_)) ..
  split
  · exact errWith_mbox ..
  · exact (okWith_mbox ..).trans (storePattern_mbox ..)

theorem execSedReplicas_inv (s : State) : KeepsInv s (execSedReplicas s) :=
  runPartCmd_inv (fun _ _ _ => ite_fst_mbox (errWith_mbox ..) (ite_fst_mbox (errWith_mbox ..) ((okWith_mbox ..).trans (modDigests_mbox ..)))) ..

theorem execSedDigest_inv (s : State) : KeepsInv s (execSedDigest s) := by
  unfold execSedDigest
  refine runPartCmd_inv (fun _ _ _ => ?_) ..
  split
  · exact errWith_mbox ..
  · exact ite_fst_mbox (errWith_mbox ..) (okWith_mbox ..)

/-! ### Registers -/

theorem ccWrite_mbox (s : State) (n : CoreIx) (off : Nat) (v : Word) : (ccWrite s n off v).mbox = s.mbox := by
  unfold ccWrite
  refine ite_keeps State.mbox (modCore_mbox ..) (ite_keeps State.mbox ?_ rfl)
  split
  · exact modCtx_mbox ..
  · rfl

theorem maWrite_mbox (s : State) (n : CoreIx) (k : Fin 4) (off : Nat) (v : Word) : (maWrite s n k off v).mbox = s.mbox := modCore_mbox ..

theorem veWrite_mbox (s : State) (n : CoreIx) (off : Nat) (v : Word) : (veWrite s n off v).mbox = s.mbox := modCore_mbox ..

theorem slcWrite_mbox (s : State) (d : DieIx) (off : Nat) (v : Word) : (slcWrite s d off v).mbox = s.mbox :=
  ite_keeps State.mbox (modSluice_mbox ..) (ite_keeps State.mbox (modSluice_mbox ..) (ite_keeps State.mbox (modSluice_mbox ..) rfl))

theorem celWrite_mbox (s : State) (c : CellarIx) (off : Nat) (v : Word) : (celWrite s c off v).mbox = s.mbox := modCellar_mbox ..

theorem updWrite_mbox (s : State) (c : CellarIx) (off : Nat) (v : Word) : (updWrite s c off v).mbox = s.mbox := modUpd_mbox ..

theorem stpWrite_mbox (s : State) (p : PartIx) (off : Nat) (v : Word) : (stpWrite s p off v).mbox = s.mbox := modPart_mbox ..

theorem ckpWrite_mbox (s : State) (p : PartIx) (off : Nat) (v : Word) : (ckpWrite s p off v).mbox = s.mbox := modCkp_mbox ..

theorem sedWrite_mbox (s : State) (off : Nat) (v : Word) : (sedWrite s off v).mbox = s.mbox := by
  unfold sedWrite
  dsimp only
  split
  · exact (fenceShort_mbox ..).trans (modSed_mbox ..)
  · exact modSed_mbox ..


theorem fabWrite_mbox (s : State) (d : PortDieIx) (off : Nat) (v : Word) : (fabWrite s d off v).mbox = s.mbox :=
  optional_keeps State.mbox (each_mbox (fun _ _ => pump_mbox ..) ..) (modPortDie_mbox ..)

theorem setEnable_mbox (s : State) (i : Fin 4) (en : Bool) : (setEnable s i en).mbox = s.mbox :=
  ite_keeps State.mbox rfl (ite_keeps State.mbox (modDump_mbox ..) ((ite_keeps State.mbox (endDump_mbox ..) (ite_keeps State.mbox (modDump_mbox ..)
    rfl)).trans (modDump_mbox ..)))

theorem dumpWrite_mbox (s : State) (i : Fin 4) (off : Nat) (v : Word) : (dumpWrite s i off v).mbox = s.mbox :=
  optional_keeps State.mbox (setEnable_mbox ..) (optional_keeps State.mbox rfl (modDump_mbox ..))

theorem dbgWrite_mbox (s : State) (off : Nat) (v : Word) : (dbgWrite s off v).mbox = s.mbox := by
  unfold dbgWrite
  refine ite_keeps State.mbox rfl (ite_keeps State.mbox rfl (ite_keeps State.mbox rfl (ite_keeps State.mbox ?_ rfl)))
  split
  · exact dumpWrite_mbox ..
  · rfl

theorem trcWrite_mbox (s : State) (off : Nat) (v : Word) : (trcWrite s off v).mbox = s.mbox := ite_keeps State.mbox rfl (ite_keeps State.mbox rfl rfl)

theorem cntWrite_mbox (s : State) (off : Nat) (v : Word) : (cntWrite s off v).mbox = s.mbox := by
  unfold cntWrite
  refine ite_keeps State.mbox rfl (ite_keeps State.mbox ?_ rfl)
  dsimp only
  split
  · rfl
  · rfl

theorem pwrWrite_mbox (s : State) (off : Nat) (v : Word) : (pwrWrite s off v).mbox = s.mbox :=
  ite_keeps State.mbox (modPwr_mbox ..) (ite_keeps State.mbox (modPwr_mbox ..) (ite_keeps State.mbox (modPwr_mbox ..) rfl))

theorem dataWrite_mbox (s : State) (a : Nat) (bs : List Byte) : (dataWrite s a bs).mbox = s.mbox := by
  unfold dataWrite
  dsimp only
  split
  · exact (windowStore_mbox ..).trans (settleBlock_mbox ..)
  · exact optional_keeps State.mbox (markPage_mbox ..) ((windowStore_mbox ..).trans (settleBlock_mbox ..))

theorem putDirty_mbox (s : State) (frozen : Bool) (g : Nat) (v : Bool) : (putDirty s frozen g v).mbox = s.mbox := by
  unfold putDirty
  split
  · rfl
  · exact modCkp_mbox ..

theorem dirtyWrite_mbox (s : State) (c : CellarIx) (off : Nat) (bs : List Byte) : (dirtyWrite s c off bs).mbox = s.mbox :=
  each_mbox (fun _ _ => each_mbox (fun _ _ => putDirty_mbox ..) ..) ..

theorem dataRead_mbox (s : State) (a len : Nat) : (dataRead s a len).1.mbox = s.mbox := windowBytes_mbox ..

theorem memRead_mbox (s : State) (w : Window) (off len : Nat) : (memRead s w off len).1.mbox = s.mbox := by
  unfold memRead
  split
  · rfl
  · rfl
  · rfl
  · rfl
  · rfl
  · rfl
  · exact dataRead_mbox ..

theorem memWrite_mbox (s : State) (w : Window) (off : Nat) (bs : List Byte) : (memWrite s w off bs).mbox = s.mbox := by
  unfold memWrite
  split
  · rfl
  · rfl
  · exact sramWrite_mbox ..
  · exact writeHall_mbox ..
  · exact modCore_mbox ..
  · exact ite_keeps State.mbox rfl (ite_keeps State.mbox (dirtyWrite_mbox ..) (ite_keeps State.mbox (each_mbox (fun _ _ => modUpd_mbox ..) ..)
      (modCellar_mbox ..)))
  · exact dataWrite_mbox ..

theorem msixWrite_mbox (s : State) (off : Nat) (bytes : List Byte) : (msixWrite s off bytes).mbox = s.mbox := by
  unfold msixWrite
  split
  · rfl
  · exact ite_keeps State.mbox rfl (optional_keeps State.mbox (msix_mbox ..) rfl)

/-! ### Debug -/

theorem flushTrace_mbox (s : State) : (flushTrace s).mbox = s.mbox := ite_keeps State.mbox (each_mbox (fun _ _ => emit_mbox ..) ..) rfl

theorem syncPacket_mbox (s : State) : (syncPacket s).mbox = s.mbox :=
  ite_keeps State.mbox ((flushTrace_mbox ..).trans ((ite_keeps State.mbox (leadPackets_mbox ..) (packetNow_mbox ..)).trans (look_mbox ..))) rfl

theorem syncNow_mbox (s : State) : (syncNow s).mbox = s.mbox := ite_keeps State.mbox rfl (syncPacket_mbox ..)

theorem counterPackets_mbox (s : State) (part : Option PartIx) (coin : Bool) : (counterPackets s part coin).mbox = s.mbox :=
  (each_mbox (fun _ _ => lossyPacket_mbox ..) ..).trans (sampleAll_mbox ..)

theorem execCounterSample_keeps (coin : Bool) (s : State) : KeepsMbox s (execCounterSample coin s) :=
  keeps_ite (keeps_next rfl) (keeps_next ((counterPackets_mbox ..).trans (each_mbox (fun _ _ => counterPackets_mbox ..) ..)))

theorem setLevel_mbox (s : State) (new src : Nat) : (setLevel s new src).mbox = s.mbox := by
  unfold setLevel
  refine ite_keeps State.mbox rfl ?_
  simp only [devReport_mbox, apply_ite State.mbox, traceEvent_mbox, wipeAll_mbox, syncNow_mbox, dumpAbort_mbox, resumeAll_mbox, ite_self]

theorem unlock_mbox (s : State) (rs : List AuthRec) (src : Nat) : (unlock s rs src).1.mbox = s.mbox :=
  ite_fst_mbox (ite_keeps State.mbox rfl rfl) (ite_fst_mbox (ite_keeps State.mbox rfl rfl) (optional_keeps State.mbox (setLevel_mbox ..) (ite_keeps
    State.mbox rfl rfl)))

theorem execDbgUnlock_inv (x y : AuthProof) (s : State) : KeepsInv s (execDbgUnlock x y s) :=
  runCmd_inv (fun _ _ => ite_fst_mbox (errWith_mbox ..) (ite_fst_mbox (errWith_mbox ..) (ite_fst_mbox ((okWith_mbox ..).trans (unlock_mbox ..))
    ((errWith_mbox ..).trans (unlock_mbox ..))))) ..

theorem execDbgHalt_inv (s : State) : KeepsInv s (execDbgHalt s) :=
  runCmd_inv (fun _ _ => ite_fst_mbox (errWith_mbox ..) (ite_fst_mbox (errWith_mbox ..) (ite_fst_mbox (okWith_mbox ..) ((okWith_mbox ..).trans
    ((haltWave_mbox ..).trans (look_mbox ..)))))) ..

theorem execDbgResume_inv (s : State) : KeepsInv s (execDbgResume s) :=
  runCmd_inv (fun _ _ => ite_fst_mbox (errWith_mbox ..) (ite_fst_mbox (errWith_mbox ..) ((okWith_mbox ..).trans (resumeAll_mbox ..)))) ..

theorem execTrcMark_inv (s : State) : KeepsInv s (execTrcMark s) :=
  runCmd_inv (fun _ _ => ite_fst_mbox (errWith_mbox ..) (ite_fst_mbox (errWith_mbox ..) ((okWith_mbox ..).trans (traceEvent_mbox ..)))) ..

theorem execCntRead_inv (coin : Bool) (s : State) : KeepsInv s (execCntRead coin s) := by
  unfold execCntRead
  refine runCmd_inv (fun _ _ => ite_fst_mbox ?_ ?_) ..
  · simp only [apply_ite Prod.fst, apply_ite State.mbox, errWith_mbox, okWith_mbox, sample_mbox, ite_self]
  · split
    · exact errWith_mbox ..
    · simp only [apply_ite Prod.fst, apply_ite State.mbox, errWith_mbox, okWith_mbox, sample_mbox, ite_self]

theorem execCntSnapshot_inv (coin : Bool) (s : State) : KeepsInv s (execCntSnapshot coin s) := by
  unfold execCntSnapshot
  refine runCmd_inv (fun s c => ite_fst_mbox (errWith_mbox ..) (ite_fst_mbox (errWith_mbox ..) ?_)) ..
  simp only [okWith_mbox, sramWrite_mbox]
  refine foldl_fst_mbox (fun _ _ => ?_) ..
  exact sampleAll_mbox ..

theorem execCntClear_inv (s : State) : KeepsInv s (execCntClear s) := by
  unfold execCntClear
  refine runCmd_inv (fun _ _ => ?_) ..
  dsimp only
  split
  · exact errWith_mbox ..
  · exact (okWith_mbox ..).trans (optional_keeps State.mbox (newGlobalWindow_mbox ..) (newWindow_mbox ..))
  · exact (okWith_mbox ..).trans (ite_keeps State.mbox (newGlobalWindow_mbox ..) rfl)

theorem stretchBytes_mbox (s : State) (k : Nat) (e : ChainPart) : (stretchBytes s k e).1.mbox = s.mbox := by
  cases e with
  | known bs => rfl
  | sized n => exact freeBytes_mbox s n
  | free => exact bump_mbox s

theorem chainBytes_mbox (s : State) (k : Nat) : (chainBytes s k).1.mbox = s.mbox := by
  simp only [chainBytes]
  refine foldl_fst_mbox (fun _ _ => ?_) ..
  exact stretchBytes_mbox ..

theorem scanPackets_mbox (s : State) (k : Nat) (bs : List Byte) : (scanPackets s k bs).mbox = s.mbox := each_mbox (fun _ _ => packet_mbox ..) ..

theorem execDbgScan_inv (s : State) : KeepsInv s (execDbgScan s) :=
  runCmd_inv (fun _ _ => ite_fst_mbox (errWith_mbox ..) (ite_fst_mbox (errWith_mbox ..) (ite_fst_mbox (errWith_mbox ..) (ite_fst_mbox (errWith_mbox
    ..) (ite_fst_mbox (errWith_mbox ..) (ite_fst_mbox (errWith_mbox ..) (ite_fst_mbox (errWith_mbox ..) ((okWith_mbox ..).trans (foldl_fst_mbox (fun
    _ _ => (scanPackets_mbox ..).trans (chainBytes_mbox ..)) ..))))))))) ..

theorem tapSelect_keeps {act : State → State} (h : ∀ u, (act u).mbox = u.mbox) (s : State) (code level : Nat) : KeepsMbox s (tapSelect s code level
    act) :=
  keeps_ite (keeps_next rfl) (keeps_ite (keeps_next rfl) (keeps_next (h ..)))

theorem freeBits_mbox (s : State) (n : Nat) : (freeBits s n).mbox = s.mbox := (emit_mbox ..).trans (freeBytes_mbox ..)

theorem boundaryScan_mbox (s : State) (bits : List Bool) : (boundaryScan s bits).mbox = s.mbox := freeBits_mbox ..

/-! ### PwrLinkCmd -/

theorem execPwrSetState_inv (s : State) : KeepsInv s (execPwrSetState s) :=
  runCmd_inv (fun _ _ => ite_fst_mbox rfl (ite_fst_mbox (errWith_mbox ..) (ite_fst_mbox (okWith_mbox ..) (ite_fst_mbox (errWith_mbox ..) (modPwr_mbox
    ..))))) ..

theorem execFabRouteSet_inv (s : State) : KeepsInv s (execFabRouteSet s) := by
  unfold execFabRouteSet
  refine runCmd_inv (fun _ _ => ?_) ..
  simp only [apply_ite Prod.fst, apply_ite State.mbox, errWith_mbox, okWith_mbox, ite_self]

theorem execFabRankmapSet_inv (s : State) : KeepsInv s (execFabRankmapSet s) := by
  unfold execFabRankmapSet
  refine runPartCmd_inv (fun _ _ _ => ?_) ..
  simp only [apply_ite Prod.fst, apply_ite State.mbox, errWith_mbox, okWith_mbox, ite_self]

theorem onPort_mbox {s : State} {f : PortIx → CmdRes} (h : ∀ x, (f x).1.mbox = s.mbox) (c : Cmd) : (onPort s c f).1.mbox = s.mbox := by
  unfold onPort
  split
  · exact errWith_mbox ..
  · exact ite_fst_mbox (errWith_mbox ..) (h ..)

theorem execFabPort_inv (s : State) : KeepsInv s (execFabPort s) := by
  unfold execFabPort
  refine runCmd_inv (fun _ _ => onPort_mbox (fun _ => ite_fst_mbox (errWith_mbox ..) (ite_fst_mbox (errWith_mbox ..) ((okWith_mbox ..).trans ?_)))
    ..) ..
  split
  · exact portDown_mbox ..
  · exact modPort_mbox ..
  · exact modPort_mbox ..

/-! ### Mgmt -/

theorem answerBusy_mbox (s : State) (seq : Nat) : (answerBusy s seq).mbox = s.mbox := emit_mbox ..

theorem learnPeer_mbox (s : State) (m : MsgIn) : (learnPeer s m).mbox = s.mbox := ite_keeps State.mbox rfl rfl

theorem netAnswer_mbox (s : State) (kind : Nat) (words : List Nat) : (netAnswer s kind words).mbox = s.mbox := emit_mbox ..

theorem execNdpRequest_keeps (x : NetIn NetAddr) (s : State) : KeepsMbox s (execNdpRequest x s) := by
  unfold execNdpRequest
  split
  · exact keeps_next rfl
  · exact keeps_next (ite_keeps State.mbox (netAnswer_mbox ..) rfl)

theorem onMctp_keeps {f : State → State} (h : ∀ u, (f u).mbox = u.mbox) (s : State) : KeepsMbox s (onMctp s f) :=
  keeps_next (ite_keeps State.mbox (h ..) rfl)

theorem mctpAnswer_mbox (s : State) (kind : Nat) (words : List Nat) : (mctpAnswer s kind words).mbox = s.mbox := emit_mbox ..

theorem freeAnswer_mbox (s : State) (kind : Nat) (words : List Nat) : (freeAnswer s kind words).mbox = s.mbox :=
  (mctpAnswer_mbox ..).trans (bump_mbox ..)

theorem execGetpldmcommands_keeps (type : Byte) (s : State) : KeepsMbox s (execGetpldmcommands type s) := by
  unfold execGetpldmcommands
  refine onMctp_keeps (fun _ => ?_) ..
  split
  · exact mctpAnswer_mbox ..
  · exact mctpAnswer_mbox ..
  · exact freeAnswer_mbox ..
  · exact mctpAnswer_mbox ..

theorem withSlot_mbox (s : State) (image : List Byte) : (withSlot s image).mbox = s.mbox := modFlash_mbox ..

theorem execPldmFirmwareUpdate_keeps (image : List Byte) (x : ImageProof) (ok : Bool) (s : State) : KeepsMbox s (execPldmFirmwareUpdate image x ok s) :=
  onMctp_keeps (fun _ => ite_keeps State.mbox (mctpAnswer_mbox ..) (ite_keeps State.mbox (mctpAnswer_mbox ..) (ite_keeps State.mbox (mctpAnswer_mbox
    ..) ((mctpAnswer_mbox ..).trans (withSlot_mbox ..))))) ..

/-! ### Reset and boot (R51, R417, R428) -/

theorem mailboxInv_reset {s : State} (h : s.mbox = Mbox.reset) : MailboxInv s := by
  constructor <;> rw [h]
  · rfl
  · exact fun h => h
  · exact fun h => Bool.noConfusion h.1
  · exact Nat.zero_le _
  · exact fun h => Bool.noConfusion h
  · exact Nat.zero_le _

theorem deviceReset_inv (s : State) : MailboxInv (deviceReset s) := mailboxInv_reset rfl

theorem losePower_inv (s : State) : MailboxInv (losePower s) := mailboxInv_reset rfl

theorem afterWrites_inv {s : State} (hs : MailboxInv s) : MailboxInv (afterWrites s) := by
  unfold afterWrites
  split
  · exact hs
  · split
    · exact hs
    · exact deviceReset_inv s
  · split
    · exact hs
    · exact hs.of_mbox ((endReady_mbox ..).trans (modBoot_mbox ..))
  · split
    · exact hs
    · exact hs.of_mbox ((endRecord_mbox ..).trans (modBoot_mbox ..))

theorem failStage_inv {s : State} (hs : MailboxInv s) (cause detail : Nat) : MailboxInv (failStage s cause detail) := by
  unfold failStage
  exact afterWrites_inv (hs.of_mbox ((wantSection_mbox ..).trans (modBoot_mbox ..)))

theorem atStage_inv {work : State → State} (h : ∀ s, MailboxInv s → MailboxInv (work s)) (n : Nat) (fail : Option StartFail) (s : State) :
    KeepsInv s (atStage n fail s work) := by
  unfold atStage
  split
  · refine keepsInv_next (fun hs => ?_)
    split
    · exact h s hs
    · exact hs
  · split
    refine keepsInv_next (fun hs => ?_)
    split
    · exact failStage_inv hs ..
    · exact hs

/-- A boot stage that leaves the mailbox alone. -/
theorem atStage_keeps {work : State → State} (h : ∀ s, (work s).mbox = s.mbox) (n : Nat) (fail : Option StartFail) (s : State) :
    KeepsInv s (atStage n fail s work) := atStage_inv (fun s hs => hs.of_mbox (h s)) n fail s

theorem execBootStageConfig_inv (fail : Option StartFail) (s : State) : KeepsInv s (execBootStageConfig fail s) :=
  atStage_keeps (fun _ => (nextStage_mbox ..).trans (optional_keeps State.mbox (devReport_mbox ..) (modBoot_mbox ..))) ..

/-- The second stage of the start (R433) with the reading of the numbers left open:
a proof about it never evaluates `base + 2 ^ 18`. -/
def recordStageWith (take : State → Nat → Nat → State) (s : State) : State :=
  match storedBoot s with
  | (attempts, count, base, floor) =>
    let s := modBoot s (fun b => { b with recordRead := true, causes := storedCauses s, owner := storedOwner s })
    let s := loadWear (owedLevel (take s base floor))
    let lost := lostSections s
    let s := if lost.isEmpty then s else devReport (modBoot s (fun b => { b with recordLost := true })) 0x52 (lost.take 32)
    let (s, logged) := logPrevious s attempts count
    let low := decide (attempts = 3) || decide (lcOf s = 3)
    let s := modBoot s (fun b =>
      { b with attempts := if low then attempts else attempts + 1, bootCount := count + 1, awaits := some (.record low) })
    let s := wantSection (if logged then wantSection s 2 else s) 1
    afterWrites (each ((ownSections s).filter (neverFits s)) s (fun s k => devReport s 0x54 [k, 0xFF]))

theorem recordStage_eq : recordStage = recordStageWith takeSeqBase := rfl

theorem recordStageWith_inv {take : State → Nat → Nat → State} (taken : ∀ u base floor, (take u base floor).mbox = u.mbox) {s : State}
    (hs : MailboxInv s) : MailboxInv (recordStageWith take s) := by
  have left : ∀ (l : List Nat) (u : State), (each l u (fun s k => devReport s 0x54 [k, 0xFF])).mbox = u.mbox := each_mbox (fun _ _ => devReport_mbox ..)
  have lost : ∀ u l, (if List.isEmpty l then u else devReport (modBoot u (fun b => { b with recordLost := true })) 0x52 (l.take 32)).mbox = u.mbox :=
    fun u l => ite_keeps State.mbox rfl ((devReport_mbox ..).trans (modBoot_mbox ..))
  unfold recordStageWith
  split
  extract_lets u v l w
  have read : w.mbox = s.mbox :=
    (lost ..).trans ((loadWear_mbox ..).trans ((owedLevel_mbox ..).trans ((taken ..).trans (modBoot_mbox ..))))
  clear_value w
  split
  next x logged h =>
  refine afterWrites_inv (hs.of_mbox ((left ..).trans ((wantSection_mbox ..).trans ?_)))
  exact optional_keeps State.mbox (wantSection_mbox ..) ((modBoot_mbox ..).trans ((fst_mbox h (logPrevious_mbox ..)).trans read))

theorem recordStage_inv {s : State} (hs : MailboxInv s) : MailboxInv (recordStage s) :=
  recordStage_eq ▸ recordStageWith_inv takeSeqBase_mbox hs

theorem execBootStageImage_inv (x : ImageProof) (s : State) : KeepsInv s (execBootStageImage x s) := by
  refine atStage_inv (fun s hs => ?_) ..
  have copied := hs.of_mbox (copyImage_mbox s)
  dsimp only
  split
  · exact copied.of_mbox ((nextStage_mbox ..).trans (modBoot_mbox ..))
  · exact failStage_inv copied ..

theorem execBootStageState_inv (fail : Option StartFail) (s : State) : KeepsInv s (execBootStageState fail s) :=
  atStage_keeps (fun _ => ite_keeps State.mbox rfl ((nextStage_mbox ..).trans ((beginTest_mbox ..).trans ((modPkg_mbox ..).trans ((bump_mbox ..).trans
    ((modSed_mbox ..).trans ((loadPantry_mbox ..).trans (loadFence_mbox ..)))))))) ..

theorem execBootStageReady_inv (fail : Option StartFail) (s : State) : KeepsInv s (execBootStageReady fail s) := by
  refine atStage_inv (fun s hs => ?_) ..
  split
  · exact afterWrites_inv (hs.of_mbox rfl)
  · exact hs

theorem execSectionWrite_inv (first second : Bool) (s : State) : KeepsInv s (execSectionWrite first second s) := by
  unfold execSectionWrite
  split
  · exact keepsInv_next id
  · exact keepsInv_next (fun hs => afterWrites_inv (hs.of_mbox (writeNext_mbox ..)))

theorem execPowerUp_inv (e : Bool) (s : State) : KeepsInv s (execPowerUp e s) := by
  unfold execPowerUp
  split
  · exact keepsInv_next id
  · exact keepsInv_next (fun _ => mailboxInv_reset rfl)

theorem execResetN_inv (e : Bool) (s : State) : KeepsInv s (execResetN e s) := by
  unfold execResetN
  split
  · exact keepsInv_next id
  · exact keepsInv_next (fun _ => mailboxInv_reset rfl)

theorem execPwrGoodRise_inv (s : State) : KeepsInv s (execPwrGoodRise s) := by
  unfold execPwrGoodRise
  split
  · exact keepsInv_next id
  · refine keepsInv_next (fun hs => ?_)
    split
    · exact deviceReset_inv _
    · exact hs.of_mbox rfl

theorem execPowerRemoval_inv (s : State) : KeepsInv s (execPowerRemoval s) := by
  unfold execPowerRemoval
  split
  · exact keepsInv_next (fun _ => losePower_inv s)
  · exact keepsInv_next id

theorem execBootWatchdog_inv (s : State) : KeepsInv s (execBootWatchdog s) := by
  unfold execBootWatchdog
  split
  · exact keepsInv_next id
  · exact keepsInv_next (fun _ => deviceReset_inv _)

/-! ### Acceptance, ownership and completion (R49 to R51, R438) -/

/-- A state but for its counters, its time and the count of free values taken. -/
def uncounted (s : State) : State := { s with cnt := State.reset.cnt, rtime := 0, freeIx := 0 }

theorem uncounted_withCnt (s : State) (c : CntBlk) : uncounted { s with cnt := c } = uncounted s := rfl

theorem uncounted_countG (s : State) (i k : Nat) : uncounted (countG s i k) = uncounted s := uncounted_withCnt ..

theorem uncounted_countP (s : State) (p : PartIx) (i k : Nat) : uncounted (countP s p i k) = uncounted s := uncounted_withCnt ..

theorem uncounted_bump (s : State) : uncounted (bump s) = uncounted s := rfl

theorem uncounted_look (s : State) : uncounted (look s) = uncounted s := rfl

theorem uncounted_settleTime (s : State) : uncounted (settleTime s) = uncounted s := by
  unfold settleTime
  split
  · rfl
  · exact (uncounted_withCnt ..).trans ((uncounted_countG ..).trans ((uncounted_countG ..).trans (uncounted_look s)))

theorem uncounted_accrue (s : State) (part : Option PartIx) : uncounted (accrue s part) = uncounted s := by
  unfold accrue
  split
  · exact ite_keeps uncounted rfl (each_keeps uncounted (fun _ _ => (uncounted_bump _).trans (uncounted_countP ..)) ..)
  · exact (each_keeps uncounted (fun _ _ => (uncounted_bump _).trans (uncounted_countG ..)) ..).trans (uncounted_settleTime s)

theorem uncounted_newWindow (s : State) (p : PartIx) : uncounted (newWindow s p) = uncounted s := uncounted_accrue s (some p)

theorem uncounted_newGlobalWindow (s : State) : uncounted (newGlobalWindow s) = uncounted s := uncounted_accrue s none

/-- The windows of counters that start with a command (R466). -/
def startWindows (s : State) (c : Cmd) : State :=
  let s := match partOfCmd s c with | some p => if s.cnt.win[p] = 2 then newWindow s p else s | none => s
  if s.cnt.gwin = 2 then newGlobalWindow s else s

theorem uncounted_startWindows (s : State) (c : Cmd) : uncounted (startWindows s c) = uncounted s := by
  unfold startWindows
  refine optional_keeps uncounted (uncounted_newGlobalWindow _) ?_
  split
  · exact optional_keeps uncounted (uncounted_newWindow _ _) rfl
  · rfl

/-- The mailbox with a command that it has just accepted (R50). -/
def acceptedMbox (x : Mbox) (c : Cmd) : Mbox := { x with busy := true, done := false, tag := c.tag, run := some c, outcome := none, begun := false }

/-- The command that a word names. -/
def cmdOf (s : State) (w : Word) (m : Master) : Cmd := ⟨wfield w 15 0, wfield w 31 28, wfield w 39 32, s.mbox.args, m⟩

/-- A free mailbox accepts the command (R50). -/
theorem acceptCmd_free {s : State} (hp : s.pwr.tripped = false) (hb : s.mbox.busy = false) (w : Word) (m : Master) :
    acceptCmd s w m = startWindows { s with mbox := acceptedMbox s.mbox (cmdOf s w m) } (cmdOf s w m) := by
  rw [acceptCmd, hp, hb]
  rfl

/-- A write to PKG_MBOX_CMD is dropped, is counted as rejected, or is accepted (R50, R485). -/
theorem acceptCmd_cases (s : State) (w : Word) (m : Master) : acceptCmd s w m = s
    ∨ (s.mbox.busy = true ∧ acceptCmd s w m = modMbox s (fun x => { x with rejects := satAdd x.rejects 1 255 }))
    ∨ (s.mbox.busy = false ∧ (acceptCmd s w m).mbox = acceptedMbox s.mbox (cmdOf s w m)) := by
  cases hp : s.pwr.tripped with
  | true => exact .inl (by rw [acceptCmd, hp]; rfl)
  | false =>
    cases hb : s.mbox.busy with
    | true => exact .inr (.inl ⟨rfl, by rw [acceptCmd, hp, hb]; rfl⟩)
    | false =>
      rw [acceptCmd_free hp hb]
      exact .inr (.inr ⟨rfl, congrArg State.mbox (uncounted_startWindows ..)⟩)

theorem acceptCmd_inv {s : State} (hs : MailboxInv s) (w : Word) (m : Master) : MailboxInv (acceptCmd s w m) := by
  obtain h | ⟨-, h⟩ | ⟨hb, h⟩ := acceptCmd_cases s w m
  · rw [h]; exact hs
  · rw [h]
    exact { hs with rejects := Nat.min_le_right .. }
  · obtain ⟨busy, outcome, done, owner, preempt, rejects⟩ := hs
    constructor <;> rw [h]
    · rfl
    · exact fun _ => rfl
    · exact fun h => Bool.noConfusion h.2
    · exact owner
    · exact fun hp => ⟨(preempt hp).1, rfl⟩
    · exact rejects

/-- The arguments of the mailbox are no part of its invariant. -/
theorem mailboxInv_setArgs {s : State} (hs : MailboxInv s) (l : Vector Word 8) : MailboxInv (modMbox s (fun m => { m with args := l })) := by
  obtain ⟨busy, outcome, done, owner, preempt, rejects⟩ := hs
  exact ⟨busy, outcome, done, owner, preempt, rejects⟩

theorem issueSession_inv {s : State} (hs : MailboxInv s) (w : Word) (args : List Word) : MailboxInv (issueSession s w args) :=
  acceptCmd_inv (mailboxInv_setArgs hs _) w (.mgmt 0)

/-- What holds of the mailbox while ownership is about to pass to MGMT: the invariant, but for a waiting MGMT whose host is done (R438). -/
structure MailboxPassing (s : State) : Prop where
  busy : s.mbox.busy = s.mbox.run.isSome
  outcome : s.mbox.outcome.isSome = true → s.mbox.busy = true
  done : ¬ (s.mbox.busy = true ∧ s.mbox.done = true)
  owner : s.mbox.owner ≤ 2
  preempt : s.mbox.preempt = true → s.mbox.owner = 2
  rejects : s.mbox.rejects ≤ 255

/-- Ownership passes once BUSY is clear, and then MGMT waits no more (R438). -/
theorem settleOwner_inv {s : State} (hs : MailboxPassing s) : MailboxInv (settleOwner s) := by
  obtain ⟨busy, outcome, done, owner, preempt, rejects⟩ := hs
  by_cases h : (s.mbox.preempt && !s.mbox.busy) = true
  · have hm : (settleOwner s).mbox = { s.mbox with owner := 1, preempt := false } := if_pos h
    constructor <;> rw [hm]
    · exact busy
    · exact outcome
    · exact done
    · exact Nat.le_of_ble_eq_true rfl
    · exact fun h => Bool.noConfusion h
    · exact rejects
  · have hm : (settleOwner s).mbox = s.mbox := if_neg h
    constructor <;> rw [hm]
    · exact busy
    · exact outcome
    · exact done
    · exact owner
    · exact fun hp => ⟨preempt hp, by simpa [hp] using h⟩
    · exact rejects

theorem MailboxInv.passing {s : State} (hs : MailboxInv s) : MailboxPassing s := by
  obtain ⟨busy, outcome, done, owner, preempt, rejects⟩ := hs
  exact ⟨busy, outcome, done, owner, fun h => (preempt h).1, rejects⟩

theorem writeOwner_inv {s : State} (hs : MailboxInv s) (v : Nat) (m : Master) : MailboxInv (writeOwner s v m) := by
  have unowned : ∀ o, s.mbox.owner ≠ 2 ∨ s.mbox.preempt = false → o ≤ 2 → MailboxInv (modMbox s (fun x => { x with owner := o })) := by
    intro o free ho
    refine { hs with owner := ho, preempt := fun hp => ?_ }
    obtain h | h := free
    · exact absurd (hs.preempt hp).1 h
    · exact absurd (h.symm.trans hp) Bool.false_ne_true
  have preempted : s.mbox.owner = 2 → MailboxInv (settleOwner (modMbox s (fun x => { x with preempt := true }))) := by
    intro h
    obtain ⟨busy, outcome, done, owner, preempt, rejects⟩ := hs
    exact settleOwner_inv ⟨busy, outcome, done, owner, fun _ => h, rejects⟩
  have taken : ∀ own, own ≤ 2 → MailboxInv (if v = own ∧ s.mbox.owner = 0 then modMbox s (fun x => { x with owner := own })
      else if v = 1 ∧ own = 1 ∧ s.mbox.owner = 2 then settleOwner (modMbox s (fun x => { x with preempt := true }))
      else if v = 0 ∧ s.mbox.owner = own then
        if own = 2 ∧ s.mbox.preempt then settleOwner s else modMbox s (fun x => { x with owner := 0 })
      else s) := by
    intro own mine
    split
    · next h => exact unowned _ (.inl (by omega)) mine
    · split
      · next h => exact preempted h.2.2
      · split
        · next h =>
          split
          · exact settleOwner_inv hs.passing
          · next hp =>
            refine unowned 0 ?_ (Nat.zero_le _)
            by_cases h2 : s.mbox.owner = 2
            · exact .inr (by simpa [← h.2, h2] using hp)
            · exact .inl h2
        · exact hs
  cases m with
  | mgmt i => exact taken 1 (Nat.le_succ 1)
  | host => exact taken 2 (Nat.le_refl 2)

/-- A completion leaves no command in the mailbox (R51). -/
theorem MailboxInv.completed {s t : State} (hs : MailboxInv s) {rs : Vector Word 8} {e : Nat}
    (ht : t.mbox = { s.mbox with results := rs, error := e, done := true, busy := false, run := none, outcome := none }) : MailboxPassing t := by
  obtain ⟨-, -, -, owner, preempt, rejects⟩ := hs
  constructor <;> rw [ht]
  · rfl
  · exact fun h => h
  · exact fun h => Bool.noConfusion h.1
  · exact owner
  · exact fun hp => (preempt hp).1
  · exact rejects

/-- The session's waiting command is issued (R385). -/
def issueQueued (s : State) : State :=
  match s.mgmt.queued with
  | some (seq, w, args) => issueSession { s with mgmt := { s.mgmt with queued := none, running := some seq } } w args
  | none => s

theorem issueQueued_some {s : State} {seq : Nat} {w : Word} {args : List Word} (h : s.mgmt.queued = some (seq, w, args)) :
    issueQueued s = issueSession { s with mgmt := { s.mgmt with queued := none, running := some seq } } w args := by rw [issueQueued, h]

theorem issueQueued_none {s : State} (h : s.mgmt.queued = none) : issueQueued s = s := by rw [issueQueued, h]

theorem issueQueued_inv {s : State} (hs : MailboxInv s) : MailboxInv (issueQueued s) := by
  unfold issueQueued
  split
  · refine issueSession_inv (hs.of_mbox ?_) ..
    rfl
  · exact hs

/-- The mailbox at a completion (R51): the results, ERROR and DONE. -/
def completedMbox (m : Mbox) (rs : Vector Word 8) (error : Nat) : Mbox :=
  { m with results := rs, error := error, done := true, busy := false, run := none, outcome := none }

/-- A completion (R51, R386): the results are written and the interrupt leaves (`u`), then the answer to the session (`x`); the device resets, or the
ownership settles and the session's next command is issued. -/
theorem execMboxCompletion_of {s : State} {c : Cmd} {d : Done} (hr : s.mbox.run = some c) (ho : s.mbox.outcome = some d) (ha : asleep s mgmtDom = false) :
    ∃ (rs : Vector Word 8) (u x : State), (∀ (i : Fin 8) v, d.results[i.val]? = some v → rs[i] = word v)
      ∧ u = msix { s with freeIx := s.freeIx + 8, mbox := completedMbox s.mbox rs d.error } 0
      ∧ (∀ seq, u.mgmt.running = some seq → bySession u c = true → x = respond u seq (word (mboxStatus u) :: rs.toList))
      ∧ (bySession u c = false → x = u) ∧ (u.mgmt.running = none → x = u)
      ∧ execMboxCompletion s = if d.error = 0 ∧ resetsAfter x c.code then .next (deviceReset x) else .next (issueQueued (settleOwner x)) := by
  generalize hres : execMboxCompletion s = r
  unfold execMboxCompletion at hres
  rw [hr, ho, ha] at hres
  change (if false = true then _ else _) = r at hres
  rw [if_neg Bool.false_ne_true] at hres
  extract_lets rs a b u x y at hres
  subst hres
  refine ⟨rs, u, x, ?_, rfl, ?_, ?_, ?_, ?_⟩
  · intro i v hv
    simp only [rs, Vector.getElem_ofFn, Fin.getElem_fin, hv]
  · intro seq hq hb
    simp only [x, hq, hb, if_true]
  · intro hb
    simp only [x, hb]
    split <;> rfl
  · intro hq
    simp only [x, hq]
  · refine if_congr Iff.rfl rfl ?_
    clear_value x
    split
    · next h => rw [issueQueued_some h]
    · next h => rw [issueQueued_none h]

theorem execMboxCompletion_inv (s : State) : KeepsInv s (execMboxCompletion s) := by
  by_cases ready : ∃ c d, s.mbox.run = some c ∧ s.mbox.outcome = some d ∧ asleep s mgmtDom = false
  · obtain ⟨c, d, hr, ho, ha⟩ := ready
    obtain ⟨rs, u, x, -, hu, answered, plain, alone, h⟩ := execMboxCompletion_of hr ho ha
    have hm : x.mbox = completedMbox s.mbox rs d.error := by
      refine Eq.trans ?_ ((congrArg State.mbox hu).trans (msix_mbox ..))
      cases hb : bySession u c with
      | false => rw [plain hb]
      | true =>
        cases hq : u.mgmt.running with
        | none => rw [alone hq]
        | some seq => rw [answered seq hq hb, respond_mbox]
    rw [h]
    split
    · exact keepsInv_next (fun _ => deviceReset_inv _)
    · exact keepsInv_next (fun hs => issueQueued_inv (settleOwner_inv (hs.completed hm)))
  · unfold execMboxCompletion
    split
    · next c d hr ho =>
      split
      · exact keepsInv_next id
      · next ha => exact absurd ⟨c, d, hr, ho, by simpa using ha⟩ ready
    · exact keepsInv_next id

theorem execUnknownCode_inv (s : State) : KeepsInv s (execUnknownCode s) := by
  unfold execUnknownCode
  split
  · exact keepsInv_next id
  · next c hc =>
    split
    · exact keepsInv_next id
    · exact keepsInv_next (fun hs => hs.setOutcome hc (g := s.mbox.begun) rfl)

theorem execPstateChange_inv (s : State) : KeepsInv s (execPstateChange s) := by
  unfold execPstateChange
  split
  · exact keepsInv_next id
  · split
    · exact keepsInv_next id
    · split
      · exact keepsInv_next (fun hs => hs.of_mbox (wakeP3_mbox ..))
      · split
        · exact keepsInv_next id
        · refine keepsInv_next (fun hs => ?_)
          have reached : ∀ n, MailboxInv (reach (modPwr s (fun p => { p with want := none })) n) :=
            fun n => hs.of_mbox ((reach_mbox ..).trans (modPwr_mbox ..))
          dsimp only
          split
          · next c hc =>
            split
            · exact (reached _).setOutcome hc (g := Mbox.begun _) rfl
            · exact reached _
          · exact reached _

theorem execCommand_inv (m : MsgIn) (seq : W32) (w : Word) (args : Vector Word 8) (s : State) : KeepsInv s (execCommand m seq w args s) := by
  unfold execCommand
  split
  · exact keepsInv_next id
  · extract_lets n g u
    have came : u.mbox = s.mbox := learnPeer_mbox ..
    split
    · exact keepsInv_next (fun hs => hs.of_mbox (emit_mbox ..))
    · split
      · exact keepsInv_next id
      · split
        · exact keepsInv_next (fun hs => hs.of_mbox ((answerBusy_mbox ..).trans came))
        · split
          · exact keepsInv_next (fun hs => hs.of_mbox came)
          · refine keepsInv_next (fun hs => issueSession_inv (hs.of_mbox ?_) ..)
            exact came

/-! ### Registers (R8, R53) -/

theorem clearRc_inv {s : State} (hs : MailboxInv s) (b : Block) (off : Nat) : MailboxInv (clearRc s b off) := by
  by_cases h : b = .pkg ∧ off = 0x1048
  · obtain ⟨rfl, rfl⟩ := h
    exact { hs with rejects := Nat.zero_le _ }
  · refine hs.of_mbox ?_
    unfold clearRc
    split
    · exact modPkg_mbox ..
    · exact absurd ⟨rfl, rfl⟩ h
    · exact modCore_mbox ..
    · exact modCore_mbox ..
    · exact modSluice_mbox ..
    · exact modCellar_mbox ..
    · exact modUpd_mbox ..
    · exact modUpd_mbox ..
    · exact modPart_mbox ..
    · refine ite_keeps State.mbox ?_ rfl
      split
      · exact modSed_mbox ..
      · rfl
    · exact modPortDie_mbox ..
    · refine ite_keeps State.mbox ?_ rfl
      split
      · exact modPort_mbox ..
      · rfl
    · exact modCkp_mbox ..
    · rfl
    · exact modPwr_mbox ..
    · rfl

theorem pkgWrite_inv {s : State} (hs : MailboxInv s) (off : Nat) (v : Word) (m : Master) : MailboxInv (pkgWrite s off v m) := by
  unfold pkgWrite
  split
  · exact hs.of_mbox (modPkg_mbox ..)
  · split
    · exact acceptCmd_inv hs v m
    · split
      · split
        · obtain ⟨busy, outcome, done, owner, preempt, rejects⟩ := hs
          exact ⟨busy, outcome, done, owner, preempt, rejects⟩
        · exact hs
      · split
        · exact writeOwner_inv hs ..
        · exact hs

theorem writeReg_inv {s : State} (hs : MailboxInv s) (b : Block) (off : Nat) (v : Word) (m : Master) : MailboxInv (writeReg s b off v m) := by
  unfold writeReg
  split
  · exact pkgWrite_inv hs ..
  · exact hs.of_mbox (ite_keeps State.mbox (modBoot_mbox ..) rfl)
  · split
    · exact writeOwner_inv hs ..
    · exact hs
  · exact hs.of_mbox (stpWrite_mbox ..)
  · exact hs.of_mbox (sedWrite_mbox ..)
  · exact hs.of_mbox (ckpWrite_mbox ..)
  · exact hs.of_mbox (dbgWrite_mbox ..)
  · exact hs.of_mbox (trcWrite_mbox ..)
  · exact hs.of_mbox (cntWrite_mbox ..)
  · exact hs.of_mbox (pwrWrite_mbox ..)
  · exact hs.of_mbox (slcWrite_mbox ..)
  · exact hs.of_mbox (ccWrite_mbox ..)
  · exact hs.of_mbox (maWrite_mbox ..)
  · exact hs.of_mbox (veWrite_mbox ..)
  · exact hs.of_mbox (celWrite_mbox ..)
  · exact hs.of_mbox (updWrite_mbox ..)
  · exact hs.of_mbox (fabWrite_mbox ..)
  · exact hs

theorem hostAccess_inv {s : State} (hs : MailboxInv s) (a : Nat) (x : Access) : MailboxInv (hostAccess s a x) := by
  have answered : ∀ o, MailboxInv (emit s o) := fun o => hs.of_mbox (emit_mbox ..)
  unfold hostAccess
  split
  · exact hs
  · dsimp only
    split
    · split
      · exact clearRc_inv (answered _) ..
      · exact answered _
    · split
      · exact pkgWrite_inv hs ..
      · exact hs

theorem access_inv {s : State} (hs : MailboxInv s) (m : Master) (a : Nat) (x : Access) : MailboxInv (access s m a x) := by
  have failed : ∀ k, MailboxInv (accessError s k a) := fun k => hs.of_mbox (accessError_mbox ..)
  unfold access
  split
  · exact hostAccess_inv hs ..
  · split
    · split
      · split
        · exact hs.of_mbox ((emit_mbox ..).trans ((sample_mbox ..).trans (bump_mbox ..)))
        · exact clearRc_inv (hs.of_mbox (emit_mbox ..)) ..
      · exact writeReg_inv hs ..
    · dsimp only
      split
      · exact (failed _).of_mbox (emit_mbox ..)
      · exact failed _
    · exact hs

theorem accessReg_inv (s : State) (m : Master) (b : Block) (off : Nat) (x : Access) : KeepsInv s (accessReg s m b off x) := by
  unfold accessReg
  split
  · exact keepsInv_next id
  · exact keepsInv_next (fun hs => access_inv hs ..)

theorem execSecMboxOwner_inv (m : Master) (v : Word) (s : State) : KeepsInv s (execSecMboxOwner m v s) := by
  unfold execSecMboxOwner
  split
  · exact accessReg_inv ..
  · exact accessReg_inv ..

theorem execRegisterWrite_inv (m : Master) (addr : Nat) (bytes : List Byte) (s : State) : KeepsInv s (execRegisterWrite m addr bytes s) := by
  unfold execRegisterWrite
  split
  · exact keepsInv_next id
  · split
    · refine keepsInv_next (fun hs => ?_)
      split
      · exact hs.of_mbox (optional_keeps State.mbox (msixWrite_mbox ..) rfl)
      · split
        · exact hostAccess_inv hs ..
        · exact hs
    · refine keepsInv_next (fun hs => ?_)
      split
      · exact hs.of_mbox (accessError_mbox ..)
      · exact writeReg_inv hs ..
      · exact hs.of_mbox (memWrite_mbox ..)
      · exact hs

theorem execFailingRead_inv (addr len : Nat) (s : State) : KeepsInv s (execFailingRead addr len s) := by
  unfold execFailingRead
  split
  · exact keepsInv_next id
  · refine keepsInv_next (fun hs => ?_)
    split
    · exact hs.of_mbox ((emit_mbox ..).trans (accessError_mbox ..))
    · exact access_inv hs ..
    · exact hs.of_mbox ((emit_mbox ..).trans (memRead_mbox ..))
    · exact hs

/-! ### Every command (R49 to R51, R438) -/

/-- Every command keeps the invariant of the mailbox. -/
theorem execAdd_keeps (n : CoreIx) (g : Guard) (sd sa : Reg) (op : Op2) (s : State) : KeepsMbox s (execAdd n g sd sa op s) :=
  keeps_next (aluInstr_mbox ..)

theorem execSub_keeps (n : CoreIx) (g : Guard) (sd sa : Reg) (op : Op2) (s : State) : KeepsMbox s (execSub n g sd sa op s) :=
  keeps_next (aluInstr_mbox ..)

theorem execAnd_keeps (n : CoreIx) (g : Guard) (sd sa : Reg) (op : Op2) (s : State) : KeepsMbox s (execAnd n g sd sa op s) :=
  keeps_next (aluInstr_mbox ..)

theorem execOr_keeps (n : CoreIx) (g : Guard) (sd sa : Reg) (op : Op2) (s : State) : KeepsMbox s (execOr n g sd sa op s) :=
  keeps_next (aluInstr_mbox ..)

theorem execXor_keeps (n : CoreIx) (g : Guard) (sd sa : Reg) (op : Op2) (s : State) : KeepsMbox s (execXor n g sd sa op s) :=
  keeps_next (aluInstr_mbox ..)

theorem execShl_keeps (n : CoreIx) (g : Guard) (sd sa : Reg) (op : Op2) (s : State) : KeepsMbox s (execShl n g sd sa op s) :=
  keeps_next (aluInstr_mbox ..)

theorem execShr_keeps (n : CoreIx) (g : Guard) (sd sa : Reg) (op : Op2) (s : State) : KeepsMbox s (execShr n g sd sa op s) :=
  keeps_next (aluInstr_mbox ..)

theorem execSar_keeps (n : CoreIx) (g : Guard) (sd sa : Reg) (op : Op2) (s : State) : KeepsMbox s (execSar n g sd sa op s) :=
  keeps_next (aluInstr_mbox ..)

theorem execMin_keeps (n : CoreIx) (g : Guard) (sd sa : Reg) (op : Op2) (s : State) : KeepsMbox s (execMin n g sd sa op s) :=
  keeps_next (aluInstr_mbox ..)

theorem execMax_keeps (n : CoreIx) (g : Guard) (sd sa : Reg) (op : Op2) (s : State) : KeepsMbox s (execMax n g sd sa op s) :=
  keeps_next (aluInstr_mbox ..)

theorem execMinu_keeps (n : CoreIx) (g : Guard) (sd sa : Reg) (op : Op2) (s : State) : KeepsMbox s (execMinu n g sd sa op s) :=
  keeps_next (aluInstr_mbox ..)

theorem execMaxu_keeps (n : CoreIx) (g : Guard) (sd sa : Reg) (op : Op2) (s : State) : KeepsMbox s (execMaxu n g sd sa op s) :=
  keeps_next (aluInstr_mbox ..)

theorem execSel_keeps (n : CoreIx) (g : Guard) (sd sa sb : Reg) (q : Pred) (s : State) : KeepsMbox s (execSel n g sd sa sb q s) :=
  keeps_next (scalar_mbox ..)

theorem execClz_keeps (n : CoreIx) (g : Guard) (sd sa : Reg) (s : State) : KeepsMbox s (execClz n g sd sa s) := keeps_next (scalar_mbox ..)

theorem execPopc_keeps (n : CoreIx) (g : Guard) (sd sa : Reg) (s : State) : KeepsMbox s (execPopc n g sd sa s) := keeps_next (scalar_mbox ..)

theorem execMul_keeps (n : CoreIx) (g : Guard) (sd sa sb : Reg) (s : State) : KeepsMbox s (execMul n g sd sa sb s) := keeps_next (rr_mbox ..)

theorem execMulhu_keeps (n : CoreIx) (g : Guard) (sd sa sb : Reg) (s : State) : KeepsMbox s (execMulhu n g sd sa sb s) := keeps_next (rr_mbox ..)

theorem execMulh_keeps (n : CoreIx) (g : Guard) (sd sa sb : Reg) (s : State) : KeepsMbox s (execMulh n g sd sa sb s) := keeps_next (rr_mbox ..)

theorem execMadd_keeps (n : CoreIx) (g : Guard) (sd sa sb sc : Reg) (s : State) : KeepsMbox s (execMadd n g sd sa sb sc s) :=
  keeps_next (scalar_mbox ..)

theorem execDivu_keeps (n : CoreIx) (g : Guard) (sd sa sb : Reg) (s : State) : KeepsMbox s (execDivu n g sd sa sb s) := keeps_next (rr_mbox ..)

theorem execDiv_keeps (n : CoreIx) (g : Guard) (sd sa sb : Reg) (s : State) : KeepsMbox s (execDiv n g sd sa sb s) := keeps_next (rr_mbox ..)

theorem execRemu_keeps (n : CoreIx) (g : Guard) (sd sa sb : Reg) (s : State) : KeepsMbox s (execRemu n g sd sa sb s) := keeps_next (rr_mbox ..)

theorem execRem_keeps (n : CoreIx) (g : Guard) (sd sa sb : Reg) (s : State) : KeepsMbox s (execRem n g sd sa sb s) := keeps_next (rr_mbox ..)

theorem execFadd_keeps (n : CoreIx) (g : Guard) (sd sa sb : Reg) (s : State) : KeepsMbox s (execFadd n g sd sa sb s) := keeps_next (ff_mbox ..)

theorem execFsub_keeps (n : CoreIx) (g : Guard) (sd sa sb : Reg) (s : State) : KeepsMbox s (execFsub n g sd sa sb s) := keeps_next (ff_mbox ..)

theorem execFmul_keeps (n : CoreIx) (g : Guard) (sd sa sb : Reg) (s : State) : KeepsMbox s (execFmul n g sd sa sb s) := keeps_next (ff_mbox ..)

theorem execFfma_keeps (n : CoreIx) (g : Guard) (sd sa sb sc : Reg) (s : State) : KeepsMbox s (execFfma n g sd sa sb sc s) :=
  keeps_next (scalar_mbox ..)

theorem execFmin_keeps (n : CoreIx) (g : Guard) (sd sa sb : Reg) (s : State) : KeepsMbox s (execFmin n g sd sa sb s) := keeps_next (ff_mbox ..)

theorem execFmax_keeps (n : CoreIx) (g : Guard) (sd sa sb : Reg) (s : State) : KeepsMbox s (execFmax n g sd sa sb s) := keeps_next (ff_mbox ..)

theorem execFcvtif_keeps (n : CoreIx) (g : Guard) (sd sa : Reg) (s : State) : KeepsMbox s (execFcvtif n g sd sa s) := keeps_next (scalar_mbox ..)

theorem execFcvtfi_keeps (n : CoreIx) (g : Guard) (sd sa : Reg) (s : State) : KeepsMbox s (execFcvtfi n g sd sa s) := keeps_next (scalar_mbox ..)

theorem execEq_keeps (n : CoreIx) (g : Guard) (pd : Pred) (sa : Reg) (op : Op2) (s : State) : KeepsMbox s (execEq n g pd sa op s) :=
  keeps_next (cmpInstr_mbox ..)

theorem execNe_keeps (n : CoreIx) (g : Guard) (pd : Pred) (sa : Reg) (op : Op2) (s : State) : KeepsMbox s (execNe n g pd sa op s) :=
  keeps_next (cmpInstr_mbox ..)

theorem execLt_keeps (n : CoreIx) (g : Guard) (pd : Pred) (sa : Reg) (op : Op2) (s : State) : KeepsMbox s (execLt n g pd sa op s) :=
  keeps_next (cmpInstr_mbox ..)

theorem execGe_keeps (n : CoreIx) (g : Guard) (pd : Pred) (sa : Reg) (op : Op2) (s : State) : KeepsMbox s (execGe n g pd sa op s) :=
  keeps_next (cmpInstr_mbox ..)

theorem execLtu_keeps (n : CoreIx) (g : Guard) (pd : Pred) (sa : Reg) (op : Op2) (s : State) : KeepsMbox s (execLtu n g pd sa op s) :=
  keeps_next (cmpInstr_mbox ..)

theorem execGeu_keeps (n : CoreIx) (g : Guard) (pd : Pred) (sa : Reg) (op : Op2) (s : State) : KeepsMbox s (execGeu n g pd sa op s) :=
  keeps_next (cmpInstr_mbox ..)

theorem execFlt_keeps (n : CoreIx) (g : Guard) (pd : Pred) (sa sb : Reg) (s : State) : KeepsMbox s (execFlt n g pd sa sb s) :=
  keeps_next (predicate_mbox ..)

theorem execFeq_keeps (n : CoreIx) (g : Guard) (pd : Pred) (sa sb : Reg) (s : State) : KeepsMbox s (execFeq n g pd sa sb s) :=
  keeps_next (predicate_mbox ..)

theorem execPand_keeps (n : CoreIx) (g : Guard) (pd pa pb : Pred) (s : State) : KeepsMbox s (execPand n g pd pa pb s) :=
  keeps_next (predicate_mbox ..)

theorem execPor_keeps (n : CoreIx) (g : Guard) (pd pa pb : Pred) (s : State) : KeepsMbox s (execPor n g pd pa pb s) := keeps_next (predicate_mbox ..)

theorem execPxor_keeps (n : CoreIx) (g : Guard) (pd pa pb : Pred) (s : State) : KeepsMbox s (execPxor n g pd pa pb s) :=
  keeps_next (predicate_mbox ..)

theorem execPnot_keeps (n : CoreIx) (g : Guard) (pd pa : Pred) (s : State) : KeepsMbox s (execPnot n g pd pa s) := keeps_next (predicate_mbox ..)

theorem execBr_keeps (n : CoreIx) (g : Guard) (sd : Reg) (off : W32) (s : State) : KeepsMbox s (execBr n g sd off s) :=
  keeps_next ((issue_mbox (fun _ _ _ _ => jump_mbox ..) ..).trans (guardBit_mbox ..))

theorem execNop_keeps (n : CoreIx) (g : Guard) (s : State) : KeepsMbox s (execNop n g s) :=
  keeps_next (issue_mbox (fun _ _ _ _ => advance_mbox ..) ..)

theorem execYield_keeps (n : CoreIx) (g : Guard) (s : State) : KeepsMbox s (execYield n g s) :=
  keeps_next (issue_mbox (fun _ _ _ _ => (leave_mbox ..).trans (advance_mbox ..)) ..)

theorem execStepend_keeps (n : CoreIx) (g : Guard) (s : State) : KeepsMbox s (execStepend n g s) :=
  keeps_next (issue_mbox (fun _ _ _ _ => (leave_mbox ..).trans (advance_mbox ..)) ..)

theorem execFence_keeps (n : CoreIx) (g : Guard) (scope : Fin 8) (s : State) : KeepsMbox s (execFence n g scope s) :=
  keeps_next (issue_mbox (fun _ _ _ _ => gate_mbox (fun _ => advance_mbox ..) ..) ..)

theorem execTrap_keeps (n : CoreIx) (g : Guard) (code : BitVec 16) (s : State) : KeepsMbox s (execTrap n g code s) :=
  keeps_next (issue_mbox (fun _ _ _ _ => raiseHere_mbox ..) ..)

theorem execWaitb_keeps (n : CoreIx) (g : Guard) (b : BitVec 16) (s : State) : KeepsMbox s (execWaitb n g b s) :=
  keeps_next (issue_mbox (fun _ _ _ _ => gate_mbox (fun _ => advance_mbox ..) ..) ..)

theorem execWaitc_keeps (n : CoreIx) (g : Guard) (c : Cnt) (v : W32) (s : State) : KeepsMbox s (execWaitc n g c v s) :=
  keeps_next (issue_mbox (fun _ _ _ _ => gate_mbox (fun _ => advance_mbox ..) ..) ..)

theorem execSetc_keeps (n : CoreIx) (g : Guard) (c : Cnt) (v : W32) (s : State) : KeepsMbox s (execSetc n g c v s) :=
  keeps_next (issue_mbox (fun _ _ _ _ => (advance_mbox ..).trans (modCtx_mbox ..)) ..)

theorem execQshape_keeps (n : CoreIx) (g : Guard) (sd sa : Reg) (w : Fin 8) (s : State) : KeepsMbox s (execQshape n g sd sa w s) :=
  keeps_next (issue_mbox (fun _ _ _ _ => result_mbox ..) ..)

theorem execBcast_keeps (n : CoreIx) (g : Guard) (sa : Reg) (slot : Fin 8) (s : State) : KeepsMbox s (execBcast n g sa slot s) :=
  keeps_next (issue_mbox (fun _ _ _ _ => (advance_mbox ..).trans (modCtx_mbox ..)) ..)

theorem execTrd_keeps (n : CoreIx) (g : Guard) (sd : Reg) (treg : Fin 16) (row : Fin 32) (lane : Fin 256) (s : State) : KeepsMbox s (execTrd n g sd treg row lane s) :=
  keeps_next (issue_mbox (fun _ _ _ _ => (deliverTrds_mbox ..).trans ((advance_mbox ..).trans (modCtx_mbox ..))) ..)

theorem execLi64_keeps (n : CoreIx) (g : Guard) (sd : Reg) (v : Word) (s : State) : KeepsMbox s (execLi64 n g sd v s) :=
  keeps_next (issue_mbox (fun _ _ _ _ => (goOn_mbox ..).trans (modCtx_mbox ..)) ..)

theorem execMrelease_keeps (n : CoreIx) (g : Guard) (cnt : Option Cnt) (s : State) : KeepsMbox s (execMrelease n g cnt s) :=
  keeps_next (issue_mbox (fun _ _ _ _ => headgate_mbox (fun _ => (advance_mbox ..).trans (modCore_mbox ..)) ..) ..)

theorem execArrayIdle_keeps (n : CoreIx) (a : Fin 4) (s : State) : KeepsMbox s (execArrayIdle n a s) :=
  keeps_ite (keeps_next rfl) (keeps_next (modCore_mbox ..))

theorem execAgeLimit_keeps (d : DieIx) (phys : Fin 8192) (s : State) : KeepsMbox s (execAgeLimit d phys s) :=
  keeps_ite (keeps_next rfl) (keeps_next (modStream_mbox ..))

theorem execGatherAge_keeps (c : CellarIx) (pc : Fin 32) (s : State) : KeepsMbox s (execGatherAge c pc s) :=
  keeps_ite (keeps_next rfl) (keeps_ite (keeps_next rfl) (keeps_next (modCellar_mbox ..)))

theorem execRunHold_keeps (c : CellarIx) (pc : Fin 32) (s : State) : KeepsMbox s (execRunHold c pc s) :=
  keeps_ite (keeps_next rfl) (keeps_ite (keeps_next rfl) (keeps_next (modCellar_mbox ..)))

theorem execTrackerExpiry_keeps (c : CellarIx) (ix : Nat) (s : State) : KeepsMbox s (execTrackerExpiry c ix s) :=
  keeps_ite (keeps_next rfl) (keeps_next (modCellar_mbox ..))

theorem execWipeEnd_keeps (c : CellarIx) (s : State) : KeepsMbox s (execWipeEnd c s) := keeps_ite (keeps_next rfl) (keeps_next (modCellar_mbox ..))

theorem execTwinSyncDone_keeps (p : PartIx) (s : State) : KeepsMbox s (execTwinSyncDone p s) :=
  keeps_ite (keeps_next rfl) (keeps_ite (keeps_next (modPart_mbox ..)) (keeps_next rfl))

theorem execReadyTimeout_keeps (p : PartIx) (s : State) : KeepsMbox s (execReadyTimeout p s) :=
  keeps_ite (keeps_next rfl) (keeps_ite (keeps_next rfl) (keeps_next (partReport_mbox ..)))

theorem execHoldupSense_keeps (mv : Nat) (s : State) : KeepsMbox s (execHoldupSense mv s) := keeps_ite (keeps_next (modBoot_mbox ..)) (keeps_next rfl)

theorem execPwrGoodFall_keeps (resetHigh : Bool) (s : State) : KeepsMbox s (execPwrGoodFall resetHigh s) :=
  keeps_ite (keeps_next rfl) (keeps_next (modPwr_mbox ..))

theorem execCoreUndervoltage_keeps (s : State) : KeepsMbox s (execCoreUndervoltage s) := keeps_ite (keeps_next (modPwr_mbox ..)) (keeps_next rfl)

theorem execPciePerstN_keeps (s : State) : KeepsMbox s (execPciePerstN s) := keeps_ite (keeps_next rfl) (keeps_next (pcieReset_mbox ..))

theorem execTrstN_keeps (s : State) : KeepsMbox s (execTrstN s) := keeps_next rfl

theorem execBootStageFuses_inv (fail : Option StartFail) (s : State) : KeepsInv s (execBootStageFuses fail s) := by
  unfold execBootStageFuses
  refine atStage_keeps (fun _ => ?_) ..
  exact nextStage_mbox ..

theorem execBootStageRecord_inv (fail : Option StartFail) (s : State) : KeepsInv s (execBootStageRecord fail s) :=
  atStage_inv (work := recordStage) (fun _ hs => recordStage_inv hs) 2 fail s

theorem execBootStageLinks_inv (fail : Option StartFail) (s : State) : KeepsInv s (execBootStageLinks fail s) :=
  atStage_keeps (fun _ => (nextStage_mbox ..).trans ((linksUp_mbox ..).trans (modBoot_mbox ..))) ..

theorem execBootStageWipe_inv (fail : Option StartFail) (s : State) : KeepsInv s (execBootStageWipe fail s) :=
  atStage_keeps (fun _ => (nextStage_mbox ..).trans ((zeroSram_mbox ..).trans (startWipe_mbox ..))) ..

theorem execMinimalMode_keeps (s : State) : KeepsMbox s (execMinimalMode s) := keeps_ite (keeps_next (devReport_mbox ..)) (keeps_next rfl)

theorem execLinkDown_keeps (l : LinkName) (s : State) : KeepsMbox s (execLinkDown l s) := keeps_ite (keeps_next rfl) (keeps_next (linkDown_mbox ..))

theorem execUcieTrainerror_keeps (d : DieIx) (s : State) : KeepsMbox s (execUcieTrainerror d s) :=
  keeps_ite (keeps_next rfl) (keeps_next (optional_keeps State.mbox (linkDown_mbox ..) (modPkg_mbox ..)))

theorem execVrSetPointReached_keeps (d : DieIx) (mv : Nat) (s : State) : KeepsMbox s (execVrSetPointReached d mv s) :=
  keeps_ite (keeps_next (modDie_mbox ..)) (keeps_next rfl)

theorem execVrTimeout_keeps (d : DieIx) (s : State) : KeepsMbox s (execVrTimeout d s) :=
  keeps_ite (keeps_next ((modPwr_mbox ..).trans (modDie_mbox ..))) (keeps_next rfl)

theorem execLimiterRaise_keeps (s : State) : KeepsMbox s (execLimiterRaise s) := keeps_ite (keeps_next (modLim_mbox ..)) (keeps_next rfl)

theorem execBoostLimit_keeps (s : State) : KeepsMbox s (execBoostLimit s) := keeps_ite (keeps_next rfl) (keeps_next (endBoost_mbox ..))

theorem execCooldownEnd_keeps (s : State) : KeepsMbox s (execCooldownEnd s) := keeps_ite (keeps_next rfl) (keeps_next (modPwr_mbox ..))

theorem execWearSecond_keeps (s : State) : KeepsMbox s (execWearSecond s) := keeps_ite (keeps_next rfl) (keeps_next (modPwr_mbox ..))

theorem execWearWrite_keeps (s : State) : KeepsMbox s (execWearWrite s) := keeps_ite (keeps_next rfl) (keeps_next (wantSection_mbox ..))

theorem execSync_keeps (s : State) : KeepsMbox s (execSync s) := keeps_next (syncNow_mbox ..)

theorem execDomainStop_keeps (dom : Nat) (s : State) : KeepsMbox s (execDomainStop dom s) :=
  keeps_ite (keeps_next ((settleHalt_mbox ..).trans (stopDomain_mbox ..))) (keeps_next rfl)

theorem execAck_keeps (port : PortIx) (named : Nat) (s : State) : KeepsMbox s (execAck port named s) :=
  keeps_ite (keeps_next rfl) (keeps_ite (keeps_next rfl) (keeps_next ((pump_mbox ..).trans (modPort_mbox ..))))

theorem execIdle_keeps (port : PortIx) (corrected : Nat) (s : State) : KeepsMbox s (execIdle port corrected s) :=
  keeps_ite (keeps_next rfl) (keeps_ite (keeps_next ((modPort_mbox ..).trans (countG_mbox ..))) (keeps_next rfl))

theorem execIdleUs_keeps (port : PortIx) (s : State) : KeepsMbox s (execIdleUs port s) :=
  keeps_ite (keeps_next rfl) (keeps_ite (keeps_next (emit_mbox ..)) (keeps_next rfl))

theorem execVlcredit_keeps (port : PortIx) (vl hop space : Nat) (s : State) : KeepsMbox s (execVlcredit port vl hop space s) :=
  keeps_ite (keeps_next rfl) (keeps_ite (keeps_next ((pump_mbox ..).trans (modPort_mbox ..))) (keeps_next rfl))

theorem execRekey_keeps (port : PortIx) (gen fromSeq : Nat) (s : State) : KeepsMbox s (execRekey port gen fromSeq s) :=
  keeps_ite (keeps_next rfl) (keeps_ite (keeps_next (modPort_mbox ..)) (keeps_next rfl))

theorem execLaneFence_keeps (port : PortIx) (x : LaneErrors) (s : State) : KeepsMbox s (execLaneFence port x s) :=
  keeps_ite (keeps_next rfl) (keeps_next (laneFence_mbox ..))

theorem execDetectRetry_keeps (port : PortIx) (s : State) : KeepsMbox s (execDetectRetry port s) :=
  keeps_ite (keeps_next rfl) (keeps_ite (keeps_next (modPort_mbox ..)) (keeps_next rfl))

theorem execAlign_keeps (port : PortIx) (s : State) : KeepsMbox s (execAlign port s) :=
  keeps_ite (keeps_next rfl) (keeps_ite (keeps_next ((challenge_mbox ..).trans (modPort_mbox ..))) (keeps_next rfl))

theorem execMgmtAck_keeps (m : MsgIn) (acked : W32) (s : State) : KeepsMbox s (execMgmtAck m acked s) := keeps_ite (keeps_next rfl) (keeps_next rfl)

theorem execReportResend_keeps (s : State) : KeepsMbox s (execReportResend s) := keeps_ite (keeps_next rfl) (keeps_next (flushReports_mbox ..))

theorem execArpRequest_keeps (x : NetIn W32) (s : State) : KeepsMbox s (execArpRequest x s) :=
  keeps_next (ite_keeps State.mbox (netAnswer_mbox ..) rfl)

theorem execIcmpEcho_keeps (x : NetIn NetAddr) (bytes : List Byte) (s : State) : KeepsMbox s (execIcmpEcho x bytes s) :=
  keeps_next (ite_keeps State.mbox (netAnswer_mbox ..) rfl)

theorem execEntdaa_keeps (addr : BitVec 7) (s : State) : KeepsMbox s (execEntdaa addr s) := keeps_next (ite_keeps State.mbox (modI3c_mbox ..) rfl)

theorem execSetdasa_keeps (static addr : BitVec 7) (s : State) : KeepsMbox s (execSetdasa static addr s) :=
  keeps_next (ite_keeps State.mbox (modI3c_mbox ..) rfl)

theorem execSetEndpointId_keeps (eid : Byte) (s : State) : KeepsMbox s (execSetEndpointId eid s) :=
  onMctp_keeps (fun _ => (mctpAnswer_mbox ..).trans (modI3c_mbox ..)) ..

theorem execGetEndpointId_keeps (s : State) : KeepsMbox s (execGetEndpointId s) := onMctp_keeps (fun _ => mctpAnswer_mbox ..) ..

theorem execGetMctpVersionSupport_keeps (s : State) : KeepsMbox s (execGetMctpVersionSupport s) := onMctp_keeps (fun _ => freeAnswer_mbox ..) ..

theorem execGetMessageTypeSupport_keeps (s : State) : KeepsMbox s (execGetMessageTypeSupport s) := onMctp_keeps (fun _ => mctpAnswer_mbox ..) ..

theorem execGettid_keeps (s : State) : KeepsMbox s (execGettid s) := onMctp_keeps (fun _ => mctpAnswer_mbox ..) ..

theorem execSettid_keeps (tid : Byte) (s : State) : KeepsMbox s (execSettid tid s) :=
  onMctp_keeps (fun _ => (mctpAnswer_mbox ..).trans (modI3c_mbox ..)) ..

theorem execGetpldmtypes_keeps (s : State) : KeepsMbox s (execGetpldmtypes s) := onMctp_keeps (fun _ => mctpAnswer_mbox ..) ..

theorem execGetpldmversion_keeps (type : Byte) (s : State) : KeepsMbox s (execGetpldmversion type s) :=
  onMctp_keeps (fun _ => ite_keeps State.mbox (freeAnswer_mbox ..) (mctpAnswer_mbox ..)) ..

theorem execGetsensorreading_keeps (id : BitVec 16) (s : State) : KeepsMbox s (execGetsensorreading id s) :=
  onMctp_keeps (fun _ => mctpAnswer_mbox ..) ..

theorem execSpdmRequest_keeps (doe : Bool) (nonce : Vector Word 4) (s : State) : KeepsMbox s (execSpdmRequest doe nonce s) :=
  keeps_ite (keeps_next rfl) (keeps_next ((emit_mbox ..).trans (fullReport_mbox ..)))

theorem execIdeKm_keeps (s : State) : KeepsMbox s (execIdeKm s) :=
  keeps_ite (keeps_next (ite_keeps State.mbox rfl (devReport_mbox ..))) (keeps_next rfl)

theorem execReleasePlan_inv (s : State) : KeepsInv s (execReleasePlan s) :=
  runPartCmd_inv (fun _ _ _ => ite_fst_mbox (errWith_mbox ..) ((okWith_mbox ..).trans (releasePlan_mbox ..))) ..

theorem execQueryPlan_inv (s : State) : KeepsInv s (execQueryPlan s) := runPartCmd_inv (fun _ _ _ => okWith_mbox ..) ..

theorem execQueryStep_inv (s : State) : KeepsInv s (execQueryStep s) := runPartCmd_inv (fun _ _ _ => okWith_mbox ..) ..

theorem execCkpQuery_inv (s : State) : KeepsInv s (execCkpQuery s) := runPartCmd_inv (fun _ _ _ => okWith_mbox ..) ..

theorem execSedQueryUnit_inv (s : State) : KeepsInv s (execSedQueryUnit s) :=
  runCmd_inv (fun _ _ => ite_fst_mbox (errWith_mbox ..) (okWith_mbox ..)) ..

theorem execBootQuery_inv (s : State) : KeepsInv s (execBootQuery s) := runCmd_inv (fun _ _ => okWith_mbox ..) ..

theorem execBootReset_inv (s : State) : KeepsInv s (execBootReset s) :=
  runCmd_inv (fun _ _ => ite_fst_mbox (okWith_mbox ..) (clearAttempts_mbox ..)) ..

theorem execBootSvnCommit_inv (s : State) : KeepsInv s (execBootSvnCommit s) := runCmd_inv (fun _ _ => (okWith_mbox ..).trans (modBoot_mbox ..)) ..

theorem execSecXferWrite_inv (s : State) : KeepsInv s (execSecXferWrite s) :=
  runCmd_inv (fun _ _ => ite_fst_mbox (errWith_mbox ..) ((okWith_mbox ..).trans (sramWrite_mbox ..))) ..

theorem execSecXferRead_inv (s : State) : KeepsInv s (execSecXferRead s) := runCmd_inv (fun _ _ => ite_fst_mbox (errWith_mbox ..) (okWith_mbox ..)) ..

theorem execSecAttest_inv (s : State) : KeepsInv s (execSecAttest s) := runCmd_inv (fun _ _ => writeReport_mbox ..) ..

theorem execSecSharedCreate_inv (s : State) : KeepsInv s (execSecSharedCreate s) :=
  runPartCmd_inv (fun _ _ _ => ite_fst_mbox (errWith_mbox ..) ((takeKey_mbox ..).trans (freshSecret_mbox ..))) ..

theorem execBootCauses_inv (s : State) : KeepsInv s (execBootCauses s) :=
  runCmd_inv (fun _ _ => ite_fst_mbox (errWith_mbox ..) ((okWith_mbox ..).trans (sramWrite_mbox ..))) ..

theorem execDbgChallenge_inv (s : State) : KeepsInv s (execDbgChallenge s) := by
  unfold execDbgChallenge
  refine runCmd_inv (fun _ _ => ?_) ..
  exact okWith_mbox ..

theorem execDbgLock_inv (s : State) : KeepsInv s (execDbgLock s) :=
  runCmd_inv (fun _ _ => ite_fst_mbox (errWith_mbox ..) ((okWith_mbox ..).trans (setLevel_mbox ..))) ..

theorem execPwrQuery_inv (s : State) : KeepsInv s (execPwrQuery s) := runCmd_inv (fun _ _ => okWith_mbox ..) ..

theorem execFabSetNode_inv (s : State) : KeepsInv s (execFabSetNode s) := by
  unfold execFabSetNode
  refine runCmd_inv (fun _ _ => ?_) ..
  exact ite_fst_mbox (errWith_mbox ..) (ite_fst_mbox (errWith_mbox ..) (okWith_mbox ..))

theorem execFabQueryPort_inv (s : State) : KeepsInv s (execFabQueryPort s) := runCmd_inv (fun _ _ => onPort_mbox (fun _ => okWith_mbox ..) ..) ..

theorem execHostwinSet_inv (s : State) : KeepsInv s (execHostwinSet s) := by
  unfold execHostwinSet
  refine runPartCmd_inv (fun _ _ _ => ?_) ..
  exact ite_fst_mbox (errWith_mbox ..) (okWith_mbox ..)

theorem execExtest_keeps (bits : List Bool) (s : State) : KeepsMbox s (execExtest bits s) :=
  tapSelect_keeps (fun _ => (emit_mbox ..).trans (boundaryScan_mbox ..)) ..

theorem execIdcode_keeps (s : State) : KeepsMbox s (execIdcode s) := tapSelect_keeps (fun _ => emit_mbox ..) ..

theorem execSamplePreload_keeps (bits : List Bool) (s : State) : KeepsMbox s (execSamplePreload bits s) :=
  tapSelect_keeps (fun _ => boundaryScan_mbox ..) ..

theorem execClamp_keeps (s : State) : KeepsMbox s (execClamp s) := tapSelect_keeps (fun _ => (emit_mbox ..).trans (emit_mbox ..)) ..

theorem execHighz_keeps (s : State) : KeepsMbox s (execHighz s) := tapSelect_keeps (fun _ => (emit_mbox ..).trans (emit_mbox ..)) ..

theorem execDbgAuth_keeps (bytes : List Byte) (x y : AuthProof) (s : State) : KeepsMbox s (execDbgAuth bytes x y s) :=
  tapSelect_keeps (fun _ => ite_keeps State.mbox rfl (unlock_mbox ..)) ..

theorem execTapDbgStatus_keeps (s : State) : KeepsMbox s (execTapDbgStatus s) := tapSelect_keeps (fun _ => emit_mbox ..) ..

theorem execHalt_keeps (v : Bool) (s : State) : KeepsMbox s (execHalt v s) :=
  tapSelect_keeps (fun _ => ite_keeps State.mbox (haltWave_mbox ..) rfl) ..

theorem execResume_keeps (v : Bool) (s : State) : KeepsMbox s (execResume v s) :=
  tapSelect_keeps (fun _ => ite_keeps State.mbox (resumeAll_mbox ..) rfl) ..

theorem execScanSel_keeps (k : BitVec 16) (s : State) : KeepsMbox s (execScanSel k s) := by
  unfold execScanSel
  refine tapSelect_keeps (fun _ => ?_) ..
  rfl

theorem execScanData_keeps (n : Nat) (s : State) : KeepsMbox s (execScanData n s) :=
  tapSelect_keeps (fun _ => ite_keeps State.mbox (emit_mbox ..) ((emit_mbox ..).trans (chainBytes_mbox ..))) ..

theorem execSel1500_keeps (n : Nat) (s : State) : KeepsMbox s (execSel1500 n s) := tapSelect_keeps (fun _ => freeBits_mbox ..) ..

theorem execBypass_keeps (s : State) : KeepsMbox s (execBypass s) := tapSelect_keeps (fun _ => emit_mbox ..) ..

theorem execPcieLinkUp_keeps (speed : Fin 6) (width : Nat) (s : State) : KeepsMbox s (execPcieLinkUp speed width s) :=
  keeps_ite (keeps_next rfl) (keeps_next (devReport_mbox ..))

theorem execDhcpv4_keeps (x : NetIn W32) (s : State) : KeepsMbox s (execDhcpv4 x s) := keeps_ite (keeps_next rfl) (keeps_next rfl)

theorem execPdrRepository_keeps (s : State) : KeepsMbox s (execPdrRepository s) := onMctp_keeps (fun _ => mctpAnswer_mbox ..) ..

theorem exec_inv (i : Instr) (s : State) : KeepsInv s (exec i s) := by
  cases i with
  | add => exact (execAdd_keeps ..).inv
  | sub => exact (execSub_keeps ..).inv
  | and => exact (execAnd_keeps ..).inv
  | or => exact (execOr_keeps ..).inv
  | xor => exact (execXor_keeps ..).inv
  | shl => exact (execShl_keeps ..).inv
  | shr => exact (execShr_keeps ..).inv
  | sar => exact (execSar_keeps ..).inv
  | min => exact (execMin_keeps ..).inv
  | max => exact (execMax_keeps ..).inv
  | minu => exact (execMinu_keeps ..).inv
  | maxu => exact (execMaxu_keeps ..).inv
  | sel => exact (execSel_keeps ..).inv
  | clz => exact (execClz_keeps ..).inv
  | popc => exact (execPopc_keeps ..).inv
  | mul => exact (execMul_keeps ..).inv
  | mulhu => exact (execMulhu_keeps ..).inv
  | mulh => exact (execMulh_keeps ..).inv
  | madd => exact (execMadd_keeps ..).inv
  | divu => exact (execDivu_keeps ..).inv
  | div => exact (execDiv_keeps ..).inv
  | remu => exact (execRemu_keeps ..).inv
  | rem => exact (execRem_keeps ..).inv
  | fadd => exact (execFadd_keeps ..).inv
  | fsub => exact (execFsub_keeps ..).inv
  | fmul => exact (execFmul_keeps ..).inv
  | ffma => exact (execFfma_keeps ..).inv
  | fmin => exact (execFmin_keeps ..).inv
  | fmax => exact (execFmax_keeps ..).inv
  | fcvtif => exact (execFcvtif_keeps ..).inv
  | fcvtfi => exact (execFcvtfi_keeps ..).inv
  | eq => exact (execEq_keeps ..).inv
  | ne => exact (execNe_keeps ..).inv
  | lt => exact (execLt_keeps ..).inv
  | ge => exact (execGe_keeps ..).inv
  | ltu => exact (execLtu_keeps ..).inv
  | geu => exact (execGeu_keeps ..).inv
  | flt => exact (execFlt_keeps ..).inv
  | feq => exact (execFeq_keeps ..).inv
  | pand => exact (execPand_keeps ..).inv
  | por => exact (execPor_keeps ..).inv
  | pxor => exact (execPxor_keeps ..).inv
  | pnot => exact (execPnot_keeps ..).inv
  | br => exact (execBr_keeps ..).inv
  | bri => exact (execBri_keeps ..).inv
  | load => exact (execLoad_keeps ..).inv
  | store => exact (execStore_keeps ..).inv
  | nop => exact (execNop_keeps ..).inv
  | yield => exact (execYield_keeps ..).inv
  | stepend => exact (execStepend_keeps ..).inv
  | fence => exact (execFence_keeps ..).inv
  | trap => exact (execTrap_keeps ..).inv
  | waitb => exact (execWaitb_keeps ..).inv
  | sigb => exact (execSigb_keeps ..).inv
  | waitc => exact (execWaitc_keeps ..).inv
  | setc => exact (execSetc_keeps ..).inv
  | rdsr => exact (execRdsr_keeps ..).inv
  | qshape => exact (execQshape_keeps ..).inv
  | bcast => exact (execBcast_keeps ..).inv
  | trd => exact (execTrd_keeps ..).inv
  | li64 => exact (execLi64_keeps ..).inv
  | mma => exact (execMma_keeps ..).inv
  | mrelease => exact (execMrelease_keeps ..).inv
  | wpre => exact (execWpre_keeps ..).inv
  | vrun => exact (execVrun_keeps ..).inv
  | vpop => exact (execVpop_keeps ..).inv
  | vchdef => exact (execVchdef_keeps ..).inv
  | sstart => exact (execSstart_keeps ..).inv
  | srelease => exact (execSrelease_keeps ..).inv
  | loadData => exact (execLoadData_keeps ..).inv
  | storeComplete => exact (execStoreComplete_keeps ..).inv
  | quantum => exact (execQuantum_keeps ..).inv
  | waitTimeout => exact (execWaitTimeout_keeps ..).inv
  | matrixPass => exact (execMatrixPass_keeps ..).inv
  | matrixDrain => exact (execMatrixDrain_keeps ..).inv
  | wpreComplete => exact (execWpreComplete_keeps ..).inv
  | arrayIdle => exact (execArrayIdle_keeps ..).inv
  | flumeTileWrite => exact (execFlumeTileWrite_keeps ..).inv
  | vectorComplete => exact (execVectorComplete_keeps ..).inv
  | sluiceGrant => exact (execSluiceGrant_keeps ..).inv
  | ageLimit => exact (execAgeLimit_keeps ..).inv
  | chunkWritten => exact (execChunkWritten_keeps ..).inv
  | streamComplete => exact (execStreamComplete_keeps ..).inv
  | sreleaseRecord => exact (execSreleaseRecord_keeps ..).inv
  | localToken => exact (execLocalToken_keeps ..).inv
  | cellarRequest => exact (execCellarRequest_keeps ..).inv
  | burstIssue => exact (execBurstIssue_keeps ..).inv
  | gatherAge => exact (execGatherAge_keeps ..).inv
  | runHold => exact (execRunHold_keeps ..).inv
  | trackerExpiry => exact (execTrackerExpiry_keeps ..).inv
  | scrubBlock => exact (execScrubBlock_keeps ..).inv
  | scrubRetry => exact (execScrubRetry_keeps ..).inv
  | tempReading => exact (execTempReading_keeps ..).inv
  | remapCopy => exact (execRemapCopy_keeps ..).inv
  | wipeEnd => exact (execWipeEnd_keeps ..).inv
  | updGranule => exact (execUpdGranule_keeps ..).inv
  | poolReportMs => exact (execPoolReportMs_keeps ..).inv
  | sweepEntry => exact (execSweepEntry_keeps ..).inv
  | localContribution => exact (execLocalContribution_keeps ..).inv
  | ready => exact (execReady_keeps ..).inv
  | coordReady => exact (execCoordReady_keeps ..).inv
  | fail => exact (execFail_keeps ..).inv
  | discarded => exact (execDiscarded_keeps ..).inv
  | start => exact (execStart_keeps ..).inv
  | commit => exact (execCommit_keeps ..).inv
  | abort => exact (execAbort_keeps ..).inv
  | discardComplete => exact (execDiscardComplete_keeps ..).inv
  | mirrorPage p x => exact (execMirrorPage_keeps p x s).inv
  | mirror => exact (execMirror_keeps ..).inv
  | mirrorAck => exact (execMirrorAck_keeps ..).inv
  | twinSyncDone => exact (execTwinSyncDone_keeps ..).inv
  | soloCommit => exact (execSoloCommit_keeps ..).inv
  | readyTimeout => exact (execReadyTimeout_keeps ..).inv
  | commitTimeout => exact (execCommitTimeout_keeps ..).inv
  | peerLost => exact (execPeerLost_keeps ..).inv
  | heartbeat => exact (execHeartbeat_keeps ..).inv
  | compare => exact (execCompare_keeps ..).inv
  | vote => exact (execVote_keeps ..).inv
  | selftestRecord => exact (execSelftestRecord_keeps ..).inv
  | sectionWrite => exact execSectionWrite_inv ..
  | holdupSense => exact (execHoldupSense_keeps ..).inv
  | holdupWait => exact (execHoldupWait_keeps ..).inv
  | powerUp => exact execPowerUp_inv ..
  | resetN => exact execResetN_inv ..
  | pwrGoodFall => exact (execPwrGoodFall_keeps ..).inv
  | pwrGoodRise => exact execPwrGoodRise_inv ..
  | coreUndervoltage => exact (execCoreUndervoltage_keeps ..).inv
  | pciePerstN => exact (execPciePerstN_keeps ..).inv
  | trstN => exact (execTrstN_keeps ..).inv
  | bootStageFuses => exact execBootStageFuses_inv ..
  | bootStageConfig => exact execBootStageConfig_inv ..
  | bootStageRecord => exact execBootStageRecord_inv ..
  | bootStageImage x => exact execBootStageImage_inv x s
  | bootStageLinks => exact execBootStageLinks_inv ..
  | bootStageWipe => exact execBootStageWipe_inv ..
  | bootStageState => exact execBootStageState_inv ..
  | bootStageReady => exact execBootStageReady_inv ..
  | bootWatchdog => exact execBootWatchdog_inv ..
  | minimalMode => exact (execMinimalMode_keeps ..).inv
  | linkDown => exact (execLinkDown_keeps ..).inv
  | ucieTrainerror => exact (execUcieTrainerror_keeps ..).inv
  | controlTick => exact (execControlTick_keeps ..).inv
  | vrSetPointReached => exact (execVrSetPointReached_keeps ..).inv
  | vrTimeout => exact (execVrTimeout_keeps ..).inv
  | droop => exact (execDroop_keeps ..).inv
  | stretchHoldNs => exact (execStretchHoldNs_keeps ..).inv
  | limiterSample => exact (execLimiterSample_keeps ..).inv
  | limiterRaise => exact (execLimiterRaise_keeps ..).inv
  | boostLimit => exact (execBoostLimit_keeps ..).inv
  | cooldownEnd => exact (execCooldownEnd_keeps ..).inv
  | junctionReading => exact (execJunctionReading_keeps ..).inv
  | throttleStep => exact (execThrottleStep_keeps ..).inv
  | wearSecond => exact (execWearSecond_keeps ..).inv
  | wearWrite => exact (execWearWrite_keeps ..).inv
  | pstateChange => exact execPstateChange_inv ..
  | sync => exact (execSync_keeps ..).inv
  | counterSample => exact (execCounterSample_keeps ..).inv
  | domainStop => exact (execDomainStop_keeps ..).inv
  | put => exact (execPut_keeps ..).inv
  | credit => exact (execCredit_keeps ..).inv
  | contrib => exact (execContrib_keeps ..).inv
  | retry => exact (execRetry_keeps ..).inv
  | retryUs => exact (execRetryUs_keeps ..).inv
  | token => exact (execToken_keeps ..).inv
  | digest => exact (execDigest_keeps ..).inv
  | storeData h off len obj bytes => exact (execStoreData_keeps h off len obj bytes () s).inv
  | dack => exact (execDack_keeps ..).inv
  | ckpPageSend => exact (execCkpPageSend_keeps ..).inv
  | ckpTimeout => exact (execCkpTimeout_keeps ..).inv
  | unknownType => exact (execUnknownType_keeps ..).inv
  | frameForward => exact (execFrameForward_keeps ..).inv
  | ack => exact (execAck_keeps ..).inv
  | nack => exact (execNack_keeps ..).inv
  | idle => exact (execIdle_keeps ..).inv
  | idleUs => exact (execIdleUs_keeps ..).inv
  | vlcredit => exact (execVlcredit_keeps ..).inv
  | rekey => exact (execRekey_keeps ..).inv
  | laneFence => exact (execLaneFence_keeps ..).inv
  | detect => exact (execDetect_keeps ..).inv
  | detectRetry => exact (execDetectRetry_keeps ..).inv
  | equalize => exact (execEqualize_keeps ..).inv
  | align => exact (execAlign_keeps ..).inv
  | auth => exact (execAuth_keeps ..).inv
  | portTrainingTimeout => exact (execPortTrainingTimeout_keeps ..).inv
  | hostReadData => exact (execHostReadData_keeps ..).inv
  | command => exact execCommand_inv ..
  | mgmtAck => exact (execMgmtAck_keeps ..).inv
  | reportResend => exact (execReportResend_keeps ..).inv
  | arpRequest => exact (execArpRequest_keeps ..).inv
  | ndpRequest => exact (execNdpRequest_keeps ..).inv
  | icmpEcho => exact (execIcmpEcho_keeps ..).inv
  | entdaa => exact (execEntdaa_keeps ..).inv
  | setdasa => exact (execSetdasa_keeps ..).inv
  | setEndpointId => exact (execSetEndpointId_keeps ..).inv
  | getEndpointId => exact (execGetEndpointId_keeps ..).inv
  | getMctpVersionSupport => exact (execGetMctpVersionSupport_keeps ..).inv
  | getMessageTypeSupport => exact (execGetMessageTypeSupport_keeps ..).inv
  | gettid => exact (execGettid_keeps ..).inv
  | settid => exact (execSettid_keeps ..).inv
  | getpldmtypes => exact (execGetpldmtypes_keeps ..).inv
  | getpldmcommands => exact (execGetpldmcommands_keeps ..).inv
  | getpldmversion => exact (execGetpldmversion_keeps ..).inv
  | getsensorreading => exact (execGetsensorreading_keeps ..).inv
  | pldmFirmwareUpdate => exact (execPldmFirmwareUpdate_keeps ..).inv
  | spdmRequest => exact (execSpdmRequest_keeps ..).inv
  | ideKm => exact (execIdeKm_keeps ..).inv
  | queryShape => exact execQueryShape_inv ..
  | loadPlan => exact execLoadPlan_inv ..
  | arm => exact execArm_inv ..
  | haltPlan => exact execHaltPlan_inv ..
  | releasePlan => exact execReleasePlan_inv ..
  | queryPlan => exact execQueryPlan_inv ..
  | partWrite => exact execPartWrite_inv ..
  | partRead => exact execPartRead_inv ..
  | unknownCode => exact execUnknownCode_inv ..
  | mboxCompletion => exact execMboxCompletion_inv ..
  | twinAttach => exact execTwinAttach_inv ..
  | twinRelease => exact execTwinRelease_inv ..
  | groupJoin => exact execGroupJoin_inv ..
  | groupLeave => exact execGroupLeave_inv ..
  | reconfigure => exact execReconfigure_inv ..
  | queryStep => exact execQueryStep_inv ..
  | readToken => exact execReadToken_inv ..
  | flip => exact execFlip_inv ..
  | discard => exact execDiscard_inv ..
  | go => exact execGo_inv ..
  | becomeSpare => exact execBecomeSpare_inv ..
  | assumeIdentity => exact execAssumeIdentity_inv ..
  | restore => exact execRestore_inv ..
  | repair => exact execRepair_inv ..
  | fmHalt => exact execFmHalt_inv ..
  | ckpQuery => exact execCkpQuery_inv ..
  | ckpAbandon => exact execCkpAbandon_inv ..
  | ckpRestore => exact execCkpRestore_inv ..
  | ckpFind => exact execCkpFind_inv ..
  | sedQueryUnit => exact execSedQueryUnit_inv ..
  | sedFence => exact execSedFence_inv ..
  | sedSelftest => exact execSedSelftest_inv ..
  | sedPantryRead => exact execSedPantryRead_inv ..
  | sedPantryLoad => exact execSedPantryLoad_inv ..
  | sedReplicas => exact execSedReplicas_inv ..
  | sedDigest => exact execSedDigest_inv ..
  | bootQuery => exact execBootQuery_inv ..
  | bootReset => exact execBootReset_inv ..
  | bootImageBegin => exact execBootImageBegin_inv ..
  | bootImageChunk => exact execBootImageChunk_inv ..
  | bootImageEnd => exact execBootImageEnd_inv ..
  | bootSvnCommit => exact execBootSvnCommit_inv ..
  | secXferWrite => exact execSecXferWrite_inv ..
  | secXferRead => exact execSecXferRead_inv ..
  | secAttest => exact execSecAttest_inv ..
  | secTakeOwnership => exact execSecTakeOwnership_inv ..
  | secReleaseOwnership => exact execSecReleaseOwnership_inv ..
  | secScrap => exact execSecScrap_inv ..
  | secProvision => exact execSecProvision_inv ..
  | secKeyRequest => exact execSecKeyRequest_inv ..
  | secSharedCreate => exact execSecSharedCreate_inv ..
  | secSharedExport => exact execSecSharedExport_inv ..
  | secSharedImport => exact execSecSharedImport_inv ..
  | partCreate => exact execPartCreate_inv ..
  | partDestroy => exact execPartDestroy_inv ..
  | bootCauses => exact execBootCauses_inv ..
  | dbgChallenge => exact execDbgChallenge_inv ..
  | dbgUnlock => exact execDbgUnlock_inv ..
  | dbgLock => exact execDbgLock_inv ..
  | dbgHalt => exact execDbgHalt_inv ..
  | dbgResume => exact execDbgResume_inv ..
  | dbgScan => exact execDbgScan_inv ..
  | trcMark => exact execTrcMark_inv ..
  | cntRead => exact execCntRead_inv ..
  | cntSnapshot => exact execCntSnapshot_inv ..
  | cntClear => exact execCntClear_inv ..
  | pwrSetState => exact execPwrSetState_inv ..
  | pwrQuery => exact execPwrQuery_inv ..
  | fabSetNode => exact execFabSetNode_inv ..
  | fabRouteSet => exact execFabRouteSet_inv ..
  | fabRankmapSet => exact execFabRankmapSet_inv ..
  | fabPort => exact execFabPort_inv ..
  | fabQueryPort => exact execFabQueryPort_inv ..
  | hostwinSet => exact execHostwinSet_inv ..
  | extest => exact (execExtest_keeps ..).inv
  | idcode => exact (execIdcode_keeps ..).inv
  | samplePreload => exact (execSamplePreload_keeps ..).inv
  | clamp => exact (execClamp_keeps ..).inv
  | highz => exact (execHighz_keeps ..).inv
  | dbgAuth => exact (execDbgAuth_keeps ..).inv
  | tapDbgStatus => exact (execTapDbgStatus_keeps ..).inv
  | halt => exact (execHalt_keeps ..).inv
  | resume => exact (execResume_keeps ..).inv
  | scanSel => exact (execScanSel_keeps ..).inv
  | scanData => exact (execScanData_keeps ..).inv
  | sel1500 => exact (execSel1500_keeps ..).inv
  | bypass => exact (execBypass_keeps ..).inv
  | registerWrite => exact execRegisterWrite_inv ..
  | pkgStatus => exact accessReg_inv ..
  | pkgMboxStatus => exact accessReg_inv ..
  | secMboxOwner => exact execSecMboxOwner_inv ..
  | slcCtxSel => exact accessReg_inv ..
  | fabRouteSel => exact accessReg_inv ..
  | dbgStopSel => exact accessReg_inv ..
  | celTemp => exact accessReg_inv ..
  | pwrPower => exact accessReg_inv ..
  | dbgDumpCfg => exact accessReg_inv ..
  | maErr => exact accessReg_inv ..
  | veErr => exact accessReg_inv ..
  | slcTokens => exact accessReg_inv ..
  | celErr => exact accessReg_inv ..
  | updErr => exact accessReg_inv ..
  | updDiscards => exact accessReg_inv ..
  | stpErr => exact accessReg_inv ..
  | sedCount => exact accessReg_inv ..
  | fabDiscards => exact accessReg_inv ..
  | fabFec => exact accessReg_inv ..
  | ckpErr => exact accessReg_inv ..
  | trcLost => exact accessReg_inv ..
  | pwrErr => exact accessReg_inv ..
  | powerRemoval => exact execPowerRemoval_inv ..
  | pcieLinkUp => exact (execPcieLinkUp_keeps ..).inv
  | failingRead => exact execFailingRead_inv ..
  | dhcpv4 => exact (execDhcpv4_keeps ..).inv
  | pdrRepository => exact (execPdrRepository_keeps ..).inv

/-- Settles O59: the mailbox of the reset state is the one after reset. -/
theorem resetHoldsInvariant : Obligations.ResetHoldsInvariant := mailboxInv_reset rfl

/-- Settles O60: a step runs one command with the rest of the queue, or ends the partition stops under way; neither the queue nor those stops touch the
mailbox, and every command keeps its invariant (`exec_inv`). -/
theorem stepKeepsInvariant : Obligations.StepKeepsInvariant := by
  intro s t hs ht
  unfold step at ht
  split at ht
  · injection ht with ht
    exact ht ▸ hs.of_mbox (settleStops_mbox s)
  · next c rest _ => exact (exec_inv c { s with pending := rest }).inv (hs.of_mbox rfl) t ht

end Sys2Proof.Machine
end

section
/-! The command mailbox and its session (O46): how a COMMAND is judged, and what a completion leaves. -/

namespace Sys2Proof.Machine

/-! ### A COMMAND of the session (R385 to R387) -/

/-- The state that has taken note of a COMMAND: its sequence number, and its sender where no peer is known yet. -/
def noted (s : State) (m : MsgIn) (n : Nat) : State :=
  { s with mgmt := { s.mgmt with lastSeq := some n, peer := some (s.mgmt.peer.getD (m.source, m.port)) } }

theorem learnPeer_noted (s : State) (m : MsgIn) (n : Nat) :
    learnPeer { s with mgmt := { s.mgmt with lastSeq := some n } } m = noted s m n := by
  unfold learnPeer noted
  split
  · next h =>
    obtain ⟨peer, hp⟩ := Option.isSome_iff_exists.mp h
    have known : some (s.mgmt.peer.getD (m.source, m.port)) = s.mgmt.peer := by
      rw [show s.mgmt.peer = some peer from hp]
      rfl
    rw [known]
  · next h =>
    rw [show s.mgmt.peer = none from Option.not_isSome_iff_eq_none.mp h]
    rfl

theorem goodMsg_unheard {s : State} {m : MsgIn} (h : m.auth = false ∨ m.kind ≠ 1 ∨ m.serial ≠ s.fuses.serial ∨ hears s = false) (len : Nat) :
    goodMsg s m 1 len = false := by
  have kind : m.kind ≠ 1 → m.kind.toNat ≠ 1 := fun h hk => h (BitVec.eq_of_toNat_eq hk)
  obtain h | h | h | h := h
  · simp [goodMsg, h]
  · simp [goodMsg, kind h]
  · simp [goodMsg, h]
  · simp [goodMsg, h]

theorem execCommand_unheard {s : State} {m : MsgIn} (h : goodMsg s m 1 72 = false) (seq : W32) (w : Word) (args : Vector Word 8) :
    execCommand m seq w args s = .next s := by
  rw [execCommand, h]
  rfl

theorem execCommand_repeated {s : State} {m : MsgIn} {seq : W32} (h : goodMsg s m 1 72 = true) (hd : s.mgmt.lastDone = some seq.toNat) (w : Word)
    (args : Vector Word 8) : execCommand m seq w args s = .next (emit s (.response seq.toNat s.mgmt.lastResp)) := by
  rw [execCommand, h]
  exact if_pos hd

theorem execCommand_stale {s : State} {m : MsgIn} {seq : W32} (h : goodMsg s m 1 72 = true) (hd : s.mgmt.lastDone ≠ some seq.toNat)
    (hf : freshSeq s seq.toNat = false) (w : Word) (args : Vector Word 8) : execCommand m seq w args s = .next s := by
  rw [execCommand, h]
  exact (if_neg hd).trans (if_pos (by rw [hf]; rfl))

/-- A fresh COMMAND is answered SESSION_BUSY, waits for the mailbox, or is issued. -/
theorem execCommand_fresh {s : State} {m : MsgIn} {seq : W32} (h : goodMsg s m 1 72 = true) (hd : s.mgmt.lastDone ≠ some seq.toNat)
    (hf : freshSeq s seq.toNat = true) (w : Word) (args : Vector Word 8) : execCommand m seq w args s
      = let u := noted s m seq.toNat
        if s.mgmt.running.isSome || s.mgmt.queued.isSome then .next (answerBusy u seq.toNat)
        else if s.mbox.busy then .next { u with mgmt := { u.mgmt with queued := some (seq.toNat, w, args.toList) } }
        else .next (issueSession { u with mgmt := { u.mgmt with running := some seq.toNat } } w args.toList) := by
  rw [execCommand, h]
  refine (if_neg hd).trans ((if_neg (by rw [hf]; exact Bool.false_ne_true)).trans ?_)
  rw [learnPeer_noted]
  rfl

theorem ofFn_getD_toList {n : Nat} (l : Vector Word n) : Vector.ofFn (fun i : Fin n => l.toList.getD i.val 0) = l := by
  ext i hi
  simp

/-- The state with the arguments of a session's command in the mailbox. -/
def withArgs (s : State) (args : Vector Word 8) : State := { s with mbox := { s.mbox with args := args } }

/-- A session's command that finds the mailbox free is accepted for management die 0 (R385). -/
theorem issueSession_free {s : State} (hp : s.pwr.tripped = false) (hb : s.mbox.busy = false) (w : Word) (args : Vector Word 8) :
    uncounted (issueSession s w args.toList)
      = uncounted { s with mbox := acceptedMbox (withArgs s args).mbox (cmdOf (withArgs s args) w (.mgmt 0)) } := by
  have issued : issueSession s w args.toList = acceptCmd (withArgs s args) w (.mgmt 0) := by rw [issueSession, ofFn_getD_toList]; rfl
  rw [issued, acceptCmd_free (s := withArgs s args) hp hb]
  exact uncounted_startWindows ..

/-! ### Reports of the session -/

/-- Reports that may leave are sent in their order (R387). -/
theorem each_report_sent (l : List Report) (s : State) (h : ∀ r ∈ l, canSend s (.report r) = true) :
    each l s (fun s r => emit s (.report r)) = { s with egress := s.egress ++ l.map Out.report } := by
  induction l generalizing s with
  | nil => rw [List.map_nil, List.append_nil]; rfl
  | cons r l ih =>
    have first : each (r :: l) s (fun s r => emit s (.report r)) = each l (emit s (.report r)) (fun s r => emit s (.report r)) := rfl
    rw [first, emit_sent (h r List.mem_cons_self)]
    refine (ih { s with egress := s.egress ++ [.report r] } (fun x hx => h x (List.mem_cons_of_mem r hx))).trans ?_
    rw [List.map_cons, List.append_assoc]
    rfl

/-- A device with message numbers left sends every report whose number the flash covers, and SEQ_EXHAUSTED always (R387, R433). -/
theorem canSend_report {s : State} (hp : timersHeld s = false) (hl : s.pwr.lost = false) (hn : netUp s = true) (he : s.mgmt.exhausted = false)
    {r : Report} (hr : r.code = 0x55 ∨ r.seq + 1 < s.boot.seqLimit) : canSend s (.report r) = true := by
  have powered : s.pwr.powered = true := by
    unfold timersHeld at hp
    simpa using (Bool.or_eq_false_iff.mp hp).2
  unfold canSend
  rw [powered, hl, hn, he]
  obtain h | h := hr
  · simp [h]
  · simp [h]

/-! ### Completion (R51, R438) -/

/-- An interrupt touches the PCIe endpoint and what leaves the device alone. -/
theorem msix_frame (s : State) (v : Nat) : msix s v = { s with pcie := (msix s v).pcie, egress := (msix s v).egress } := by
  unfold msix
  split
  · rfl
  · split
    · split
      · rfl
      · rw [emit_frame]
    · rfl

theorem respond_frame (s : State) (seq : Nat) (words : List Word) : respond s seq words
    = { s with mgmt := { s.mgmt with running := none, lastResp := words, lastDone := some seq }, egress := (respond s seq words).egress } := by
  unfold respond
  rw [emit_frame]

/-- The ownership that a completion leaves (R438). -/
theorem settleOwner_free {s : State} (hb : s.mbox.busy = false) :
    settleOwner s = modMbox s (fun m => { m with owner := if m.preempt then 1 else m.owner, preempt := false }) := by
  have settled : (if s.mbox.preempt && !s.mbox.busy then { s.mbox with owner := 1, preempt := false } else s.mbox)
      = { s.mbox with owner := if s.mbox.preempt then 1 else s.mbox.owner, preempt := false } := by
    cases hp : s.mbox.preempt with
    | false => rw [Bool.false_and, if_neg Bool.false_ne_true, if_neg Bool.false_ne_true, ← hp]
    | true => rw [hb]; rfl
  exact congrArg (fun m => { s with mbox := m }) settled

/-- A command that runs has a completion to come, which leaves the partitions, the boot processor and the session's waiting command as they are; it
writes results, ERROR and DONE, clears BUSY, and answers the session whose command it was. -/
structure Completes (s : State) (c : Cmd) (d : Done) (x : State) : Prop where
  results : ∃ rs, x.mbox = completedMbox s.mbox rs d.error ∧ (∀ (i : Fin 8) v, d.results[i.val]? = some v → rs[i] = word v)
    ∧ ∀ seq, s.mgmt.running = some seq → bySession s c = true →
      x.mgmt.running = none ∧ x.mgmt.lastDone = some seq ∧ x.mgmt.lastResp = word (mboxStatus x) :: rs.toList
  kept : x.fuses = s.fuses ∧ x.boot = s.boot ∧ x.pending = s.pending ∧ x.parts = s.parts ∧ x.mgmt.queued = s.mgmt.queued

theorem execMboxCompletion_completes {s : State} {c : Cmd} {d : Done} (hr : s.mbox.run = some c) (ho : s.mbox.outcome = some d)
    (ha : asleep s mgmtDom = false) : ∃ x, Completes s c d x ∧ execMboxCompletion s
      = if d.error = 0 ∧ resetsAfter x c.code then .next (deviceReset x) else .next (issueQueued (settleOwner x)) := by
  obtain ⟨rs, u, x, hrs, hu, answered, plain, alone, h⟩ := execMboxCompletion_of hr ho ha
  have hf := hu.trans (msix_frame ..)
  refine ⟨x, ?_, h⟩
  have mbox : u.mbox = completedMbox s.mbox rs d.error := by rw [hf]
  have mgmt : u.mgmt = s.mgmt := by rw [hf]
  have kept : u.fuses = s.fuses ∧ u.boot = s.boot ∧ u.pending = s.pending ∧ u.parts = s.parts := by
    rw [hf]
    exact ⟨rfl, rfl, rfl, rfl⟩
  obtain ⟨fuses, boot, pending, parts⟩ := kept
  have session : bySession u c = bySession s c := by
    unfold bySession
    rw [mgmt]
  cases hb : bySession s c with
  | false =>
    rw [plain (session.trans hb)]
    exact ⟨⟨rs, mbox, hrs, fun _ _ h => Bool.noConfusion (hb.symm.trans h)⟩, fuses, boot, pending, parts, by rw [mgmt]⟩
  | true =>
    cases hq : s.mgmt.running with
    | none =>
      rw [alone (by rw [mgmt, hq])]
      exact ⟨⟨rs, mbox, hrs, fun _ h => by rw [hq] at h; contradiction⟩, fuses, boot, pending, parts, by rw [mgmt]⟩
    | some seq =>
      rw [answered seq (by rw [mgmt, hq]) (session.trans hb), respond_frame]
      refine ⟨⟨rs, mbox, hrs, fun seq' h _ => ?_⟩, fuses, boot, pending, parts, congrArg (fun g => g.queued) mgmt⟩
      rw [Option.some.inj (h.symm.trans hq)]
      exact ⟨rfl, rfl, rfl⟩

theorem Completes.resetsAfter {s x : State} {c : Cmd} {d : Done} (h : Completes s c d x) (code : Nat) : resetsAfter x code = resetsAfter s code := by
  obtain ⟨-, -, boot, -, -, -⟩ := h
  rw [Machine.resetsAfter, Machine.resetsAfter, minimal, minimal, boot]

/-! ### The obligation -/

/-- Settles O46: an accepted COMMAND by `execCommand_fresh`, a completion by `execMboxCompletion_completes`. -/
theorem mailboxAndSession : Obligations.MailboxAndSession := by
  intro s
  refine ⟨?_, ?_, ?_, ?_, ?_, ?_⟩
  · intro m seq w args n
    refine ⟨fun h => execCommand_unheard (goodMsg_unheard h 72) seq w args, fun good => ⟨?_, ?_, ?_⟩⟩
    · exact fun hd => ⟨_, execCommand_repeated good hd w args, emit_frame ..⟩
    · exact fun hd hf => execCommand_stale good hd hf w args
    · intro hd hf
      have fresh := execCommand_fresh good hd hf w args
      refine ⟨fun hr => ?_, fun hr hq hb => ?_, fun hr hq hb hp => ?_⟩
      · refine ⟨answerBusy (noted s m n) n, fresh.trans (if_pos (by rw [hr]; rfl)), answerBusy_mbox .., ?_⟩
        rw [answerBusy, emit_frame]
        exact ⟨rfl, rfl, rfl⟩
      · refine fresh.trans ?_
        rw [hr, hq, hb]
        rfl
      · have u : ∃ u, u = { noted s m n with mgmt := { (noted s m n).mgmt with running := some n } } := ⟨_, rfl⟩
        obtain ⟨u, hu⟩ := u
        have issued := issueSession_free (s := u) (by rw [hu]; exact hp) (by rw [hu]; exact hb) w args
        refine ⟨issueSession u w args.toList, ?_, ?_⟩
        · refine fresh.trans ?_
          rw [hr, hq, hb, hu]
          rfl
        · have mbox : (issueSession u w args.toList).mbox = acceptedMbox (withArgs u args).mbox (cmdOf (withArgs u args) w (.mgmt 0)) :=
            (congrArg State.mbox issued :)
          have mgmt : (issueSession u w args.toList).mgmt = u.mgmt := (congrArg State.mgmt issued :)
          have parts : (issueSession u w args.toList).parts = u.parts := (congrArg State.parts issued :)
          rw [mbox, mgmt, parts, hu]
          exact ⟨rfl, rfl, rfl, rfl, rfl, rfl, rfl⟩
  · intro m acked good
    have acked : execMgmtAck m acked s = .next _ := if_neg (by rw [good]; exact Bool.false_ne_true)
    exact ⟨_, acked, rfl, rfl⟩
  · intro ht ha hl hn he hq
    have sent := each_report_sent s.mgmt.queue s (fun r hr => canSend_report ht hl hn he (hq r hr))
    have resent : execReportResend s = .next (flushReports s) := if_neg (by rw [ht, ha]; exact Bool.false_ne_true)
    rw [← sent]
    exact resent
  · intro c hr hc ho hb
    have ended : execUnknownCode s = .next (modMbox s (fun m => { m with outcome := some ⟨unknownCode, []⟩ })) := by
      simp [execUnknownCode, hr, hc, ho, hb]
    exact ended
  · intro c e rs hr ho ha hq hn
    obtain ⟨x, hx, h⟩ := execMboxCompletion_completes hr ho ha
    have goesOn : ¬ (e = 0 ∧ resetsAfter x c.code = true) := by
      rw [hx.resetsAfter]
      rintro ⟨he, hres⟩
      obtain h | h := hn
      · exact h he
      · exact Bool.noConfusion (h.symm.trans hres)
    obtain ⟨⟨rs', mbox, hrs, answered⟩, -, -, -, parts, queued⟩ := hx
    have busy : x.mbox.busy = false := by rw [mbox]; rfl
    have ends : exec .mboxCompletion s = .next (settleOwner x) := by
      refine h.trans ((if_neg goesOn).trans (congrArg _ (issueQueued_none ?_)))
      rw [settleOwner_free busy]
      exact queued.trans hq
    have left : (settleOwner x).mbox = { completedMbox s.mbox rs' e with owner := if s.mbox.preempt then 1 else s.mbox.owner, preempt := false } := by
      rw [settleOwner_free busy, modMbox, mbox]
      rfl
    refine ⟨settleOwner x, ends, ?_⟩
    rw [left]
    refine ⟨rfl, rfl, rfl, rfl, rfl, hrs, fun hp => ⟨by rw [hp]; rfl, rfl⟩, fun hp => by rw [hp]; rfl, ?_, ?_⟩
    · rw [settleOwner_free busy]
      exact parts
    · intro seq hs hb
      obtain ⟨running, done, resp⟩ := answered seq hs hb
      have status : mboxStatus (settleOwner x) = mboxStatus x := by rw [settleOwner_free busy]; rfl
      rw [status, settleOwner_free busy]
      exact ⟨running, done, resp⟩
  · intro c rs hr ho ha hres
    obtain ⟨x, hx, h⟩ := execMboxCompletion_completes hr ho ha
    have resets : exec .mboxCompletion s = .next (deviceReset x) := h.trans (if_pos ⟨rfl, (hx.resetsAfter c.code).trans hres⟩)
    obtain ⟨-, fuses, boot, pending, -, -⟩ := hx
    exact ⟨deviceReset x, resets, (afterReset_deviceReset x).of_same fuses boot pending⟩

end Sys2Proof.Machine
end

section
/-! What an accepted barrier token does to HBM3: the bindings that it activates read their constants, after the stores that wait for them; the obligation
on local contributions and tokens (O30). -/

namespace Sys2Proof.Machine

theorem hbm_of_still {s t : State} (h : still t = still s) : t.hbm = s.hbm := congrArg Still.hbm h

theorem devReport_hbm (s : State) (code : Nat) (detail : List Nat) : (devReport s code detail).hbm = s.hbm := hbm_of_still (still_devReport ..)

theorem listSuspect_hbm (s : State) (u : Nat) : (listSuspect s u).hbm = s.hbm := by
  unfold listSuspect
  refine ite_keeps State.hbm rfl (ite_keeps State.hbm rfl ?_)
  dsimp only
  split
  · rfl
  · rfl

theorem orderFence_hbm (s : State) (u cause : Nat) : (orderFence s u cause).hbm = s.hbm := by
  unfold orderFence
  refine ite_keeps State.hbm rfl ?_
  have told : ∀ t, (devReport (wantSection (listSuspect t u) 3) 0x21 [u, cause]).hbm = t.hbm :=
    fun t => (devReport_hbm ..).trans (listSuspect_hbm t u)
  extract_lets v w i
  have kept : w.hbm = s.hbm := told ..
  clear_value w
  split
  · split
    · exact kept
    · exact kept
  · split
    · exact kept
    · exact kept
  · split
    · exact kept
    · exact kept
  · split
    · exact kept
    · exact kept
  · exact kept

theorem pcEvent_hbm (s : State) (c : CellarIx) (pc : Nat) : (pcEvent s c pc).hbm = s.hbm :=
  ite_keeps State.hbm (ite_keeps State.hbm (devReport_hbm ..) (orderFence_hbm ..)) rfl

theorem logTagFail_hbm (s : State) (c : CellarIx) (causes : List TagCause) (source block : Nat) : (logTagFail s c causes source block).hbm = s.hbm := by
  cases causes with
  | nil => rfl
  | cons first rest => rfl

theorem reportLost_hbm (s : State) (c : CellarIx) (b : Nat) : (reportLost s c b).hbm = s.hbm := by
  unfold reportLost
  dsimp only
  split
  · exact (hbm_of_still (still_partReport ..)).trans rfl
  · exact (devReport_hbm ..).trans rfl

theorem countG_hbm (s : State) (i k : Nat) : (countG s i k).hbm = s.hbm := rfl

theorem bump_hbm (s : State) : (bump s).hbm = s.hbm := rfl

theorem cured_hbm (s : State) (c : CellarIx) : (cured s c).hbm = s.hbm := rfl

theorem engineReadFails_hbm (s : State) (p : PartIx) (source b : Nat) (ks : List TagCause) : (engineReadFails s p source b ks).hbm = s.hbm :=
  (hbm_of_still ((still_failStep ..).trans (still_beginStop ..))).trans ((reportLost_hbm ..).trans
    ((ite_keeps State.hbm (pcEvent_hbm ..) rfl).trans (logTagFail_hbm ..)))

/-- What the activation of a binding stores in HBM3 is what the requests for the block of its constants store, whatever the read of the constants meets. -/
theorem activateOn_hbm {s : State} {p : PartIx} {e : BindingE} {t : TensorE} (h : tensorOf s p e.const = some t) (c : CellarIx) (k : Nat) :
    (activateOn s c p e k).hbm = (settleBlock s (cellarOf s (physAddr s p t.base / 4096)) (physAddr s p t.base / 4096)).hbm := by
  unfold activateOn
  rw [h]
  dsimp only
  generalize settleBlock s _ _ = u
  split
  · show State.hbm (ite _ _ _) = _
    exact optional_keeps State.hbm (cured_hbm ..) (countG_hbm ..)
  · exact (engineReadFails_hbm ..).trans ((bump_hbm _).trans (countG_hbm ..))

/-! ### A store that waits for the block of a binding's constants -/

/-- A partition in a step, with a binding whose constants lie in block 11. -/
def constPart : Machine.Part :=
  { Part.reset with
    step := .run
    image := some
      { magicOk := true, contract := 3, length := 4096, digestOk := true, digest := [], reads := [], seed := 7, lcores := []
        tensors := [⟨1, .scratch, 0, false, [16], 45056, 64, 0⟩], layers := [], barriers := [], programs := []
        bindings := [⟨1, 0, 0, 0, 0, [], 0, 0⟩], reductions := [], channels := [], ksplits := [] } }

/-- A cellar die on which that binding is active. -/
def boundCellar : Cellar := { Cellar.reset with upd := { Upd.reset with binds := [⟨0, 0, true, [], [], [], false, false⟩] } }

/-- A device of variant S whose last cellar die alone has the binding still to activate, and a store of one byte to the block of the constants before it;
a barrier token is on its way to sluice 0. -/
def storeWaits : State :=
  { State.reset with
    fuses := { Fuses.reset with m12 := true }
    parts := State.reset.parts.set 0 constPart
    toks := [(0, ⟨0, 0, .here 0, 0, 0⟩)]
    cellars := (Vector.replicate 12 boundCellar).set 11 { Cellar.reset with pieces := [⟨0, 0, 0, 0, 45056, false, false⟩] }
    reqs := [⟨0, .scalar 0 0, 0, 1, true, [(45056, 45056)], [1], [], [11], false⟩] }

/-- The device once the token is judged. -/
def tokenTaken : State :=
  wakePart (judgeToken { storeWaits with toks := [] } 0 ⟨0, 0, .here 0, 0, 0⟩) 0

theorem exec_storeWaits : exec (.localToken 0 0) storeWaits = .next (activate tokenTaken 0) := rfl

theorem activate_tokenTaken : activate tokenTaken 0 = activateOn tokenTaken 11 0 ⟨1, 0, 0, 0, 0, [], 0, 0⟩ 0 := rfl

theorem settle_tokenTaken : (settleBlock tokenTaken 11 11).hbm = [(45056, 1)] := rfl

/-- Refutes O30: an accepted token activates the bindings that waited for it, and a binding whose constants lie in a block with a store on its way lets
that store reach HBM3 first (R256, R277). -/
theorem not_localContributionsAndTokens : ¬ Obligations.LocalContributionsAndTokens := by
  unfold Obligations.LocalContributionsAndTokens
  rintro ⟨-, tokens⟩
  obtain ⟨t, run, -, -, -, -, kept, -⟩ := tokens storeWaits 0 0 ⟨0, 0, .here 0, 0, 0⟩ rfl rfl
  obtain rfl : activate tokenTaken 0 = t := Host.Outcome.next.inj (exec_storeWaits.symm.trans run)
  have stored : (activate tokenTaken 0).hbm = [(45056, 1)] := by
    rw [activate_tokenTaken]
    exact (activateOn_hbm (t := ⟨1, .scratch, 0, false, [16], 45056, 64, 0⟩) rfl 11 0).trans settle_tokenTaken
  rw [stored] at kept
  exact absurd kept (by decide)

end Sys2Proof.Machine
end

section
/-! What reports, frames and counters leave alone, what a read of the image, a history, a plan that is armed, halted or released and a transfer do to the
state, and the obligation on the plan commands (O48). -/

namespace Sys2Proof.Machine

/-! ### What reports, frames, packets and counters leave alone -/

/-- A state but for what reports, frames, trace packets and counters change: the queues of messages and frames, the record of what left, the trace, the
counters, the lists of suspect units, the sections that wait to be written, the reservation of numbers, the pending interrupts, the package's error
record, the time and the count of free values taken. -/
def quiet (s : State) : State :=
  { s with
    fab := State.reset.fab, pcie := State.reset.pcie, mgmt := State.reset.mgmt, sed := State.reset.sed, trc := State.reset.trc, cnt := State.reset.cnt
    pkg := State.reset.pkg, boot := { s.boot with wants := [], seqBase := 0, fmFloor := 0 }, rtime := 0, egress := [], freeIx := 0 }

variable {s t : State}

theorem quiet_fab (s : State) (x : Fab) : quiet { s with fab := x } = quiet s := rfl

theorem quiet_mgmt (s : State) (x : Mgmt) : quiet { s with mgmt := x } = quiet s := rfl

theorem quiet_trc (s : State) (x : Trc) : quiet { s with trc := x } = quiet s := rfl

theorem quiet_cnt (s : State) (x : CntBlk) : quiet { s with cnt := x } = quiet s := rfl

theorem quiet_modSed (s : State) (f : Sed → Sed) : quiet (modSed s f) = quiet s := rfl

theorem quiet_modPkg (s : State) (f : Pkg → Pkg) : quiet (modPkg s f) = quiet s := rfl

theorem quiet_modPort (s : State) (x : PortIx) (f : Port → Port) : quiet (modPort s x f) = quiet s := rfl

theorem quiet_modPortDie (s : State) (d : PortDieIx) (f : PortDie → PortDie) : quiet (modPortDie s d f) = quiet s := rfl

theorem quiet_countG (s : State) (i k : Nat) : quiet (countG s i k) = quiet s := quiet_cnt ..

theorem quiet_countP (s : State) (p : PartIx) (i k : Nat) : quiet (countP s p i k) = quiet s := quiet_cnt ..

theorem quiet_bump (s : State) : quiet (bump s) = quiet s := rfl

theorem quiet_look (s : State) : quiet (look s) = quiet s := rfl

theorem quiet_wantSection (s : State) (k : Nat) : quiet (wantSection s k) = quiet s := rfl

theorem quiet_setUnit (s : State) (u : Nat) (e : UnitE) : quiet (setUnit s u e) = quiet s := quiet_modSed ..

theorem quiet_modDigests (s : State) (p : PartIx) (f : Digests → Digests) : quiet (modDigests s p f) = quiet s := quiet_modSed ..

theorem quiet_accessError (s : State) (kind addr : Nat) : quiet (accessError s kind addr) = quiet s := quiet_modPkg ..

theorem quiet_emit (s : State) (o : Out) : quiet (emit s o) = quiet s := by rw [emit_frame]; rfl

theorem quiet_hostWrite (s : State) (p : PartIx) (off : Nat) (bs : List Byte) : quiet (hostWrite s p off bs) = quiet s :=
  (quiet_emit ..).trans (quiet_countG ..)

/-! Reports -/

theorem quiet_exhaustSeq (s : State) : quiet (exhaustSeq s) = quiet s := (quiet_mgmt ..).trans ((quiet_emit ..).trans (quiet_mgmt ..))

theorem quiet_reserveSeq (s : State) : quiet (reserveSeq s) = quiet s :=
  ite_keeps quiet rfl (ite_keeps quiet (quiet_wantSection ..) (ite_keeps quiet (quiet_exhaustSeq s) rfl))

theorem quiet_sendReport (s : State) (code part : Nat) (epoch : W32) (step : Word) (detail : List Nat) :
    quiet (sendReport s code part epoch step detail) = quiet s :=
  ite_keeps quiet ((quiet_emit ..).trans ((quiet_mgmt ..).trans (quiet_reserveSeq s)))
    ((quiet_emit ..).trans ((quiet_mgmt ..).trans ((quiet_modPortDie ..).trans (quiet_reserveSeq s))))

theorem quiet_partReport (s : State) (p : PartIx) (code : Nat) (detail : List Nat) : quiet (partReport s p code detail) = quiet s := quiet_sendReport ..

theorem quiet_devReport (s : State) (code : Nat) (detail : List Nat) : quiet (devReport s code detail) = quiet s := quiet_sendReport ..

/-- An interrupt is pending or leaves (R405). -/
theorem quiet_msix (s : State) (v : Nat) : quiet (msix s v) = quiet s := by
  unfold msix
  refine ite_keeps quiet rfl ?_
  split
  · exact ite_keeps quiet rfl (quiet_emit ..)
  · rfl

/-! Trace packets -/

theorem quiet_rawPacket (s : State) (type source aux : Nat) (words : List Nat) : quiet (rawPacket s type source aux words) = quiet s := quiet_emit ..

theorem quiet_leadPackets (s : State) : quiet (leadPackets s) = quiet s := by
  have first : quiet (if s.trc.first then { rawPacket s 0x01 0x7E 1 [s.rtime] with trc := { s.trc with first := false } } else s) = quiet s :=
    ite_keeps quiet ((quiet_trc ..).trans (quiet_rawPacket ..)) rfl
  exact ite_keeps quiet first ((quiet_rawPacket ..).trans ((quiet_trc ..).trans first))

theorem quiet_packetNow (s : State) (type source aux : Nat) (words : List Nat) : quiet (packetNow s type source aux words) = quiet s :=
  ite_keeps quiet ((quiet_rawPacket ..).trans (quiet_leadPackets s)) rfl

theorem quiet_packet (s : State) (type source aux : Nat) (words : List Nat) : quiet (packet s type source aux words) = quiet s :=
  ite_keeps quiet ((quiet_packetNow ..).trans (quiet_look s)) rfl

theorem quiet_lossyPacket (s : State) (k : Lossy) (type source aux : Nat) (words : List Nat) : quiet (lossyPacket s k type source aux words) = quiet s :=
  ite_keeps quiet rfl (ite_keeps quiet (quiet_trc ..) ((quiet_packet ..).trans (quiet_bump s)))

theorem quiet_traceEvent (s : State) (code detail : Nat) : quiet (traceEvent s code detail) = quiet s := ite_keeps quiet (quiet_lossyPacket ..) rfl

/-! Frames -/

theorem quiet_sendVlcredit (s : State) (f : PortIx) (key len : Nat) : quiet (sendVlcredit s f key len) = quiet s :=
  ite_keeps quiet (quiet_emit _ _) rfl

theorem quiet_freeIngress (s : State) (e : Egress) : quiet (freeIngress s e) = quiet s := by
  unfold freeIngress
  split
  · rfl
  · exact (quiet_sendVlcredit ..).trans (quiet_modPort ..)

theorem quiet_launch (s : State) (f : PortIx) (fr : Frame) : quiet (launch s f fr) = quiet s := by
  unfold launch
  refine (quiet_emit ..).trans ((quiet_modPort ..).trans (optional_keeps quiet ((quiet_emit ..).trans (quiet_modPort ..)) (ite_keeps quiet ?_
    (quiet_countG ..))))
  split
  · exact (quiet_countP ..).trans (quiet_countG ..)
  · exact quiet_countG ..

theorem quiet_pumpN (s : State) (f : PortIx) (fuel : Nat) : quiet (pumpN s f fuel) = quiet s := by
  induction fuel generalizing s with
  | zero => rfl
  | succ fuel ih =>
    unfold pumpN
    refine ite_keeps quiet rfl ?_
    split
    · rfl
    · exact (ih _).trans ((quiet_freeIngress ..).trans ((quiet_launch ..).trans (quiet_modPort ..)))

theorem quiet_enqueue (s : State) (f : PortIx) (fr : Frame) (origin : Option (PortIx × Nat)) : quiet (enqueue s f fr origin) = quiet s :=
  (quiet_pumpN ..).trans (quiet_modPort ..)

theorem quiet_numberFrame (s : State) (d : PortDieIx) (fr : Frame) : quiet (numberFrame s d fr).1 = quiet s := quiet_modPortDie ..

theorem quiet_sendFrame (s : State) (spart dpart dest vl : Nat) (b : FBody) : quiet (sendFrame s spart dpart dest vl b) = quiet s := by
  unfold sendFrame
  refine ite_keeps quiet (quiet_fab ..) ?_
  dsimp only
  split
  · exact (quiet_enqueue ..).trans (quiet_numberFrame ..)
  · exact quiet_modPortDie ..

theorem quiet_sendRank (s : State) (p : PartIx) (rank vl : Nat) (b : FBody) : quiet (sendRank s p rank vl b) = quiet s := quiet_sendFrame ..

theorem quiet_sendStep (s : State) (p : PartIx) (rank : Nat) (m : StepMsg) : quiet (sendStep s p rank m) = quiet s := quiet_sendRank ..

theorem quiet_sendTwin (s : State) (p : PartIx) (vl : Nat) (b : FBody) : quiet (sendTwin s p vl b) = quiet s := by
  unfold sendTwin
  split
  · rfl
  · exact (quiet_enqueue ..).trans (quiet_numberFrame ..)

/-! Suspect units and fences -/

theorem quiet_listSuspect (s : State) (u : Nat) : quiet (listSuspect s u) = quiet s := by
  unfold listSuspect
  refine ite_keeps quiet rfl ((quiet_setUnit ..).trans (ite_keeps quiet rfl ?_))
  dsimp only
  split
  · rfl
  · exact (quiet_modSed ..).trans (quiet_setUnit ..)

theorem quiet_markFenced (s : State) (u : Nat) : quiet (markFenced s u) = quiet s :=
  (quiet_devReport ..).trans ((quiet_traceEvent ..).trans ((quiet_wantSection ..).trans (quiet_setUnit ..)))

/-- The order to fence a unit that is neither array, lane, core nor update unit marks nothing but the unit's entry (R397). -/
theorem quiet_orderFence {u : Nat} (h : 0x5000 ≤ u) (s : State) (cause : Nat) : quiet (orderFence s u cause) = quiet s := by
  have kind : 5 ≤ unitKind u := by unfold unitKind; omega
  unfold orderFence
  refine ite_keeps quiet rfl ?_
  dsimp only
  have told : quiet (devReport (wantSection (listSuspect (setUnit s u { unitOf s u with st := .fenceOrdered, cause := cause }) u) 3) 0x21 [u, cause])
      = quiet s := (quiet_devReport ..).trans ((quiet_wantSection ..).trans ((quiet_listSuspect ..).trans (quiet_setUnit ..)))
  split
  · omega
  · omega
  · omega
  · omega
  · exact told

/-! ### A read of the image (R46) -/

/-- A state but for its cellar dies and what `quiet` leaves out. -/
def calm (s : State) : State := { quiet s with cellars := State.reset.cellars }

theorem calm_of_quiet (h : quiet t = quiet s) : calm t = calm s := congrArg (fun x => { x with cellars := State.reset.cellars }) h

theorem calm_modCellar (s : State) (c : CellarIx) (f : Cellar → Cellar) : calm (modCellar s c f) = calm s := rfl

theorem calm_orderPcFence (s : State) (c : CellarIx) (pc cause : Nat) : calm (orderPcFence s c pc cause) = calm s := by
  have unit : 0x5000 ≤ pcUnit c.val pc := by unfold pcUnit; omega
  exact ite_keeps calm ((calm_of_quiet (quiet_devReport ..)).trans (calm_modCellar ..))
    ((calm_of_quiet (quiet_orderFence unit ..)).trans (calm_modCellar ..))

theorem calm_pcEvent (s : State) (c : CellarIx) (pc : Nat) : calm (pcEvent s c pc) = calm s :=
  optional_keeps calm (calm_orderPcFence ..) (calm_of_quiet ((quiet_modSed ..).trans (quiet_look s)))

theorem calm_readEvents (s : State) (c : CellarIx) (block : Nat) (ks : List TagCause) : calm (readEvents s c block ks) = calm s :=
  ite_keeps calm (calm_pcEvent ..) rfl

theorem calm_logTagFail (s : State) (c : CellarIx) (causes : List TagCause) (source block : Nat) : calm (logTagFail s c causes source block) = calm s := by
  cases causes with
  | nil => rfl
  | cons first rest => exact calm_modCellar ..

theorem calm_cured (s : State) (c : CellarIx) : calm (cured s c) = calm s := (calm_modCellar ..).trans (calm_of_quiet (quiet_countG ..))

/-- The blocks of the image that are read without a fault. -/
theorem calm_readBlocks (l : List Nat) (reads : List ReadErr) (b : Nat) (s : State) :
    calm (each l s (fun s j =>
      let s := countG s 3 4096
      if reads.getD j .ok = .cured then cured s (cellarOf s (b + j)) else s)) = calm s :=
  each_keeps calm (fun s _ => optional_keeps calm (calm_cured ..) (calm_of_quiet (quiet_countG s 3 4096))) l s

theorem calm_imageRead (s : State) (p : PartIx) (reads : List ReadErr) (off len : Nat) : calm (imageRead s p reads off len) = calm s := by
  unfold imageRead
  extract_lets b n fails upTo u
  have read : calm u = calm s := calm_readBlocks ..
  clear_value u fails
  split
  · exact (calm_readEvents ..).trans ((calm_logTagFail ..).trans ((calm_of_quiet (quiet_countG ..)).trans read))
  · exact read

/-! The record of the first failed tag check -/

/-- A cellar die whose record of the first failed tag check a change leaves alone. -/
theorem modCellar_tagLog {f : Cellar → Cellar} (hf : ∀ x, (f x).tagLog = x.tagLog) (s : State) (c d : CellarIx) :
    ((modCellar s c f).cellars[d]).tagLog = (s.cellars[d]).tagLog := by
  by_cases h : d = c
  · subst h; rw [modCellar_self]; exact hf _
  · rw [modCellar_ne s c f d h]

theorem cellars_of_quiet (h : quiet t = quiet s) : t.cellars = s.cellars :=
  show (quiet t).cellars = (quiet s).cellars from congrArg State.cellars h

theorem tagLog_of_quiet (h : quiet t = quiet s) (d : CellarIx) : (t.cellars[d]).tagLog = (s.cellars[d]).tagLog := by rw [cellars_of_quiet h]

theorem readEvents_tagLog (s : State) (c : CellarIx) (block : Nat) (ks : List TagCause) (d : CellarIx) :
    ((readEvents s c block ks).cellars[d]).tagLog = (s.cellars[d]).tagLog := by
  have unit : ∀ pc, 0x5000 ≤ pcUnit c.val pc := fun pc => by unfold pcUnit; omega
  refine ite_keeps (fun s => (s.cellars[d]).tagLog) (optional_keeps (fun s => (s.cellars[d]).tagLog)
      (ite_keeps (fun s => (s.cellars[d]).tagLog) ?_ ?_) rfl) rfl
  · refine (tagLog_of_quiet (quiet_devReport ..) d).trans (modCellar_tagLog ?_ ..)
    exact fun _ => rfl
  · refine (tagLog_of_quiet (quiet_orderFence (unit _) ..) d).trans (modCellar_tagLog ?_ ..)
    exact fun _ => rfl

/-- A failed check leaves a record, its own or an earlier one (R252). -/
theorem logTagFail_valid {ks : List TagCause} (h : ks ≠ []) (s : State) (c : CellarIx) (source block : Nat) :
    (((logTagFail s c ks source block).cellars[c]).tagLog).valid = true := by
  cases ks with
  | nil => exact absurd rfl h
  | cons first rest =>
    unfold logTagFail
    rw [modCellar_self]
    by_cases hv : (s.cellars[c]).tagLog.valid = true
    · rw [if_pos hv]; exact hv
    · rw [if_neg hv]

theorem imageFault_ne_nil {p : PartIx} {reads : List ReadErr} {off len b : Nat} {ks : List TagCause} (h : imageFault s p reads off len = some (b, ks)) :
    ks ≠ [] := by
  obtain ⟨j, -, hj⟩ := List.exists_of_findSome?_eq_some h
  split at hj
  · exact absurd hj nofun
  · next hks =>
    obtain ⟨-, rfl⟩ := Prod.mk.inj (Option.some.inj hj)
    exact hks

theorem fuses_of_calm (h : calm t = calm s) : t.fuses = s.fuses := show (calm t).fuses = (calm s).fuses from congrArg State.fuses h

theorem cellarOf_of_fuses (h : t.fuses = s.fuses) (b : Nat) : cellarOf t b = cellarOf s b := by
  unfold cellarOf nStacks
  simp only [h]

theorem imageRead_tagLog {p : PartIx} {reads : List ReadErr} {off len b : Nat} {ks : List TagCause} (h : imageFault s p reads off len = some (b, ks)) :
    (((imageRead s p reads off len).cellars[cellarOf s b]).tagLog).valid = true := by
  unfold imageRead
  rw [h]
  extract_lets b0 n fails upTo u
  have read : calm u = calm s := calm_readBlocks ..
  clear_value u
  show ((State.cellars (readEvents _ _ _ _))[cellarOf s b]).tagLog.valid = true
  rw [readEvents_tagLog, ← cellarOf_of_fuses (fuses_of_calm read) b]
  exact logTagFail_valid (imageFault_ne_nil h) ..

/-! ### Histories in the SRAM of the cellar dies (R128) -/

/-- A run outside the places written reads as before. -/
theorem tgetMany_tsetMany_out (d : Byte) (tb : Tbl Byte) (i j n : Nat) (as : List Byte) (h : j + n ≤ i ∨ i + as.length ≤ j) :
    tgetMany d (tsetMany d tb i as) j n = tgetMany d tb j n := by
  induction n generalizing j with
  | zero => rfl
  | succ n ih => rw [tgetMany, tgetMany, ih _ (by omega), tget_tsetMany_out _ _ _ _ _ (by omega)]

/-- The SRAM of a cellar die once that of one has changed. -/
theorem modCellar_sram (s : State) (c d : CellarIx) (f : Tbl Byte → Tbl Byte) :
    ((modCellar s d (fun x => { x with sram := f x.sram })).cellars[c]).sram = if c = d then f (s.cellars[c]).sram else (s.cellars[c]).sram := by
  split
  · next h => subst h; rw [modCellar_self]
  · next h => rw [modCellar_ne _ _ _ _ h]

theorem length_histBytes (v : HistE) : (histBytes v).length = 8 := length_leBytes ..

/-- An entry of a history in SRAM reads as its die holds it. -/
theorem getHist_sram {h : HistAt} {e : Nat} (hp : h.place = .sram e) (s : State) (p : PartIx) (k : Nat) :
    getHist s p h k = parseHist (tgetMany 0 (s.cellars[h.die]).sram (histRegion + 8 * (e + k)) 8) := by
  unfold getHist
  rw [hp]

theorem putHist_sram {h : HistAt} {e : Nat} (hp : h.place = .sram e) (s : State) (p : PartIx) (k : Nat) (v : HistE) :
    putHist s p h k v = modCellar s h.die (fun x => { x with sram := tsetMany 0 x.sram (histRegion + 8 * (e + k)) (histBytes v) }) := by
  unfold putHist
  rw [hp]

/-- An entry in HBM3 is no entry in SRAM. -/
theorem putHist_reserved {h : HistAt} {o : Nat} (hp : h.place = .reserved o) (s : State) (p : PartIx) (k : Nat) (v : HistE) :
    (putHist s p h k v).cellars = s.cellars := by
  unfold putHist
  rw [hp]
  rfl

theorem parseHist_empty : parseHist (histBytes HistE.empty) = HistE.empty := by decide

/-- An entry that is written empty reads empty. -/
theorem getHist_putHist_self {h : HistAt} {e : Nat} (hp : h.place = .sram e) (s : State) (p q : PartIx) (k : Nat) :
    getHist (putHist s q h k HistE.empty) p h k = HistE.empty := by
  rw [getHist_sram hp, putHist_sram hp, modCellar_self]
  have back := tgetMany_tsetMany 0 (s.cellars[h.die]).sram (histRegion + 8 * (e + k)) (histBytes HistE.empty)
  rw [length_histBytes] at back
  exact (congrArg parseHist back).trans parseHist_empty

/-- A write to another place of SRAM leaves an entry alone. -/
theorem getHist_putHist_ne {g h : HistAt} {e b : Nat} (hp : h.place = .sram e) (gp : g.place = .sram b) {k j : Nat} (away : h.die ≠ g.die ∨ e + k ≠ b + j)
    (s : State) (p q : PartIx) (v : HistE) : getHist (putHist s q g j v) p h k = getHist s p h k := by
  rw [getHist_sram hp, getHist_sram hp, putHist_sram gp,
    modCellar_sram s h.die g.die (fun m => tsetMany 0 m (histRegion + 8 * (b + j)) (histBytes v))]
  split
  · next hd =>
    have entry : e + k ≠ b + j := away.resolve_left (fun n => n hd)
    refine congrArg parseHist (tgetMany_tsetMany_out _ _ _ _ _ _ ?_)
    rw [length_histBytes]
    omega
  · rfl

/-- All entries of a history in SRAM read empty. -/
def BlankHist (s : State) (p : PartIx) (h : HistAt) : Prop := ∀ k, k < h.len → getHist s p h k = HistE.empty

/-- What decides the entries of a history in SRAM is the SRAM of its die. -/
theorem BlankHist.of_cellars {s u : State} {p : PartIx} {h : HistAt} {e : Nat} (hb : BlankHist s p h) (hp : h.place = .sram e)
    (hc : u.cellars = s.cellars) : BlankHist u p h := by
  intro k hk
  rw [getHist_sram hp, hc, ← getHist_sram hp]
  exact hb k hk

/-- Does a history stay clear of the entries from `b` on of a die? -/
def Clear (h : HistAt) (e : Nat) (die : CellarIx) (b : Nat) : Prop := h.die ≠ die ∨ e + h.len ≤ b

/-- Writes to a later place of SRAM leave an empty history empty. -/
theorem BlankHist.puts {s : State} {p q : PartIx} {g h : HistAt} {e b : Nat} (hb : BlankHist s p h) (hp : h.place = .sram e) (gp : g.place = .sram b)
    (away : Clear h e g.die b) (l : List (Nat × HistE)) : BlankHist (each l s (fun s x => putHist s q g x.1 x.2)) p h := by
  induction l generalizing s with
  | nil => exact hb
  | cons x l ih =>
    refine ih (s := putHist s q g x.1 x.2) fun k hk => (getHist_putHist_ne hp gp ?_ ..).trans (hb k hk)
    exact away.imp_right (fun _ => by omega)

/-- Writes of empty entries leave empty what was empty, and what they reach. -/
theorem getHist_puts {g : HistAt} {b : Nat} (gp : g.place = .sram b) (p q : PartIx) (k : Nat) (l : List Nat) (s : State)
    (h : getHist s p g k = HistE.empty ∨ k ∈ l) : getHist (each l s (fun s j => putHist s q g j HistE.empty)) p g k = HistE.empty := by
  induction l generalizing s with
  | nil => exact h.resolve_right nofun
  | cons j l ih =>
    refine ih (putHist s q g j HistE.empty) ?_
    by_cases hj : k = j
    · subst hj; exact .inl (getHist_putHist_self gp ..)
    · rcases h with h | h
      · exact .inl ((getHist_putHist_ne gp gp (.inr (by omega)) ..).trans h)
      · exact .inr ((List.mem_cons.1 h).resolve_left hj)

/-- A history in SRAM whose entries have all been written empty. -/
theorem blankHist_puts {g : HistAt} {b : Nat} (gp : g.place = .sram b) (s : State) (p q : PartIx) :
    BlankHist (each (List.range g.len) s (fun s j => putHist s q g j HistE.empty)) p g :=
  fun k hk => getHist_puts gp p q k _ s (.inr (List.mem_range.2 hk))

/-- Every history of a partition in SRAM reads empty. -/
def BlankHists (s : State) (p : PartIx) : Prop := ∀ h ∈ (s.parts[p]).hists, ∀ e, h.place = .sram e → BlankHist s p h

/-! Making room for a history -/

/-- The histories in the SRAM of a die, with their partitions and their entries. -/
def histsOn (s : State) (c : CellarIx) : List (PartIx × HistAt × List (Nat × HistE)) :=
  (ixs 8).flatMap (fun p => (s.parts[p]).hists.filterMap (fun h =>
    match h.place with
    | .sram _ => if h.die = c then some (p, h, (List.range h.len).map (fun k => (k, getHist s p h k))) else none
    | .reserved _ => none))

/-- A history moves to the next free place of its die. -/
def packHist (u : State × Nat) (x : PartIx × HistAt × List (Nat × HistE)) : State × Nat :=
  let g : HistAt := { x.2.1 with place := .sram u.2 }
  let s := modPart u.1 x.1 (fun q => { q with hists := q.hists.map (fun y => if y.id = g.id then g else y) })
  (each x.2.2 s (fun s e => putHist s x.1 g e.1 e.2), u.2 + g.len)

theorem packHists_eq (s : State) (c : CellarIx) : packHists s c = ((histsOn s c).foldl packHist (s, 0)).1 := rfl

theorem mem_histsOn {s : State} {c : CellarIx} {x : PartIx × HistAt × List (Nat × HistE)} : x ∈ histsOn s c
    ↔ x.2.1 ∈ (s.parts[x.1]).hists ∧ (∃ e, x.2.1.place = .sram e) ∧ x.2.1.die = c ∧ x.2.2 = (List.range x.2.1.len).map (fun k =>
        (k, getHist s x.1 x.2.1 k)) := by
  unfold histsOn
  obtain ⟨p, h, ws⟩ := x
  simp only [List.mem_flatMap, List.mem_filterMap]
  constructor
  · rintro ⟨q, -, y, hy, heq⟩
    split at heq
    · next e he =>
      split at heq
      · next hd =>
        obtain ⟨rfl, hr⟩ := Prod.mk.inj (Option.some.inj heq)
        obtain ⟨rfl, rfl⟩ := Prod.mk.inj hr
        exact ⟨hy, ⟨e, he⟩, hd, rfl⟩
      · exact absurd heq nofun
    · exact absurd heq nofun
  · rintro ⟨hy, ⟨e, he⟩, hd, rfl⟩
    refine ⟨p, List.mem_finRange p, h, hy, ?_⟩
    rw [he]
    exact if_pos hd

/-- While the histories of a die are packed: those of the partition that have moved, and those on other dies, read empty; the others wait to move. -/
structure Packing (p : PartIx) (c : CellarIx) (rest : List (PartIx × HistAt × List (Nat × HistE))) (u : State × Nat) : Prop where
  elsewhere : ∀ h ∈ (u.1.parts[p]).hists, ∀ e, h.place = .sram e → h.die ≠ c → BlankHist u.1 p h
  moved : ∀ h ∈ (u.1.parts[p]).hists, ∀ e, h.place = .sram e → h.die = c → (∃ ws, (p, h, ws) ∈ rest) ∨ e + h.len ≤ u.2 ∧ BlankHist u.1 p h

theorem each_puts_parts (l : List (Nat × HistE)) (s : State) (q : PartIx) (g : HistAt) : (each l s (fun s e => putHist s q g e.1 e.2)).parts = s.parts :=
  each_keeps State.parts (fun s e => by unfold putHist; split <;> rfl) l s

/-- The histories of a partition once one of a partition has moved. -/
theorem packHist_hists (u : State × Nat) (x : PartIx × HistAt × List (Nat × HistE)) (p : PartIx) : ((packHist u x).1.parts[p]).hists
    = if p = x.1 then (u.1.parts[p]).hists.map (fun y => if y.id = x.2.1.id then { x.2.1 with place := .sram u.2 } else y) else (u.1.parts[p]).hists := by
  unfold packHist
  simp only [each_puts_parts]
  by_cases h : p = x.1
  · rw [if_pos h, h, modPart_self]
  · rw [if_neg h, modPart_ne _ _ _ _ h]

/-- One history moves: it stays empty if it was, and so do those that have moved before it. -/
theorem Packing.step {p : PartIx} {c : CellarIx} {x : PartIx × HistAt × List (Nat × HistE)} {rest : List (PartIx × HistAt × List (Nat × HistE))}
    {u : State × Nat} (hu : Packing p c (x :: rest) u) (hc : x.2.1.die = c)
    (hx : x.1 = p → x.2.2 = (List.range x.2.1.len).map (fun k => (k, HistE.empty))) : Packing p c rest (packHist u x) := by
  obtain ⟨q, g, ws⟩ := x
  obtain ⟨v, off⟩ := u
  let g' : HistAt := { g with place := .sram off }
  let v' := modPart v q (fun q => { q with hists := q.hists.map (fun y => if y.id = g'.id then g' else y) })
  have kept : ∀ h e, h.place = .sram e → Clear h e c off → BlankHist v p h → BlankHist (packHist (v, off) (q, g, ws)).1 p h :=
    fun h e hp away hb => BlankHist.puts (s := v') (g := g') (hb.of_cellars hp rfl) hp rfl (hc ▸ away) ws
  have blank : q = p → BlankHist (packHist (v, off) (q, g, ws)).1 p g' := by
    intro hq
    have all : each ws v' (fun s e => putHist s q g' e.1 e.2) = each (List.range g.len) v' (fun s j => putHist s q g' j HistE.empty) := by
      rw [show ws = _ from hx hq]
      exact List.foldl_map
    show BlankHist (each ws v' (fun s e => putHist s q g' e.1 e.2)) p g'
    rw [all]
    exact blankHist_puts (g := g') rfl v' p q
  constructor
  · intro h hh e hp hd
    rw [packHist_hists] at hh
    have old : h ∈ (v.parts[p]).hists := by
      split at hh
      · obtain ⟨y, hy, rfl⟩ := List.mem_map.1 hh
        split at hd
        · exact absurd hc hd
        · next hn => rw [if_neg hn]; exact hy
      · exact hh
    exact kept h e hp (.inl hd) (hu.elsewhere h old e hp hd)
  · intro h hh e hp hd
    have stays : h ∈ (v.parts[p]).hists → (p, h, ws) ≠ (q, g, ws) →
        (∃ ws, (p, h, ws) ∈ rest) ∨ e + h.len ≤ off + g.len ∧ BlankHist (packHist (v, off) (q, g, ws)).1 p h := by
      intro old hne
      rcases hu.moved h old e hp hd with ⟨ws', hm⟩ | ⟨hle, hb⟩
      · rcases List.mem_cons.1 hm with heq | hm
        · obtain ⟨rfl, hr⟩ := Prod.mk.inj heq
          exact absurd (by rw [(Prod.mk.inj hr).1]) hne
        · exact .inl ⟨ws', hm⟩
      · exact .inr ⟨by omega, kept h e hp (.inr hle) hb⟩
    rw [packHist_hists] at hh
    split at hh
    · next hq =>
      obtain ⟨y, hy, rfl⟩ := List.mem_map.1 hh
      by_cases hi : y.id = g.id
      · simp only [if_pos hi] at hp hd ⊢
        obtain rfl : off = e := HistPlace.sram.inj hp
        exact .inr ⟨le_refl _, blank hq.symm⟩
      · simp only [if_neg hi] at hp hd stays ⊢
        exact stays hy (fun heq => hi (by rw [(Prod.mk.inj (Prod.mk.inj heq).2).1]))
    · next hq => exact stays hh (fun heq => hq (Prod.mk.inj heq).1)

/-- The histories of a partition that read empty read empty once those of a die are packed. -/
theorem blankHists_packHists {s : State} {p : PartIx} (h : BlankHists s p) (c : CellarIx) : BlankHists (packHists s c) p := by
  have moves : ∀ (l : List (PartIx × HistAt × List (Nat × HistE))) (u : State × Nat), (∀ x ∈ l, x.2.1.die = c) →
      (∀ x ∈ l, x.1 = p → x.2.2 = (List.range x.2.1.len).map (fun k => (k, HistE.empty))) → Packing p c l u → Packing p c [] (l.foldl packHist u) := by
    intro l
    induction l with
    | nil => exact fun u _ _ hu => hu
    | cons x l ih =>
      intro u hd hx hu
      exact ih _ (fun y hy => hd y (List.mem_cons_of_mem _ hy)) (fun y hy => hx y (List.mem_cons_of_mem _ hy))
        (hu.step (hd x List.mem_cons_self) (hx x List.mem_cons_self))
  have packed := moves (histsOn s c) (s, 0) (fun x hx => (mem_histsOn.1 hx).2.2.1) ?_ ⟨fun y hy e hp _ => h y hy e hp, ?_⟩
  · rw [packHists_eq]
    intro y hy e hp
    by_cases hd : y.die = c
    · rcases packed.moved y hy e hp hd with ⟨ws, hm⟩ | ⟨-, hb⟩
      · exact absurd hm List.not_mem_nil
      · exact hb
    · exact packed.elsewhere y hy e hp hd
  · rintro ⟨q, y, ws⟩ hm rfl
    obtain ⟨hy, ⟨e, hp⟩, -, hws⟩ := mem_histsOn.1 hm
    refine hws.trans (List.map_congr_left fun k hk => ?_)
    rw [h y hy e hp k (List.mem_range.1 hk)]
  · exact fun y hy e hp hd => .inl ⟨(List.range y.len).map (fun k => (k, getHist s p y k)), mem_histsOn.2 ⟨hy, ⟨e, hp⟩, hd, rfl⟩⟩

/-! Creating the histories of an image -/

theorem le_foldl_max {x : Nat} {l : List Nat} (h : x ∈ l) (a : Nat) : x ≤ l.foldl max a := by
  have grows : ∀ (l : List Nat) (a : Nat), a ≤ l.foldl max a := by
    intro l
    induction l with
    | nil => exact fun a => le_refl a
    | cons y l ih => exact fun a => (le_max_left a y).trans (ih _)
  induction l generalizing a with
  | nil => exact absurd h List.not_mem_nil
  | cons y l ih =>
    rcases List.mem_cons.1 h with rfl | h
    · exact (le_max_right a x).trans (grows l _)
    · exact ih h _

/-- No history in SRAM reaches beyond what its die counts as used. -/
theorem le_histUsed {s : State} {p : PartIx} {h : HistAt} {e : Nat} (hh : h ∈ (s.parts[p]).hists) (hp : h.place = .sram e) :
    e + h.len ≤ histUsed s h.die := by
  refine le_foldl_max (List.mem_flatMap.2 ⟨p, List.mem_finRange p, List.mem_map.2 ⟨h, hh, ?_⟩⟩) 0
  rw [hp]
  exact if_pos rfl

theorem puts_reserved {g : HistAt} {o : Nat} (hp : g.place = .reserved o) (l : List (Nat × HistE)) (s : State) (q : PartIx) :
    (each l s (fun s x => putHist s q g x.1 x.2)).cellars = s.cellars := by
  induction l generalizing s with
  | nil => rfl
  | cons x l ih => exact (ih (putHist s q g x.1 x.2)).trans (putHist_reserved hp ..)

theorem each_putEmpty (l : List Nat) (s : State) (q : PartIx) (g : HistAt) : each l s (fun s k => putHist s q g k HistE.empty)
    = each (l.map (fun k => (k, HistE.empty))) s (fun s x => putHist s q g x.1 x.2) := by
  unfold each
  rw [List.foldl_map]

/-- The history of one tensor comes into being with all its entries invalid. -/
def createHist (p : PartIx) (s : State) (t : TensorE) : State :=
  let n := (scaleW t.scale).h
  let s := makeRoom s (histDie s p t) n
  let h : HistAt := ⟨t.id, histDie s p t, n, histPlace s p (histDie s p t) n⟩
  let s := modPart s p (fun q => { q with hists := q.hists ++ [h] })
  each (List.range n) s (fun s k => putHist s p h k HistE.empty)

theorem createHists_eq (s : State) (p : PartIx) (im : Image) :
    createHists s p im = each (im.tensors.filter hasHistory) (modPart s p (fun q => { q with hists := [] })) (createHist p) := rfl

theorem putEmpty_parts (l : List Nat) (s : State) (q : PartIx) (g : HistAt) : (each l s (fun s k => putHist s q g k HistE.empty)).parts = s.parts :=
  each_keeps State.parts (fun s e => by unfold putHist; split <;> rfl) l s

theorem blankHists_makeRoom {s : State} {p : PartIx} (h : BlankHists s p) (c : CellarIx) (n : Nat) : BlankHists (makeRoom s c n) p := by
  unfold makeRoom
  split
  · exact h
  · exact blankHists_packHists h c

theorem blankHists_createHist {s : State} {p : PartIx} (h : BlankHists s p) (t : TensorE) : BlankHists (createHist p s t) p := by
  unfold createHist
  extract_lets n u g v
  have room : BlankHists u p := blankHists_makeRoom h _ _
  intro y hy e hp
  rw [putEmpty_parts, show (v.parts[p]).hists = (u.parts[p]).hists ++ [g] from congrArg Part.hists (modPart_self ..)] at hy
  rcases List.mem_append.1 hy with hy | hy
  · have old : BlankHist v p y := (room y hy e hp).of_cellars hp rfl
    rw [each_putEmpty]
    generalize (List.range n).map (fun k => (k, HistE.empty)) = l
    rcases hg : g.place with b | o
    · refine old.puts (g := g) hp hg ?_ l
      show Clear y e g.die b
      by_cases hd : y.die = g.die
      · have below := le_histUsed hy hp
        have place : histPlace u p g.die g.len = .sram b := hg
        unfold histPlace at place
        split at place
        · obtain rfl := HistPlace.sram.inj place
          exact .inr (hd ▸ below)
        · exact absurd place nofun
      · exact .inl hd
    · exact old.of_cellars hp (puts_reserved hg l v p)
  · obtain rfl := List.mem_singleton.1 hy
    exact blankHist_puts hp v p p

theorem packHists_ids (s : State) (c : CellarIx) (p : PartIx) : ((packHists s c).parts[p]).hists.map (·.id) = (s.parts[p]).hists.map (·.id) := by
  have step : ∀ u x, ((packHist u x).1.parts[p]).hists.map (·.id) = (u.1.parts[p]).hists.map (·.id) := by
    intro u x
    rw [packHist_hists]
    split
    · rw [List.map_map]
      refine List.map_congr_left fun y _ => ?_
      simp only [Function.comp_apply]
      split
      · next h => exact h.symm
      · rfl
    · rfl
  rw [packHists_eq]
  exact foldl_keeps (fun u : State × Nat => (u.1.parts[p]).hists.map (·.id)) step _ (s, 0)

theorem createHist_ids (s : State) (p : PartIx) (t : TensorE) :
    ((createHist p s t).parts[p]).hists.map (·.id) = (s.parts[p]).hists.map (·.id) ++ [t.id] := by
  unfold createHist
  extract_lets n u g v
  have room : (u.parts[p]).hists.map (·.id) = (s.parts[p]).hists.map (·.id) := by
    show ((makeRoom s _ n).parts[p]).hists.map (·.id) = _
    unfold makeRoom
    split
    · rfl
    · exact packHists_ids ..
  rw [putEmpty_parts, show (v.parts[p]).hists = (u.parts[p]).hists ++ [g] from congrArg Part.hists (modPart_self ..), List.map_append, room]
  rfl

/-- What a change of a partition's record leaves alone, of that partition and of every other. -/
theorem modPart_view {β : Type} (view : Machine.Part → β) {f : Machine.Part → Machine.Part} (hf : ∀ q, view (f q) = view q) (s : State) (p q : PartIx) :
    view (modPart s q f).parts[p] = view s.parts[p] := by
  by_cases h : p = q
  · rw [h, modPart_self]; exact hf _
  · rw [modPart_ne _ _ _ _ h]

/-- What the histories do not touch: the cores, and of a partition the plan's state, its image, and whether it ran a step. -/
def planLeft (p : PartIx) (s : State) : Vector Core 40 × PlanSt × Option Image × Bool :=
  (s.cores, (s.parts[p]).st, (s.parts[p]).image, (s.parts[p]).ranStep)

theorem planLeft_putHist (p : PartIx) (s : State) (q : PartIx) (h : HistAt) (k : Nat) (v : HistE) : planLeft p (putHist s q h k v) = planLeft p s := by
  unfold putHist
  split
  · rfl
  · rfl

theorem planLeft_setHists (p : PartIx) (s : State) (q : PartIx) (f : List HistAt → List HistAt) :
    planLeft p (modPart s q (fun x => { x with hists := f x.hists })) = planLeft p s :=
  Prod.ext rfl (modPart_view (fun x => (x.st, x.image, x.ranStep)) (f := fun x => { x with hists := f x.hists }) (fun _ => rfl) s p q)

theorem planLeft_packHists (p : PartIx) (s : State) (c : CellarIx) : planLeft p (packHists s c) = planLeft p s := by
  rw [packHists_eq]
  refine foldl_keeps (fun u : State × Nat => planLeft p u.1) (fun u x => ?_) _ (s, 0)
  exact (each_keeps (planLeft p) (fun s e => planLeft_putHist p s ..) ..).trans (planLeft_setHists p u.1 x.1 _)

theorem planLeft_createHist (p : PartIx) (s : State) (t : TensorE) : planLeft p (createHist p s t) = planLeft p s := by
  refine (each_keeps (planLeft p) (fun s e => planLeft_putHist p s ..) ..).trans ((planLeft_setHists p _ p (· ++ _)).trans ?_)
  exact ite_keeps (planLeft p) rfl (planLeft_packHists ..)

theorem planLeft_createHists (s : State) (p : PartIx) (im : Image) : planLeft p (createHists s p im) = planLeft p s :=
  (each_keeps (planLeft p) (planLeft_createHist p) ..).trans (planLeft_setHists p s p (fun _ => []))

/-- The histories of an image are those of its tensors that keep one, in their order, and all entries in SRAM are invalid (R128). -/
theorem createHists_hists (s : State) (p : PartIx) (im : Image) :
    ((createHists s p im).parts[p]).hists.map (·.id) = (im.tensors.filter hasHistory).map (·.id) ∧ BlankHists (createHists s p im) p := by
  have grow : ∀ (l : List TensorE) (u : State), BlankHists u p →
      ((each l u (createHist p)).parts[p]).hists.map (·.id) = (u.parts[p]).hists.map (·.id) ++ l.map (·.id) ∧ BlankHists (each l u (createHist p)) p := by
    intro l
    induction l with
    | nil => exact fun u hu => ⟨(List.append_nil _).symm, hu⟩
    | cons t l ih =>
      intro u hu
      obtain ⟨ids, blank⟩ := ih (createHist p u t) (blankHists_createHist hu t)
      refine ⟨ids.trans ?_, blank⟩
      rw [createHist_ids, List.append_assoc]
      rfl
  have none : ((modPart s p (fun q => { q with hists := [] })).parts[p]).hists = [] := congrArg Part.hists (modPart_self ..)
  rw [createHists_eq]
  obtain ⟨ids, blank⟩ := grow (im.tensors.filter hasHistory) (modPart s p (fun q => { q with hists := [] }))
      (fun h hh => by rw [none] at hh; exact absurd hh List.not_mem_nil)
  rw [none] at ids
  exact ⟨ids, blank⟩

/-! ### LOAD_PLAN (R46, R47) -/

theorem check_ne_zero {k a b : Nat} (hk : k ≠ 0) {r : Option Nat} {rest : Option (Nat × Nat)} (hr : rest = some (a, b) → a ≠ 0) :
    (match r with | some i => some (k, i) | none => rest) = some (a, b) → a ≠ 0 := by
  cases r with
  | none => exact hr
  | some i => exact fun h => (Prod.mk.inj (Option.some.inj h)).1 ▸ hk

/-- The load checks are numbered from 1 (table PC-7). -/
theorem loadCheck_ne_zero {p : PartIx} {im : Image} {off len k i : Nat} (h : loadCheck s p im off len = some (k, i)) : k ≠ 0 := by
  revert h
  exact check_ne_zero (by decide) <| check_ne_zero (by decide) <| check_ne_zero (by decide) <| check_ne_zero (by decide) <| check_ne_zero (by decide) <|
    check_ne_zero (by decide) <| check_ne_zero (by decide) <| check_ne_zero (by decide) <| check_ne_zero (by decide) <| check_ne_zero (by decide) <|
    check_ne_zero (by decide) <| check_ne_zero (by decide) <| check_ne_zero (by decide) <| check_ne_zero (by decide) <| check_ne_zero (by decide) <|
    check_ne_zero (by decide) <| check_ne_zero (by decide) <| check_ne_zero (by decide) nofun

theorem cores_of_quiet (h : quiet t = quiet s) : t.cores = s.cores := show (quiet t).cores = (quiet s).cores from congrArg State.cores h

theorem parts_of_quiet (h : quiet t = quiet s) : t.parts = s.parts := show (quiet t).parts = (quiet s).parts from congrArg State.parts h

theorem hbm_of_quiet (h : quiet t = quiet s) : t.hbm = s.hbm := show (quiet t).hbm = (quiet s).hbm from congrArg State.hbm h

theorem cores_of_calm (h : calm t = calm s) : t.cores = s.cores := show (calm t).cores = (calm s).cores from congrArg State.cores h

theorem parts_of_calm (h : calm t = calm s) : t.parts = s.parts := show (calm t).parts = (calm s).parts from congrArg State.parts h

theorem hbm_of_calm (h : calm t = calm s) : t.hbm = s.hbm := show (calm t).hbm = (calm s).hbm from congrArg State.hbm h

variable {c : Cmd} {p : PartIx} {im : Image}

theorem loadPlan_wrongState (h : RunsCmd s 2 c) (hp : partOfCmd s c = some p) (hs : (s.parts[p]).st ≠ .empty) : Ends (exec (.loadPlan im) s) s 4 [] := by
  show Ends (execLoadPlan im s) s 4 []
  unfold execLoadPlan
  exact runPartCmd_ends h hp (if_pos hs)

/-- A failed load check leaves what the reads of the image left: nothing for the format checks. -/
theorem loadPlan_failed (h : RunsCmd s 2 c) (hp : partOfCmd s c = some p) (hs : (s.parts[p]).st = .empty) {k i : Nat}
    (hc : loadCheck s p im (argOf c 0) (argOf c 1) = some (k, i)) :
    Ends (exec (.loadPlan im) s) (if k ≤ 1 then s else imageRead s p im.reads (argOf c 0) (argOf c 1)) (0x1000 + k) [k, i] := by
  show Ends (execLoadPlan im s) _ _ _
  unfold execLoadPlan
  refine runPartCmd_ends h hp ((if_neg (not_not_intro hs)).trans ?_)
  rw [hc]

/-- The plan that LOAD_PLAN leaves, without its histories. -/
def planLoaded (s : State) (p : PartIx) (im : Image) (off len : Nat) : State :=
  modPart (setPlan (imageRead s p im.reads off len) p .loaded) p (fun q =>
    { q with image := some im, shadowRec := [], exps := [], bind := [], ranStep := false, haltCause := 0, ckp := { q.ckp with restored := false } })

theorem loadPlan_passed (h : RunsCmd s 2 c) (hp : partOfCmd s c = some p) (hs : (s.parts[p]).st = .empty)
    (hc : loadCheck s p im (argOf c 0) (argOf c 1) = none) :
    Ends (exec (.loadPlan im) s) (createHists (planLoaded s p im (argOf c 0) (argOf c 1)) p im) 0 [0] := by
  show Ends (execLoadPlan im s) _ _ _
  unfold execLoadPlan
  refine runPartCmd_ends h hp ((if_neg (not_not_intro hs)).trans ?_)
  rw [hc]
  rfl

/-- A plan's state once it is set. -/
theorem setPlan_parts (s : State) (p : PartIx) (st : PlanSt) : (setPlan s p st).parts = s.parts.set p.val { s.parts[p] with st := st } p.isLt := by
  unfold setPlan
  split
  · next h =>
    refine (Vector.ext fun i hi => ?_)
    rw [Vector.getElem_set]
    split
    · next hpi => subst hpi; rw [← h]; rfl
    · rfl
  · exact parts_of_quiet (quiet_msix ..)

theorem setPlan_self (s : State) (p : PartIx) (st : PlanSt) : (setPlan s p st).parts[p] = { s.parts[p] with st := st } := by
  rw [setPlan_parts]
  exact getElem_set_self' ..

theorem setPlan_cores (s : State) (p : PartIx) (st : PlanSt) : (setPlan s p st).cores = s.cores :=
  ite_keeps State.cores rfl ((cores_of_quiet (quiet_msix ..)).trans rfl)

theorem planLeft_planLoaded (s : State) (p : PartIx) (im : Image) (off len : Nat) :
    planLeft p (planLoaded s p im off len) = (s.cores, .loaded, some im, false) := by
  unfold planLeft planLoaded
  rw [modPart_self, setPlan_self, modPart_cores, setPlan_cores, cores_of_calm (calm_imageRead ..)]

theorem planLoaded_mbox (s : State) (p : PartIx) (im : Image) (off len : Nat) : (planLoaded s p im off len).mbox = s.mbox :=
  (modPart_mbox ..).trans ((setPlan_mbox ..).trans (imageRead_mbox ..))

/-! ### What ARM and HALT_PLAN leave (R55 to R58, R66) -/

/-- The part of a partition's record that says how its plan stands. -/
structure PlanFields where
  st : PlanSt
  haltCause : Nat
  stepNo : Word
  version : Word
  attempt : Nat
  step : StepSt
  inGroup : Bool

def planFields (q : Machine.Part) : PlanFields := ⟨q.st, q.haltCause, q.stepNo, q.version, q.attempt, q.step, q.inGroup⟩

/-- HBM3, and how the plan of a partition stands. -/
def planView (p : PartIx) (s : State) : Tbl Byte × PlanFields := (s.hbm, planFields s.parts[p])

theorem planView_of_calm (p : PartIx) (h : calm t = calm s) : planView p t = planView p s := by
  unfold planView
  rw [hbm_of_calm h, parts_of_calm h]

theorem planView_of_quiet (p : PartIx) (h : quiet t = quiet s) : planView p t = planView p s := planView_of_calm p (calm_of_quiet h)

theorem planView_modCore (p : PartIx) (s : State) (n : CoreIx) (f : Core → Core) : planView p (modCore s n f) = planView p s := rfl

theorem planView_modPart (p : PartIx) {f : Machine.Part → Machine.Part} (hf : ∀ q, planFields (f q) = planFields q) (s : State) (q : PartIx) :
    planView p (modPart s q f) = planView p s := Prod.ext rfl (modPart_view planFields hf s p q)

theorem planView_setMap (p : PartIx) (s : State) (q : PartIx) (b : Nat) (e : MapE) : planView p (setMap s q b e) = planView p s := rfl

theorem planView_dropMap (p : PartIx) (s : State) (q : PartIx) : planView p (dropMap s q) = planView p s := rfl

theorem planView_freeRetained (p : PartIx) (s : State) (q : PartIx) : planView p (freeRetained s q) = planView p s := by
  refine (planView_modPart p (by intro; rfl) ..).trans (each_keeps (planView p) (fun s e => ?_) ..)
  dsimp only
  split
  · rfl
  · exact planView_setMap ..

theorem planView_freeShadows (p : PartIx) (s : State) (q : PartIx) : planView p (freeShadows s q) = planView p s := by
  refine each_keeps (planView p) (fun s e => ?_) ..
  dsimp only
  split
  · rfl
  · exact planView_setMap ..

theorem planView_abandon (p : PartIx) (s : State) (q : PartIx) (cause : Nat) : planView p (abandon s q cause) = planView p s := by
  unfold abandon
  split
  · rfl
  · exact (planView_of_quiet p (quiet_partReport ..)).trans ((planView_modPart p (by intro; rfl) ..).trans
      (optional_keeps (planView p) (planView_freeRetained ..) rfl))

theorem planView_armMap (p : PartIx) (s : State) (q : PartIx) (v : Nat) : planView p (armMap s q v) = planView p s := by
  refine (ite_keeps (planView p) ?_ ?_).trans (planView_abandon p s q 3)
  · exact (planView_modPart p (by intro; rfl) ..).trans (planView_dropMap ..)
  · exact (planView_freeRetained ..).trans (planView_freeShadows ..)

theorem calm_updBoundary (s : State) (c : CellarIx) : calm (updBoundary s c) = calm s := ite_keeps calm rfl (calm_modCellar ..)

theorem calm_clearUpd (s : State) (p : PartIx) (discard : Bool) : calm (clearUpd s p discard) = calm s :=
  each_keeps calm (fun _ _ => (calm_updBoundary ..).trans (calm_modCellar ..)) ..

theorem planView_unbindAll (p : PartIx) (s : State) (q : PartIx) : planView p (unbindAll s q) = planView p s :=
  (planView_modPart p (by intro; rfl) ..).trans (each_keeps (planView p) (fun s n => planView_modCore p s n _) ..)

/-- One more logical core is bound, or none is left to bind it to (R56). -/
theorem planView_bindAll (p : PartIx) (s : State) (q : PartIx) : planView p (bindAll s q).1 = planView p s := by
  refine foldl_keeps (fun u : State × Option Nat => planView p u.1) (fun u l => ?_) _ (s, none)
  dsimp only
  split
  · rfl
  · split
    · rfl
    · exact planView_modPart p (by intro; rfl) ..
    · exact planView_modPart p (by intro; rfl) ..

theorem planView_placeTables (p : PartIx) (s : State) (q : PartIx) (l : Nat) : planView p (placeTables s q l) = planView p s := by
  unfold placeTables
  split
  · exact planView_modCore ..
  · rfl

theorem planView_setScales (p : PartIx) (s : State) (q : PartIx) : planView p (setScales s q) = planView p s := by
  refine planView_modPart p (fun q => ?_) ..
  split
  · rfl
  · rfl

theorem planView_applyCredit (p : PartIx) (s : State) (q : PartIx) (src spart chan limit : Nat) :
    planView p (applyCredit s q src spart chan limit) = planView p s := by
  unfold applyCredit
  split
  · rfl
  · exact planView_modPart p (by intro; rfl) ..

theorem planView_freshChannels (p : PartIx) (s : State) (q : PartIx) : planView p (freshChannels s q) = planView p s := by
  unfold freshChannels
  split
  · rfl
  · exact (each_keeps (planView p) (fun s h => planView_applyCredit p s ..) ..).trans
      ((planView_modPart p (by intro; rfl) ..).trans (planView_modPart p (by intro; rfl) ..))

theorem quiet_compareDigest (s : State) (p : PartIx) (rank : Nat) (v : Word) (d : BitVec 256) : quiet (compareDigest s p rank v d) = quiet s := by
  unfold compareDigest
  split
  · rfl
  · exact ite_keeps quiet ((quiet_modDigests ..).trans (quiet_modDigests ..)) ((quiet_partReport ..).trans ((quiet_modSed ..).trans (quiet_modDigests ..)))

theorem quiet_digestReady (s : State) (p : PartIx) : quiet (digestReady s p) = quiet s :=
  ite_keeps quiet rfl ((each_keeps quiet (fun _ _ => quiet_compareDigest ..) ..).trans
    ((each_keeps quiet (fun _ _ => quiet_sendRank ..) ..).trans (quiet_modDigests ..)))

theorem quiet_sendImage (s : State) (p : PartIx) : quiet (sendImage s p) = quiet s := by
  unfold sendImage
  dsimp only
  split
  · rfl
  · exact ite_keeps quiet (each_keeps quiet (fun _ _ => quiet_sendTwin ..) ..) rfl

theorem planView_startMirror (p : PartIx) (s : State) (q : PartIx) (pages : List Nat) : planView p (startMirror s q pages) = planView p s := by
  unfold startMirror
  extract_lets u v x
  have kept : planView p v = planView p s := (planView_modPart p (by intro; rfl) ..).trans (planView_of_quiet p (quiet_sendImage ..))
  clear_value v
  exact ite_keeps (planView p)
    (ite_keeps (planView p) ((planView_of_quiet p (quiet_sendTwin ..)).trans kept) ((planView_of_quiet p (quiet_digestReady ..)).trans kept)) kept

theorem calm_pcFenceEffect (s : State) (c : CellarIx) : calm (pcFenceEffect s c) = calm s := by
  unfold pcFenceEffect
  split
  · rfl
  · exact (calm_of_quiet (quiet_markFenced ..)).trans rfl

theorem calm_pcFencePass (s : State) (p : PartIx) : calm (pcFencePass s p) = calm s := by
  refine each_keeps calm (fun s c => ?_) ..
  dsimp only
  split
  · exact ite_keeps calm (optional_keeps calm (calm_pcFenceEffect ..) (calm_modCellar ..)) rfl
  · rfl

/-- The plan is in a state. -/
def PlanFields.at (st : PlanSt) (x : PlanFields) : PlanFields := { x with st := st }

/-- The plan is halted for a cause. -/
def PlanFields.halted (cause : Nat) (x : PlanFields) : PlanFields := { x with st := .halted, haltCause := cause, step := .idle }

/-- The plan has its step and version. -/
def PlanFields.started (step version : Word) (x : PlanFields) : PlanFields := { x with haltCause := 0, stepNo := step, version := version, attempt := 0 }

/-- The plan is armed; in a group it waits for the start of its step. -/
def PlanFields.armed (x : PlanFields) : PlanFields :=
  { x with st := .armed, step := if x.step = .idle ∧ x.inGroup then .waitStart else x.step }

/-- A change of the record that changes the plan's fields. -/
theorem planView_change {f : Machine.Part → Machine.Part} {F : PlanFields → PlanFields} (hf : ∀ q, planFields (f q) = F (planFields q))
    (s : State) (p : PartIx) :
    planView p (modPart s p f) = ((planView p s).1, F (planView p s).2) := by
  unfold planView
  rw [modPart_self, hf]
  rfl

theorem planView_setPlan (s : State) (p : PartIx) (st : PlanSt) : planView p (setPlan s p st) = ((planView p s).1, (planView p s).2.at st) := by
  unfold planView
  rw [setPlan_self]
  exact Prod.ext (ite_keeps State.hbm rfl ((hbm_of_quiet (quiet_msix ..)).trans rfl)) rfl

theorem planView_haltPlan (s : State) (p : PartIx) (cause : Nat) :
    planView p (haltPlan s p cause) = ((planView p s).1, (planView p s).2.halted cause) := by
  have parked : planView p (each (coresOf s p) s (fun s n => modCore s n unarmCore)) = planView p s :=
    each_keeps (planView p) (fun s n => planView_modCore p s n _) ..
  refine (planView_of_calm p (calm_pcFencePass ..)).trans
    ((planView_change (F := fun x => { x with haltCause := cause, step := .idle }) (by intro; rfl) ..).trans ?_)
  rw [planView_setPlan, parked]
  rfl

/-- The plan once ARM has given it its step and version. -/
def armReset (q : Machine.Part) (step version : Word) : Machine.Part :=
  { q with
    stepNo := step, version := version, attempt := 0, haltReq := false, haltCause := 0, made := none, applied := [], readySet := []
    discardedSet := [], failClassP := false, vest := [], vestUsed := 0, vestMark := none, vestAcked := none, shadowRec := []
    excFirst := none, twinLostSent := false }

/-- The state once ARM has given the plan its step and version, before it binds the logical cores. -/
def armStarted (s : State) (p : PartIx) (step version : Word) : State :=
  let s := armMap s p version.toNat
  let s := clearDigests (if (s.parts[p]).st = .loaded then clearUpd s p true else s) p
  let s := each (coresOf s p) s (fun s n => modCore s n (fun c => { clearCore c with cycles := 0, lines := [], pins := [] }))
  modPart s p (fun q => armReset q step version)

/-- The state once every logical core is bound. -/
def armBound (s : State) (p : PartIx) : State :=
  let s := each (List.range (s.parts[p]).bind.length) s (fun s l => placeTables s p l)
  let s := freshChannels (setScales s p) p
  let s := modPart s p (fun q => { q with step := if q.step = .idle ∧ q.inGroup then .waitStart else q.step })
  setPlan s p .armed

theorem planView_armStarted (s : State) (p : PartIx) (step version : Word) : planView p (armStarted s p step version)
    = ((planView p s).1, (planView p s).2.started step version) := by
  unfold armStarted
  extract_lets u v w
  have kept : planView p w = planView p s := (each_keeps (planView p) (fun s n => planView_modCore p s n _) ..).trans
    ((planView_of_quiet p (quiet_modDigests ..)).trans ((optional_keeps (planView p)
        (planView_of_calm p (calm_clearUpd ..)) rfl).trans (planView_armMap p s p _)))
  rw [planView_change (F := .started step version) (by intro; rfl), kept]

theorem planView_armBound (s : State) (p : PartIx) : planView p (armBound s p) = ((planView p s).1, (planView p s).2.armed) := by
  unfold armBound
  extract_lets u v w
  have kept : planView p v = planView p s := (planView_freshChannels ..).trans ((planView_setScales ..).trans
    (each_keeps (planView p) (fun s n => planView_placeTables p s ..) ..))
  have told : planView p w = _ := planView_change (F := fun x => { x with step := if x.step = .idle ∧ x.inGroup then .waitStart else x.step })
      (by intro; rfl) ..
  rw [planView_setPlan, told, kept]
  rfl

/-- ARM leaves the plan armed, or halted where not every logical core found a place (R56 to R58). -/
theorem planView_armPlan (s : State) (p : PartIx) (step version : Word) :
    planView p (armPlan s p step version) = ((planView p s).1, ((planView p s).2.started step version).halted 2)
    ∨ planView p (armPlan s p step version) = ((planView p s).1, ((planView p s).2.started step version).armed) := by
  have bound : planView p (bindAll (unbindAll (armStarted s p step version) p) p).1 = ((planView p s).1, (planView p s).2.started step version) :=
    (planView_bindAll ..).trans ((planView_unbindAll ..).trans (planView_armStarted ..))
  unfold armPlan
  extract_lets a b c d
  change planView p (bindAll (unbindAll d p) p).1 = _ at bound
  clear_value d
  split
  · next u l hb =>
    rw [hb] at bound
    exact .inl ((planView_of_quiet p (quiet_partReport ..)).trans ((planView_haltPlan ..).trans (by rw [bound])))
  · next u hb =>
    rw [hb] at bound
    exact .inr ((planView_armBound u p).trans (by rw [bound]))

/-! The commands -/

theorem arm_wrongState (h : RunsCmd s 3 c) (hp : partOfCmd s c = some p) (hl : (s.parts[p]).st ≠ .loaded) (hh : (s.parts[p]).st ≠ .halted) :
    Ends (exec .arm s) s 4 [] := by
  show Ends (execArm s) _ _ _
  unfold execArm
  exact runPartCmd_ends h hp (if_pos ⟨hl, hh⟩)

/-- The state that ARM leaves. -/
def armed (s : State) (p : PartIx) (step version : Word) : State :=
  let s := armPlan s p step version
  if active s p then startMirror s p (shardPages s p) else s

theorem exec_arm (s : State) : exec .arm s = execArm s := rfl

theorem execArm_eq (s : State) : execArm s = runPartCmd 3 s (fun s c p =>
    if (s.parts[p]).st ≠ .loaded ∧ (s.parts[p]).st ≠ .halted then errWith s wrongState else okWith (armed s p c.args[0] c.args[1]) []) := by
  unfold execArm armed
  rfl

theorem arm_ends (h : RunsCmd s 3 c) (hp : partOfCmd s c = some p) (hs : (s.parts[p]).st = .loaded ∨ (s.parts[p]).st = .halted) :
    Ends (exec .arm s) (armed s p c.args[0] c.args[1]) 0 [] := by
  have able : ¬((s.parts[p]).st ≠ .loaded ∧ (s.parts[p]).st ≠ .halted) := fun ⟨hl, hh⟩ => hs.elim hl hh
  rw [exec_arm, execArm_eq]
  exact runPartCmd_ends h hp ((if_neg able).trans rfl)

theorem planView_armed (s : State) (p : PartIx) (step version : Word) : planView p (armed s p step version) = planView p (armPlan s p step version) := by
  unfold armed
  generalize armPlan s p step version = u
  exact optional_keeps (planView p) (planView_startMirror ..) rfl

theorem haltPlan_armed (h : RunsCmd s 4 c) (hp : partOfCmd s c = some p) (hs : (s.parts[p]).st = .armed) :
    Ends (exec .haltPlan s) (haltPlan s p 1) 0 [] := by
  show Ends (execHaltPlan s) _ _ _
  unfold execHaltPlan
  refine runPartCmd_ends h hp ?_
  rw [hs]
  rfl

theorem haltPlan_running (h : RunsCmd s 4 c) (hp : partOfCmd s c = some p) (hs : (s.parts[p]).st = .running) :
    Ends (exec .haltPlan s) { s with parts := s.parts.set p.val { s.parts[p] with haltReq := true } p.isLt } 0 [] := by
  show Ends (execHaltPlan s) _ _ _
  unfold execHaltPlan
  refine runPartCmd_ends h hp ?_
  rw [hs]
  rfl

theorem haltPlan_wrongState (h : RunsCmd s 4 c) (hp : partOfCmd s c = some p) (ha : (s.parts[p]).st ≠ .armed) (hr : (s.parts[p]).st ≠ .running) :
    Ends (exec .haltPlan s) s 4 [] := by
  show Ends (execHaltPlan s) _ _ _
  unfold execHaltPlan
  refine runPartCmd_ends h hp ?_
  cases hs : (s.parts[p]).st with
  | armed => exact absurd hs ha
  | running => exact absurd hs hr
  | empty => rfl
  | loaded => rfl
  | halted => rfl

/-! ### What the requests of a stream leave of the partitions' shares and the tokens that the sluices hold -/

/-- The shares of the partitions, and the barrier tokens that the sluices hold. -/
def standing (s : State) : Vector (Option Allot) 8 × Vector (List Tok) 2 := (s.parts.map (·.allot), s.sluices.map (·.held))

theorem sluices_of_quiet (h : quiet t = quiet s) : t.sluices = s.sluices := show (quiet t).sluices = (quiet s).sluices from congrArg State.sluices h

theorem sluices_of_calm (h : calm t = calm s) : t.sluices = s.sluices := show (calm t).sluices = (calm s).sluices from congrArg State.sluices h

theorem standing_of_calm (h : calm t = calm s) : standing t = standing s := by unfold standing; rw [parts_of_calm h, sluices_of_calm h]

theorem standing_of_quiet (h : quiet t = quiet s) : standing t = standing s := standing_of_calm (calm_of_quiet h)

theorem standing_modPart {f : Machine.Part → Machine.Part} (hf : ∀ q, (f q).allot = q.allot) (s : State) (p : PartIx) :
    standing (modPart s p f) = standing s := by
  refine Prod.ext (Vector.ext fun i hi => ?_) rfl
  simp only [standing, Vector.getElem_map]
  exact modPart_view (·.allot) hf s ⟨i, hi⟩ p

theorem standing_modSluice {f : Sluice → Sluice} (hf : ∀ q, (f q).held = q.held) (s : State) (d : DieIx) : standing (modSluice s d f) = standing s := by
  refine Prod.ext rfl (Vector.ext fun i hi => ?_)
  simp only [standing, Vector.getElem_map]
  by_cases h : (⟨i, hi⟩ : DieIx) = d
  · subst h
    exact (congrArg Sluice.held (modSluice_self s ⟨i, hi⟩ f)).trans (hf _)
  · exact congrArg Sluice.held (modSluice_ne s d f ⟨i, hi⟩ h)

theorem standing_modCore (s : State) (n : CoreIx) (f : Core → Core) : standing (modCore s n f) = standing s := rfl

theorem standing_modCellar (s : State) (c : CellarIx) (f : Cellar → Cellar) : standing (modCellar s c f) = standing s := rfl

theorem standing_modReq (s : State) (i : Nat) (f : Req → Req) : standing (modReq s i f) = standing s := rfl

theorem standing_setTag (s : State) (b : Nat) (t : Word) : standing (setTag s b t) = standing s := rfl

theorem standing_modCtx (s : State) (n : CoreIx) (i : CtxIx) (f : Ctx → Ctx) : standing (modCtx s n i f) = standing s := rfl

theorem standing_modDump (s : State) (i : Fin 4) (f : Dump → Dump) : standing (modDump s i f) = standing s := rfl

theorem standing_dropReq (s : State) (id : Nat) : standing (dropReq s id) = standing s := rfl

theorem standing_mkReq (s : State) (who : Requester) (p : PartIx) (tensor : Nat) (write : Bool) (offs : List Nat) (data : List Byte) :
    standing (mkReq s who p tensor write offs data) = standing s := rfl

theorem standing_goOn (s : State) (n : CoreIx) (i : CtxIx) (words cycles : Nat) :
    standing (goOn s n i words cycles) = standing s := standing_modCore ..

theorem standing_advance (s : State) (n : CoreIx) (i : CtxIx) (words : Nat) :
    standing (advance s n i words) = standing s := standing_goOn ..

theorem standing_result (s : State) (n : CoreIx) (i : CtxIx) (sd : Reg) (v : Word) (words : Nat) :
    standing (result s n i sd v words) = standing s :=
  (standing_advance ..).trans (standing_modCtx ..)

theorem standing_flowFlush (s : State) (n : CoreIx) :
    standing (flowFlush s n) = standing s := by
  unfold flowFlush
  split
  · rfl
  · exact ite_keeps standing rfl (standing_of_quiet (quiet_lossyPacket ..))

theorem standing_flowPc (s : State) (n : CoreIx) (i : CtxIx) (reason : Nat) (pc : BitVec 40) :
    standing (flowPc s n i reason pc) = standing s :=
  ite_keeps standing rfl ((standing_of_quiet (quiet_lossyPacket ..)).trans ((standing_of_quiet (quiet_bump ..)).trans ((standing_modCore ..).trans
      (standing_flowFlush ..))))

theorem standing_stopOne (s : State) (p : PartIx) (n : CoreIx) :
    standing (stopOne s p n) = standing s := by
  unfold stopOne
  refine (standing_modCore ..).trans ?_
  split
  · exact standing_flowPc ..
  · rfl

theorem standing_stopPart (s : State) (p : PartIx) :
    standing (stopPart s p) = standing s := each_keeps standing (fun _ _ => standing_stopOne ..) ..

theorem standing_flowSwitch (s : State) (n : CoreIx) (before : Option CtxIx) :
    standing (flowSwitch s n before) = standing s := by
  unfold flowSwitch
  split
  · exact ite_keeps standing rfl (standing_flowPc ..)
  · rfl

theorem standing_countSwitch (s : State) (n : CoreIx) :
    standing (countSwitch s n) = standing s := by
  unfold countSwitch
  split
  · exact standing_of_quiet (quiet_countP ..)
  · rfl

theorem standing_leave (s : State) (n : CoreIx) (i : CtxIx) (st : CtxSt) (waits : List Cond) :
    standing (leave s n i st waits) = standing s :=
  (standing_countSwitch ..).trans ((standing_flowSwitch ..).trans ((standing_modCore ..).trans (standing_flowFlush ..)))

theorem standing_beginStop (s : State) (p : PartIx) :
    standing (beginStop s p) = standing s := each_keeps standing (fun _ _ => standing_modCore ..) ..

theorem standing_haltWave (s : State) (cause : Nat) :
    standing (haltWave s cause) = standing s := ite_keeps standing rfl ((standing_of_quiet (quiet_traceEvent ..)).trans rfl)

theorem standing_failStep (s : State) (p : PartIx) (classH : Bool) (cause : Nat) :
    standing (failStep s p classH cause) = standing s :=
  ite_keeps standing ((standing_of_quiet (quiet_partReport ..)).trans ((standing_of_quiet (quiet_sendStep ..)).trans (standing_modPart
      (by intro; rfl) ..))) rfl

theorem standing_raise (s : State) (n : CoreIx) (i : CtxIx) (e : Exc) (pc : BitVec 40) (info : Word) :
    standing (raise s n i e pc info) = standing s := by
  unfold raise
  refine ite_keeps standing rfl ?_
  split
  · rfl
  · exact optional_keeps standing (standing_haltWave ..) (optional_keeps standing ((standing_modPart (by intro; rfl) ..).trans
      (standing_stopPart ..)) ((standing_failStep ..).trans ((standing_of_quiet (quiet_partReport ..)).trans ((standing_beginStop ..).trans
          ((standing_modPart (by intro; rfl) ..).trans ((standing_of_quiet (quiet_traceEvent ..)).trans ((standing_flowPc ..).trans
      (standing_modCtx ..))))))))

theorem standing_raiseHere (s : State) (n : CoreIx) (i : CtxIx) (e : Exc) (info : Word) :
    standing (raiseHere s n i e info) = standing s := standing_raise ..

theorem standing_engineFault (s : State) (n : CoreIx) (i : CtxIx) (pc : BitVec 40) (engine : Nat) (f : EngFault) :
    standing (engineFault s n i pc engine f) = standing s :=
  standing_raise ..

theorem standing_modStream (s : State) (d : DieIx) (phys : Nat) (f : SCtx → SCtx) :
    standing (modStream s d phys f) = standing s := by
  refine standing_modSluice (fun x => ?_) ..
  split
  · rfl
  · rfl

theorem standing_idleStream (s : State) (d : DieIx) (phys : Nat) :
    standing (idleStream s d phys) = standing s := standing_modSluice (by intro; rfl) ..

theorem standing_streamFault (s : State) (d : DieIx) (phys : Nat) (f : EngFault) :
    standing (streamFault s d phys f) = standing s := by
  unfold streamFault
  split
  · rfl
  · exact (standing_engineFault ..).trans ((standing_modSluice (by intro; rfl) ..).trans (ite_keeps standing (standing_idleStream ..)
      (standing_modStream ..)))

theorem standing_failReq (s : State) (c : CellarIx) (r : Req) (block : Nat) (causes : List TagCause) :
    standing (failReq s c r block causes) = standing s := by
  unfold failReq
  split
  · rfl
  · dsimp only
    split
    · exact (standing_modReq ..).trans ((standing_of_calm (calm_readEvents ..)).trans (standing_of_calm (calm_logTagFail ..)))
    · exact (standing_streamFault ..).trans ((standing_modReq ..).trans ((standing_of_calm (calm_readEvents ..)).trans (standing_of_calm
        (calm_logTagFail ..))))

theorem standing_spoil (s : State) (b : Nat) (own : Tracker → Bool) :
    standing (spoil s b own) = standing s := standing_modCellar ..

theorem standing_writeBlock (s : State) (b : Nat) (ws : List (Nat × Byte)) (fresh : Bool) (version fold : Nat) :
    standing (writeBlock s b ws fresh version fold) = standing s :=
  standing_setTag ..

theorem standing_dumpPacket (s : State) (type source aux : Nat) (words : List Nat) :
    standing (dumpPacket s type source aux words) = standing s :=
  ite_keeps standing (standing_of_quiet (quiet_packet ..)) (standing_of_quiet (quiet_look ..))

theorem standing_endDump (s : State) (i : Fin 4) (st : Nat) :
    standing (endDump s i st) = standing s := by
  unfold endDump
  refine optional_keeps standing (standing_haltWave ..) ?_
  split
  · refine (standing_of_quiet (quiet_partReport ..)).trans ((standing_of_quiet (quiet_traceEvent ..)).trans ((standing_modDump ..).trans
      (ite_keeps standing ?_ (standing_dumpPacket ..))))
    split
    · exact ite_keeps standing (standing_of_quiet (quiet_hostWrite ..)) rfl
    · rfl
  · refine (standing_of_quiet (quiet_devReport ..)).trans ((standing_of_quiet (quiet_traceEvent ..)).trans ((standing_modDump ..).trans
      (ite_keeps standing ?_ (standing_dumpPacket ..))))
    split
    · exact ite_keeps standing (standing_of_quiet (quiet_hostWrite ..)) rfl
    · rfl

theorem standing_copySector (w : Writer) (die : CellarIx) (off : Nat) (bs : List Byte) (s : State) (i : Fin 4) :
    standing (copySector w die off bs s i) = standing s := by
  unfold copySector
  refine ite_keeps standing (ite_keeps standing ((standing_modDump ..).trans ((standing_modDump ..).trans (ite_keeps standing (standing_of_quiet
      (quiet_bump ..)) rfl)))
    (ite_keeps standing ?_ ((standing_dumpPacket ..).trans ((standing_modDump ..).trans (ite_keeps standing (standing_of_quiet
        (quiet_bump ..)) rfl))))) rfl
  split
  · exact (ite_keeps standing (standing_of_quiet (quiet_hostWrite ..))
      (standing_endDump ..)).trans ((standing_modDump ..).trans (ite_keeps standing (standing_of_quiet (quiet_bump ..)) rfl))
  · exact (standing_modDump ..).trans (ite_keeps standing (standing_of_quiet (quiet_bump ..)) rfl)

theorem standing_dumpSector (s : State) (w : Writer) (die : CellarIx) (off : Nat) (bs : List Byte) :
    standing (dumpSector s w die off bs) = standing s :=
  ite_keeps standing (each_keeps standing (fun _ _ => standing_copySector ..) ..) rfl

theorem standing_dumpPiece (s : State) (c : CellarIx) (r : Req) (base : Nat) :
    standing (dumpPiece s c r base) = standing s := by
  unfold dumpPiece
  split
  · exact each_keeps standing (fun _ _ => standing_dumpSector ..) ..
  · rfl

theorem standing_issuePiece (s : State) (c : CellarIx) (r : Req) (base : Nat) (err : ReadErr) :
    standing (issuePiece s c r base err) = standing s := by
  unfold issuePiece
  refine (ite_keeps standing (ite_keeps standing (standing_failReq ..) (optional_keeps standing (standing_setTag ..) ((standing_dumpPiece ..).trans
    ((standing_writeBlock ..).trans (standing_spoil ..))))) ((ite_keeps standing rfl ((standing_failReq ..).trans (ite_keeps standing
        (standing_of_calm (calm_cured ..))
    rfl))).trans (standing_modReq ..))).trans (optional_keeps standing (standing_modCellar ..) ((standing_modCellar ..).trans ?_))
  split
  · exact (standing_of_quiet (quiet_countP ..)).trans (standing_of_quiet (quiet_countG ..))
  · exact standing_of_quiet (quiet_countG ..)

theorem standing_writeChunk (s : State) (d : DieIx) (phys : Nat) (x : SCtx) (c : Nat) (bs : List Byte) :
    standing (writeChunk s d phys x c bs) = standing s :=
  ite_keeps standing (standing_mkReq ..) rfl

theorem standing_finishReq (s : State) (r : Req) :
    standing (finishReq s r) = standing s := by
  unfold finishReq
  split
  · exact ite_keeps standing rfl (standing_dropReq ..)
  · dsimp only
    split
    · exact standing_dropReq ..
    · exact (ite_keeps standing (standing_modStream ..) (ite_keeps standing (optional_keeps standing (standing_idleStream ..) (standing_modStream ..))
        ((standing_writeChunk ..).trans (standing_modStream ..)))).trans (standing_dropReq ..)

theorem standing_issueBase (s : State) (c : CellarIx) (q : Piece) (err : ReadErr) :
    standing (issueBase s c q err) = standing s := by
  unfold issueBase
  refine (each_keeps standing (fun _ _ => ?_) ..).trans (standing_modCellar ..)
  dsimp only
  split
  · rfl
  · split
    · exact optional_keeps standing (standing_finishReq ..) (standing_issuePiece ..)
    · exact standing_issuePiece ..

theorem standing_settleBlock (s : State) (c : CellarIx) (b : Nat) :
    standing (settleBlock s c b) = standing s :=
  each_keeps standing (fun _ _ => ite_keeps standing (standing_issueBase ..) rfl) ..

theorem standing_numberWriter (p : PartIx) (tensor : Nat) (w : Writer) (die : CellarIx) (s : State) (i : Fin 4) :
    standing (numberWriter p tensor w die s i) = standing s :=
  ite_keeps standing (ite_keeps standing ((standing_of_quiet (quiet_traceEvent ..)).trans (standing_modDump ..)) (standing_modDump ..)) rfl

theorem standing_dumpSee (s : State) (p : PartIx) (tensor : Nat) (w : Writer) (die : CellarIx) :
    standing (dumpSee s p tensor w die) = standing s :=
  ite_keeps standing (each_keeps standing (fun _ _ => standing_numberWriter ..) ..) rfl

theorem standing_openTracker (s : State) (c : CellarIx) (r : Req) (block : Nat) :
    standing (openTracker s c r block) = standing s := by
  unfold openTracker
  split
  · rfl
  · exact standing_modCellar ..

theorem standing_joinPieces (s : State) (c : CellarIx) (r : Req) :
    standing (joinPieces s c r) = standing s := by
  unfold joinPieces
  refine (standing_modReq ..).trans ?_
  dsimp only
  split
  · exact (standing_dumpSee ..).trans ((standing_modCellar ..).trans ((standing_modCellar ..).trans (each_keeps standing
      (fun _ _ => standing_openTracker ..) ..)))
  · exact (standing_modCellar ..).trans ((standing_modCellar ..).trans (each_keeps standing (fun _ _ => standing_openTracker ..) ..))

theorem standing_failDown (s : State) (c : CellarIx) (r : Req) :
    standing (failDown s c r) = standing s := by
  unfold failDown
  dsimp only
  split
  · refine optional_keeps standing (standing_finishReq ..) ?_
    split
    · exact (standing_streamFault ..).trans ((standing_modReq ..).trans (standing_modReq ..))
    · exact (ite_keeps standing rfl (standing_modReq ..)).trans ((standing_of_quiet (quiet_accessError ..)).trans (standing_modReq ..))
  · split
    · exact (standing_streamFault ..).trans ((standing_modReq ..).trans (standing_modReq ..))
    · exact (ite_keeps standing rfl (standing_modReq ..)).trans ((standing_of_quiet (quiet_accessError ..)).trans (standing_modReq ..))

theorem standing_setMap (s : State) (p : PartIx) (b : Nat) (e : MapE) : standing (setMap s p b e) = standing s := rfl

theorem standing_withHbm (s : State) (m : Tbl Byte) : standing { s with hbm := m } = standing s := rfl

theorem standing_copyRetained {p : PartIx} {b : Nat} (h : copyRetained s p b = some t) : standing t = standing s := by
  simp only [copyRetained] at h
  split at h
  · rw [Option.some.inj h]
  · split at h
    · contradiction
    · refine (congrArg standing (Option.some.inj h)).symm.trans ((standing_setMap ..).trans ((standing_setTag ..).trans ((standing_withHbm ..).trans ?_)))
      exact standing_of_quiet ((quiet_countG ..).trans (quiet_countG ..))

theorem standing_markPage (s : State) (p : PartIx) (b : Nat) : standing (markPage s p b) = standing s := standing_modPart (by intro; rfl) ..

theorem standing_prepare {c : CellarIx} {r : Req} (h : prepare s c r = some t) : standing t = standing s := by
  unfold prepare at h
  split at h
  · contradiction
  · next u hu =>
    rw [← Option.some.inj h]
    exact (standing_modReq ..).trans ((each_keeps standing (fun s b => standing_markPage s ..) ..).trans
      (foldl_bind_keeps standing (fun _ _ _ => standing_copyRetained) hu))

theorem standing_performReq (s : State) (r : Req) :
    standing (performReq s r) = standing s := by
  unfold performReq
  refine each_keeps standing (fun _ _ => ?_) ..
  split
  · rfl
  · refine ite_keeps standing (standing_failDown ..) ((each_keeps standing (fun _ _ => standing_settleBlock ..) ..).trans (ite_keeps standing rfl ?_))
    split
    · rfl
    · next t h =>
        split
        · exact (standing_joinPieces ..).trans (standing_prepare h)
        · exact standing_prepare h

theorem standing_stepFrame (s : State) (p : PartIx) (rank vl : Nat) (b : FBody) :
    standing (stepFrame s p rank vl b) = standing s :=
  ite_keeps standing rfl (standing_of_quiet (quiet_sendRank ..))

theorem standing_sendChunk (s : State) (d : DieIx) (phys : Nat) (x : SCtx) (c : Nat) (bs : List Byte) :
    standing (sendChunk s d phys x c bs) = standing s := by
  unfold sendChunk
  dsimp only
  split
  · rfl
  · refine ite_keeps standing ?_ (each_keeps standing (fun _ _ => standing_stepFrame ..) ..)
    split
    · rfl
    · exact ite_keeps standing (standing_modStream ..) ((standing_stepFrame ..).trans (standing_modStream ..))

theorem standing_capture (s : State) (p : PartIx) (step : Word) (attempt : Nat) (r : VRec) :
    standing (capture s p step attempt r) = standing s := by
  unfold capture
  refine ite_keeps standing ?_ ((standing_failStep ..).trans ((standing_beginStop ..).trans ((standing_of_quiet (quiet_partReport ..)).trans
      (standing_modPart (by intro; rfl) ..))))
  dsimp only
  split
  · exact (standing_of_quiet (quiet_sendTwin ..)).trans (standing_modPart (by intro; rfl) ..)
  · exact (standing_of_quiet (quiet_sendTwin ..)).trans (standing_modPart (by intro; rfl) ..)
  · exact standing_modPart (by intro; rfl) ..

theorem standing_captureInput (s : State) (x : SCtx) (c : Nat) (bs : List Byte) :
    standing (captureInput s x c bs) = standing s :=
  ite_keeps standing rfl (standing_capture ..)

theorem standing_landBytes (s : State) (d : DieIx) (phys : Nat) (x : SCtx) (c : Nat) (bs : List Byte) :
    standing (landBytes s d phys x c bs) = standing s := by
  unfold landBytes
  dsimp only
  split
  · exact standing_modCore ..
  · rfl
  · rfl
  · exact each_keeps standing (fun _ _ => standing_of_quiet (quiet_hostWrite ..)) ..
  · exact standing_sendChunk ..

theorem standing_landNow (s : State) (d : DieIx) (phys c : Nat) :
    standing (landNow s d phys c) = standing s := by
  unfold landNow
  dsimp only
  split
  · split
    · refine (standing_performReq ..).trans ?_
      split
      · exact standing_performReq ..
      · rfl
    · split
      · exact standing_performReq ..
      · rfl
  · split
    · refine (standing_landBytes ..).trans ((ite_keeps standing rfl (standing_captureInput ..)).trans ?_)
      split
      · refine (standing_performReq ..).trans ?_
        split
        · exact standing_performReq ..
        · rfl
      · split
        · exact standing_performReq ..
        · rfl
    · split
      · refine (standing_performReq ..).trans ?_
        split
        · exact standing_performReq ..
        · rfl
      · split
        · exact standing_performReq ..
        · rfl

theorem standing_endStreams (s : State) (p : PartIx) :
    standing (endStreams s p) = standing s :=
  each_keeps standing (fun _ _ => each_keeps standing (fun _ _ => (standing_idleStream ..).trans (each_keeps standing
      (fun _ _ => standing_landNow ..) ..)) ..) ..

/-! ### RELEASE_PLAN (R66) -/

theorem coresOf_of_standing (h : standing t = standing s) (p : PartIx) : coresOf t p = coresOf s p := by
  have share : (t.parts[p]).allot = (s.parts[p]).allot := by
    have same := congrArg (fun v : Vector (Option Allot) 8 × Vector (List Tok) 2 => v.1[p]) h
    simpa [standing] using same
  unfold coresOf
  rw [share]

theorem standing_abandon (s : State) (p : PartIx) (cause : Nat) : standing (abandon s p cause) = standing s := by
  have retained : ∀ u, standing (freeRetained u p) = standing u := fun u => by
    refine (standing_modPart (by intro; rfl) ..).trans (each_keeps standing (fun s e => ?_) ..)
    dsimp only
    split
    · rfl
    · exact standing_setMap ..
  unfold abandon
  split
  · rfl
  · exact (standing_of_quiet (quiet_partReport ..)).trans ((standing_modPart (by intro; rfl) ..).trans (optional_keeps standing (retained s) rfl))

theorem cores_abandon (s : State) (p : PartIx) (cause : Nat) : (abandon s p cause).cores = s.cores := by
  have retained : ∀ u, (freeRetained u p).cores = u.cores := fun u => by
    refine each_keeps State.cores (fun s e => ?_) ..
    dsimp only
    split
    · rfl
    · rfl
  unfold abandon
  split
  · rfl
  · exact (cores_of_quiet (quiet_partReport ..)).trans (optional_keeps State.cores (retained s) rfl)

theorem sluices_abandon (s : State) (p : PartIx) (cause : Nat) : (abandon s p cause).sluices = s.sluices := by
  have retained : ∀ u, (freeRetained u p).sluices = u.sluices := fun u => by
    refine each_keeps State.sluices (fun s e => ?_) ..
    dsimp only
    split
    · rfl
    · rfl
  have told : ∀ (u : State) (code : Nat) (d : List Nat), (partReport u p code d).sluices = u.sluices := fun u code d =>
    show (quiet (partReport u p code d)).sluices = (quiet u).sluices from congrArg State.sluices (quiet_partReport ..)
  unfold abandon
  split
  · rfl
  · exact (told ..).trans (optional_keeps State.sluices (retained s) rfl)

/-- The end of the streams of a partition that has none leaves the cores alone. -/
theorem cores_endStreams (h : ∀ (d : DieIx) (e : Nat × SCtx), e ∈ (s.sluices[d]).ctxs → e.2.part ≠ p) : (endStreams s p).cores = s.cores := by
  have quietDie : ∀ l : List DieIx, each l s (fun s d =>
      each ((s.sluices[d]).ctxs.filter (fun e => decide (e.2.part = p))) s (fun s e =>
        idleStream (each e.2.chunks s (fun s c => landNow s d e.1 c.c)) d e.1)) = s := by
    intro l
    induction l with
    | nil => rfl
    | cons d l ih =>
      have none : (s.sluices[d]).ctxs.filter (fun e => decide (e.2.part = p)) = [] := List.filter_eq_nil_iff.2 fun e he => by simp [h d e he]
      rw [each, List.foldl_cons, none]
      exact ih
  unfold endStreams
  rw [quietDie]

/-- A change of some cores reaches those, and leaves the others alone. -/
theorem each_modCore (f : Core → Core) (n : CoreIx) (l : List CoreIx) (s : State) :
    (n ∈ l → ∃ x, (each l s (fun s n => modCore s n f)).cores[n] = f x) ∧ (n ∉ l → (each l s (fun s n => modCore s n f)).cores[n] = s.cores[n]) := by
  induction l generalizing s with
  | nil => exact ⟨nofun, fun _ => rfl⟩
  | cons m l ih =>
    obtain ⟨there, away⟩ := ih (modCore s m f)
    constructor
    · intro hn
      by_cases hl : n ∈ l
      · exact there hl
      · obtain rfl : n = m := (List.mem_cons.1 hn).resolve_right hl
        exact ⟨s.cores[n], (away hl).trans (modCore_self ..)⟩
    · intro hn
      obtain ⟨hm, hl⟩ := not_or.1 (fun h => hn (List.mem_cons.2 h))
      exact (away hl).trans (modCore_ne _ _ _ _ hm)

theorem quiet_clearDigests (s : State) (p : PartIx) : quiet (clearDigests s p) = quiet s := quiet_modDigests ..

theorem cores_dropMap (s : State) (p : PartIx) : (dropMap s p).cores = s.cores := rfl

/-- The cores that RELEASE_PLAN leaves: those of the partition are released. -/
theorem cores_releasePlan (s : State) (p : PartIx) : (releasePlan s p).cores
    = (each (coresOf s p) (endStreams (abandon s p 3) p) (fun s n => modCore s n releaseCore)).cores := by
  have mine : coresOf (endStreams (abandon s p 3) p) p = coresOf s p := coresOf_of_standing ((standing_endStreams ..).trans (standing_abandon ..)) p
  unfold releasePlan
  extract_lets a b u v w
  have released : u.cores = (each (coresOf s p) b (fun s n => modCore s n releaseCore)).cores := by rw [← mine]
  have kept : v.cores = (dropMap u p).cores := cores_of_calm ((calm_of_quiet (quiet_clearDigests ..)).trans (calm_clearUpd (dropMap u p) p true))
  clear_value v
  rw [modPart_cores, setPlan_cores]
  exact kept.trans ((cores_dropMap u p).trans released)

theorem releasePlan_part (s : State) (p : PartIx) : ((releasePlan s p).parts[p]).st = .empty ∧ ((releasePlan s p).parts[p]).image = none := by
  unfold releasePlan
  extract_lets a b u v w
  clear_value w
  rw [modPart_self, setPlan_self]
  exact ⟨rfl, rfl⟩

theorem releasePlan_wrongState (h : RunsCmd s 5 c) (hp : partOfCmd s c = some p) (hl : (s.parts[p]).st ≠ .loaded) (hh : (s.parts[p]).st ≠ .halted) :
    Ends (exec .releasePlan s) s 4 [] := by
  show Ends (execReleasePlan s) _ _ _
  unfold execReleasePlan
  exact runPartCmd_ends h hp (if_pos ⟨hl, hh⟩)

theorem releasePlan_ends (h : RunsCmd s 5 c) (hp : partOfCmd s c = some p) (hs : (s.parts[p]).st = .loaded ∨ (s.parts[p]).st = .halted) :
    Ends (exec .releasePlan s) (releasePlan s p) 0 [] := by
  have able : ¬((s.parts[p]).st ≠ .loaded ∧ (s.parts[p]).st ≠ .halted) := fun ⟨hl, hh⟩ => hs.elim hl hh
  show Ends (execReleasePlan s) _ _ _
  unfold execReleasePlan
  exact runPartCmd_ends h hp ((if_neg able).trans rfl)

/-- A released core has an empty store, no bound context, no queued work, and contexts as after a reset. -/
theorem releaseCore_blank (x : Core) : (releaseCore x).store = [] ∧ (releaseCore x).bound = [] ∧ (releaseCore x).mq = [] ∧ ∀ i :
    CtxIx, (releaseCore x).ctx[i] = Ctx.reset :=
  ⟨rfl, rfl, rfl, fun i => Vector.getElem_replicate i.isLt⟩

/-! ### The queries (R46) -/

theorem queryShape_none (h : RunsCmd s 1 c) (hp : partOfCmd s c = some p) (hi : (s.parts[p]).image = none) :
    Ends (exec .queryShape s) s 0 ((List.range 8).map (fun w => (shapeWord s p 0 w).toNat)) := by
  show Ends (execQueryShape s) _ _ _
  unfold execQueryShape
  refine runPartCmd_ends h hp ?_
  rw [hi]
  rfl

theorem queryShape_badArgument (h : RunsCmd s 1 c) (hp : partOfCmd s c = some p) (hi : (s.parts[p]).image = some im) (hl : im.lcores.length ≤ argOf c 0) :
    Ends (exec .queryShape s) s 5 [] := by
  show Ends (execQueryShape s) _ _ _
  unfold execQueryShape
  refine runPartCmd_ends h hp ?_
  rw [hi]
  exact if_pos hl

theorem queryShape_some (h : RunsCmd s 1 c) (hp : partOfCmd s c = some p) (hi : (s.parts[p]).image = some im) (hl : argOf c 0 < im.lcores.length) :
    Ends (exec .queryShape s) s 0 ((List.range 8).map (fun w => (shapeWord s p (argOf c 0) w).toNat)) := by
  show Ends (execQueryShape s) _ _ _
  unfold execQueryShape
  refine runPartCmd_ends h hp ?_
  rw [hi]
  exact if_neg (Nat.not_le.2 hl)

theorem queryPlan_ends (h : RunsCmd s 6 c) (hp : partOfCmd s c = some p) : Ends (exec .queryPlan s) s 0
    [match (s.parts[p]).st with | .empty => 0 | .loaded => 1 | .armed => 2 | .running => 3 | .halted => 4,
      (s.parts[p]).stepNo.toNat, (s.parts[p]).version.toNat, (s.parts[p]).haltCause] := by
  show Ends (execQueryPlan s) _ _ _
  unfold execQueryPlan
  exact runPartCmd_ends h hp rfl

/-! ### Transfers between HBM3 and management SRAM or the host (R48, table PC-8) -/

theorem tags_of_calm (h : calm t = calm s) : t.tags = s.tags := show (calm t).tags = (calm s).tags from congrArg State.tags h

theorem sram_of_calm (h : calm t = calm s) : t.boot.sram = s.boot.sram :=
  show (calm t).boot.sram = (calm s).boot.sram from congrArg (fun s => s.boot.sram) h

theorem keyEpochs_of_calm (h : calm t = calm s) : t.keyEpochs = s.keyEpochs := show (calm t).keyEpochs = (calm s).keyEpochs from congrArg State.keyEpochs h

theorem slotOf_of_calm (h : calm t = calm s) (a : Nat) : slotOf t a = slotOf s a := by
  unfold slotOf
  rw [parts_of_calm h]

/-- A byte of HBM3 depends on the bytes written, the key epochs and the partitions' shares. -/
theorem hbmByte_of_calm (h : calm t = calm s) (a : Nat) : hbmByte t a = hbmByte s a := by
  unfold hbmByte
  simp only [hbm_of_calm h, keyEpochs_of_calm h, slotOf_of_calm h]

theorem tagOf_of_calm (h : calm t = calm s) (b : Nat) : tagOf t b = tagOf s b := by
  unfold tagOf
  rw [tags_of_calm h]

theorem versionedAt_of_calm (h : calm t = calm s) (p : PartIx) (off : Nat) : versionedAt t p off = versionedAt s p off := by
  unfold versionedAt
  rw [parts_of_calm h]

theorem logicalAddr_of_calm (h : calm t = calm s) (p : PartIx) (off : Nat) : logicalAddr t p off = logicalAddr s p off := by
  unfold logicalAddr
  rw [parts_of_calm h]

theorem physAddr_of_unversioned {off : Nat} (h : versionedAt s p off = false) : physAddr s p off = logicalAddr s p off := by
  unfold physAddr
  rw [h]
  rfl

/-- A block for which no request waits is touched at once (R256). -/
theorem settleBlock_none {k : CellarIx} {b : Nat} (h : ∀ y ∈ (s.cellars[k]).pieces, y.base / 4096 ≠ b) : settleBlock s k b = s := by
  have none : (s.cellars[k]).pieces.filter (fun q => q.base / 4096 == b) = [] := List.filter_eq_nil_iff.2 fun y hy => by simp [h y hy]
  unfold settleBlock
  rw [none]
  rfl

/-- 64 bytes that begin at a multiple of 64 lie in one block. -/
theorem blockPieces_64 {off : Nat} (h : off % 64 = 0) : blockPieces off 64 = [(off, 64)] := by
  have one : (off + 64 + 4095) / 4096 - off / 4096 = 1 := by omega
  unfold blockPieces
  rw [one]
  have lo : max off (4096 * (off / 4096 + 0)) = off := by omega
  have hi : min (off + 64) (4096 * (off / 4096 + 0 + 1)) - off = 64 := by omega
  simp only [List.range_one, List.map_cons, List.map_nil, lo, hi]

/-- The byte of a run that is written to a table. -/
theorem tfind_run {bs : List Byte} {j : Nat} (hj : j < bs.length) (base o k : Nat) (m : Tbl Byte) :
    tfind (((bs.zipIdx k).map (fun e => (o + e.2, e.1))).foldl (fun m e => tput m (base + e.1) e.2) m) (base + (o + (k + j))) = some bs[j] := by
  induction bs generalizing k j m with
  | nil => exact absurd hj (Nat.not_lt_zero j)
  | cons x bs ih =>
    rw [List.zipIdx_cons, List.map_cons, List.foldl_cons]
    cases j with
    | zero =>
      rw [tfind_foldl_out, show base + (o + (k + 0)) = base + (o + k) from rfl, tfind_tput_self]
      · rfl
      · intro e he
        obtain ⟨y, hy, rfl⟩ := List.mem_map.1 he
        have later := List.le_snd_of_mem_zipIdx hy
        omega
    | succ j =>
      have next := ih (j := j) (Nat.lt_of_succ_lt_succ hj) (k + 1) (tput m (base + (o + k)) x)
      rw [show k + 1 + j = k + (j + 1) by omega] at next
      exact next

/-- A tag that is written with version 0 shows version 0. -/
theorem wfield_mkTag_zero (crc fold : Nat) : wfield (mkTag crc 0 fold) 31 16 = 0 := by
  unfold wfield mkTag word field place
  simp only [BitVec.toNat_ofNat, Nat.shiftLeft_eq, Nat.shiftRight_eq_div_pow]
  omega

/-- What a window write moves where the hardware reports no uncorrected burst. -/
theorem windowStore_clean {a : Nat} {bs : List Byte} {fold : Nat} (he : Config.readErr s.freeIx ≠ .uncorr) :
    (∀ j (hj : j < bs.length), hbmByte (windowStore s a bs 0 fold) (a + j) = bs[j]) ∧ wfield (tagOf (windowStore s a bs 0 fold) (a / 4096)) 31 16 = 0 := by
  have run : windowStore s a bs 0 fold = looseWrite (bump (countG s 4 bs.length)) (a / 4096)
      ((bs.zipIdx).map (fun e => (a % 4096 + e.2, e.1))) 0 fold := if_neg he
  rw [run]
  constructor
  · intro j hj
    have place : a + j = 4096 * (a / 4096) + (a % 4096 + (0 + j)) := by omega
    rw [place]
    exact congrArg (fun x => Option.getD x _) (tfind_run hj ..)
  · exact (congrArg (fun w => wfield w 31 16) (tagOf_setTag_self ..)).trans (wfield_mkTag_zero ..)

/-- What a window write leaves alone. -/
theorem windowStore_elsewhere (s : State) (a : Nat) (bs : List Byte) (version fold : Nat) :
    (∀ b, b < a ∨ a + bs.length ≤ b → hbmByte (windowStore s a bs version fold) b = hbmByte s b)
    ∧ ∀ b, b ≠ a / 4096 → tagOf (windowStore s a bs version fold) b = tagOf s b := by
  have counted : ∀ u, calm (bump (countG u 4 bs.length)) = calm u := fun u => calm_of_quiet ((quiet_bump _).trans (quiet_countG ..))
  unfold windowStore
  extract_lets x k u
  split
  · have lost : calm (readEvents (logTagFail (bump u) k [.hbmUncorr] (dieOfCellar u k.val).val x) k x [.hbmUncorr]) = calm s :=
      (calm_readEvents ..).trans ((calm_logTagFail ..).trans (counted s))
    exact ⟨fun b _ => hbmByte_of_calm lost b, fun b _ => tagOf_of_calm lost b⟩
  · have ready : calm (spoil (bump u) x (fun _ => false)) = calm s := (calm_modCellar ..).trans (counted s)
    refine ⟨fun b hb => (hbmByte_writeBlock_out _ _ _ _ _ _ _ ?_).trans (hbmByte_of_calm ready b),
      fun b hb => (tagOf_writeBlock_ne _ _ _ _ _ _ _ hb).trans (tagOf_of_calm ready b)⟩
    intro e he
    obtain ⟨y, hy, rfl⟩ := List.mem_map.1 he
    have within := List.snd_lt_of_mem_zipIdx hy
    have whole : 4096 * x + a % 4096 = a := Nat.div_add_mod a 4096
    dsimp only
    omega

theorem windowWrite_eq {off a : Nat} {k : CellarIx} (hv : versionedAt s p off = false) (ha : logicalAddr s p off = a) (hk : cellarOf s (a / 4096) = k)
    (hd : stackDown s k = false) (hn : ∀ y ∈ (s.cellars[k]).pieces, y.base / 4096 ≠ a / 4096) (bs : List Byte) :
    ∃ fold, windowWrite s p off bs = windowStore s a bs 0 fold := by
  subst ha hk
  unfold windowWrite
  simp only [physAddr_of_unversioned hv, hd, settleBlock_none hn, hv, Bool.false_eq_true, if_false]
  exact ⟨_, rfl⟩

/-- The state in which PART_WRITE writes: what it reads from the host is asked for, and each die knows the version to write. -/
def writeStart (s : State) (c : Cmd) (p : PartIx) : State :=
  let s := if argOf c 1 = 0 then s else emit s (.hostRead p (argOf c 2) (argOf c 3))
  { s with cellars := Vector.ofFn (fun i : Fin 12 =>
      if i.val < nStacks s then { s.cellars[i] with winVersion := argOf c 4 % 65536 } else s.cellars[i]) }

theorem calm_writeStart (s : State) (c : Cmd) (p : PartIx) : calm (writeStart s c p) = calm s := by
  have asked : calm (if argOf c 1 = 0 then s else emit s (.hostRead p (argOf c 2) (argOf c 3))) = calm s :=
    ite_keeps calm rfl (calm_of_quiet (quiet_emit ..))
  exact asked

theorem freeIx_writeStart (s : State) (c : Cmd) (p : PartIx) : (writeStart s c p).freeIx = s.freeIx := by
  have asked : (if argOf c 1 = 0 then s else emit s (.hostRead p (argOf c 2) (argOf c 3))).freeIx = s.freeIx :=
    ite_keeps State.freeIx rfl (by rw [emit_frame])
  exact asked

theorem stackDown_writeStart (s : State) (c : Cmd) (p : PartIx) (k : CellarIx) :
    stackDown (writeStart s c p) k = stackDown s k ∧ ((writeStart s c p).cellars[k]).pieces = (s.cellars[k]).pieces := by
  unfold writeStart
  extract_lets u
  have link : u.pkg = s.pkg := ite_keeps State.pkg rfl (by rw [emit_frame])
  have dies : u.cellars = s.cellars := ite_keeps State.cellars rfl (cellars_of_quiet (quiet_emit ..))
  clear_value u
  unfold stackDown
  simp only [Fin.getElem_fin, Vector.getElem_ofFn, link, dies]
  split
  · exact ⟨rfl, rfl⟩
  · exact ⟨rfl, rfl⟩

/-- What PART_WRITE moves: bytes of management SRAM, or of the host. -/
def writeBytes (s : State) (c : Cmd) (host : List Byte) : List Byte := if argOf c 1 = 0 then sramRead s (argOf c 2) (argOf c 3) else host

theorem each_one {α : Type} (x : α) (s : State) (f : State → α → State) : each [x] s f = f s x := rfl

theorem partWrite_ends (h : RunsCmd s 7 c) (hp : partOfCmd s c = some p) (hx : xferError s c p = none) (hl : argOf c 3 = 64)
    (hu : argOf c 1 = 0 ∨ s.pcie.up = true) {host : List Byte} (hh : host.length = 64) :
    Ends (exec (.partWrite host) s) (each (blockPieces (argOf c 0) (argOf c 3)) (writeStart s c p)
      (fun u e => windowWrite u p e.1 (((writeBytes s c host).drop (e.1 - argOf c 0)).take e.2))) 0 [64] := by
  have able : ¬(argOf c 1 = 1 ∧ (!s.pcie.up ∨ host.length ≠ argOf c 3)) := by
    rintro ⟨one, down | short⟩
    · rcases hu with zero | up
      · omega
      · rw [up] at down
        exact absurd down (by decide)
    · exact short (hh.trans hl.symm)
  show Ends (execPartWrite host s) _ _ _
  unfold execPartWrite
  refine runPartCmd_ends h hp ?_
  rw [hx]
  refine (if_neg able).trans ?_
  rw [← hl]
  rfl

theorem aligned_of_xfer (hx : xferError s c p = none) : argOf c 0 % 64 = 0 ∧ argOf c 1 ≤ 1 := by
  unfold xferError at hx
  extract_lets off side other len at hx
  split at hx
  · exact absurd hx nofun
  · split at hx
    · exact absurd hx nofun
    · next hc =>
      simp only [not_or, not_not, not_lt] at hc
      exact ⟨hc.2.1, hc.1⟩

section
variable {off : Nat} (hx : xferError s c p = none) (hl : argOf c 3 = 64) (hv : versionedAt s p (argOf c 0) = false)
  (hd : stackDown s (cellarOf s (logicalAddr s p (argOf c 0) / 4096)) = false)
  (hn : ∀ y ∈ (s.cellars[cellarOf s (logicalAddr s p (argOf c 0) / 4096)]).pieces, y.base / 4096 ≠ logicalAddr s p (argOf c 0) / 4096)
include hx hl hv hd hn

/-- A transfer of 64 bytes to HBM3 is one window write. -/
theorem partWrite_stores {host : List Byte} (hh : host.length = 64) : ∃ fold, each (blockPieces (argOf c 0) (argOf c 3)) (writeStart s c p)
      (fun u e => windowWrite u p e.1 (((writeBytes s c host).drop (e.1 - argOf c 0)).take e.2))
    = windowStore (writeStart s c p) (logicalAddr s p (argOf c 0)) (writeBytes s c host) 0 fold := by
  obtain ⟨aligned, -⟩ := aligned_of_xfer hx
  have start := calm_writeStart s c p
  have size : (writeBytes s c host).length = 64 := by
    unfold writeBytes
    split
    · exact (length_tgetMany ..).trans hl
    · exact hh
  obtain ⟨down, waits⟩ := stackDown_writeStart s c p (cellarOf s (logicalAddr s p (argOf c 0) / 4096))
  obtain ⟨fold, one⟩ := windowWrite_eq ((versionedAt_of_calm start ..).trans hv) (logicalAddr_of_calm start ..) (cellarOf_of_fuses (fuses_of_calm start) _)
    (down.trans hd) (fun y hy => hn y (waits ▸ hy)) (writeBytes s c host)
  have all : ((writeBytes s c host).drop (argOf c 0 - argOf c 0)).take 64 = writeBytes s c host := by
    rw [Nat.sub_self, List.drop_zero, ← size, List.take_length]
  refine ⟨fold, ?_⟩
  rw [hl, blockPieces_64 aligned, each_one]
  dsimp only
  rw [all, one]
end

/-- What a window read gives: as many bytes as asked for, those of HBM3 where the hardware reports no uncorrected burst; it moves nothing. -/
theorem windowRead_spec {off a : Nat} {k : CellarIx} (hv : versionedAt s p off = false) (ha : logicalAddr s p off = a) (hk : cellarOf s (a / 4096) = k)
    (hd : stackDown s k = false) (hn : ∀ y ∈ (s.cellars[k]).pieces, y.base / 4096 ≠ a / 4096) (n : Nat) :
    calm (windowRead s p off n).1 = calm s ∧ (windowRead s p off n).2.length = n
    ∧ (Config.readErr s.freeIx ≠ .uncorr → (windowRead s p off n).2 = (List.range n).map (fun j => hbmByte s (a + j))) := by
  subst ha hk
  have counted : calm (bump (countG s 3 n)) = calm s := calm_of_quiet ((quiet_bump _).trans (quiet_countG ..))
  unfold windowRead windowBytes
  simp only [physAddr_of_unversioned hv, hd, settleBlock_none hn, Bool.false_eq_true, if_false]
  have index : (countG s 3 n).freeIx = s.freeIx := rfl
  by_cases he : Config.readErr s.freeIx = .uncorr
  · rw [index, if_pos he]
    refine ⟨?_, ?_, fun clean => absurd he clean⟩
    · exact (calm_readEvents ..).trans ((calm_logTagFail ..).trans counted)
    · exact (List.length_map ..).trans List.length_range
  · rw [index, if_neg he]
    exact ⟨counted, (List.length_map ..).trans List.length_range, fun _ => rfl⟩

/-- What PART_READ leaves: the bytes read in management SRAM, or on their way to the host. -/
def readDone (c : Cmd) (p : PartIx) (r : State × List Byte) : State :=
  if argOf c 1 = 0 then sramWrite r.1 (argOf c 2) r.2
  else each (piecesOf 512 (argOf c 3 / 512 + 1) (argOf c 2) r.2) r.1 (fun s e => hostWrite s p e.1 e.2)

theorem partRead_ends (h : RunsCmd s 8 c) (hp : partOfCmd s c = some p) (hx : xferError s c p = none) (hl : argOf c 3 = 64)
    (hu : argOf c 1 = 0 ∨ s.pcie.up = true) : Ends (exec .partRead s) (readDone c p (windowRead s p (argOf c 0) 64)) 0 [64] := by
  obtain ⟨aligned, -⟩ := aligned_of_xfer hx
  have able : ¬(argOf c 1 = 1 ∧ (!s.pcie.up) = true) := by
    rintro ⟨one, down⟩
    rcases hu with zero | up
    · omega
    · rw [up] at down
      exact absurd down (by decide)
  show Ends (execPartRead s) _ _ _
  unfold execPartRead
  refine runPartCmd_ends h hp ?_
  rw [hx]
  refine (if_neg able).trans ?_
  dsimp only
  rw [hl, blockPieces_64 aligned]
  unfold readDone
  rw [hl]
  rfl

/-- The host's link is down: the transfer waits (R48). -/
theorem partWrite_waits (h : RunsCmd s 7 c) (hp : partOfCmd s c = some p) (hx : xferError s c p = none) (hs : argOf c 1 = 1) (hu : s.pcie.up = false)
    (host : List Byte) : GoesOn (exec (.partWrite host) s) s := by
  show GoesOn (execPartWrite host s) _
  unfold execPartWrite
  refine runPartCmd_goesOn h hp ?_
  rw [hx]
  exact if_pos ⟨hs, .inl (by rw [hu]; rfl)⟩

theorem partRead_waits (h : RunsCmd s 8 c) (hp : partOfCmd s c = some p) (hx : xferError s c p = none) (hs : argOf c 1 = 1) (hu : s.pcie.up = false) :
    GoesOn (exec .partRead s) s := by
  show GoesOn (execPartRead s) _
  unfold execPartRead
  refine runPartCmd_goesOn h hp ?_
  rw [hx]
  exact if_pos ⟨hs, by rw [hu]; rfl⟩

theorem pwr_of_calm (h : calm t = calm s) : t.pwr = s.pwr := show (calm t).pwr = (calm s).pwr from congrArg State.pwr h

/-- A write to the host of less than a page leaves in one message. -/
theorem piecesOf_one {bs : List Byte} (h : bs.length = 64) (off : Nat) : piecesOf 512 1 off bs = [(off, bs)] := by
  cases bs with
  | nil => exact absurd h (by decide)
  | cons x bs =>
    have whole : (x :: bs).take 512 = x :: bs := List.take_of_length_le (by omega)
    unfold piecesOf
    rw [whole]
    rfl

theorem readDone_host {r : State × List Byte} (hl : argOf c 3 = 64) (hr : r.2.length = 64) (hs : argOf c 1 = 1) :
    readDone c p r = hostWrite r.1 p (argOf c 2) r.2 := by
  unfold readDone
  rw [if_neg (by omega), hl, show 64 / 512 + 1 = 1 from rfl, piecesOf_one hr]
  rfl

theorem getD_tgetMany {n j : Nat} (hj : j < n) (m : Tbl Byte) (off : Nat) : (tgetMany 0 m off n).getD j 0 = tget 0 m (off + j) := by
  induction n generalizing j off with
  | zero => exact absurd hj (Nat.not_lt_zero j)
  | succ n ih =>
    cases j with
    | zero => rfl
    | succ j =>
      have next := ih (Nat.lt_of_succ_lt_succ hj) (off + 1)
      rw [Nat.add_right_comm] at next
      exact next

theorem powered_of_commandable (h : commandable s = true) : s.pwr.powered = true := by
  unfold commandable asleep at h
  cases hw : s.pwr.powered with
  | true => rfl
  | false => rw [hw] at h; exact absurd h (by simp)

/-! ### The obligation -/

theorem loadPlan_fault (h : RunsCmd s 2 c) (hp : partOfCmd s c = some p) (hs : (s.parts[p]).st = .empty) {k i : Nat}
    (hc : loadCheck s p im (argOf c 0) (argOf c 1) = some (k, i)) (hk : k ≠ 1) :
    ∃ t, Ends (exec (.loadPlan im) s) t (0x1000 + k) [k, i] ∧ t.parts = s.parts ∧ t.cores = s.cores ∧ t.hbm = s.hbm ∧ t.mbox = s.mbox
      ∧ ∀ b ks, imageFault s p im.reads (argOf c 0) (argOf c 1) = some (b, ks) → ((t.cellars[cellarOf s b]).tagLog).valid = true := by
  have beyond : ¬k ≤ 1 := by have := loadCheck_ne_zero hc; omega
  have ends := loadPlan_failed h hp hs hc
  rw [if_neg beyond] at ends
  have still := calm_imageRead s p im.reads (argOf c 0) (argOf c 1)
  exact ⟨_, ends, parts_of_calm still, cores_of_calm still, hbm_of_calm still, imageRead_mbox .., fun b ks hf => imageRead_tagLog hf⟩

theorem loadPlan_loads (h : RunsCmd s 2 c) (hp : partOfCmd s c = some p) (hs : (s.parts[p]).st = .empty)
    (hc : loadCheck s p im (argOf c 0) (argOf c 1) = none) : ∃ t, Ends (exec (.loadPlan im) s) t 0 [0] ∧ (t.parts[p]).st = .loaded
      ∧ (t.parts[p]).image = some im ∧ (t.parts[p]).ranStep = false ∧ t.cores = s.cores ∧ t.mbox = s.mbox
      ∧ (t.parts[p]).hists.map (·.id) = (im.tensors.filter hasHistory).map (·.id)
      ∧ ∀ h ∈ (t.parts[p]).hists, ∀ e k, h.place = .sram e → k < h.len → getHist t p h k = HistE.empty := by
  have left := (planLeft_createHists _ p im).trans (planLeft_planLoaded s p im (argOf c 0) (argOf c 1))
  obtain ⟨cores, rest⟩ := Prod.mk.inj left
  obtain ⟨st, rest⟩ := Prod.mk.inj rest
  obtain ⟨image, ran⟩ := Prod.mk.inj rest
  obtain ⟨ids, blank⟩ := createHists_hists (planLoaded s p im (argOf c 0) (argOf c 1)) p im
  exact ⟨_, loadPlan_passed h hp hs hc, st, image, ran, cores, (createHists_mbox ..).trans (planLoaded_mbox ..), ids,
    fun h hh e k he hk => blank h hh e he k hk⟩

theorem arm_arms (h : RunsCmd s 3 c) (hp : partOfCmd s c = some p) (hs : (s.parts[p]).st = .loaded ∨ (s.parts[p]).st = .halted) :
    ∃ t, Ends (exec .arm s) t 0 [] ∧ t.hbm = s.hbm
      ∧ ((t.parts[p]).st = .armed ∨ ((t.parts[p]).st = .halted ∧ (t.parts[p]).haltCause = 2))
      ∧ ((t.parts[p]).st = .armed → (t.parts[p]).stepNo = c.args[0] ∧ (t.parts[p]).version = c.args[1] ∧ (t.parts[p]).attempt = 0
        ∧ ((s.parts[p]).step = .idle → (s.parts[p]).inGroup = true → (t.parts[p]).step = .waitStart)) := by
  refine ⟨_, arm_ends h hp hs, ?_⟩
  have left := planView_armPlan s p c.args[0] c.args[1]
  rw [← planView_armed] at left
  generalize armed s p c.args[0] c.args[1] = t at left
  rcases left with left | left
  · obtain ⟨hbm, fields⟩ := Prod.mk.inj left
    have st : (t.parts[p]).st = .halted := congrArg PlanFields.st fields
    exact ⟨hbm, .inr ⟨st, congrArg PlanFields.haltCause fields⟩, fun armed => absurd (armed.symm.trans st) (by decide)⟩
  · obtain ⟨hbm, fields⟩ := Prod.mk.inj left
    refine ⟨hbm, .inl (congrArg PlanFields.st fields), fun _ => ⟨congrArg PlanFields.stepNo fields, congrArg PlanFields.version fields,
      congrArg PlanFields.attempt fields, fun idle member => ?_⟩⟩
    exact (congrArg PlanFields.step fields).trans (if_pos ⟨idle, member⟩)

theorem haltPlan_halts (h : RunsCmd s 4 c) (hp : partOfCmd s c = some p) (hs : (s.parts[p]).st = .armed) :
    ∃ t, Ends (exec .haltPlan s) t 0 [] ∧ (t.parts[p]).st = .halted ∧ (t.parts[p]).haltCause = 1 ∧ (t.parts[p]).step = .idle := by
  have ends := haltPlan_armed h hp hs
  have view := planView_haltPlan s p 1
  generalize haltPlan s p 1 = t at ends view
  obtain ⟨-, fields⟩ := Prod.mk.inj view
  exact ⟨t, ends, congrArg PlanFields.st fields, congrArg PlanFields.haltCause fields, congrArg PlanFields.step fields⟩

theorem releasePlan_releases (h : RunsCmd s 5 c) (hp : partOfCmd s c = some p) (hs : (s.parts[p]).st = .loaded ∨ (s.parts[p]).st = .halted) :
    ∃ t, Ends (exec .releasePlan s) t 0 [] ∧ (t.parts[p]).st = .empty ∧ (t.parts[p]).image = none
      ∧ (∀ n, n ∈ coresOf s p → (t.cores[n]).store = [] ∧ (t.cores[n]).bound = [] ∧ (t.cores[n]).mq = [] ∧ ∀ i : CtxIx, ctxOf t n i = Ctx.reset)
      ∧ ((∀ (d : DieIx) (e : Nat × SCtx), e ∈ (s.sluices[d]).ctxs → e.2.part ≠ p) → ∀ n, n ∉ coresOf s p → t.cores[n] = s.cores[n]) := by
  obtain ⟨st, image⟩ := releasePlan_part s p
  have cores := cores_releasePlan s p
  refine ⟨_, releasePlan_ends h hp hs, st, image, fun n hn => ?_, fun away n hn => ?_⟩
  · obtain ⟨x, hx⟩ := (each_modCore releaseCore n (coresOf s p) (endStreams (abandon s p 3) p)).1 hn
    have core : (releasePlan s p).cores[n] = releaseCore x := (congrArg (fun v : Vector Core 40 => v[n]) cores).trans hx
    unfold ctxOf
    rw [core]
    exact releaseCore_blank x
  · have stays := (each_modCore releaseCore n (coresOf s p) (endStreams (abandon s p 3) p)).2 hn
    have none := cores_endStreams (s := abandon s p 3) (p := p) (fun d e he => away d e (sluices_abandon s p 3 ▸ he))
    exact (congrArg (fun v : Vector Core 40 => v[n]) cores).trans (stays.trans (congrArg (fun v : Vector Core 40 => v[n]) (none.trans (cores_abandon ..))))

section
variable (hp : partOfCmd s c = some p) (hx : xferError s c p = none) (hl : argOf c 3 = 64) (hv : versionedAt s p (argOf c 0) = false) {a : Nat}
  (ha : logicalAddr s p (argOf c 0) = a) (hd : stackDown s (cellarOf s (a / 4096)) = false)
  (hn : ∀ y ∈ (s.cellars[cellarOf s (a / 4096)]).pieces, y.base / 4096 ≠ a / 4096) (hu : argOf c 1 = 0 ∨ s.pcie.up = true)
include hp hx hl hv ha hd hn hu

theorem partWrite_moves (h : RunsCmd s 7 c) {host : List Byte} (hh : host.length = 64) : ∃ t, Ends (exec (.partWrite host) s) t 0 [64]
    ∧ (Config.readErr s.freeIx ≠ .uncorr →
        (∀ j, j < 64 → hbmByte t (a + j) = if argOf c 1 = 0 then tget 0 s.boot.sram (argOf c 2 + j) else host.getD j 0) ∧ wfield (tagOf t
            (a / 4096)) 31 16 = 0)
    ∧ (∀ b, b < a ∨ a + 64 ≤ b → hbmByte t b = hbmByte s b) ∧ ∀ b, b ≠ a / 4096 → tagOf t b = tagOf s b := by
  subst ha
  obtain ⟨fold, stores⟩ := partWrite_stores hx hl hv hd hn hh
  have ends := partWrite_ends h hp hx hl hu hh
  rw [stores] at ends
  have start := calm_writeStart s c p
  have size : (writeBytes s c host).length = 64 := by
    unfold writeBytes
    split
    · exact (length_tgetMany ..).trans hl
    · exact hh
  obtain ⟨bytes, tags⟩ := windowStore_elsewhere (writeStart s c p) (logicalAddr s p (argOf c 0)) (writeBytes s c host) 0 fold
  refine ⟨_, ends, fun clean => ?_, fun b hb => (bytes b (size ▸ hb)).trans (hbmByte_of_calm start b), fun b hb => (tags b hb).trans
      (tagOf_of_calm start b)⟩
  obtain ⟨written, version⟩ := windowStore_clean (a := logicalAddr s p (argOf c 0)) (bs := writeBytes s c host) (fold := fold)
    ((freeIx_writeStart s c p).symm ▸ clean)
  refine ⟨fun j hj => (written j (size ▸ hj)).trans ?_, version⟩
  rw [List.getElem_eq_getD (fallback := 0)]
  unfold writeBytes
  split
  · exact getD_tgetMany (hl ▸ hj) ..
  · rfl

theorem partRead_moves (h : RunsCmd s 8 c) : ∃ t, Ends (exec .partRead s) t 0 [64] ∧ t.hbm = s.hbm ∧ t.tags = s.tags
    ∧ (argOf c 1 = 0 → (Config.readErr s.freeIx ≠ .uncorr → ∀ j, j < 64 → tget 0 t.boot.sram (argOf c 2 + j) = hbmByte s (a + j))
        ∧ ∀ b, b < argOf c 2 ∨ argOf c 2 + 64 ≤ b → tget 0 t.boot.sram b = tget 0 s.boot.sram b)
    ∧ (argOf c 1 = 1 → t.boot.sram = s.boot.sram ∧ (Config.readErr s.freeIx ≠ .uncorr → s.pwr.lost = false →
        t.egress.getLast? = some (.hostWrite p (argOf c 2) ((List.range 64).map (fun j => hbmByte s (a + j)))))) := by
  obtain ⟨still, size, bytes⟩ := windowRead_spec hv ha rfl hd hn 64
  have ends := partRead_ends h hp hx hl hu
  generalize windowRead s p (argOf c 0) 64 = r at still size bytes ends
  obtain ⟨-, side⟩ := aligned_of_xfer hx
  refine ⟨_, ends, ?_⟩
  have cases : argOf c 1 = 0 ∨ argOf c 1 = 1 := by omega
  rcases cases with zero | one
  · have done : readDone c p r = sramWrite r.1 (argOf c 2) r.2 := if_pos zero
    have hbm : r.1.hbm = s.hbm := hbm_of_calm still
    have tags : r.1.tags = s.tags := tags_of_calm still
    rw [done]
    refine ⟨hbm, tags, fun _ => ⟨fun clean j hj => ?_, fun b hb => ?_⟩, fun one => absurd (zero.symm.trans one) (by decide)⟩
    · refine (tget_tsetMany_in 0 r.1.boot.sram (argOf c 2) j r.2 (size ▸ hj)).trans ?_
      rw [bytes clean, List.getD_eq_getElem?_getD, List.getElem?_map, List.getElem?_range hj]
      rfl
    · exact (tget_tsetMany_out 0 r.1.boot.sram (argOf c 2) b r.2 (size ▸ hb)).trans (congrArg (fun m => tget 0 m b) (sram_of_calm still))
  · rw [readDone_host hl size one]
    have sent := calm_of_quiet (quiet_hostWrite r.1 p (argOf c 2) r.2)
    refine ⟨(hbm_of_calm sent).trans (hbm_of_calm still), (tags_of_calm sent).trans (tags_of_calm still), fun zero => absurd (one.symm.trans zero)
        (by decide),
      fun _ => ⟨(sram_of_calm sent).trans (sram_of_calm still), fun clean kept => ?_⟩⟩
    have awake : s.pwr.powered = true := powered_of_commandable h.able
    have may : canSend (countG r.1 7 r.2.length) (.hostWrite p (argOf c 2) r.2) = true := by
      show (r.1.pwr.powered && !r.1.pwr.lost) = true
      rw [pwr_of_calm still, awake, kept]
      rfl
    unfold hostWrite
    rw [emit_egress may, List.getLast?_concat, bytes clean]
end

/-- Settles O48: each command's work, one lemma for each of its outcomes. -/
theorem planCommands : Obligations.PlanCommands := by
  unfold Obligations.PlanCommands
  intro s c p hp q
  refine ⟨fun im h => ⟨loadPlan_wrongState h hp, fun k i hs hc => ⟨fun hk => ?_, loadPlan_fault h hp hs hc⟩, loadPlan_loads h hp⟩,
    fun h => ⟨arm_wrongState h hp, arm_arms h hp⟩,
    fun h => ⟨haltPlan_halts h hp, haltPlan_running h hp, haltPlan_wrongState h hp⟩,
    fun h => ⟨releasePlan_wrongState h hp, releasePlan_releases h hp⟩,
    fun h => ⟨queryShape_none h hp, fun im hi => ⟨queryShape_badArgument h hp hi, queryShape_some h hp hi⟩⟩,
    fun h => queryPlan_ends h hp,
    fun hl hx hv _ hd hn => ⟨fun h hu host hh => partWrite_moves hp hx hl hv rfl hd hn hu h hh, fun h hu => partRead_moves hp hx hl hv rfl hd hn hu h⟩,
    fun hx hs hu => ⟨fun h host => partWrite_waits h hp hx hs hu host, fun h => partRead_waits h hp hx hs hu⟩⟩
  subst hk
  exact loadPlan_failed h hp hs hc

end Sys2Proof.Machine
end

section
/-! What becomes of the frames of a step on arrival: data, credits, contributions, tokens, digests and the data of a manifest; and the obligation on
them (O45). -/

namespace Sys2Proof.Machine

variable {s t : State}

/-! ### How a frame is answered (R351, R370, R371) -/

theorem quiet_dackFor (s : State) (h : Arrival) : quiet (dackFor s h) = quiet s := by
  unfold dackFor
  split
  · rfl
  · exact quiet_sendFrame ..

theorem quiet_countNoTarget (s : State) (h : Arrival) : quiet (countNoTarget s h) = quiet s := quiet_modPortDie ..

theorem quiet_noTarget (s : State) (h : Arrival) : quiet (noTarget s h) = quiet s := (quiet_dackFor ..).trans (quiet_countNoTarget ..)

theorem quiet_stale (s : State) (h : Arrival) : quiet (stale s h) = quiet s := (quiet_dackFor ..).trans (quiet_modPortDie ..)

theorem quiet_sendRetry (s : State) (h : Arrival) (p : PartIx) (b : FBody) : quiet (sendRetry s h p b) = quiet s := by
  unfold sendRetry
  split
  · exact quiet_sendFrame ..
  · exact quiet_fab ..

theorem hall_of_quiet (h : quiet t = quiet s) : t.hall = s.hall := show (quiet t).hall = (quiet s).hall from congrArg State.hall h

/-- What a frame that takes no effect leaves alone. -/
def Untaken (u t : State) : Prop := t.hall = u.hall ∧ t.hbm = u.hbm ∧ t.parts = u.parts ∧ t.cellars = u.cellars ∧ t.sluices = u.sluices

theorem Untaken.of_quiet (h : quiet t = quiet s) : Untaken s t := ⟨hall_of_quiet h, hbm_of_quiet h, parts_of_quiet h, cellars_of_quiet h,
    sluices_of_quiet h⟩

/-! The frames without a target that a port die has counted -/

/-- The frames without a target that a port die has counted. -/
def noTargets (d : PortDieIx) (s : State) : Nat := (s.fab.dies[d]).noTarget

theorem modPort_noTargets (d : PortDieIx) (s : State) (x : PortIx) (f : Port → Port) : noTargets d (modPort s x f) = noTargets d s := rfl

theorem emit_noTargets (d : PortDieIx) (s : State) (o : Out) : noTargets d (emit s o) = noTargets d s := by rw [emit_frame]; rfl

theorem modPortDie_noTargets {f : PortDie → PortDie} (hf : ∀ x, (f x).noTarget = x.noTarget) (d e : PortDieIx) (s : State) :
    noTargets d (modPortDie s e f) = noTargets d s := by
  unfold noTargets
  by_cases h : d = e
  · subst h
    exact (congrArg PortDie.noTarget (modPortDie_self ..)).trans (hf _)
  · exact congrArg PortDie.noTarget (modPortDie_ne _ _ _ _ h)

theorem sendVlcredit_noTargets (d : PortDieIx) (s : State) (f : PortIx) (key len : Nat) : noTargets d (sendVlcredit s f key len) = noTargets d s :=
  ite_keeps (noTargets d) ((emit_noTargets ..).trans rfl) rfl

theorem freeIngress_noTargets (d : PortDieIx) (s : State) (e : Egress) : noTargets d (freeIngress s e) = noTargets d s := by
  unfold freeIngress
  split
  · rfl
  · exact (sendVlcredit_noTargets ..).trans (modPort_noTargets ..)

theorem launch_noTargets (d : PortDieIx) (s : State) (f : PortIx) (fr : Frame) : noTargets d (launch s f fr) = noTargets d s := by
  unfold launch
  refine (emit_noTargets ..).trans ((modPort_noTargets ..).trans (optional_keeps (noTargets d) ((emit_noTargets ..).trans (modPort_noTargets ..))
    (ite_keeps (noTargets d) ?_ rfl)))
  split
  · rfl
  · rfl

theorem pumpN_noTargets (d : PortDieIx) (s : State) (f : PortIx) (fuel : Nat) : noTargets d (pumpN s f fuel) = noTargets d s := by
  induction fuel generalizing s with
  | zero => rfl
  | succ fuel ih =>
    unfold pumpN
    refine ite_keeps (noTargets d) rfl ?_
    split
    · rfl
    · exact (ih _).trans ((freeIngress_noTargets ..).trans ((launch_noTargets ..).trans (modPort_noTargets ..)))

theorem sendFrame_noTargets (d : PortDieIx) (s : State) (spart dpart dest vl : Nat) (b : FBody) :
    noTargets d (sendFrame s spart dpart dest vl b) = noTargets d s := by
  unfold sendFrame
  refine ite_keeps (noTargets d) rfl ?_
  dsimp only
  split
  · exact (pumpN_noTargets ..).trans ((modPort_noTargets ..).trans (modPortDie_noTargets (by intro; rfl) ..))
  · exact modPortDie_noTargets (by intro; rfl) ..

theorem dackFor_noTargets (d : PortDieIx) (s : State) (h : Arrival) : noTargets d (dackFor s h) = noTargets d s := by
  unfold dackFor
  split
  · rfl
  · exact sendFrame_noTargets ..

/-- A frame without a target is counted on the die of its port (R370). -/
theorem noTarget_counts {h : Arrival} {f : PortIx} (hf : h.port = some f) (s : State) :
    ((noTarget s h).fab.dies[portDieOf f]).noTarget = satAdd (s.fab.dies[portDieOf f]).noTarget 1 0xFFFF := by
  refine (dackFor_noTargets (portDieOf f) ..).trans ?_
  unfold countNoTarget noTargets
  rw [hf]
  exact congrArg PortDie.noTarget (modPortDie_self ..)

/-! ### Data (R271, R351, R371) -/

section
variable {u : State} {h : Arrival} {chan pos att st : Nat} {bytes : List Byte} (ha : arrive s h (.put chan pos att st bytes) false = .ok u)
include ha

theorem exec_put : exec (.put h chan pos att st bytes) s = if !taking u h.dpart then .next (noTarget u h) else
    match tagOfFrame u h.dpart att st with
    | .now =>
      match channelOf u h.dpart chan with
      | some c => if c.kind = 0 then .next (dackFor (putAccepted u h c pos bytes (.put chan pos att st bytes)) h) else .next (noTarget u h)
      | none => .next (noTarget u h)
    | .waiting => .next (sendRetry u h h.dpart (.put chan pos att st bytes))
    | .later => .next (sendRetry u h h.dpart (.put chan pos att st bytes))
    | .next => .next (sendRetry u h h.dpart (.put chan pos att st bytes))
    | .stale => .next (stale u h) := by
  show execPut h chan pos att st bytes s = _
  unfold execPut
  rw [ha] <;> rfl

theorem put_untargeted (ht : taking u h.dpart = false) : ∃ t, exec (.put h chan pos att st bytes) s = .next t ∧ Untaken u t
    ∧ ∀ f, h.port = some f → (t.fab.dies[portDieOf f]).noTarget = satAdd (u.fab.dies[portDieOf f]).noTarget 1 0xFFFF := by
  refine ⟨noTarget u h, ?_, .of_quiet (quiet_noTarget u h), fun f hf => noTarget_counts hf u⟩
  rw [exec_put ha, ht]
  rfl

/-- Data of another time change no memory: a stale frame is counted, one of a later time is answered with RETRY (R351). -/
theorem put_untimely (ht : taking u h.dpart = true)
    (hg : tagOfFrame u h.dpart att st = .stale ∨ tagOfFrame u h.dpart att st = .later ∨ tagOfFrame u h.dpart att st = .next
      ∨ tagOfFrame u h.dpart att st = .waiting) :
    ∃ t, exec (.put h chan pos att st bytes) s = .next t ∧ Untaken u t := by
  rw [exec_put ha, ht]
  rcases hg with hg | hg | hg | hg
  · rw [hg]; exact ⟨_, rfl, .of_quiet (quiet_stale ..)⟩
  · rw [hg]; exact ⟨_, rfl, .of_quiet (quiet_sendRetry ..)⟩
  · rw [hg]; exact ⟨_, rfl, .of_quiet (quiet_sendRetry ..)⟩
  · rw [hg]; exact ⟨_, rfl, .of_quiet (quiet_sendRetry ..)⟩
end

/-- Writes elsewhere leave a place as it is. -/
theorem tget_writes_away {at' : Nat → Nat} {l : List (Nat × Byte)} {a : Nat} (h : ∀ e ∈ l, at' e.1 ≠ a) (m : Tbl Byte) :
    tget 0 (l.foldl (fun m e => tset 0 m (at' e.1) e.2) m) a = tget 0 m a := by
  induction l generalizing m with
  | nil => rfl
  | cons e l ih => exact (ih (fun x hx => h x (List.mem_cons_of_mem _ hx)) _).trans (tget_tset_ne _ _ _ _ _ (h e List.mem_cons_self).symm)

/-- Writes to distinct places leave each value where it was written. -/
theorem tget_writes {at' : Nat → Nat} {bs : List Byte} {k : Nat} (hd : ∀ i j, i < k + bs.length → j < k + bs.length → at' i = at' j → i = j) {j : Nat}
    (hj : j < bs.length) (m : Tbl Byte) :
    tget 0 (((List.range' k bs.length).zip bs).foldl (fun m e => tset 0 m (at' e.1) e.2) m) (at' (k + j)) = bs[j] := by
  induction bs generalizing k j m with
  | nil => exact absurd hj (Nat.not_lt_zero j)
  | cons b bs ih =>
    rw [List.length_cons, List.range'_succ, List.zip_cons_cons, List.foldl_cons]
    rw [List.length_cons] at hd hj
    cases j with
    | zero =>
      refine (tget_writes_away (fun e he => ?_) _).trans (tget_tset_self ..)
      have later := List.mem_range'_1.1 (List.of_mem_zip he).1
      exact fun same => by have := hd e.1 (k + 0) (by omega) (by omega) same; omega
    | succ j =>
      have next := ih (k := k + 1) (j := j) (fun i j hi hj => hd i j (by omega) (by omega)) (by omega) (tset 0 m (at' k) b)
      rw [show k + 1 + j = k + (j + 1) by omega] at next
      exact next

/-- The place in a ring of a byte of the stream. -/
def ringPlace (base size pos i : Nat) : Nat := base + (pos + i) % size

theorem ringPlace_inj {base size pos i j : Nat} (hi : i < size) (hj : j < size) (h : ringPlace base size pos i = ringPlace base size pos j) : i = j := by
  unfold ringPlace at h
  have same : (pos + i) % size = (pos + j) % size := by omega
  have close : i % size = j % size := Nat.ModEq.add_left_cancel' pos same
  rwa [Nat.mod_eq_of_lt hi, Nat.mod_eq_of_lt hj] at close

/-- The bytes of a frame in the landing ring of one die. -/
def ringPut (s : State) (p : PartIx) (c : ChannelE) (pos : Nat) (bytes : List Byte) (d : DieIx) : State :=
  let put := fun (t : Tbl Byte) (e : Nat × Byte) => tset 0 t (ringPlace ((hallView s p d).1 + c.ring) (max 1 (4096 * c.ringPages)) pos e.1) e.2
  { s with hall := s.hall.set d.val (((List.range bytes.length).zip bytes).foldl put s.hall[d]) d.isLt }

theorem ringWrite_hall (s : State) (p : PartIx) (c : ChannelE) (pos : Nat) (bytes : List Byte) :
    (ringWrite s p c pos bytes).hall = (each (ringDies s p c.channel) s (fun s d => ringPut s p c pos bytes d)).hall := rfl

theorem ringWrite_hbm (s : State) (p : PartIx) (c : ChannelE) (pos : Nat) (bytes : List Byte) : (ringWrite s p c pos bytes).hbm = s.hbm :=
  each_keeps State.hbm (f := fun s d => ringPut s p c pos bytes d) (fun _ _ => by rfl) (ringDies s p c.channel) s

theorem ringWrite_cellars (s : State) (p : PartIx) (c : ChannelE) (pos : Nat) (bytes : List Byte) : (ringWrite s p c pos bytes).cellars = s.cellars :=
  each_keeps State.cellars (f := fun s d => ringPut s p c pos bytes d) (fun _ _ => by rfl) (ringDies s p c.channel) s

theorem ringPut_self {bytes : List Byte} {c : ChannelE} (hf : bytes.length ≤ 4096 * c.ringPages) {j : Nat} (hj : j < bytes.length) (s : State)
    (p : PartIx) (pos : Nat) (d : DieIx) :
    tget 0 ((ringPut s p c pos bytes d).hall[d]) ((hallView s p d).1 + c.ring + (pos + j) % (4096 * c.ringPages)) = bytes.getD j 0 := by
  have size : max 1 (4096 * c.ringPages) = 4096 * c.ringPages := by omega
  have there := tget_writes (at' := ringPlace ((hallView s p d).1 + c.ring) (4096 * c.ringPages) pos) (bs := bytes) (k := 0)
    (fun i j hi hj => ringPlace_inj (by omega) (by omega)) hj s.hall[d]
  rw [Nat.zero_add, ← List.range_eq_range'] at there
  unfold ringPut
  rw [size, ← List.getElem_eq_getD (h := hj)]
  exact (congrArg (fun m => tget 0 m _) (getElem_set_self' s.hall d _)).trans there

/-- The landing rings of the dies that a channel reaches hold the bytes of the frame. -/
theorem ringPuts_hall {bytes : List Byte} {c : ChannelE} (hf : bytes.length ≤ 4096 * c.ringPages) {j : Nat} (hj : j < bytes.length)
    (p : PartIx) (pos : Nat) (d : DieIx) (l : List DieIx)
    (s : State) (hd : d ∈ l ∨ tget 0 s.hall[d] ((hallView s p d).1 + c.ring + (pos + j) % (4096 * c.ringPages)) = bytes.getD j 0) :
    tget 0 ((each l s (fun s d => ringPut s p c pos bytes d)).hall[d])
        ((hallView s p d).1 + c.ring + (pos + j) % (4096 * c.ringPages)) = bytes.getD j 0 := by
  induction l generalizing s with
  | nil => exact hd.resolve_left List.not_mem_nil
  | cons e l ih =>
    refine ih (ringPut s p c pos bytes e) ?_
    by_cases he : d = e
    · subst he
      exact .inr (ringPut_self hf hj s p pos d)
    · refine hd.imp (fun hm => (List.mem_cons.1 hm).resolve_left he) (fun hb => ?_)
      exact (congrArg (fun m => tget 0 m _) (getElem_set_ne' s.hall e d _ he)).trans hb

theorem put_lands {u : State} {h : Arrival} {chan pos att st : Nat} {bytes : List Byte} (ha : arrive s h (.put chan pos att st bytes) false = .ok u)
    {c : ChannelE} (ht : taking u h.dpart = true) (hg : tagOfFrame u h.dpart att st = .now) (hc : channelOf u h.dpart chan = some c) (hk : c.kind = 0)
    (hs : ∀ d ∈ ringDies u h.dpart c.channel, asleep u (sluiceDom d) = false) :
    ∃ t, exec (.put h chan pos att st bytes) s = .next t ∧ t.hbm = u.hbm ∧ t.cellars = u.cellars
      ∧ ∀ (d : DieIx) (j : Nat), d ∈ ringDies u h.dpart c.channel → j < bytes.length → bytes.length ≤ 4096 * c.ringPages →
        tget 0 t.hall[d] ((hallView u h.dpart d).1 + c.ring + (pos + j) % (4096 * c.ringPages)) = bytes.getD j 0 := by
  have awake : (ringDies u h.dpart c.channel).any (fun d => asleep u (sluiceDom d)) = false :=
    List.any_eq_false.2 fun d hd => by rw [hs d hd]; exact Bool.false_ne_true
  have lands : putAccepted u h c pos bytes (.put chan pos att st bytes) = ringWrite u h.dpart c pos bytes :=
    if_neg (by rw [awake]; exact Bool.false_ne_true)
  have answered := quiet_dackFor (ringWrite u h.dpart c pos bytes) h
  refine ⟨dackFor (ringWrite u h.dpart c pos bytes) h, ?_, (hbm_of_quiet answered).trans (ringWrite_hbm ..),
      (cellars_of_quiet answered).trans (ringWrite_cellars ..), fun d j hd hj hf => ?_⟩
  · rw [exec_put ha, ht, hg, hc]
    exact (if_pos hk).trans (by rw [lands])
  · rw [hall_of_quiet answered, ringWrite_hall]
    exact ringPuts_hall hf hj h.dpart pos d _ u (.inl hd)

/-! ### Credits (R270, R371) -/

section
variable {u : State} {h : Arrival} {chan limit att st : Nat} (ha : arrive s h (.credit chan limit att st) false = .ok u) (ht : taking u h.dpart = true)
include ha ht

theorem credit_held (hg : tagOfFrame u h.dpart att st = .next ∨ tagOfFrame u h.dpart att st = .later) :
    exec (.credit h chan limit att st) s = .next { u with
    parts := u.parts.set h.dpart.val { u.parts[h.dpart] with
      credHeld := (u.parts[h.dpart]).credHeld ++ [⟨h.src, h.spart, chan, limit, att, st⟩] } h.dpart.isLt } := by
  show execCredit h chan limit att st s = _
  unfold execCredit
  rw [ha]
  dsimp only
  rw [ht]
  rcases hg with hg | hg
  · rw [hg]; rfl
  · rw [hg]; rfl

theorem exec_credit (hg : tagOfFrame u h.dpart att st = .now ∨ tagOfFrame u h.dpart att st = .waiting) :
    exec (.credit h chan limit att st) s = .next (applyCredit u h.dpart h.src h.spart chan limit) := by
  show execCredit h chan limit att st s = _
  unfold execCredit
  rw [ha]
  dsimp only
  rw [ht]
  rcases hg with hg | hg
  · rw [hg]; rfl
  · rw [hg]; rfl
end

/-- A credit changes nothing but the record of its partition. -/
theorem applyCredit_frame (u : State) (p : PartIx) (src spart chan limit : Nat) :
    applyCredit u p src spart chan limit = { u with parts := (applyCredit u p src spart chan limit).parts } := by
  unfold applyCredit
  split
  · rfl
  · rfl

/-- A credit raises the limit of the destinations that it names, and of no others (R270). -/
theorem applyCredit_limits {u : State} {p : PartIx} {im : Image} (hi : (u.parts[p]).image = some im) (src spart chan limit : Nat) {k : Nat}
    {e : SendSt} {c : ChannelE}
    (he : (u.parts[p]).sends[k]? = some e) (hc : im.channels.find? (fun c => c.channel == e.channel) = some c) :
    ∃ e', ((applyCredit u p src spart chan limit).parts[p]).sends[k]? = some e' ∧ e'.channel = e.channel
      ∧ ∀ (j : Nat) dest old, c.dests[j]? = some dest →
      e.limits[j]? = some old → e'.limits[j]? = some (if rankNode u p dest.1 = (src, spart) ∧ dest.2 = chan then max old limit else old) := by
  unfold applyCredit
  rw [hi]
  dsimp only
  rw [modPart_self, List.getElem?_map, he]
  refine ⟨_, rfl, ?_⟩
  dsimp only
  rw [hc]
  refine ⟨rfl, fun j dest old hd ho => ?_⟩
  have both : (c.dests.zip e.limits)[j]? = some (dest, old) := List.getElem?_zip_eq_some.2 ⟨hd, ho⟩
  rw [List.getElem?_map, both]
  rfl

/-! ### Digests (R405) -/

theorem modDigests_self (s : State) (p : PartIx) (f : Digests → Digests) : (modDigests s p f).sed.digests[p] = f s.sed.digests[p] := getElem_set_self' ..

section
variable {u : State} {h : Arrival} {group : W32} {sender : Nat} {v : Word} {d : BitVec 256} (ha : arrive s h (.digest group sender v d) false = .ok u)
include ha

theorem exec_digest : exec (.digest h group sender v d) s = if group != (u.parts[h.dpart]).group then .next u
    else if (u.sed.digests[h.dpart]).own.any (fun e => e.1 == v) then .next (compareDigest u h.dpart sender v d)
    else if (u.sed.digests[h.dpart]).own.any (fun e => decide (v.toNat < e.1.toNat)) then .next u
    else .next (modDigests u h.dpart (fun x => { x with peers := x.peers.filter (fun y => !(decide
        (y.1 = sender ∧ y.2.1 = v))) ++ [(sender, v, d)] })) := by
  show execDigest h group sender v d s = _
  unfold execDigest
  rw [ha]

theorem digest_other (hg : group ≠ (u.parts[h.dpart]).group) : exec (.digest h group sender v d) s = .next u := by
  rw [exec_digest ha]
  exact if_pos (bne_iff_ne.2 hg)

theorem digest_held (hg : group = (u.parts[h.dpart]).group) (ho : (u.sed.digests[h.dpart]).own = []) :
    ∃ t, exec (.digest h group sender v d) s = .next t ∧ (sender, v, d) ∈ (t.sed.digests[h.dpart]).peers ∧
        (t.sed.digests[h.dpart]).own = [] ∧ t.parts = u.parts := by
  rw [exec_digest ha, if_neg (by simp [hg]), ho]
  refine ⟨_, rfl, ?_, ?_, rfl⟩
  · rw [modDigests_self]
    exact List.mem_append_right _ List.mem_cons_self
  · rw [modDigests_self]
    exact ho
end

theorem emit_sed (s : State) (o : Out) : (emit s o).sed = s.sed := by rw [emit_frame]

theorem reserveSeq_sed (s : State) : (reserveSeq s).sed = s.sed :=
  ite_keeps State.sed rfl (ite_keeps State.sed rfl (ite_keeps State.sed (emit_sed _ _) rfl))

theorem partReport_sed (s : State) (p : PartIx) (code : Nat) (detail : List Nat) : (partReport s p code detail).sed = s.sed :=
  ite_keeps State.sed ((emit_sed _ _).trans (reserveSeq_sed s)) ((emit_sed _ _).trans (reserveSeq_sed s))

/-- A digest that is compared is held no more, and counts as agreed or is reported (R405). -/
theorem compareDigest_judges {p : PartIx} {sender : Nat} {v : Word} (ho : ∃ y ∈ (s.sed.digests[p]).own, y.1 = v) (d : BitVec 256) :
    (∀ y ∈ ((compareDigest s p sender v d).sed.digests[p]).peers, ¬(y.1 = sender ∧ y.2.1 = v))
    ∧ (((compareDigest s p sender v d).sed.digests[p]).agreed = (s.sed.digests[p]).agreed + 1
      ∨ ((compareDigest s p sender v d).sed.digestErr = true ∧ reported (compareDigest s p sender v d) 0x25 p.val [v.toNat, sender])) := by
  obtain ⟨y, hy, rfl⟩ := ho
  have found : ((s.sed.digests[p]).own.find? (fun e => e.1 == y.1)).isSome = true := List.find?_isSome.2 ⟨y, hy, beq_self_eq_true _⟩
  obtain ⟨e, he⟩ := Option.isSome_iff_exists.1 found
  unfold compareDigest
  rw [he]
  dsimp only
  generalize hu : modDigests s p (fun x => { x with peers := x.peers.filter (fun z => !(decide (z.1 = sender ∧ z.2.1 = y.1))) }) = u
  have dropped : u.sed.digests[p] = { s.sed.digests[p] with peers := (s.sed.digests[p]).peers.filter (fun z => !(decide (z.1 = sender ∧ z.2.1 = y.1))) } :=
    hu ▸ modDigests_self ..
  have gone : ∀ z ∈ (u.sed.digests[p]).peers, ¬(z.1 = sender ∧ z.2.1 = y.1) := by
    intro z hz
    rw [dropped] at hz
    simpa only [Bool.not_eq_true', decide_eq_false_iff_not] using (List.mem_filter.1 hz).2
  by_cases hd : digestAs (u.parts[p]).group sender y.1 e.2 = d
  · rw [if_pos hd, modDigests_self]
    exact ⟨gone, .inl (by rw [dropped])⟩
  · rw [if_neg hd]
    have sed := partReport_sed (modSed u (fun x => { x with digestErr := true })) p 0x25 [y.1.toNat, sender]
    have digests := congrArg (fun x : Sed => x.digests[p]) sed
    exact ⟨fun z hz => gone z (digests ▸ hz), .inr ⟨congrArg Sed.digestErr sed, reported_sendReport ..⟩⟩

theorem digest_compared {u : State} {h : Arrival} {group : W32} {sender : Nat} {v : Word} {d : BitVec 256}
    (ha : arrive s h (.digest group sender v d) false = .ok u)
    (hg : group = (u.parts[h.dpart]).group) (ho : ∃ y ∈ (u.sed.digests[h.dpart]).own, y.1 = v) :
    ∃ t, exec (.digest h group sender v d) s = .next t ∧ t.parts = u.parts ∧ t.hbm = u.hbm
      ∧ (∀ y ∈ (t.sed.digests[h.dpart]).peers, ¬(y.1 = sender ∧ y.2.1 = v))
      ∧ ((t.sed.digests[h.dpart]).agreed = (u.sed.digests[h.dpart]).agreed + 1
        ∨ (t.sed.digestErr = true ∧ reported t 0x25 h.dpart.val [v.toNat, sender])) := by
  have own : (u.sed.digests[h.dpart]).own.any (fun e => e.1 == v) = true := by
    obtain ⟨y, hy, hv⟩ := ho
    exact List.any_eq_true.2 ⟨y, hy, beq_iff_eq.2 hv⟩
  obtain ⟨gone, judged⟩ := compareDigest_judges (sender := sender) ho d
  have still := quiet_compareDigest u h.dpart sender v d
  refine ⟨compareDigest u h.dpart sender v d, ?_, parts_of_quiet still, hbm_of_quiet still, gone, judged⟩
  rw [exec_digest ha, if_neg (by simp [hg])]
  exact if_pos own

/-! ### The data of a manifest (R274) -/

section
variable {u : State} {h : Arrival} {off len : Nat} {obj : Word} {bytes : List Byte} (ha : arrive s h (.storeData off len obj bytes) false = .ok u)
include ha

theorem exec_storeData : exec (.storeData h off len obj bytes ()) s = if h.src != (u.parts[h.dpart]).ckp.cfg.storeNode then .next u
    else .next (manifestData u h.dpart off obj bytes) := by
  show execStoreData h off len obj bytes () s = _
  unfold execStoreData
  rw [ha]

theorem storeData_stranger (hn : h.src ≠ (u.parts[h.dpart]).ckp.cfg.storeNode) : exec (.storeData h off len obj bytes ()) s = .next u := by
  rw [exec_storeData ha]
  exact if_pos (bne_iff_ne.2 hn)

theorem storeData_begins {w : CkpWr} (hn : h.src = (u.parts[h.dpart]).ckp.cfg.storeNode) (hw : (u.parts[h.dpart]).ckp.wr = some w)
    (hr : w.phase = .reading)
    (ho : obj = ownObj u h.dpart 3 (u.parts[h.dpart]).ckp.lastCut) (hz : off = 0) :
    exec (.storeData h off len obj bytes ()) s = .next (beginData u h.dpart (deltaOf (u.parts[h.dpart]).ckp (parseManifest w.key obj bytes))) := by
  rw [exec_storeData ha, if_neg (by simp [hn])]
  unfold manifestData
  dsimp only
  rw [hw]
  exact congrArg _ (if_pos ⟨hr, ho, hz⟩)
end

/-- The writer that begins to send: a delta on the object of the manifest, or a whole image (R274). -/
theorem beginData_writer {p : PartIx} {w : CkpWr} (hw : (s.parts[p]).ckp.wr = some w) (m : Option Manifest) :
    ∃ w', ((beginData s p m).parts[p]).ckp.wr = some w'
    ∧ w'.phase = .sending ∧ w'.delta = m.isSome ∧ w'.depth = (match m with | some x => x.depth + 1 | none => 0)
    ∧ w'.prev = (match m with | some _ => (s.parts[p]).ckp.lastCut | none => w.cut) ∧ w'.base = (match m with | some x => x.base | none => w.cut) := by
  unfold beginData modCkp
  rw [modPart_self]
  dsimp only
  rw [hw]
  exact ⟨_, rfl, rfl, rfl, rfl, rfl, rfl⟩

theorem storeData_sends {u : State} {h : Arrival} {off len : Nat} {obj : Word} {bytes : List Byte}
    (ha : arrive s h (.storeData off len obj bytes) false = .ok u)
    {w : CkpWr} (hn : h.src = (u.parts[h.dpart]).ckp.cfg.storeNode) (hw : (u.parts[h.dpart]).ckp.wr = some w) (hr : w.phase = .reading)
    (ho : obj = ownObj u h.dpart 3 (u.parts[h.dpart]).ckp.lastCut) (hz : off = 0) :
    ∃ t w', exec (.storeData h off len obj bytes ()) s = .next t ∧ (t.parts[h.dpart]).ckp.wr = some w' ∧ w'.phase = .sending ∧ t.hbm = u.hbm
      ∧ ((parseManifest w.key obj bytes).valid = true → (parseManifest w.key obj bytes).depth + 1 < (u.parts[h.dpart]).ckp.cfg.baseEvery →
        w'.delta = true ∧ w'.depth = (parseManifest w.key obj bytes).depth + 1 ∧ w'.prev = (u.parts[h.dpart]).ckp.lastCut ∧ w'.base =
            (parseManifest w.key obj bytes).base)
      ∧ ((parseManifest w.key obj bytes).valid = false ∨ (u.parts[h.dpart]).ckp.cfg.baseEvery ≤ (parseManifest w.key obj bytes).depth + 1 →
        w'.delta = false ∧ w'.depth = 0 ∧ w'.prev = w.cut ∧ w'.base = w.cut) := by
  have runs := storeData_begins (len := len) ha hn hw hr ho hz
  generalize parseManifest w.key obj bytes = m at runs ⊢
  obtain ⟨w', writer, phase, delta, depth, prev, base⟩ := beginData_writer hw (deltaOf (u.parts[h.dpart]).ckp m)
  refine ⟨_, w', runs, writer, phase, rfl, fun valid deep => ?_, fun invalid => ?_⟩
  · have some : deltaOf (u.parts[h.dpart]).ckp m = some m := if_pos ⟨valid, deep⟩
    rw [some] at delta depth prev base
    exact ⟨delta, depth, prev, base⟩
  · have none : deltaOf (u.parts[h.dpart]).ckp m = none := if_neg fun ⟨valid, deep⟩ =>
      invalid.elim (fun no => absurd (valid.symm.trans no) (by decide)) (fun shallow => absurd deep (by omega))
    rw [none] at delta depth prev base
    exact ⟨delta, depth, prev, base⟩

/-! ### Tokens (R45, R228, R273) -/

theorem held_of_standing (h : standing t = standing s) (d : DieIx) : (t.sluices[d]).held = (s.sluices[d]).held := by
  have same := congrArg (fun v : Vector (Option Allot) 8 × Vector (List Tok) 2 => v.2[d]) h
  simpa [standing] using same

theorem standing_wakeCtx (s : State) (n : CoreIx) (i : CtxIx) : standing (wakeCtx s n i) = standing s := ite_keeps standing (standing_modCtx ..) rfl

theorem standing_wakePart (s : State) (p : PartIx) : standing (wakePart s p) = standing s :=
  each_keeps standing (fun _ n => (standing_flowSwitch ..).trans ((standing_modCore ..).trans (each_keeps standing
      (fun s i => standing_wakeCtx s n i) ..))) ..

theorem standing_reportLost (s : State) (c : CellarIx) (b : Nat) : standing (reportLost s c b) = standing s := by
  unfold reportLost
  dsimp only
  split
  · exact (standing_of_quiet (quiet_partReport ..)).trans (standing_modCellar ..)
  · exact (standing_of_quiet (quiet_devReport ..)).trans (standing_modCellar ..)

theorem standing_engineReadFails (s : State) (p : PartIx) (source b : Nat) (ks : List TagCause) :
    standing (engineReadFails s p source b ks) = standing s :=
  (standing_failStep ..).trans ((standing_beginStop ..).trans ((standing_reportLost ..).trans
    ((standing_of_calm (calm_readEvents ..)).trans (standing_of_calm (calm_logTagFail ..)))))

theorem standing_activateOn (s : State) (c : CellarIx) (p : PartIx) (e : BindingE) (k : Nat) : standing (activateOn s c p e k) = standing s := by
  have settled : ∀ b, standing (countG (settleBlock s (cellarOf s b) b) 3 64) = standing s := fun b =>
    (standing_of_quiet (quiet_countG ..)).trans (standing_settleBlock ..)
  unfold activateOn
  dsimp only
  split
  · exact standing_modCellar ..
  · next t _ =>
    have kept := settled (physAddr s p t.base / 4096)
    generalize countG (settleBlock s (cellarOf s (physAddr s p t.base / 4096)) (physAddr s p t.base / 4096)) 3 64 = u at kept
    split
    · exact (standing_modCellar ..).trans ((standing_of_quiet (quiet_bump _)).trans (optional_keeps standing (standing_of_calm (calm_cured ..)) kept))
    · exact (standing_engineReadFails ..).trans ((standing_of_quiet (quiet_bump _)).trans kept)

theorem standing_activate (s : State) (p : PartIx) : standing (activate s p) = standing s := by
  unfold activate
  split
  · rfl
  · exact each_keeps standing (fun s c => ite_keeps standing rfl
      (each_keeps standing (fun s ek => ite_keeps standing rfl (standing_activateOn ..)) ..)) ..

/-- A die holds the token of a barrier from a source. -/
def Holds (s : State) (p : PartIx) (k : Nat) (src : BSource) (d : DieIx) : Prop := ∃ y ∈ (s.sluices[d]).held, y.part = p ∧ y.barrier = k ∧ y.src = src

theorem judgeToken_parts (s : State) (d : DieIx) (x : Tok) : (judgeToken s d x).parts = s.parts :=
  ite_keeps State.parts rfl (ite_keeps State.parts rfl rfl)

/-- A token of the step and attempt is held once it is judged. -/
theorem judgeToken_holds {x : Tok} (hs : x.step = (s.parts[x.part]).stepNo) (ha : x.attempt = (s.parts[x.part]).attempt)
    (hp : active s x.part = true) (d : DieIx) :
    Holds (judgeToken s d x) x.part x.barrier x.src d := by
  have timely : ¬(x.step ≠ (s.parts[x.part]).stepNo ∨ x.attempt ≠ (s.parts[x.part]).attempt ∨ (!active s x.part) = true) := by simp [hs, ha, hp]
  unfold judgeToken
  dsimp only
  rw [if_neg timely]
  by_cases hd : (s.sluices[d]).held.any (fun h => decide (h.part = x.part ∧ h.barrier = x.barrier ∧ h.src = x.src)) = true
  · rw [if_pos hd]
    obtain ⟨y, hy, same⟩ := List.any_eq_true.1 hd
    refine ⟨y, ?_, of_decide_eq_true same⟩
    rw [modSluice_self]
    exact hy
  · rw [if_neg hd]
    refine ⟨x, ?_, rfl, rfl, rfl⟩
    rw [modSluice_self]
    exact List.mem_append_right _ List.mem_cons_self

/-- Another die judges a token without a change to what this one holds. -/
theorem judgeToken_away (s : State) (x : Tok) {d e : DieIx} (h : d ≠ e) : (judgeToken s e x).sluices[d] = s.sluices[d] :=
  ite_keeps (fun s => s.sluices[d]) (modSluice_ne _ _ _ _ h) (ite_keeps (fun s => s.sluices[d]) (modSluice_ne _ _ _ _ h) (modSluice_ne _ _ _ _ h))

theorem judgeTokens_hold {x : Tok} {d : DieIx} {l : List DieIx} (hs : x.step = (s.parts[x.part]).stepNo) (ha : x.attempt = (s.parts[x.part]).attempt)
    (hp : active s x.part = true) (hd : d ∈ l ∨ Holds s x.part x.barrier x.src d) :
        Holds (each l s (fun s d => judgeToken s d x)) x.part x.barrier x.src d := by
  induction l generalizing s with
  | nil => exact hd.resolve_left List.not_mem_nil
  | cons e l ih =>
    have parts := judgeToken_parts s e x
    refine ih (s := judgeToken s e x) (by rw [parts]; exact hs) (by rw [parts]; exact ha) (by unfold active at hp ⊢; rw [parts]; exact hp) ?_
    by_cases he : d = e
    · subst he
      exact .inr (judgeToken_holds hs ha hp d)
    · refine hd.imp (fun hm => (List.mem_cons.1 hm).resolve_left he) (fun hh => ?_)
      unfold Holds
      rw [judgeToken_away s x he]
      exact hh

/-- A record that the vestibule has room for joins it, and nothing else of the partition changes (R310). -/
theorem capture_room {p : PartIx} {r : VRec} (hr : (s.parts[p]).vestUsed + vestSize r ≤ (match (s.parts[p]).allot with | none => 0 | some a => a.vest))
    (step : Word) (attempt : Nat) : (capture s p step attempt r).parts[p] = { s.parts[p] with
      vest := (s.parts[p]).vest ++ [⟨step, attempt, r⟩], vestUsed := (s.parts[p]).vestUsed + vestSize r } := by
  unfold capture
  dsimp only
  refine (congrArg (fun u : State => u.parts[p]) (if_pos hr)).trans ?_
  split
  · exact (congrArg (fun v : Vector Machine.Part 8 => v[p]) (parts_of_quiet (quiet_sendTwin ..))).trans (modPart_self ..)
  · exact (congrArg (fun v : Vector Machine.Part 8 => v[p]) (parts_of_quiet (quiet_sendTwin ..))).trans (modPart_self ..)
  · exact modPart_self ..

/-- The dies that wait for a barrier are known from the image and the cores that its logical cores are bound to. -/
theorem waiterDies_of_part {p : PartIx} (hi : (t.parts[p]).image = (s.parts[p]).image) (hb : (t.parts[p]).bind = (s.parts[p]).bind) (k : Nat) :
    waiterDies t p k = waiterDies s p k := by
  unfold waiterDies coreOf
  rw [hi, hb]

theorem active_of_taking {p : PartIx} (h : taking s p = true) : active s p = true := (Bool.and_eq_true_iff.1 h).1

section
variable {u : State} {h : Arrival} {rank lcore k att st : Nat} (ha : arrive s h (.token rank lcore k att st) false = .ok u) (ht : taking u h.dpart = true)
  (hg : tagOfFrame u h.dpart att st = .now) {b : BarrierE} (hb : barrierOf u h.dpart k = some b)
include ha ht hg hb

theorem exec_token : exec (.token h rank lcore k att st) s = if !b.sources.contains (.remote rank lcore) then .next (noTarget u h) else
    .next (dackFor (activate (wakePart (each (waiterDies (capture u h.dpart (u.parts[h.dpart]).stepNo (u.parts[h.dpart]).attempt
        (.tok k rank lcore)) h.dpart k)
      (capture u h.dpart (u.parts[h.dpart]).stepNo (u.parts[h.dpart]).attempt (.tok k rank lcore))
      (fun s d => judgeToken s d ⟨h.dpart, k, .remote rank lcore, (u.parts[h.dpart]).stepNo, (u.parts[h.dpart]).attempt⟩)) h.dpart) h.dpart) h) := by
  show execToken h rank lcore k att st s = _
  unfold execToken
  rw [ha]
  dsimp only
  rw [ht, hg, hb]
  rfl

theorem token_untargeted (hn : b.sources.contains (.remote rank lcore) = false) : ∃ t, exec (.token h rank lcore k att st) s = .next t ∧ Untaken u t := by
  rw [exec_token ha ht hg hb, hn]
  exact ⟨_, rfl, .of_quiet (quiet_noTarget ..)⟩

theorem token_held (hn : b.sources.contains (.remote rank lcore) = true)
    (hr : vestSize (.tok k rank lcore) + (u.parts[h.dpart]).vestUsed ≤ (match (u.parts[h.dpart]).allot with | some a => a.vest | none => 0)) :
    ∃ t, exec (.token h rank lcore k att st) s = .next t ∧ ∀ d : DieIx, d ∈ waiterDies u h.dpart k → Holds t h.dpart k (.remote rank lcore) d := by
  have room : (u.parts[h.dpart]).vestUsed + vestSize (.tok k rank lcore) ≤ (match (u.parts[h.dpart]).allot with | none => 0 | some a => a.vest) := by
    cases hs : (u.parts[h.dpart]).allot with
    | none => rw [hs] at hr; simp only at hr ⊢; omega
    | some a => rw [hs] at hr; simp only at hr ⊢; omega
  have record := capture_room room (u.parts[h.dpart]).stepNo (u.parts[h.dpart]).attempt
  rw [exec_token ha ht hg hb, hn]
  generalize capture u h.dpart (u.parts[h.dpart]).stepNo (u.parts[h.dpart]).attempt (.tok k rank lcore) = v at record
  refine ⟨_, rfl, fun d hd => ?_⟩
  have waits : waiterDies v h.dpart k = waiterDies u h.dpart k := waiterDies_of_part (by rw [record]) (by rw [record]) k
  have on : active v h.dpart = true := by
    have was := active_of_taking ht
    unfold active at was ⊢
    rw [record]
    exact was
  have holds := judgeTokens_hold (s := v) (x := ⟨h.dpart, k, .remote rank lcore, (u.parts[h.dpart]).stepNo, (u.parts[h.dpart]).attempt⟩)
      (l := waiterDies v h.dpart k)
    (by dsimp only; rw [record]) (by dsimp only; rw [record]) on (.inl (waits.symm ▸ hd))
  have later := fun w => held_of_standing ((standing_of_quiet (quiet_dackFor (activate (wakePart w h.dpart) h.dpart) h)).trans
    ((standing_activate ..).trans (standing_wakePart w h.dpart))) d
  unfold Holds
  rw [later]
  exact holds
end

/-! ### Contributions (R270, R271, R273, R274) -/

/-- The cellar dies and HBM3. -/
def stored (s : State) : Vector Cellar 12 × Tbl Byte := (s.cellars, s.hbm)

theorem stored_of_still (h : still t = still s) : stored t = stored s := congrArg (fun x : Still => (x.cellars, x.hbm)) h

theorem stored_of_quiet (h : quiet t = quiet s) : stored t = stored s := congrArg₂ Prod.mk (cellars_of_quiet h) (hbm_of_quiet h)

theorem stored_capture (s : State) (p : PartIx) (step : Word) (attempt : Nat) (r : VRec) : stored (capture s p step attempt r) = stored s := by
  unfold capture
  refine ite_keeps stored ?_ (stored_of_still ((still_failStep ..).trans ((still_beginStop ..).trans ((still_partReport ..).trans (still_modPart ..)))))
  dsimp only
  split
  · exact (stored_of_quiet (quiet_sendTwin ..)).trans rfl
  · exact (stored_of_quiet (quiet_sendTwin ..)).trans rfl
  · rfl

/-- A contribution that was taken is kept in the vestibule and answered; neither the cellar dies nor HBM3 change. -/
theorem stored_keep (s : State) (h : Arrival) (step : Word) (attempt : Nat) (r : VRec) :
    stored (dackFor (capture s h.dpart step attempt r) h) = stored s :=
  (stored_of_quiet (quiet_dackFor ..)).trans (stored_capture ..)

/-- The sums and the parked contributions of a die's reduction engine. -/
def engine (c : CellarIx) (s : State) : List RSum × List Parked := ((s.cellars[c]).upd.sums, (s.cellars[c]).upd.parked)

theorem modUpd_self (s : State) (c : CellarIx) (f : Upd → Upd) : ((modUpd s c f).cellars[c]).upd = f (s.cellars[c]).upd :=
  congrArg Cellar.upd (modCellar_self ..)

theorem engine_updBoundary (s : State) (c : CellarIx) : engine c (updBoundary s c) = engine c s :=
  ite_keeps (engine c) rfl ((congrArg (fun x : Upd => (x.sums, x.parked)) (modUpd_self ..)).trans rfl)

theorem hbm_updBoundary (s : State) (c : CellarIx) : (updBoundary s c).hbm = s.hbm := ite_keeps State.hbm rfl rfl

theorem engine_kept (s : State) (h : Arrival) (step : Word) (attempt : Nat) (r : VRec) (c : CellarIx) :
    engine c (updBoundary (dackFor (capture s h.dpart step attempt r) h) c) = engine c s :=
  (engine_updBoundary ..).trans (congrArg (fun v : Vector Cellar 12 × Tbl Byte => (v.1[c].upd.sums, v.1[c].upd.parked)) (stored_keep s h step attempt r))

theorem hbm_kept (s : State) (h : Arrival) (step : Word) (attempt : Nat) (r : VRec) (c : CellarIx) :
    (updBoundary (dackFor (capture s h.dpart step attempt r) h) c).hbm = s.hbm :=
  (hbm_updBoundary ..).trans (congrArg Prod.snd (stored_keep s h step attempt r))

/-- Where a granule has no sum and is not written, its first contribution is the next. -/
theorem nextPos_first {x : Upd} {p : PartIx} {r : ReductionE} {g : Nat} (hs : ∀ y ∈ x.sums, y.granule ≠ g) (hw : (p, r.id, g) ∉ x.written) :
    nextPos x p r g = 0 := by
  have none : x.sums.find? (fun y => decide (y.part = p ∧ y.red = r.id ∧ y.granule = g)) = none :=
    List.find?_eq_none.2 fun y hy => by simp [hs y hy]
  unfold nextPos
  rw [if_neg (by simpa using hw), none]

theorem drainParked_nothing {x : Upd} (h : x.parked = []) (p : PartIx) (step : Word) (r : ReductionE) (g fuel : Nat) :
    drainParked x p step r g fuel = x := by
  cases fuel with
  | zero => rfl
  | succ fuel =>
    unfold drainParked
    rw [h]
    split
    · rfl
    · rfl

/-- A sum that waits for a rank stays open. -/
theorem closeSum_open {c : CellarIx} {p : PartIx} {r : ReductionE} {g : Nat}
    (h : ∀ y ∈ (s.cellars[c]).upd.sums, y.granule = g → y.next < r.ranks.length) :
    closeSum s c p r g = s := by
  unfold closeSum
  split
  · rfl
  · next y hy =>
    have found := List.find?_some hy
    exact if_pos (h y (List.mem_of_find?_eq_some hy) (of_decide_eq_true found).2.2)

/-- A first contribution opens the sum of its granule (R270). -/
theorem contribute_first {c : CellarIx} {p : PartIx} {r : ReductionE} {g : Nat} (hl : 1 < r.ranks.length) (hr : updStopped s.cellars[c] = false)
    (hp : (s.cellars[c]).upd.parked = []) (hf : 0 < freeSlots (s.cellars[c]).upd) (hs : ∀ y ∈ (s.cellars[c]).upd.sums, y.granule ≠ g)
    (hw : (p, r.id, g) ∉ (s.cellars[c]).upd.written) (vals : List W32) :
    contribute s c p r g 0 vals = (modUpd s c (fun u => { u with sums := u.sums ++ [⟨p, r.id, g, 1, vals⟩] }), true) := by
  have opens : modUpd s c (fun u => drainParked { u with sums := u.sums ++ [⟨p, r.id, g, 1, vals⟩] } p (s.parts[p]).stepNo r g r.ranks.length)
      = modUpd s c (fun u => { u with sums := u.sums ++ [⟨p, r.id, g, 1, vals⟩] }) := by
    unfold modUpd modCellar
    dsimp only
    rw [drainParked_nothing (x := { (s.cellars[c]).upd with sums := (s.cellars[c]).upd.sums ++ [⟨p, r.id, g, 1, vals⟩] }) hp]
  unfold contribute
  dsimp only
  rw [nextPos_first hs hw, if_neg (Nat.lt_irrefl 0), hr, if_neg (by simp), if_neg (by omega)]
  refine Prod.ext ((congrArg (fun u => closeSum u c p r g) opens).trans (closeSum_open fun y hy hg => ?_)) rfl
  rw [modUpd_self] at hy
  rcases List.mem_append.1 hy with hy | hy
  · exact absurd hg (hs y hy)
  · rw [List.mem_singleton.1 hy]
    exact hl

/-- What becomes of a contribution that the engine parks for the next step. -/
theorem contribTake_soon {u v : State} {h : Arrival} {red fmt rank g att st : Nat} {e : Int} {raws : List Nat} {c : CellarIx}
    (hd : contribDie u h.dpart red g = some c) (hk : park u c ⟨h.dpart, red, g, rank, (u.parts[h.dpart]).stepNo + 1, contribVals fmt e raws⟩ = (v, true)) :
    contribTake u h red fmt e rank g att st ⟨raws, ⟨none, false⟩⟩ true
      = .next (updBoundary (dackFor (capture v h.dpart ((u.parts[h.dpart]).stepNo + 1) att (.contrib red g rank fmt e raws)) h) c) := by
  have clear : stagingFault u c h.dpart ⟨none, false⟩ = (u, false) := rfl
  unfold contribTake
  rw [hd]
  dsimp only
  rw [clear]
  dsimp only
  rw [if_pos rfl, hk]

/-- What becomes of a contribution to the current step, by whether the reduction lists it. -/
theorem contribTake_unlisted {u : State} {h : Arrival} {red fmt rank g att st : Nat} {e : Int} {raws : List Nat} {r : ReductionE} {c : CellarIx}
    (hd : contribDie u h.dpart red g = some c) (hr : reductionOf u h.dpart red = some r) (hl : listed u h.dpart r rank g = false) :
    contribTake u h red fmt e rank g att st ⟨raws, ⟨none, false⟩⟩ false = .next (dackFor (countUpd u h.dpart red g true) h) := by
  have clear : stagingFault u c h.dpart ⟨none, false⟩ = (u, false) := rfl
  unfold contribTake
  rw [hd]
  dsimp only
  rw [clear]
  dsimp only
  rw [if_neg Bool.false_ne_true, hr, Option.filter_some, if_neg (by rw [hl]; exact Bool.false_ne_true)]

theorem contribTake_listed {u v : State} {h : Arrival} {red fmt rank g att st : Nat} {e : Int} {raws : List Nat} {r : ReductionE} {c : CellarIx}
    (hd : contribDie u h.dpart red g = some c) (hr : reductionOf u h.dpart red = some r) (hl : listed u h.dpart r rank g = true)
    (hk : contribute u c h.dpart r g (r.ranks.idxOf rank) (contribVals fmt e raws) = (v, true)) :
    contribTake u h red fmt e rank g att st ⟨raws, ⟨none, false⟩⟩ false
      = .next (updBoundary (dackFor (capture v h.dpart (u.parts[h.dpart]).stepNo att (.contrib red g rank fmt e raws)) h) c) := by
  have clear : stagingFault u c h.dpart ⟨none, false⟩ = (u, false) := rfl
  unfold contribTake
  rw [hd]
  dsimp only
  rw [clear]
  dsimp only
  rw [if_neg Bool.false_ne_true, hr, Option.filter_some, if_pos hl]
  dsimp only
  rw [hk]

section
variable {u : State} {h : Arrival} {red fmt rank g att st : Nat} {e : Int} {raws : List Nat} {r : ReductionE} {t0 : TensorE} {c : CellarIx}
  (ha : arrive s h (.contrib red fmt e rank g att st raws) false = .ok u) (ht : taking u h.dpart = true) (hr : reductionOf u h.dpart red = some r)
  (hm : r.ranks.contains rank = true) (hx : tensorOf u h.dpart r.target = some t0) (hc : deputyOf u (granuleStack u h.dpart t0 g) = some c)

include hr hx hc in
theorem contribDie_serves : contribDie u h.dpart red g = some c := by
  unfold contribDie
  rw [hr]
  dsimp only [Option.bind]
  rw [hx]
  exact hc

include ha ht in
theorem exec_contrib_now (hg : tagOfFrame u h.dpart att st = .now) : exec (.contrib h red fmt e rank g att st ⟨raws, ⟨none, false⟩⟩) s
    = contribTake u h red fmt e rank g att st ⟨raws, ⟨none, false⟩⟩ false := by
  refine (execContrib_arrived ha).trans ?_
  rw [ht, hg]
  rfl

include ha ht in
theorem exec_contrib_next (hg : tagOfFrame u h.dpart att st = .next) : exec (.contrib h red fmt e rank g att st ⟨raws, ⟨none, false⟩⟩) s
    = contribTake u h red fmt e rank g att st ⟨raws, ⟨none, false⟩⟩ true := by
  refine (execContrib_arrived ha).trans ?_
  rw [ht, hg]
  rfl

include ha ht hr hx hc

/-- A contribution for the next step is parked where a slot beyond the reserve is free (R271, R273). -/
theorem contrib_parked (hg : tagOfFrame u h.dpart att st = .next) (hf : (u.cellars[c]).upd.reserve < freeSlots (u.cellars[c]).upd) :
    ∃ t, exec (.contrib h red fmt e rank g att st ⟨raws, ⟨none, false⟩⟩) s = .next t
      ∧ (t.cellars[c]).upd.parked = (u.cellars[c]).upd.parked ++ [⟨h.dpart, red, g, rank,
          (u.parts[h.dpart]).stepNo + 1, contribVals fmt e raws⟩] ∧ t.hbm = u.hbm := by
  refine ⟨_, (exec_contrib_next ha ht hg).trans (contribTake_soon (contribDie_serves hr hx hc) (if_pos hf)),
    (congrArg Prod.snd (engine_kept ..)).trans ?_, (hbm_kept ..).trans rfl⟩
  exact congrArg Upd.parked (modUpd_self ..)

/-- A contribution beyond its target is counted and changes no memory (R274). -/
theorem contrib_unlisted (hg : tagOfFrame u h.dpart att st = .now) (hf : elements t0 ≤ 1024 * g) :
    ∃ t, exec (.contrib h red fmt e rank g att st ⟨raws, ⟨none, false⟩⟩) s = .next t ∧ t.hbm = u.hbm ∧ t.parts = u.parts ∧ t.hall = u.hall
      ∧ (t.cellars[c]).upd = { (u.cellars[c]).upd with unlisted := satAdd (u.cellars[c]).upd.unlisted 1 0xFFFF } := by
  have serves := contribDie_serves hr hx hc
  have beyond : listed u h.dpart r rank g = false := by
    unfold listed
    rw [hx]
    simp [hf]
  have counted : countUpd u h.dpart red g true = modUpd u c (fun x => { x with unlisted := satAdd x.unlisted 1 0xFFFF }) := by
    unfold countUpd
    rw [serves]
    rfl
  have answered := quiet_dackFor (countUpd u h.dpart red g true) h
  refine ⟨_, (exec_contrib_now ha ht hg).trans (contribTake_unlisted serves hr beyond), (hbm_of_quiet answered).trans rfl,
      (parts_of_quiet answered).trans rfl,
    (hall_of_quiet answered).trans rfl, ?_⟩
  rw [cellars_of_quiet answered, counted]
  exact modUpd_self ..

include hm

/-- The contribution of the first rank opens the sum of its granule (R270). -/
theorem contrib_opens (hg : tagOfFrame u h.dpart att st = .now) (hf : 1024 * g < elements t0) (hi : r.ranks.idxOf rank = 0) (hl : 1 < r.ranks.length)
    (hn : updStopped u.cellars[c] = false) (hp : (u.cellars[c]).upd.parked = []) (hs : 0 < freeSlots (u.cellars[c]).upd)
    (hy : ∀ y ∈ (u.cellars[c]).upd.sums, y.granule ≠ g) (hw : (h.dpart, r.id, g) ∉ (u.cellars[c]).upd.written) :
    ∃ t, exec (.contrib h red fmt e rank g att st ⟨raws, ⟨none, false⟩⟩) s = .next t
      ∧ (t.cellars[c]).upd.sums = (u.cellars[c]).upd.sums ++ [⟨h.dpart, r.id, g, 1, contribVals fmt e raws⟩] ∧ t.hbm = u.hbm := by
  have within : listed u h.dpart r rank g = true := by
    unfold listed
    rw [hm, hx]
    simp [hf]
  have opens := contribute_first hl hn hp hs hy hw (contribVals fmt e raws)
  rw [← hi] at opens
  refine ⟨_, (exec_contrib_now ha ht hg).trans (contribTake_listed (contribDie_serves hr hx hc) hr within opens),
    (congrArg Prod.fst (engine_kept ..)).trans ?_, (hbm_kept ..).trans rfl⟩
  exact congrArg Upd.sums (modUpd_self ..)
end

/-- Settles O45: frame by frame, what `exec` answers once the frame has arrived. A frame that takes no effect changes only what `quiet` leaves out; what
answers, captures or wakes keeps the landing rings, the engines, the held tokens and HBM3. -/
theorem stepFramesAreJudged : Obligations.StepFramesAreJudged := by
  unfold Obligations.StepFramesAreJudged
  intro s u h
  refine ⟨fun chan pos att st bytes ha => ⟨put_untargeted ha, put_untimely ha, fun c => put_lands ha⟩, fun chan limit att st ha ht =>
    ⟨fun hg => ?_, credit_held ha ht⟩,
    fun red fmt e rank g att st raws r t0 c ha ht hr hm hx hc => ⟨contrib_parked ha ht hr hx hc, contrib_unlisted ha ht hr hx hc,
        contrib_opens ha ht hr hm hx hc⟩,
    fun rank lcore k att st b ha ht hg hb => ⟨token_untargeted ha ht hg hb, token_held ha ht hg hb⟩,
    fun sender v d group ha => ⟨digest_other ha, digest_held ha, digest_compared ha⟩,
    fun off len obj bytes ha => ⟨storeData_stranger ha, fun w => storeData_sends ha⟩⟩
  exact ⟨_, exec_credit ha ht hg, applyCredit_frame .., fun im hi k e c he hc => applyCredit_limits hi h.src h.spart chan limit he hc⟩

end Sys2Proof.Machine
end

section
/-! The scalar arithmetic, comparison and predicate instructions (O3, O4, O5, O6): what each function of the tables CC-6 to CC-9 computes, in the words of
the statements; where an instruction issues, its frame is that of `scalar_writes` and `predicate_writes`. -/

namespace Sys2Proof.Machine

/-! ### Table CC-6 -/

/-- The smaller of two words, with a sign (table CC-6). -/
theorem alu_min (a b : Word) : alu .min a b = BitVec.ofInt 64 (min a.toInt b.toInt) := by
  show (if a.toInt ≤ b.toInt then a else b) = _
  split
  · next h => rw [min_eq_left h, BitVec.ofInt_toInt]
  · next h => rw [min_eq_right (by omega), BitVec.ofInt_toInt]

/-- The larger of two words, with a sign (table CC-6). -/
theorem alu_max (a b : Word) : alu .max a b = BitVec.ofInt 64 (max a.toInt b.toInt) := by
  show (if b.toInt ≤ a.toInt then a else b) = _
  split
  · next h => rw [max_eq_left h, BitVec.ofInt_toInt]
  · next h => rw [max_eq_right (by omega), BitVec.ofInt_toInt]

/-- The smaller of two words, without a sign (table CC-6). -/
theorem alu_minu (a b : Word) : alu .minu a b = BitVec.ofNat 64 (min a.toNat b.toNat) := by
  show (if a ≤ b then a else b) = _
  split
  · next h => rw [min_eq_left (BitVec.le_def.mp h), BitVec.ofNat_toNat, BitVec.setWidth_eq]
  · next h => rw [min_eq_right (Nat.le_of_not_le (mt BitVec.le_def.mpr h)), BitVec.ofNat_toNat, BitVec.setWidth_eq]

/-- The larger of two words, without a sign (table CC-6). -/
theorem alu_maxu (a b : Word) : alu .maxu a b = BitVec.ofNat 64 (max a.toNat b.toNat) := by
  show (if b ≤ a then a else b) = _
  split
  · next h => rw [max_eq_left (BitVec.le_def.mp h), BitVec.ofNat_toNat, BitVec.setWidth_eq]
  · next h => rw [max_eq_right (Nat.le_of_not_le (mt BitVec.le_def.mpr h)), BitVec.ofNat_toNat, BitVec.setWidth_eq]

theorem clz64_le (w : Word) : clz64 w ≤ 64 := by unfold clz64; split <;> omega

theorem toNat_ne_zero {w : Word} (h : w ≠ 0) : w.toNat ≠ 0 := fun e => h (BitVec.eq_of_toNat_eq e)

/-- The highest set bit of a word lies below bit 64. -/
theorem log2_toNat_lt {w : Word} (h : w ≠ 0) : Nat.log2 w.toNat < 64 := (Nat.log2_lt (toNat_ne_zero h)).mpr w.isLt

/-- Above its highest set bit a word has zeros. -/
theorem getMsbD_of_lt_clz64 {w : Word} {j : Nat} (h : j < clz64 w) : w.getMsbD j = false := by
  unfold clz64 at h
  split at h
  · next h0 => simp [h0]
  · next h0 =>
    have above : w.toNat < 2 ^ (63 - j) := lt_of_lt_of_le Nat.lt_log2_self (Nat.pow_le_pow_right (by decide) (by omega))
    rw [BitVec.getMsbD, BitVec.getLsbD, Nat.testBit_lt_two_pow above, Bool.and_false]

/-- The leading zeros of a word end at a set bit. -/
theorem getMsbD_clz64 {w : Word} (h : clz64 w < 64) : w.getMsbD (clz64 w) = true := by
  unfold clz64 at h ⊢
  split at h
  · omega
  · next h0 =>
    have top := log2_toNat_lt h0
    rw [if_neg h0, BitVec.getMsbD, BitVec.getLsbD, show 64 - 1 - (63 - Nat.log2 w.toNat) = Nat.log2 w.toNat by omega,
      Nat.testBit_log2 (toNat_ne_zero h0), decide_eq_true h, Bool.and_true]

/-- A two-operand instruction of table CC-6, where it issues. -/
theorem alu_writes {s : State} {n : CoreIx} {g : Guard} {sd sa : Reg} {op : Op2} {i : CtxIx} {b : Bound} {lc : LCoreE}
    (h : Issues s n g (sd :: sa :: op2Uses op) i b lc) (o : AluOp) :
    WritesReg s n i sd (alu o (rd (ctxOf s n i) sa) (op2 (ctxOf s n i) op)) 1 (.next (aluInstr o n g sd sa op s)) :=
  scalar_writes h (fun x => alu o (rd x sa) (op2 x op))

/-- Settles O3: each instruction writes what its function of table CC-6 gives; the functions that compare are said as minimum and maximum, and the
leading zeros by the highest set bit. -/
theorem aluResults : Obligations.AluResults := by
  unfold Obligations.AluResults
  refine ⟨fun s n g sd sa op i b lc h => ?_, fun s n g sd sa sb q i b lc => ⟨fun h => ?_, fun h => ⟨?_, ?_⟩⟩⟩
  · refine ⟨alu_writes h .add, alu_writes h .sub, alu_writes h .and, alu_writes h .or, alu_writes h .xor, alu_writes h .shl, alu_writes h .shr,
      alu_writes h .sar, ?_, ?_, ?_, ?_⟩
    · exact alu_min .. ▸ alu_writes h .min
    · exact alu_max .. ▸ alu_writes h .max
    · exact alu_minu .. ▸ alu_writes h .minu
    · exact alu_maxu .. ▸ alu_writes h .maxu
  · exact scalar_writes h (fun x => if rdp x q then rd x sa else rd x sb)
  · exact ⟨_, clz64_le _, fun j => getMsbD_of_lt_clz64, getMsbD_clz64, scalar_writes h (fun x => word (clz64 (rd x sa)))⟩
  · exact scalar_writes h (fun x => word (popc64 (rd x sa)))

/-! ### Table CC-7 -/

/-- The unsigned quotient and remainder satisfy the division identity (table CC-7). -/
theorem divU_remU {a v : Word} (h : v ≠ 0) : (divU a v).toNat * v.toNat + (remU a v).toNat = a.toNat ∧ (remU a v).toNat < v.toNat := by
  have hv : 0 < v.toNat := Nat.pos_of_ne_zero (toNat_ne_zero h)
  have q : (divU a v).toNat = a.toNat / v.toNat := by
    rw [divU, if_neg h, word, BitVec.toNat_ofNat, Nat.mod_eq_of_lt (lt_of_le_of_lt (Nat.div_le_self ..) a.isLt)]
  have r : (remU a v).toNat = a.toNat % v.toNat := by
    rw [remU, if_neg h, word, BitVec.toNat_ofNat, Nat.mod_eq_of_lt (lt_trans (Nat.mod_lt _ hv) v.isLt)]
  rw [q, r]
  exact ⟨Nat.div_add_mod' .., Nat.mod_lt _ hv⟩

/-- A number within the signed range of a word is what the word made of it reads as. -/
theorem toInt_ofInt_of_range {x : Int} (lo : -2 ^ 63 ≤ x) (hi : x < 2 ^ 63) : (BitVec.ofInt 64 x).toInt = x :=
  BitVec.toInt_ofInt_eq_self (by decide) lo hi

/-- The one signed quotient that leaves the signed range: −2⁶³ ÷ −1 (table CC-7). -/
def overflows (a v : Word) : Prop := a = BitVec.intMin 64 ∧ v = BitVec.allOnes 64

/-- Every other quotient lies within the signed range. -/
theorem tdiv_range {a v : Word} (h0 : v ≠ 0) (h : ¬ overflows a v) : -2 ^ 63 ≤ a.toInt.tdiv v.toInt ∧ a.toInt.tdiv v.toInt < 2 ^ 63 := by
  have alo : -2 ^ 63 ≤ a.toInt := BitVec.le_toInt a
  have ahi : a.toInt < 2 ^ 63 := BitVec.toInt_lt
  have small : (a.toInt.tdiv v.toInt).natAbs ≤ a.toInt.natAbs := by
    rw [Int.natAbs_tdiv]; exact Nat.div_le_self ..
  by_cases ha : a.toInt = -2 ^ 63
  · have hv : v.toInt ≠ -1 := fun e => h ⟨BitVec.eq_of_toInt_eq (by rw [ha]; decide), BitVec.eq_of_toInt_eq (by rw [e]; decide)⟩
    have hz : v.toInt ≠ 0 := fun e => h0 (BitVec.eq_of_toInt_eq e)
    refine ⟨by omega, ?_⟩
    by_cases one : v.toInt = 1
    · rw [one, Int.tdiv_one]; omega
    · have half : (a.toInt.tdiv v.toInt).natAbs ≤ 2 ^ 62 := by
        rw [Int.natAbs_tdiv, ha]
        exact (Nat.div_le_div_left (show 2 ≤ v.toInt.natAbs by omega) (by decide)).trans (by decide)
      omega
  · omega

/-- The signed quotient and remainder satisfy the division identity, and the remainder has the sign of the dividend (table CC-7). -/
theorem divS_remS {a v : Word} (h0 : v ≠ 0) (h : ¬ overflows a v) :
    (divS a v).toInt * v.toInt + (remS a v).toInt = a.toInt ∧ (remS a v).toInt.natAbs < v.toInt.natAbs
      ∧ (remS a v = 0 ∨ ((remS a v).toInt < 0 ↔ a.toInt < 0)) := by
  have hz : v.toInt ≠ 0 := fun e => h0 (BitVec.eq_of_toInt_eq e)
  obtain ⟨qlo, qhi⟩ := tdiv_range h0 h
  have vhi : v.toInt < 2 ^ 63 := BitVec.toInt_lt
  have vlo : -2 ^ 63 ≤ v.toInt := BitVec.le_toInt v
  have bound : (a.toInt.tmod v.toInt).natAbs < v.toInt.natAbs := by
    rw [Int.natAbs_tmod]; exact Nat.mod_lt _ (by omega)
  have q : (divS a v).toInt = a.toInt.tdiv v.toInt := by rw [divS, if_neg h0, toInt_ofInt_of_range qlo qhi]
  have r : (remS a v).toInt = a.toInt.tmod v.toInt := by rw [remS, if_neg h0, toInt_ofInt_of_range (by omega) (by omega)]
  rw [q, r]
  refine ⟨Int.tdiv_mul_add_tmod .., bound, ?_⟩
  by_cases zero : a.toInt.tmod v.toInt = 0
  · exact .inl (BitVec.eq_of_toInt_eq (by rw [r, zero]; rfl))
  · refine .inr ⟨fun neg => ?_, fun neg => ?_⟩
    · by_contra pos
      exact absurd (Int.tmod_nonneg v.toInt (not_lt.mp pos)) (not_le.mpr neg)
    · have : 0 ≤ (-a.toInt).tmod v.toInt := Int.tmod_nonneg _ (by omega)
      rw [Int.neg_tmod] at this
      omega

/-- An instruction on two registers, where it issues. -/
theorem rr_writes {s : State} {n : CoreIx} {g : Guard} {sd sa sb : Reg} {i : CtxIx} {b : Bound} {lc : LCoreE} (h : Issues s n g [sd, sa, sb] i b lc)
    (f : Word → Word → Word) : WritesReg s n i sd (f (rd (ctxOf s n i) sa) (rd (ctxOf s n i) sb)) 1 (.next (rr f n g sd sa sb s)) :=
  scalar_writes h (fun x => f (rd x sa) (rd x sb))

/-- Settles O4: the products and quotients are those of `mulHU`, `mulHS`, `divS`, `remS`, `divU` and `remU`; the quotient that leaves the signed range and
the zero divisor are cases of their own. -/
theorem multiplyDivideResults : Obligations.MultiplyDivideResults := by
  unfold Obligations.MultiplyDivideResults
  refine ⟨fun s n g sd sa sb sc i b lc => ⟨fun h => ⟨rr_writes h (· * ·), rr_writes h mulHU, rr_writes h mulHS⟩,
      fun h => scalar_writes h (fun x => rd x sa * rd x sb + rd x sc)⟩, fun s n g sd sa sb i b lc h => ?_⟩
  intro a v
  refine ⟨divS a v, remS a v, divU a v, remU a v, rr_writes h divS, rr_writes h remS, rr_writes h divU, rr_writes h remU, ?_⟩
  by_cases h0 : v = 0
  · rw [if_pos h0]
    exact ⟨if_pos h0, if_pos h0, if_pos h0, if_pos h0⟩
  · rw [if_neg h0]
    refine ⟨divU_remU h0, ?_⟩
    split
    · next wide =>
      obtain ⟨ha, hv⟩ := wide
      rw [ha, hv]
      exact ⟨by decide, by decide⟩
    · next wide => exact divS_remS h0 wide

/-! ### Table CC-8 -/

/-- An FP32 word from a sign and a magnitude that is not above infinity is no NaN. -/
theorem fisNan_ofNat {m : Nat} (neg : Bool) (h : m ≤ 0x7F800000) : fisNan (BitVec.ofNat 32 ((if neg then 0x80000000 else 0) + m)) = false := by
  unfold fisNan
  rw [BitVec.toNat_ofNat, decide_eq_false_iff_not]
  cases neg <;> simp <;> omega

/-- Rounding to FP32 gives one NaN alone (R82, R112). -/
theorem toFp32_nan (v : Fval) (h : fisNan (toFp32 v) = true) : toFp32 v = 0x7FC00000#32 := by
  cases v with
  | nan => rfl
  | inf neg => cases neg <;> exact absurd h (by decide)
  | fin neg m e =>
    have mag : fp32Mag m e ≤ 0x7F800000 := by
      unfold fp32Mag
      split
      · omega
      · exact min_le_right ..
    rw [toFp32, fisNan_ofNat neg mag] at h
    contradiction

/-- The order of the real values does not distinguish the zeros, otherwise it is that of table CC-8. -/
theorem fkey_le_of_fkeyZ_le {a b : W32} (h : fkeyZ a ≤ fkeyZ b) : fkey a ≤ fkey b := by
  simp only [fkeyZ, fkey] at h ⊢
  split at h <;> split at h <;> simp_all <;> omega

/-- A NaN operand loses to a number in FMIN (table CC-8). -/
theorem fmin_nan_left {a b : W32} (ha : fisNan a = true) (hb : fisNan b = false) : fmin a b = b := by simp [fmin, ha, hb]

theorem fmin_nan_right {a b : W32} (ha : fisNan a = false) (hb : fisNan b = true) : fmin a b = a := by simp [fmin, ha, hb]

theorem fmin_nan_nan {a b : W32} (ha : fisNan a = true) (hb : fisNan b = true) : fmin a b = 0x7FC00000#32 := by simp [fmin, ha, hb, qnan]

theorem fmin_numbers {a b : W32} (ha : fisNan a = false) (hb : fisNan b = false) : fmin a b = if fkeyZ a ≤ fkeyZ b then a else b := by
  simp [fmin, ha, hb]

/-- A NaN operand loses to a number in FMAX (table CC-8). -/
theorem fmax_nan_left {a b : W32} (ha : fisNan a = true) (hb : fisNan b = false) : fmax a b = b := by simp [fmax, ha, hb]

theorem fmax_nan_right {a b : W32} (ha : fisNan a = false) (hb : fisNan b = true) : fmax a b = a := by simp [fmax, ha, hb]

theorem fmax_nan_nan {a b : W32} (ha : fisNan a = true) (hb : fisNan b = true) : fmax a b = 0x7FC00000#32 := by simp [fmax, ha, hb, qnan]

theorem fmax_numbers {a b : W32} (ha : fisNan a = false) (hb : fisNan b = false) : fmax a b = if fkeyZ b ≤ fkeyZ a then a else b := by
  simp [fmax, ha, hb]

/-- FMIN gives a NaN only for two of them, and then the one of R82. -/
theorem fmin_nan {a b : W32} (h : fisNan (fmin a b) = true) : fmin a b = 0x7FC00000#32 := by
  cases ha : fisNan a <;> cases hb : fisNan b
  · rw [fmin_numbers ha hb] at h
    split at h
    · rw [ha] at h; contradiction
    · rw [hb] at h; contradiction
  · rw [fmin_nan_right ha hb, ha] at h; contradiction
  · rw [fmin_nan_left ha hb, hb] at h; contradiction
  · exact fmin_nan_nan ha hb

/-- FMAX gives a NaN only for two of them, and then the one of R82. -/
theorem fmax_nan {a b : W32} (h : fisNan (fmax a b) = true) : fmax a b = 0x7FC00000#32 := by
  cases ha : fisNan a <;> cases hb : fisNan b
  · rw [fmax_numbers ha hb] at h
    split at h
    · rw [ha] at h; contradiction
    · rw [hb] at h; contradiction
  · rw [fmax_nan_right ha hb, ha] at h; contradiction
  · rw [fmax_nan_left ha hb, hb] at h; contradiction
  · exact fmax_nan_nan ha hb

/-- Of two numbers FMIN gives one that is not above either (table CC-8). -/
theorem fmin_least {a b : W32} (ha : fisNan a = false) (hb : fisNan b = false) :
    (fmin a b = a ∨ fmin a b = b) ∧ fkey (fmin a b) ≤ fkey a ∧ fkey (fmin a b) ≤ fkey b := by
  rw [fmin_numbers ha hb]
  split
  · next h => exact ⟨.inl rfl, le_rfl, fkey_le_of_fkeyZ_le h⟩
  · next h => exact ⟨.inr rfl, fkey_le_of_fkeyZ_le (le_of_not_ge h), le_rfl⟩

/-- Of two numbers FMAX gives one that is not below either (table CC-8). -/
theorem fmax_greatest {a b : W32} (ha : fisNan a = false) (hb : fisNan b = false) :
    (fmax a b = a ∨ fmax a b = b) ∧ fkey a ≤ fkey (fmax a b) ∧ fkey b ≤ fkey (fmax a b) := by
  rw [fmax_numbers ha hb]
  split
  · next h => exact ⟨.inl rfl, le_rfl, fkey_le_of_fkeyZ_le h⟩
  · next h => exact ⟨.inr rfl, fkey_le_of_fkeyZ_le (le_of_not_ge h), le_rfl⟩

/-- An FP32 instruction on two registers, where it issues. -/
theorem ff_writes {s : State} {n : CoreIx} {g : Guard} {sd sa sb : Reg} {i : CtxIx} {b : Bound} {lc : LCoreE} (h : Issues s n g [sd, sa, sb] i b lc)
    (f : W32 → W32 → W32) :
    WritesReg s n i sd ((f (rdf (ctxOf s n i) sa) (rdf (ctxOf s n i) sb)).setWidth 64) 1 (.next (ff f n g sd sa sb s)) :=
  scalar_writes h (fun x => fpWord (f (rdf x sa) (rdf x sb)))

/-- Settles O5: the instructions write what `toFp32` rounds; FMIN and FMAX by the NaNs among their operands. -/
theorem floatResults : Obligations.FloatResults := by
  unfold Obligations.FloatResults
  refine ⟨fun s n g sd sa sb sc i b lc => ⟨fun h => ?_, fun h => ?_, fun h => ⟨?_, ?_⟩⟩, fun a b => ?_⟩
  · exact ⟨⟨ff_writes h fadd, toFp32_nan _⟩, ⟨ff_writes h fsub, toFp32_nan _⟩, ⟨ff_writes h fmul, toFp32_nan _⟩, ⟨ff_writes h fmin, fmin_nan⟩,
      ⟨ff_writes h fmax, fmax_nan⟩⟩
  · exact ⟨scalar_writes h (fun x => fpWord (ffma (rdf x sa) (rdf x sb) (rdf x sc))), toFp32_nan _⟩
  · exact ⟨scalar_writes h (fun x => fpWord (fofInt (rd x sa).toInt)), toFp32_nan _⟩
  · exact scalar_writes h (fun x => fcvtfi (rdf x sa))
  · refine ⟨fun ha hb => ⟨fmin_nan_left ha hb, fmax_nan_left ha hb⟩, fun ha hb => ⟨fmin_nan_right ha hb, fmax_nan_right ha hb⟩,
      fun ha hb => ⟨fmin_nan_nan ha hb, fmax_nan_nan ha hb⟩, fun ha hb => ?_, by decide, by decide, by decide, by decide⟩
    obtain ⟨least, leA, leB⟩ := fmin_least ha hb
    obtain ⟨greatest, geA, geB⟩ := fmax_greatest ha hb
    exact ⟨least, greatest, leA, leB, geA, geB⟩

/-! ### Table CC-9 -/

/-- A comparison of table CC-9, where it issues. -/
theorem cmp_writes {s : State} {n : CoreIx} {g : Guard} {pd : Pred} {sa : Reg} {op : Op2} {i : CtxIx} {b : Bound} {lc : LCoreE}
    (h : Issues s n g (sa :: op2Uses op) i b lc) (f : Word → Word → Bool) :
    WritesPred s n i pd (f (rd (ctxOf s n i) sa) (op2 (ctxOf s n i) op)) (.next (cmpInstr f n g pd sa op s)) :=
  predicate_writes h (fun x => f (rd x sa) (op2 x op))

/-- Settles O6: each instruction writes the predicate that table CC-9 gives. -/
theorem predicateResults : Obligations.PredicateResults := by
  unfold Obligations.PredicateResults
  refine ⟨fun x v q => ⟨rfl, rfl, rfl, rfl⟩, fun s n g pd pa pb sa sb op i b lc => ⟨fun h => ?_, fun h => ?_, fun h => ?_⟩⟩
  · exact ⟨cmp_writes h _, cmp_writes h _, cmp_writes h _, cmp_writes h _, cmp_writes h (fun a b => decide (a < b)), cmp_writes h (fun a b => decide (b ≤ a))⟩
  · exact ⟨predicate_writes h (fun x => flt (rdf x sa) (rdf x sb)), predicate_writes h (fun x => feq (rdf x sa) (rdf x sb))⟩
  · exact ⟨predicate_writes h (fun x => rdp x pa && rdp x pb), predicate_writes h (fun x => rdp x pa || rdp x pb),
      predicate_writes h (fun x => rdp x pa != rdp x pb), predicate_writes h (fun x => !rdp x pa)⟩

end Sys2Proof.Machine
end

section
/-! What observation adds (trace packets, counters, the moments at which it looks) leaves alone of a core, and the rules of `OnlyCore`; branches, moves and
reads of the special registers, and transfers from tile registers (O7, O8). -/

namespace Sys2Proof.Machine

/-! ### Observation (R450 to R455) -/

/-- A state but for what the flow trace of a core, the counters and looking at the time change. -/
def unobserved (n : CoreIx) (s : State) : State :=
  { modCore s n (fun c => { c with cycles := 0 }) with trc := State.reset.trc, cnt := State.reset.cnt, egress := [], rtime := 0, freeIx := 0 }

variable {s t u : State} {n : CoreIx} {i : CtxIx}

theorem unobserved_trc (n : CoreIx) (s : State) (x : Trc) : unobserved n { s with trc := x } = unobserved n s := rfl

theorem unobserved_countP (n : CoreIx) (s : State) (p : PartIx) (k m : Nat) : unobserved n (countP s p k m) = unobserved n s := rfl

theorem unobserved_bump (n : CoreIx) (s : State) : unobserved n (bump s) = unobserved n s := rfl

theorem unobserved_look (n : CoreIx) (s : State) : unobserved n (look s) = unobserved n s := rfl

theorem unobserved_emit (n : CoreIx) (s : State) (o : Out) : unobserved n (emit s o) = unobserved n s := by rw [emit_frame]; rfl

theorem unobserved_cycles (n : CoreIx) (s : State) (f : Core → Nat) : unobserved n (modCore s n (fun c => { c with cycles := f c })) = unobserved n s := by
  unfold unobserved modCore
  simp

theorem unobserved_rawPacket (n : CoreIx) (s : State) (type source aux : Nat) (words : List Nat) :
    unobserved n (rawPacket s type source aux words) = unobserved n s := unobserved_emit ..

theorem unobserved_leadPackets (n : CoreIx) (s : State) : unobserved n (leadPackets s) = unobserved n s := by
  have first : unobserved n (if s.trc.first then { rawPacket s 0x01 0x7E 1 [s.rtime] with trc := { s.trc with first := false } } else s)
      = unobserved n s := ite_keeps (unobserved n) ((unobserved_trc ..).trans (unobserved_rawPacket ..)) rfl
  exact ite_keeps (unobserved n) first ((unobserved_rawPacket ..).trans ((unobserved_trc ..).trans first))

theorem unobserved_packetNow (n : CoreIx) (s : State) (type source aux : Nat) (words : List Nat) :
    unobserved n (packetNow s type source aux words) = unobserved n s :=
  ite_keeps (unobserved n) ((unobserved_rawPacket ..).trans (unobserved_leadPackets n s)) rfl

theorem unobserved_packet (n : CoreIx) (s : State) (type source aux : Nat) (words : List Nat) :
    unobserved n (packet s type source aux words) = unobserved n s :=
  ite_keeps (unobserved n) ((unobserved_packetNow ..).trans (unobserved_look n s)) rfl

theorem unobserved_lossyPacket (n : CoreIx) (s : State) (k : Lossy) (type source aux : Nat) (words : List Nat) :
    unobserved n (lossyPacket s k type source aux words) = unobserved n s :=
  ite_keeps (unobserved n) rfl (ite_keeps (unobserved n) (unobserved_trc ..) ((unobserved_packet ..).trans (unobserved_bump n s)))

theorem unobserved_traceEvent (n : CoreIx) (s : State) (code detail : Nat) : unobserved n (traceEvent s code detail) = unobserved n s :=
  ite_keeps (unobserved n) (unobserved_lossyPacket ..) rfl

theorem unobserved_flowFlush (n : CoreIx) (s : State) : unobserved n (flowFlush s n) = unobserved n s := by
  unfold flowFlush
  split
  · rfl
  · exact ite_keeps (unobserved n) rfl ((unobserved_lossyPacket ..).trans (unobserved_trc ..))

theorem unobserved_flowBit (n : CoreIx) (s : State) (i : CtxIx) (taken : Bool) : unobserved n (flowBit s n i taken) = unobserved n s :=
  ite_keeps (unobserved n) rfl (ite_keeps (unobserved n) ((unobserved_flowFlush ..).trans (unobserved_trc ..)) (unobserved_trc ..))

theorem unobserved_flowPc (n : CoreIx) (s : State) (i : CtxIx) (reason : Nat) (pc : BitVec 40) : unobserved n (flowPc s n i reason pc) = unobserved n s :=
  ite_keeps (unobserved n) rfl ((unobserved_lossyPacket ..).trans ((unobserved_bump ..).trans ((unobserved_cycles ..).trans (unobserved_flowFlush n s))))

theorem unobserved_flowResync (n : CoreIx) (s : State) (i : CtxIx) (pc : BitVec 40) : unobserved n (flowResync s n i pc) = unobserved n s :=
  ite_keeps (unobserved n) ((unobserved_flowPc ..).trans (unobserved_trc ..)) rfl

theorem unobserved_flowSwitch (n : CoreIx) (s : State) (before : Option CtxIx) : unobserved n (flowSwitch s n before) = unobserved n s := by
  unfold flowSwitch
  split
  · exact ite_keeps (unobserved n) rfl (unobserved_flowPc ..)
  · rfl

theorem unobserved_countSwitch (n : CoreIx) (s : State) : unobserved n (countSwitch s n) = unobserved n s := by
  unfold countSwitch
  split
  · exact unobserved_countP ..
  · rfl

theorem unobserved_guardBit (n : CoreIx) (s : State) (g : Guard) : unobserved n (guardBit s n g) = unobserved n s := by
  unfold guardBit
  split
  · exact ite_keeps (unobserved n) rfl ((unobserved_flowResync ..).trans (unobserved_flowBit ..))
  · rfl

theorem unobserved_core (n : CoreIx) (s : State) : (unobserved n s).cores[n] = { s.cores[n] with cycles := 0 } :=
  modCore_self s n (fun c => { c with cycles := 0 })

theorem unobserved_core_ne (s : State) {m : CoreIx} (h : m ≠ n) : (unobserved n s).cores[m] = s.cores[m] :=
  modCore_ne s n (fun c => { c with cycles := 0 }) m h

/-- Where nothing but observation differs, the core differs in its cycle count alone. -/
theorem core_of_unobserved (h : unobserved n t = unobserved n s) : t.cores[n] = { s.cores[n] with cycles := (t.cores[n]).cycles } := by
  have core : ({ t.cores[n] with cycles := 0 } : Core) = { s.cores[n] with cycles := 0 } := by rw [← unobserved_core, h, unobserved_core]
  exact congrArg (fun c : Core => { c with cycles := (t.cores[n]).cycles }) core

/-- Where nothing but observation differs, the contexts of the core are the same. -/
theorem ctxOf_of_unobserved (h : unobserved n t = unobserved n s) (j : CtxIx) : ctxOf t n j = ctxOf s n j := by
  unfold ctxOf
  rw [core_of_unobserved h]

/-! ### Changes of one core -/

theorem OnlyCore.of_unobserved (h : unobserved n t = unobserved n s) : OnlyCore s t n where
  rest := by
    have fields := congrArg (fun x : State => { x with cores := t.cores, trc := t.trc, cnt := t.cnt, egress := t.egress, rtime := t.rtime
                                                       freeIx := t.freeIx }) h
    exact fields
  others m hm := by rw [← unobserved_core_ne t hm, h, unobserved_core_ne s hm]
  core := by rw [core_of_unobserved h]

theorem OnlyCtx.onlyCore (h : OnlyCtx s t n i) : OnlyCore s t n where
  rest := by rw [h.rest]
  others := h.others
  core := by rw [h.core]

theorem OnlyCore.refl (s : State) (n : CoreIx) : OnlyCore s s n := ⟨rfl, fun _ _ => rfl, rfl⟩

theorem OnlyCore.trans (h : OnlyCore s t n) (k : OnlyCore t u n) : OnlyCore s u n where
  rest := by rw [k.rest, h.rest]
  others m hm := (k.others m hm).trans (h.others m hm)
  core := by rw [k.core, h.core]

/-! ### Branches (R84) -/

/-- The context takes a jump: its pc is the target, its link register holds the link. -/
structure Jumps (s : State) (n : CoreIx) (i : CtxIx) (sd : Reg) (target : Word) (t : State) : Prop where
  only : OnlyCore s t n
  ctxs : ∀ j, j ≠ i → ctxOf t n j = ctxOf s n j
  ctx : ctxOf t n i = { ctxOf s n i with s := (ctxOf t n i).s, pc := target.setWidth 40 }
  link : rd (ctxOf t n i) sd = if sd = 0 then 0 else (ctxOf s n i).pc.setWidth 64 + 8
  regs : ∀ q, q ≠ sd → rd (ctxOf t n i) q = rd (ctxOf s n i) q

/-- Observation may follow a jump. -/
theorem Jumps.observed {sd : Reg} {target : Word} (h : Jumps s n i sd target t) (k : unobserved n u = unobserved n t) : Jumps s n i sd target u where
  only := h.only.trans (.of_unobserved k)
  ctxs j hj := (ctxOf_of_unobserved k j).trans (h.ctxs j hj)
  ctx := by rw [ctxOf_of_unobserved k]; exact h.ctx
  link := by rw [ctxOf_of_unobserved k]; exact h.link
  regs q hq := by rw [ctxOf_of_unobserved k]; exact h.regs q hq

theorem jumps_jump (s : State) (n : CoreIx) (i : CtxIx) (sd : Reg) (target : Word) : Jumps s n i sd target (jump s n i sd target) := by
  have bit : unobserved n (flowBit s n i true) = unobserved n s := unobserved_flowBit ..
  obtain ⟨u, hu, only, ctx, link, regs⟩ := result_writes (flowBit s n i true) n i sd ((ctxOf s n i).pc.setWidth 64 + 8) 1
  injection hu with hu
  rw [ctxOf_of_unobserved bit] at ctx
  have landed : Jumps s n i sd target (modCtx u n i (fun x => { x with pc := target.setWidth 40 })) := by
    have there : ctxOf (modCtx u n i (fun x => { x with pc := target.setWidth 40 })) n i = { ctxOf u n i with pc := target.setWidth 40 } := ctxOf_modCtx ..
    constructor
    · exact (OnlyCore.of_unobserved bit).trans (only.trans (onlyCtx_modCtx ..)).onlyCore
    · intro j hj
      rw [ctxOf_modCtx_ne _ _ _ _ _ hj, only.ctxs j hj, ctxOf_of_unobserved bit]
    · rw [there, ctx]
    · rw [there]; exact link
    · intro q hq
      rw [there]
      exact (regs q hq).trans (by rw [ctxOf_of_unobserved bit])
  unfold jump
  dsimp only
  rw [hu]
  exact landed.observed (unobserved_flowResync ..)

/-- No outcome bit of a branch comes before one whose guard holds. -/
theorem guardBit_issues {g : Guard} {uses : List Reg} {b : Bound} {lc : LCoreE} (h : Issues s n g uses i b lc) : guardBit s n g = s := by
  unfold guardBit
  rw [h.run]
  simp only [h.guard, Bool.true_or, if_true]

/-- Settles O7: a taken branch is a `jump`, which `Jumps` describes; a BRI first looks at its target. -/
theorem branchResults : Obligations.BranchResults := by
  unfold Obligations.BranchResults
  intro s n g sd sa off i b lc
  have goes : ∀ {target t}, Jumps s n i sd target t → ∃ v, Host.Outcome.next (φ := Fault) (ρ := Refusal) t = .next v ∧ OnlyCore s v n
      ∧ (∀ j, j ≠ i → ctxOf v n j = ctxOf s n j) ∧ ctxOf v n i = { ctxOf s n i with s := (ctxOf v n i).s, pc := target.setWidth 40 }
      ∧ rd (ctxOf v n i) sd = (if sd = 0 then 0 else (ctxOf s n i).pc.setWidth 64 + 8) ∧ ∀ q, q ≠ sd → rd (ctxOf v n i) q = rd (ctxOf s n i) q :=
    fun h => ⟨_, rfl, h.only, h.ctxs, h.ctx, h.link, h.regs⟩
  refine ⟨fun h => ?_, fun h => ?_⟩
  · show ∃ t, Host.Outcome.next (issue (guardBit s n g) n g 1 [sd] _) = .next t ∧ _
    rw [guardBit_issues h, issue_ok h]
    exact goes (jumps_jump ..)
  · intro target
    have run : exec (.bri n g sd sa off) s = .next (if isStart lc target.toNat then flowPc (jump s n i sd target) n i 2 (target.setWidth 40)
        else raiseHere s n i .badTarget target) := by
      show Host.Outcome.next (issue (guardBit s n g) n g 1 [sd, sa] _) = _
      rw [guardBit_issues h, issue_ok h]
      rfl
    rw [run]
    split
    · exact goes ((jumps_jump ..).observed (unobserved_flowPc ..))
    · rfl

/-! ### LI64, RDSR, QSHAPE, BCAST, SETC (R89 to R94) -/

/-- A scalar result is written and the context goes on, whatever number of issue cycles that takes. -/
theorem goOn_writes (s : State) (n : CoreIx) (i : CtxIx) (sd : Reg) (v : Word) (w k : Nat) :
    WritesReg s n i sd v w (.next (goOn (modCtx s n i (fun x => wr x sd v)) n i w k)) := by
  have e : ctxOf (goOn (modCtx s n i (fun x => wr x sd v)) n i w k) n i
      = { wr (ctxOf s n i) sd v with pc := (wr (ctxOf s n i) sd v).pc + BitVec.ofNat 40 (8 * w) } := by rw [ctxOf_goOn, ctxOf_modCtx]
  refine ⟨_, rfl, (onlyCtx_modCtx ..).trans (onlyCtx_goOn ..), ?_, ?_, fun q hq => ?_⟩
  · rw [e, wr_frame]
  · rw [e]; exact rd_wr ..
  · rw [e]; exact rd_wr_ne _ _ _ _ hq

/-- An instruction whose effect is a scalar result in some state. -/
theorem issue_writes {g : Guard} {uses : List Reg} {b : Bound} {lc : LCoreE} (h : Issues s n g uses i b lc) {w : Nat}
    {eff : State → CtxIx → Bound → LCoreE → State} {u : State} {sd : Reg} {v : Word} (he : eff s i b lc = result u n i sd v 1) :
    WritesReg u n i sd v 1 (.next (issue s n g w uses eff)) := by
  rw [issue_ok h, he]
  exact result_writes ..

/-- An instruction whose effect is a change of its context, which then goes on. -/
theorem issue_changes {g : Guard} {uses : List Reg} {b : Bound} {lc : LCoreE} (h : Issues s n g uses i b lc) {eff : State → CtxIx → Bound → LCoreE → State}
    (f : Ctx → Ctx) (he : eff s i b lc = advance (modCtx s n i f) n i 1) :
    ∃ t, Host.Outcome.next (φ := Fault) (ρ := Refusal) (issue s n g 1 uses eff) = .next t ∧ OnlyCtx s t n i
      ∧ ctxOf t n i = { f (ctxOf s n i) with pc := (f (ctxOf s n i)).pc + 8 } := by
  rw [issue_ok h, he]
  refine ⟨_, rfl, (onlyCtx_modCtx ..).trans (onlyCtx_advance ..), ?_⟩
  rw [ctxOf_advance, ctxOf_modCtx]
  rfl

/-- A core that issues has a plan. -/
theorem image_of_lcoreE {p : PartIx} {l : Nat} {lc : LCoreE} (h : lcoreE s p l = some lc) : ∃ im, (s.parts[p]).image = some im := by
  unfold lcoreE at h
  cases hi : (s.parts[p]).image with
  | none => rw [hi] at h; contradiction
  | some im => exact ⟨im, rfl⟩

/-- RDSR of the cycle count has moved it on (R94; log entry 3). -/
theorem rdsr_cycles {g : Guard} {sd : Reg} {b : Bound} {lc : LCoreE} (h : Issues s n g [sd] i b lc) :
    ∃ k, (s.cores[n]).cycles ≤ k
      ∧ WritesReg (bump (modCore s n (fun c => { c with cycles := k }))) n i sd (word k) 1 (exec (.rdsr n g sd 6) s) := by
  refine ⟨(s.cores[n]).cycles + Config.elapsedCycles s.freeIx, by omega, ?_⟩
  have count : ((bump (modCore s n (fun c => { c with cycles := c.cycles + Config.elapsedCycles s.freeIx }))).cores[n]).cycles
      = (s.cores[n]).cycles + Config.elapsedCycles s.freeIx :=
    congrArg Core.cycles (modCore_self s n (fun c => { c with cycles := c.cycles + Config.elapsedCycles s.freeIx }))
  exact issue_writes h (congrArg (fun v => result _ n i sd (word v) 1) count)

/-! ### TRD (R93) -/

/-- The transfers that have been delivered, written in their order. -/
def landTrds (val : Trd → Word) (x : Ctx) (l : List Trd) : Ctx := l.foldl (fun x t => wr x t.rd (val t)) x

theorem landTrds_frame (val : Trd → Word) (x : Ctx) (l : List Trd) : landTrds val x l = { x with s := (landTrds val x l).s } := by
  induction l generalizing x with
  | nil => rfl
  | cons t l ih =>
    exact (ih (wr x t.rd (val t))).trans (congrArg (fun y : Ctx => { y with s := (landTrds val x (t :: l)).s }) (wr_frame x t.rd (val t)))

/-- A register that no delivered transfer names stays. -/
theorem rd_landTrds {val : Trd → Word} {r : Reg} {l : List Trd} (h : ∀ y ∈ l, y.rd ≠ r) (x : Ctx) : rd (landTrds val x l) r = rd x r := by
  induction l generalizing x with
  | nil => rfl
  | cons t l ih =>
    obtain ⟨ht, hl⟩ := List.forall_mem_cons.mp h
    exact (ih hl _).trans (rd_wr_ne _ _ _ _ (Ne.symm ht))

/-- The register of the last delivered transfer holds its element. -/
theorem rd_landTrds_last (val : Trd → Word) (x : Ctx) (l : List Trd) (t : Trd) :
    rd (landTrds val x (l ++ [t])) t.rd = if t.rd = 0 then 0 else val t := by
  rw [landTrds, List.foldl_append]
  exact rd_wr ..

/-- The element that a transfer reads. -/
def trdVal (c : Core) (i : CtxIx) (t : Trd) : Word := (tget (0 : W32) (c.banks[bankOf c i]).treg (tregKey t.treg t.entry)).setWidth 64

theorem ctxOf_deliverTrds (s : State) (n : CoreIx) (i : CtxIx) :
    ctxOf (deliverTrds s n i) n i = { landTrds (trdVal s.cores[n] i) (ctxOf s n i) ((ctxOf s n i).trds.filter (fun y => y.after == 0)) with
      trds := (ctxOf s n i).trds.filter (fun y => y.after != 0) } := by
  have kept : (landTrds (trdVal s.cores[n] i) (ctxOf s n i) ((ctxOf s n i).trds.filter (fun y => y.after == 0))).trds = (ctxOf s n i).trds := by
    rw [landTrds_frame]
  rw [← congrArg (List.filter (fun y => y.after != 0)) kept]
  unfold ctxOf deliverTrds
  dsimp only
  rw [modCore_self]
  exact getElem_set_self' ..

theorem onlyCtx_deliverTrds (s : State) (n : CoreIx) (i : CtxIx) : OnlyCtx s (deliverTrds s n i) n i where
  rest := rfl
  others m hm := modCore_ne s n _ m hm
  core := by unfold deliverTrds; dsimp only; rw [modCore_self]
  ctxs j hj := by
    unfold deliverTrds
    dsimp only
    conv_lhs => rw [ctxOf, modCore_self]
    exact getElem_set_ne' _ _ _ _ hj

/-- A register awaits nothing where an instruction that uses it issues. -/
theorem no_trd_of_issues {g : Guard} {r : Reg} {b : Bound} {lc : LCoreE} (h : Issues s n g [r] i b lc) (h0 : r ≠ 0) :
    ∀ y ∈ (ctxOf s n i).trds, y.rd ≠ r := by
  intro y hy e
  have free := h.regs
  simp only [condHolds, List.all_cons, List.all_nil, Bool.and_true, Bool.or_eq_true, decide_eq_true_eq, h0, false_or, Bool.not_eq_true',
    Bool.or_eq_false_iff, List.any_eq_false] at free
  exact free.2 y hy e

/-- A register that awaits a transfer holds up what uses it. -/
theorem awaits_of_trd {r : Reg} (h0 : r ≠ 0) {y : Trd} (hy : y ∈ (ctxOf s n i).trds) (e : y.rd = r) : condHolds s n i (.regs [r]) = false := by
  simp only [condHolds, List.all_cons, List.all_nil, Bool.and_true, h0, decide_false, Bool.false_or, Bool.not_eq_false']
  simp only [Bool.or_eq_true, List.any_eq_true]
  exact .inr ⟨y, hy, by simpa using e⟩

/-- What the transfers of a context read does not depend on the context. -/
theorem trdVal_of_onlyCtx (h : OnlyCtx s t n i) (y : Trd) : trdVal t.cores[n] i y = trdVal s.cores[n] i y := by rw [h.core]; rfl

/-- A transfer that is issued, before any is delivered. -/
def issueTrd (s : State) (n : CoreIx) (i : CtxIx) (y : Trd) : State := advance (modCtx s n i (fun x => { x with trds := x.trds ++ [y] })) n i 1

theorem ctxOf_issueTrd (s : State) (n : CoreIx) (i : CtxIx) (y : Trd) :
    ctxOf (issueTrd s n i y) n i = { ctxOf s n i with pc := (ctxOf s n i).pc + 8, trds := (ctxOf s n i).trds ++ [y] } := by
  rw [issueTrd, ctxOf_advance, ctxOf_modCtx]
  rfl

theorem onlyCtx_issueTrd (s : State) (n : CoreIx) (i : CtxIx) (y : Trd) : OnlyCtx s (issueTrd s n i y) n i :=
  (onlyCtx_modCtx ..).trans (onlyCtx_advance ..)

/-- The transfers that are ready once one more has been issued. -/
def readyTrds (s : State) (n : CoreIx) (i : CtxIx) (y : Trd) : List Trd :=
  (ctxOf s n i).trds.filter (fun z => z.after == 0) ++ (if y.after = 0 then [y] else [])

theorem ctxOf_deliver_issueTrd (s : State) (n : CoreIx) (i : CtxIx) (y : Trd) :
    ctxOf (deliverTrds (issueTrd s n i y) n i) n i
      = { landTrds (trdVal s.cores[n] i) (ctxOf (issueTrd s n i y) n i) (readyTrds s n i y) with
          trds := (ctxOf s n i).trds.filter (fun z => z.after != 0) ++ (if y.after = 0 then [] else [y]) } := by
  have val : trdVal (issueTrd s n i y).cores[n] i = trdVal s.cores[n] i := funext (trdVal_of_onlyCtx (onlyCtx_issueTrd ..))
  have ready : (ctxOf (issueTrd s n i y) n i).trds.filter (fun z => z.after == 0) = readyTrds s n i y := by
    rw [ctxOf_issueTrd, List.filter_append, readyTrds]
    simp [List.filter_cons]
  have waiting : (ctxOf (issueTrd s n i y) n i).trds.filter (fun z => z.after != 0)
      = (ctxOf s n i).trds.filter (fun z => z.after != 0) ++ (if y.after = 0 then [] else [y]) := by
    rw [ctxOf_issueTrd, List.filter_append]
    simp [List.filter_cons]
  rw [ctxOf_deliverTrds, val, ready, waiting]

/-- A register for which nothing that is ready comes reads as before. -/
theorem rd_deliver_issueTrd {y : Trd} {r : Reg} (h : ∀ z ∈ readyTrds s n i y, z.rd ≠ r) :
    rd (ctxOf (deliverTrds (issueTrd s n i y) n i) n i) r = rd (ctxOf s n i) r := by
  have landed := rd_landTrds (val := trdVal s.cores[n] i) h (ctxOf (issueTrd s n i y) n i)
  rw [ctxOf_deliver_issueTrd]
  refine Eq.trans landed ?_
  rw [ctxOf_issueTrd]
  rfl

/-- A transfer that waits for nothing is delivered at once, after those that became ready before. -/
theorem rd_deliver_issueTrd_self {y : Trd} (h : y.after = 0) :
    rd (ctxOf (deliverTrds (issueTrd s n i y) n i) n i) y.rd = if y.rd = 0 then 0 else trdVal s.cores[n] i y := by
  rw [ctxOf_deliver_issueTrd, readyTrds, if_pos h]
  exact rd_landTrds_last ..

/-- What a TRD leaves: the element at once, or a register that awaits it (R93). -/
theorem trd_lands {g : Guard} {b : Bound} {lc : LCoreE} (y : Trd) (h : Issues s n g [y.rd] i b lc) :
    let t := deliverTrds (issueTrd s n i y) n i
    OnlyCtx s t n i
      ∧ ctxOf t n i = { ctxOf s n i with
          s := (ctxOf t n i).s, pc := (ctxOf s n i).pc + 8
          trds := (ctxOf s n i).trds.filter (fun z => z.after != 0) ++ (if y.after = 0 then [] else [y]) }
      ∧ (y.after = 0 → rd (ctxOf t n i) y.rd = if y.rd = 0 then 0 else trdVal s.cores[n] i y)
      ∧ (y.after ≠ 0 → rd (ctxOf t n i) y.rd = rd (ctxOf s n i) y.rd ∧ (y.rd ≠ 0 → condHolds t n i (.regs [y.rd]) = false))
      ∧ ∀ r, r ≠ y.rd → (∀ z ∈ (ctxOf s n i).trds, z.after = 0 → z.rd ≠ r) → rd (ctxOf t n i) r = rd (ctxOf s n i) r := by
  intro t
  have ctx := ctxOf_deliver_issueTrd s n i y
  refine ⟨(onlyCtx_issueTrd ..).trans (onlyCtx_deliverTrds ..), ?_, rd_deliver_issueTrd_self, fun later => ⟨?_, fun h0 => ?_⟩, fun r hr others => ?_⟩
  · rw [ctx, landTrds_frame, ctxOf_issueTrd]
  · by_cases h0 : y.rd = 0
    · rw [h0]; rfl
    · refine rd_deliver_issueTrd fun z hz => ?_
      rw [readyTrds, if_neg later, List.append_nil, List.mem_filter] at hz
      exact no_trd_of_issues h h0 z hz.1
  · refine awaits_of_trd h0 (y := y) ?_ rfl
    rw [ctx, if_neg later]
    exact List.mem_append_right _ (List.mem_singleton_self y)
  · refine rd_deliver_issueTrd fun z hz => ?_
    rcases List.mem_append.mp hz with hz | hz
    · obtain ⟨mem, ready⟩ := List.mem_filter.mp hz
      exact others z mem (beq_iff_eq.mp ready)
    · split at hz
      · rw [List.mem_singleton.mp hz]; exact hr.symm
      · contradiction

/-! ### Shape words (R40, table PC-1) -/

theorem shapeWord_absent {p : PartIx} {l : Nat} {im : Image} (hi : (s.parts[p]).image = some im) (h : im.lcores.length ≤ l) {w : Nat} (lo : 1 < w)
    (hi6 : w < 6) : shapeWord s p l w = 0 := by
  obtain rfl | rfl | rfl | rfl : w = 2 ∨ w = 3 ∨ w = 4 ∨ w = 5 := by omega
  all_goals simp only [shapeWord, hi, h, if_true]

theorem shapeWord_core {p : PartIx} {l : Nat} {im : Image} {m : CoreIx} (hi : (s.parts[p]).image = some im) (h : l < im.lcores.length)
    (hm : coreOf s p l = some m) : shapeWord s p l 2 = word (arraysOf s.cores[m]).length ∧ shapeWord s p l 3 = word (groupsOf s.cores[m])
      ∧ shapeWord s p l 4 = word (s.cores[m]).bound.length := by
  have listed : ¬ im.lcores.length ≤ l := by omega
  simp only [shapeWord, hi, listed, if_false, hm, and_self]

/-- Settles O8: each move writes its result, a read of reference time or of the cycle count after it has moved on; TRD is `trd_lands`. -/
theorem specialResults : Obligations.SpecialResults := by
  unfold Obligations.SpecialResults
  refine ⟨fun s n g sd sa v i b lc => ⟨fun h => ?_, fun h w => ?_, fun h slot => ?_, fun h c k => ?_⟩, fun s n g sd treg row lane i b lc => ?_,
    fun s p l a im ha hi => ?_⟩
  · obtain ⟨im, hi⟩ := image_of_lcoreE h.plan
    have seed : exec (.rdsr n g sd 4) s = .next (result s n i sd im.seed 1) := by
      show Host.Outcome.next (issue s n g 1 [sd] _) = _
      rw [issue_ok h]
      show Host.Outcome.next (result s n i sd (match (s.parts[b.part]).image with | some im => im.seed | none => 0) 1) = _
      rw [hi]
    refine ⟨?_, issue_writes h rfl, issue_writes h rfl, issue_writes h rfl, issue_writes h rfl, ⟨im, hi, ?_⟩,
      ⟨s.rtime + Config.elapsedNs s.freeIx, by omega, issue_writes h rfl⟩, rdsr_cycles h, issue_writes h rfl⟩
    · show WritesReg s n i sd v 2 (.next (issue s n g 2 [sd] _))
      rw [issue_ok h]
      exact goOn_writes ..
    · rw [seed]; exact result_writes ..
  · exact issue_writes h rfl
  · exact issue_changes h (fun x => { x with b := x.b.set slot.val (rd x sa) slot.isLt }) rfl
  · exact issue_changes h (fun x => wrc x c k) rfl
  · intro x earlier h
    let y : Trd := ⟨sd, treg.val, 256 * row.val + lane.val, earlier⟩
    obtain ⟨only, ctx, now, later, others⟩ := trd_lands y h
    refine ⟨deliverTrds (issueTrd s n i y) n i, ?_, only, ctx, fun none => ?_, later, others⟩
    · show Host.Outcome.next (issue s n g 1 [sd] _) = _
      rw [issue_ok h]
      rfl
    · rw [Nat.add_assoc]; exact now none
  · refine ⟨?_, ?_, ?_, ?_, fun h w lo hi6 => shapeWord_absent hi h lo hi6, fun m h hm => shapeWord_core hi h hm⟩
    · rfl
    · simp only [shapeWord, hi]
    · simp only [shapeWord, ha]
    · rfl

end Sys2Proof.Machine
end

section
/-! A context that leaves RUN, and what the core selects then; waits, switches, SIGB, TRAP and the wait limit (O15, O16), guards that fail and registers
that are awaited (O9). -/

namespace Sys2Proof.Machine

variable {s t u : State} {n : CoreIx} {i : CtxIx}

/-! ### Leaving RUN (R70) -/

/-- The context that the core selects after context `i` has left RUN: the first READY one in rotation. -/
def nextReady (s : State) (n : CoreIx) (i : CtxIx) : Option CtxIx := [i + 1, i + 2, i + 3].find? (fun j => (ctxOf s n j).st == .ready)

theorem add_ne_self (i : CtxIx) : i + 1 ≠ i ∧ i + 2 ≠ i ∧ i + 3 ≠ i := by revert i; decide

/-- Only the other contexts decide which is next. -/
theorem nextReady_congr (h : ∀ j, j ≠ i → ctxOf t n j = ctxOf s n j) : nextReady t n i = nextReady s n i := by
  obtain ⟨h1, h2, h3⟩ := add_ne_self i
  simp only [nextReady, List.find?_cons, List.find?_nil, h _ h1, h _ h2, h _ h3]

theorem nextReady_ne {j : CtxIx} (h : nextReady s n i = some j) : j ≠ i := by
  obtain ⟨h1, h2, h3⟩ := add_ne_self i
  have mem := List.mem_of_find?_eq_some h
  simp only [List.mem_cons, List.not_mem_nil, or_false] at mem
  rcases mem with rfl | rfl | rfl
  · exact h1
  · exact h2
  · exact h3

theorem nextReady_ready {j : CtxIx} (h : nextReady s n i = some j) : (ctxOf s n j).st = .ready :=
  beq_iff_eq.mp (List.find?_some (p := fun j => (ctxOf s n j).st == .ready) h)

/-- The first READY context in rotation after the one last in RUN. -/
def selected (c : Core) : Option CtxIx := (rotation c.current).find? (fun j => (c.ctx[j]).st == .ready)

theorem pick_frame (c : Core) : pick c = { c with ctx := (pick c).ctx, issued := (pick c).issued, current := (pick c).current } := by
  unfold pick
  split <;> rfl

/-- The selected context is in RUN; the others keep their state. -/
theorem pick_ctx (c : Core) (j : CtxIx) : (pick c).ctx[j] = if selected c = some j then { c.ctx[j] with st := .run } else c.ctx[j] := by
  unfold pick selected
  split
  · next h => rw [h, if_neg nofun]
  · next k h =>
    rw [h]
    by_cases e : k = j
    · subst e
      rw [if_pos rfl]
      exact getElem_set_self' ..
    · rw [if_neg (fun he => e (Option.some.inj he))]
      exact getElem_set_ne' _ _ _ _ (Ne.symm e)

/-- Changing the contexts of a core, its issue count and its last context in RUN changes nothing else. -/
theorem OnlyCore.of_modCore {f : Core → Core}
    (hf : f s.cores[n] = { s.cores[n] with ctx := (f s.cores[n]).ctx, issued := (f s.cores[n]).issued, current := (f s.cores[n]).current }) :
    OnlyCore s (modCore s n f) n where
  rest := rfl
  others m hm := modCore_ne s n f m hm
  core := by rw [modCore_self]; rw [hf]

/-- A context in a new state, with what it waits for, as the last in RUN. -/
def parkCtx (i : CtxIx) (st : CtxSt) (waits : List Cond) (c : Core) : Core :=
  { c with ctx := c.ctx.set i.val { c.ctx[i] with st := st, waits := waits } i.isLt, current := i }

theorem parkCtx_self (i : CtxIx) (st : CtxSt) (waits : List Cond) (c : Core) :
    (parkCtx i st waits c).ctx[i] = { c.ctx[i] with st := st, waits := waits } := getElem_set_self' ..

theorem parkCtx_ne {i j : CtxIx} (h : j ≠ i) (st : CtxSt) (waits : List Cond) (c : Core) : (parkCtx i st waits c).ctx[j] = c.ctx[j] :=
  getElem_set_ne' _ _ _ _ h

/-- After a context has left RUN, the rotation tries the others first. -/
theorem selected_parkCtx (s : State) (n : CoreIx) (i : CtxIx) (st : CtxSt) (waits : List Cond) :
    selected (parkCtx i st waits s.cores[n]) = (nextReady s n i).or (if st = .ready then some i else none) := by
  obtain ⟨h1, h2, h3⟩ := add_ne_self i
  have split : rotation i = [i + 1, i + 2, i + 3] ++ [i] := rfl
  have others : [i + 1, i + 2, i + 3].find? (fun j => ((parkCtx i st waits s.cores[n]).ctx[j]).st == .ready) = nextReady s n i := by
    simp only [nextReady, List.find?_cons, List.find?_nil, parkCtx_ne h1, parkCtx_ne h2, parkCtx_ne h3]
    rfl
  have own : [i].find? (fun j => ((parkCtx i st waits s.cores[n]).ctx[j]).st == .ready) = if st = .ready then some i else none := by
    rw [List.find?_singleton, parkCtx_self]
    simp only [beq_iff_eq]
  show (rotation i).find? _ = _
  rw [split, List.find?_append, others, own]

/-- What a context that leaves RUN leaves behind (R70): it has its new state, unless it is READY and no other is; the next context in rotation is in
RUN; nothing else of the core changes but its counts. -/
structure Leaves (s : State) (n : CoreIx) (i : CtxIx) (st : CtxSt) (waits : List Cond) (t : State) : Prop where
  only : OnlyCore s t n
  own : ctxOf t n i = { ctxOf s n i with st := if nextReady s n i = none ∧ st = .ready then .run else st, waits := waits }
  others : ∀ j, j ≠ i → ctxOf t n j = if nextReady s n i = some j then { ctxOf s n j with st := .run } else ctxOf s n j

theorem ctxOf_park (s : State) (n : CoreIx) (i : CtxIx) (st : CtxSt) (waits : List Cond) (j : CtxIx) :
    ctxOf (modCore s n (fun c => pick (parkCtx i st waits c))) n j
      = if (nextReady s n i).or (if st = .ready then some i else none) = some j then { (parkCtx i st waits s.cores[n]).ctx[j] with st := .run }
        else (parkCtx i st waits s.cores[n]).ctx[j] := by
  unfold ctxOf
  rw [modCore_self, pick_ctx, selected_parkCtx]

/-- The context itself is selected again where it is READY and no other is. -/
theorem chosen_self (s : State) (n : CoreIx) (i : CtxIx) (st : CtxSt) :
    (nextReady s n i).or (if st = .ready then some i else none) = some i ↔ nextReady s n i = none ∧ st = .ready := by
  cases hn : nextReady s n i with
  | none => simp
  | some k => simp [nextReady_ne hn]

theorem chosen_other {j : CtxIx} (h : j ≠ i) (st : CtxSt) :
    (nextReady s n i).or (if st = .ready then some i else none) = some j ↔ nextReady s n i = some j := by
  cases hn : nextReady s n i with
  | none => simp [h.symm]
  | some k => simp

theorem leaves_park (s : State) (n : CoreIx) (i : CtxIx) (st : CtxSt) (waits : List Cond) :
    Leaves s n i st waits (modCore s n (fun c => pick (parkCtx i st waits c))) where
  only := .of_modCore (pick_frame _)
  own := by
    rw [ctxOf_park, parkCtx_self]
    by_cases alone : nextReady s n i = none ∧ st = .ready
    · rw [if_pos ((chosen_self ..).mpr alone), if_pos alone]
      rfl
    · rw [if_neg (mt (chosen_self ..).mp alone), if_neg alone]
      rfl
  others j hj := by
    rw [ctxOf_park, parkCtx_ne hj]
    exact if_congr (chosen_other hj st) rfl rfl

theorem Leaves.observed {st : CtxSt} {waits : List Cond} (h : Leaves s n i st waits t) (k : unobserved n u = unobserved n t) : Leaves s n i st waits u where
  only := h.only.trans (.of_unobserved k)
  own := (ctxOf_of_unobserved k i).trans h.own
  others j hj := (ctxOf_of_unobserved k j).trans (h.others j hj)

/-- What precedes may be observation, or change the context itself. -/
theorem Leaves.after {st : CtxSt} {waits : List Cond} (h : Leaves u n i st waits t) (k : OnlyCore s u n) (others : ∀ j, j ≠ i → ctxOf u n j = ctxOf s n j) :
    OnlyCore s t n ∧ ctxOf t n i = { ctxOf u n i with st := if nextReady s n i = none ∧ st = .ready then .run else st, waits := waits }
      ∧ ∀ j, j ≠ i → ctxOf t n j = if nextReady s n i = some j then { ctxOf s n j with st := .run } else ctxOf s n j := by
  have next := nextReady_congr others
  refine ⟨k.trans h.only, next ▸ h.own, fun j hj => ?_⟩
  rw [h.others j hj, next, others j hj]

theorem leaves_leave (s : State) (n : CoreIx) (i : CtxIx) (st : CtxSt) (waits : List Cond) : Leaves s n i st waits (leave s n i st waits) := by
  have flushed : unobserved n (flowFlush s n) = unobserved n s := unobserved_flowFlush ..
  have parked := leaves_park (flowFlush s n) n i st waits
  obtain ⟨only, own, others⟩ := parked.after (.of_unobserved flushed) (fun j _ => ctxOf_of_unobserved flushed j)
  rw [ctxOf_of_unobserved flushed] at own
  have left : Leaves s n i st waits (modCore (flowFlush s n) n (fun c => pick (parkCtx i st waits c))) := ⟨only, own, others⟩
  exact left.observed ((unobserved_countSwitch ..).trans (unobserved_flowSwitch ..))

/-- Blocking leaves the context blocked. -/
theorem blocked_leave (s : State) (n : CoreIx) (i : CtxIx) (ks : List Cond) :
    ctxOf (leave s n i .blocked ks) n i = { ctxOf s n i with st := .blocked, waits := ks } := by
  rw [(leaves_leave ..).own, if_neg (fun h => nomatch h.2)]

/-! ### Waits (R87, R89) -/

/-- An instruction that waits on conditions goes on where they hold. -/
theorem gate_goes {ks : List Cond} (h : ks.all (condHolds s n i) = true) (go : State → State) : gate s n i ks go = go s := if_pos h

/-- It blocks its context on them where they do not. -/
theorem gate_blocks {ks : List Cond} (h : ¬ ks.all (condHolds s n i) = true) (go : State → State) : gate s n i ks go = leave s n i .blocked ks := if_neg h

/-- The context goes on to the next instruction, and nothing else changes. -/
def Steps (s : State) (n : CoreIx) (i : CtxIx) (r : Res) : Prop :=
  ∃ t, r = .next t ∧ OnlyCtx s t n i ∧ ctxOf t n i = { ctxOf s n i with pc := (ctxOf s n i).pc + 8 }

/-- The context blocks on conditions. -/
def Blocks (s : State) (n : CoreIx) (i : CtxIx) (ks : List Cond) (r : Res) : Prop :=
  ∃ t, r = .next t ∧ OnlyCore s t n ∧ ctxOf t n i = { ctxOf s n i with st := .blocked, waits := ks }

theorem steps_advance (s : State) (n : CoreIx) (i : CtxIx) : Steps s n i (.next (advance s n i 1)) :=
  ⟨_, rfl, onlyCtx_advance .., ctxOf_advance ..⟩

theorem blocks_leave (s : State) (n : CoreIx) (i : CtxIx) (ks : List Cond) : Blocks s n i ks (.next (leave s n i .blocked ks)) :=
  ⟨_, rfl, (leaves_leave ..).only, blocked_leave ..⟩

/-- FENCE, WAITB and WAITC wait on one condition each. -/
theorem waits_on {g : Guard} {b : Bound} {lc : LCoreE} (h : Issues s n g [] i b lc) (k : Cond) :
    (condHolds s n i k = true → Steps s n i (.next (issue s n g 1 [] (fun s i _ _ => gate s n i [k] (fun s => advance s n i 1)))))
      ∧ (¬ condHolds s n i k = true → Blocks s n i [k] (.next (issue s n g 1 [] (fun s i _ _ => gate s n i [k] (fun s => advance s n i 1))))) := by
  rw [issue_ok h]
  refine ⟨fun hk => ?_, fun hk => ?_⟩
  · rw [gate_goes (by simpa using hk)]; exact steps_advance ..
  · rw [gate_blocks (by simpa using hk)]; exact blocks_leave ..

theorem condHolds_memDone (s : State) (n : CoreIx) (i : CtxIx) (scope : Nat) :
    condHolds s n i (.memDone scope) = true ↔ ∀ a ∈ (ctxOf s n i).accs, inScope scope a = false := by
  show (!(ctxOf s n i).accs.any (inScope scope)) = true ↔ _
  simp

theorem condHolds_barrier {b : Bound} (h : boundOf s.cores[n] i = some b) (k : Nat) :
    condHolds s n i (.barrier k) = barrierDone s (dieOfCore n) b.part k := by
  simp only [condHolds, h]

theorem condHolds_counter (s : State) (n : CoreIx) (i : CtxIx) (c : Cnt) (v : W32) :
    condHolds s n i (.counter c v) = true ↔ v.toNat ≤ ((ctxOf s n i).c[c]).toNat := by
  show decide (v ≤ (ctxOf s n i).c[c]) = true ↔ _
  rw [decide_eq_true_eq, BitVec.le_def]

/-! ### Switches (R70, R72, R89) -/

/-- The context in RUN moves to a state, at a pc, and the core selects the next. -/
def Moves (s : State) (n : CoreIx) (i : CtxIx) (r : Res) (st : CtxSt) (pc : BitVec 40) : Prop :=
  ∃ t, r = .next t ∧ OnlyCore s t n
    ∧ ctxOf t n i = { ctxOf s n i with st := if nextReady s n i = none ∧ st = .ready then .run else st, waits := [], pc := pc }
    ∧ ∀ j, j ≠ i → ctxOf t n j = if nextReady s n i = some j then { ctxOf s n j with st := .run } else ctxOf s n j

theorem moves_advance_leave (s : State) (n : CoreIx) (i : CtxIx) (st : CtxSt) :
    Moves s n i (.next (leave (advance s n i 1) n i st [])) st ((ctxOf s n i).pc + 8) := by
  have stepped := onlyCtx_advance s n i 1
  obtain ⟨only, own, others⟩ := (leaves_leave (advance s n i 1) n i st []).after stepped.onlyCore stepped.ctxs
  refine ⟨_, rfl, only, ?_, others⟩
  rw [own, ctxOf_advance]
  rfl

theorem moves_leave (s : State) (n : CoreIx) (i : CtxIx) (st : CtxSt) : Moves s n i (.next (leave s n i st [])) st (ctxOf s n i).pc := by
  obtain ⟨only, own, others⟩ := leaves_leave s n i st []
  exact ⟨_, rfl, only, own, others⟩

theorem quantum_moves (ha : asleep s (coreDom n) = false) (hr : runCtx s.cores[n] = some i) (h0 : (s.cores[n]).quantum ≠ 0)
    (hq : (s.cores[n]).quantum ≤ (s.cores[n]).issued) (hy : anyReady s.cores[n] = true) :
    Moves s n i (exec (.quantum n) s) .ready (ctxOf s n i).pc := by
  have run : exec (.quantum n) s = .next (leave s n i .ready []) := by
    show execQuantum n s = _
    simp only [execQuantum, ha, hr, h0, hq, hy, Bool.false_eq_true, if_false, ne_eq, not_false_eq_true, and_self, if_true]
  rw [run]
  exact moves_leave ..

/-- Settles O15: a wait is `gate` on its condition, a switch is `leave`. -/
theorem waitsAndSwitches : Obligations.WaitsAndSwitches := by
  unfold Obligations.WaitsAndSwitches
  refine ⟨fun s n g i b lc h => ⟨?_, fun scope => ?_, fun k => ?_, fun c v => ?_⟩, fun s n g i => ⟨fun b lc h => ⟨?_, ?_⟩, fun ha hr h0 hq hy => ?_⟩⟩
  · show Steps s n i (.next (issue s n g 1 [] _))
    rw [issue_ok h]
    exact steps_advance ..
  · obtain ⟨goes, blocks⟩ := waits_on h (.memDone scope.val)
    rw [condHolds_memDone] at goes blocks
    split
    · next hs => exact goes hs
    · next hs => exact blocks hs
  · obtain ⟨goes, blocks⟩ := waits_on h (.barrier k.toNat)
    rw [condHolds_barrier h.bound] at goes blocks
    split
    · next hs => exact goes hs
    · next hs => exact blocks hs
  · obtain ⟨goes, blocks⟩ := waits_on h (.counter c v)
    rw [condHolds_counter] at goes blocks
    split
    · next hs => exact goes hs
    · next hs => exact blocks hs
  · show Moves s n i (.next (issue s n g 1 [] _)) _ _
    rw [issue_ok h]
    exact moves_advance_leave ..
  · show Moves s n i (.next (issue s n g 1 [] _)) _ _
    rw [issue_ok h]
    exact moves_advance_leave ..
  · exact quantum_moves ha hr h0 hq hy

/-! ### Frames that leave (R91, R360 to R368) -/

/-- A state but for what frames that leave change. -/
def unsent (s : State) : State := { s with fab := State.reset.fab, cnt := State.reset.cnt, egress := [] }

theorem unsent_emit (s : State) (o : Out) : unsent (emit s o) = unsent s := by rw [emit_frame]; rfl

theorem unsent_modPort (s : State) (f : PortIx) (h : Port → Port) : unsent (modPort s f h) = unsent s := rfl

theorem unsent_modPortDie (s : State) (d : PortDieIx) (h : PortDie → PortDie) : unsent (modPortDie s d h) = unsent s := rfl

theorem unsent_countG (s : State) (k m : Nat) : unsent (countG s k m) = unsent s := rfl

theorem unsent_countP (s : State) (p : PartIx) (k m : Nat) : unsent (countP s p k m) = unsent s := rfl

theorem unsent_sendVlcredit (s : State) (f : PortIx) (key len : Nat) : unsent (sendVlcredit s f key len) = unsent s := ite_keeps unsent (unsent_emit ..) rfl

theorem unsent_freeIngress (s : State) (e : Egress) : unsent (freeIngress s e) = unsent s := by
  unfold freeIngress
  split
  · rfl
  · exact (unsent_sendVlcredit ..).trans (unsent_modPort ..)

theorem unsent_launch (s : State) (f : PortIx) (fr : Frame) : unsent (launch s f fr) = unsent s := by
  unfold launch
  refine (unsent_emit ..).trans ((unsent_modPort ..).trans (optional_keeps unsent ((unsent_emit ..).trans (unsent_modPort ..)) (ite_keeps unsent ?_
    (unsent_countG ..))))
  split
  · exact (unsent_countP ..).trans (unsent_countG ..)
  · exact unsent_countG ..

theorem unsent_pumpN (s : State) (f : PortIx) (fuel : Nat) : unsent (pumpN s f fuel) = unsent s := by
  induction fuel generalizing s with
  | zero => rfl
  | succ fuel ih =>
    unfold pumpN
    refine ite_keeps unsent rfl ?_
    split
    · rfl
    · exact (ih _).trans ((unsent_freeIngress ..).trans ((unsent_launch ..).trans (unsent_modPort ..)))

theorem unsent_enqueue (s : State) (f : PortIx) (fr : Frame) (origin : Option (PortIx × Nat)) : unsent (enqueue s f fr origin) = unsent s :=
  (unsent_pumpN ..).trans (unsent_modPort ..)

theorem unsent_numberFrame (s : State) (d : PortDieIx) (fr : Frame) : unsent (numberFrame s d fr).1 = unsent s := unsent_modPortDie ..

theorem unsent_sendFrame (s : State) (spart dpart dest vl : Nat) (b : FBody) : unsent (sendFrame s spart dpart dest vl b) = unsent s := by
  unfold sendFrame
  refine ite_keeps unsent rfl ?_
  dsimp only
  split
  · exact (unsent_enqueue ..).trans (unsent_numberFrame ..)
  · exact unsent_modPortDie ..

theorem unsent_stepFrame (s : State) (p : PartIx) (rank vl : Nat) (b : FBody) : unsent (stepFrame s p rank vl b) = unsent s :=
  ite_keeps unsent rfl (unsent_sendFrame ..)

/-- A token that is sent joins the local ones at the dies of its waiters; else only frames leave (R91, R228). -/
theorem unsent_sendToken {p : PartIx} {k l : Nat} {e : BarrierE} (h : barrierOf s p k = some e) :
    unsent (sendToken s p k l)
      = unsent { s with toks := s.toks ++ (waiterDies s p k).map (fun d => (d, ⟨p, k, .here l, (s.parts[p]).stepNo, (s.parts[p]).attempt⟩)) } := by
  have same : barrierOf { s with toks := s.toks ++ (waiterDies s p k).map (fun d => (d, ⟨p, k, .here l, (s.parts[p]).stepNo, (s.parts[p]).attempt⟩)) } p k
      = some e := h
  unfold sendToken
  dsimp only
  rw [same]
  exact each_keeps unsent (fun _ _ => unsent_stepFrame ..) ..

/-- Without remote waiters no frame leaves. -/
theorem sendToken_local {p : PartIx} {k l : Nat} {e : BarrierE} (h : barrierOf s p k = some e) (he : e.waiters = []) :
    sendToken s p k l
      = { s with toks := s.toks ++ (waiterDies s p k).map (fun d => (d, ⟨p, k, .here l, (s.parts[p]).stepNo, (s.parts[p]).attempt⟩)) } := by
  have same : barrierOf { s with toks := s.toks ++ (waiterDies s p k).map (fun d => (d, ⟨p, k, .here l, (s.parts[p]).stepNo, (s.parts[p]).attempt⟩)) } p k
      = some e := h
  unfold sendToken
  dsimp only
  rw [same]
  dsimp only
  rw [he]
  rfl

/-- What frames that leave do not change. -/
theorem rest_of_unsent (h : unsent t = unsent s) : t = { s with fab := t.fab, cnt := t.cnt, egress := t.egress } :=
  congrArg (fun x : State => { x with fab := t.fab, cnt := t.cnt, egress := t.egress }) h

/-! ### SIGB, TRAP, WAIT_TIMEOUT (R89, R91, R101, R102) -/

theorem sigb_unlisted {g : Guard} {b : Bound} {lc : LCoreE} (h : Issues s n g [] i b lc) {k : BitVec 16}
    (hn : ∀ e, barrierOf s b.part k.toNat = some e → e.sources.contains (.here b.lcore) = false) :
    exec (.sigb n g k) s = .next (raiseHere s n i .badBarrier (k.setWidth 64)) := by
  show Host.Outcome.next (issue s n g 1 [] _) = _
  rw [issue_ok h]
  cases he : barrierOf s b.part k.toNat with
  | none => rfl
  | some e =>
    dsimp only
    rw [hn e he]
    rfl

theorem sigb_listed {g : Guard} {b : Bound} {lc : LCoreE} (h : Issues s n g [] i b lc) {k : BitVec 16} {e : BarrierE}
    (he : barrierOf s b.part k.toNat = some e) (hl : e.sources.contains (.here b.lcore) = true) :
    exec (.sigb n g k) s = .next (gate s n i [.memDone 7, .engineDone] (fun s => advance (sendToken s b.part k.toNat b.lcore) n i 1)) := by
  show Host.Outcome.next (issue s n g 1 [] _) = _
  rw [issue_ok h]
  dsimp only
  rw [he]
  exact congrArg _ (if_neg (by show ¬ (!e.sources.contains (.here b.lcore)) = true; rw [hl]; decide))

/-- Every access is in the scope of all spaces. -/
theorem inScope_all (a : Acc) : inScope 7 a = true := by unfold inScope; split <;> rfl

/-- What SIGB waits for. -/
theorem sigb_waits (s : State) (n : CoreIx) (i : CtxIx) :
    [Cond.memDone 7, .engineDone].all (condHolds s n i) = true ↔ (ctxOf s n i).accs = [] ∧ condHolds s n i .engineDone = true := by
  simp only [List.all_cons, List.all_nil, Bool.and_true, Bool.and_eq_true, condHolds_memDone, inScope_all, Bool.true_eq_false, List.eq_nil_iff_forall_not_mem]

/-- What the sending of a token leaves of the state. -/
theorem sendToken_goes {p : PartIx} {k l : Nat} {e : BarrierE} (h : barrierOf s p k = some e) :
    let v := sendToken s p k l
    let t := advance v n i 1
    t.toks = s.toks ++ (waiterDies s p k).map (fun d => (d, ⟨p, k, .here l, (s.parts[p]).stepNo, (s.parts[p]).attempt⟩))
      ∧ ctxOf t n i = { ctxOf s n i with pc := (ctxOf s n i).pc + 8 }
      ∧ OnlyCtx { s with toks := t.toks, fab := t.fab, cnt := t.cnt, egress := t.egress } t n i
      ∧ (e.waiters = [] → t.fab = s.fab ∧ t.cnt = s.cnt ∧ t.egress = s.egress) := by
  intro v t
  have sent := rest_of_unsent (unsent_sendToken (l := l) h)
  have cores : v.cores = s.cores := (congrArg State.cores sent :)
  have ctx : ctxOf v n i = ctxOf s n i := by unfold ctxOf; rw [cores]
  have toks := congrArg State.toks sent
  refine ⟨toks, ?_, ?_, fun he => ?_⟩
  · rw [← ctx]; exact ctxOf_advance ..
  · have before : v = { s with toks := v.toks, fab := v.fab, cnt := v.cnt, egress := v.egress } :=
      sent.trans (congrArg (fun l => ({ s with toks := l, fab := v.fab, cnt := v.cnt, egress := v.egress } : State)) toks.symm)
    show OnlyCtx { s with toks := v.toks, fab := v.fab, cnt := v.cnt, egress := v.egress } t n i
    rw [← before]
    exact onlyCtx_advance ..
  · have still := sendToken_local (l := l) h he
    exact ⟨(congrArg State.fab still :), (congrArg State.cnt still :), (congrArg State.egress still :)⟩

/-- The wait limit of a context that has blocked on what it covers (R101, R102). -/
theorem waitTimeout_raises (ht : timersHeld s = false) (ha : asleep s (coreDom n) = false) (hb : (ctxOf s n i).st = .blocked)
    (hl : (s.cores[n]).waitLimit ≠ 0) {v : Word} (hv : waitInfo (ctxOf s n i).waits = some v) :
    exec (.waitTimeout n i) s = .next (raise s n i .waitTimeout (ctxOf s n i).pc v) := by
  show execWaitTimeout n i s = _
  simp only [execWaitTimeout, ht, ha, Bool.or_self, Bool.false_eq_true, if_false, hb, hl, ne_eq, not_false_eq_true, and_self, if_true, hv, raiseHere]

theorem waitTimeout_uncovered (ht : timersHeld s = false) (ha : asleep s (coreDom n) = false) (hb : (ctxOf s n i).st = .blocked)
    (hl : (s.cores[n]).waitLimit ≠ 0) (hv : waitInfo (ctxOf s n i).waits = none) : exec (.waitTimeout n i) s = .next s := by
  show execWaitTimeout n i s = _
  simp only [execWaitTimeout, ht, ha, Bool.or_self, Bool.false_eq_true, if_false, hb, hl, ne_eq, not_false_eq_true, and_self, if_true, hv]

/-- Settles O16: SIGB first looks up its barrier, then waits; WAIT_TIMEOUT says what the context waits for. -/
theorem sigbTrapAndTimeout : Obligations.SigbTrapAndTimeout := by
  unfold Obligations.SigbTrapAndTimeout
  refine ⟨fun s n g k i b lc h => ⟨fun hn => ?_, fun e he hl => ⟨fun ha hd => ?_, fun hw => ?_⟩⟩, fun s n g i b lc => ⟨fun h code => ?_,
    fun ht ha hb hl => ?_⟩⟩
  · rw [sigb_unlisted h hn]
    rfl
  · rw [sigb_listed h he hl, gate_goes ((sigb_waits ..).mpr ⟨ha, hd⟩)]
    obtain ⟨toks, ctx, only, alone⟩ := sendToken_goes (n := n) (i := i) (l := b.lcore) he
    exact ⟨_, rfl, toks, ctx, only, alone⟩
  · have waits : ¬ [Cond.memDone 7, .engineDone].all (condHolds s n i) = true := by
      rw [sigb_waits]
      rintro ⟨ha, hd⟩
      exact hw.elim (fun hn => hn ha) (fun hf => by rw [hd] at hf; contradiction)
    rw [sigb_listed h he hl, gate_blocks waits]
    exact blocks_leave ..
  · refine ⟨?_, rfl, rfl⟩
    show Host.Outcome.next (issue s n g 1 [] _) = _
    rw [issue_ok h]
    rfl
  · exact ⟨fun k hk => waitTimeout_raises ht ha hb hl (by rw [hk]; rfl), fun c v hk => waitTimeout_raises ht ha hb hl (by rw [hk]; rfl),
      fun k hk => waitTimeout_raises ht ha hb hl (by rw [hk]; rfl), fun l hk => waitTimeout_uncovered ht ha hb hl (by rw [hk]; rfl)⟩

end Sys2Proof.Machine
end

section
/-! What a partition stop does to the cores, and what an exception does to cores and partitions (O13); outstanding accesses that take effect (O14); guards
that fail, stops on their way and registers that are awaited (O9). -/

namespace Sys2Proof.Machine

variable {s t u : State} {n : CoreIx} {i : CtxIx}

/-! ### Parts of the state that observation leaves alone -/

theorem parts_of_unobserved (h : unobserved n t = unobserved n s) : t.parts = s.parts :=
  show (unobserved n t).parts = (unobserved n s).parts from congrArg State.parts h

theorem hbm_of_unobserved (h : unobserved n t = unobserved n s) : t.hbm = s.hbm :=
  show (unobserved n t).hbm = (unobserved n s).hbm from congrArg State.hbm h

/-- What observation leaves of every core: all but the cycle count. -/
def tickless (c : Core) : Core := { c with cycles := 0 }

theorem tickless_of_unobserved (h : unobserved n t = unobserved n s) (m : CoreIx) : tickless t.cores[m] = tickless s.cores[m] := by
  by_cases hm : m = n
  · subst hm
    have core := congrArg (fun x : State => x.cores[m]) h
    rwa [unobserved_core, unobserved_core] at core
  · rw [← unobserved_core_ne t hm, h, unobserved_core_ne s hm]

theorem ctx_of_tickless {c d : Core} (h : tickless c = tickless d) : c.ctx = d.ctx := show (tickless c).ctx = (tickless d).ctx from congrArg Core.ctx h

theorem ctxOf_of_tickless {m : CoreIx} (h : tickless t.cores[m] = tickless s.cores[m]) (j : CtxIx) : ctxOf t m j = ctxOf s m j := by
  unfold ctxOf
  rw [ctx_of_tickless h]

/-! ### Partition stops (R97) -/

/-- Does a stop for a partition move a context of a core that it reaches? -/
def stopMoves (p : PartIx) (c : Core) (j : CtxIx) : Bool :=
  (match boundOf c j with | some b => decide (b.part = p) | none => false)
    && ((c.ctx[j]).st == .run || (c.ctx[j]).st == .ready || (c.ctx[j]).st == .blocked)

/-- It moves the contexts of the partition that run or wait to run. -/
theorem stopMoves_iff (p : PartIx) (c : Core) (j : CtxIx) : stopMoves p c j = true ↔ (∃ d, boundOf c j = some d ∧ d.part = p)
    ∧ ((c.ctx[j]).st = .run ∨ (c.ctx[j]).st = .ready ∨ (c.ctx[j]).st = .blocked) := by
  unfold stopMoves
  cases boundOf c j <;> simp [-Fin.getElem_fin, or_assoc]

/-- What a partition stop makes of a core that it reaches. -/
theorem stopCore_ctx (p : PartIx) (c : Core) (j : CtxIx) : (stopCore p c).ctx[j]
    = if stopMoves p c j = true then { c.ctx[j] with st := .stopped, waits := [] } else c.ctx[j] := by
  have shape : (stopCore p c).ctx
      = Vector.ofFn (fun i : Fin 4 => if stopMoves p c i then { c.ctx[i] with st := .stopped, waits := [] } else c.ctx[i]) := rfl
  rw [shape]
  simp

theorem tickless_stopCore (p : PartIx) (c : Core) : tickless (stopCore p c) = stopCore p (tickless c) := rfl

/-- What a stop makes of the core that it reaches, but for the cycle count. -/
theorem tickless_stopOne (s : State) (p : PartIx) (n m : CoreIx) :
    tickless (stopOne s p n).cores[m] = if m = n then stopCore p (tickless s.cores[m]) else tickless s.cores[m] := by
  have seen : ∀ u, unobserved n u = unobserved n s → tickless (modCore u n (stopCore p)).cores[m]
      = if m = n then stopCore p (tickless s.cores[m]) else tickless s.cores[m] := by
    intro u hu
    by_cases hm : m = n
    · subst hm
      rw [if_pos rfl, modCore_self, tickless_stopCore, tickless_of_unobserved hu]
    · rw [if_neg hm, modCore_ne _ _ _ _ hm, tickless_of_unobserved hu]
  unfold stopOne
  split
  · exact seen _ (unobserved_flowPc ..)
  · exact seen _ rfl

theorem nodup_coresOf (s : State) (p : PartIx) : (coresOf s p).Nodup := by
  unfold coresOf
  split
  · exact List.nodup_nil
  · exact (List.nodup_finRange 40).filter _

/-- Each core of a list is stopped once. -/
theorem tickless_stopEach {l : List CoreIx} (hl : l.Nodup) (s : State) (p : PartIx) (m : CoreIx) :
    tickless (each l s (fun s n => stopOne s p n)).cores[m] = if m ∈ l then stopCore p (tickless s.cores[m]) else tickless s.cores[m] := by
  induction l generalizing s with
  | nil => rfl
  | cons k l ih =>
    obtain ⟨hk, hl⟩ := List.nodup_cons.mp hl
    refine (ih hl (stopOne s p k)).trans ?_
    rw [tickless_stopOne]
    by_cases hm : m = k
    · subst hm
      rw [if_neg hk, if_pos rfl, if_pos (List.mem_cons_self ..)]
    · rw [if_neg hm]
      simp only [List.mem_cons, hm, false_or]

/-- A stop reaches every core of its partition and no other. -/
theorem tickless_stopPart (s : State) (p : PartIx) (m : CoreIx) :
    tickless (stopPart s p).cores[m] = if m ∈ coresOf s p then stopCore p (tickless s.cores[m]) else tickless s.cores[m] :=
  tickless_stopEach (nodup_coresOf s p) s p m

theorem stopped_stopPart {p : PartIx} {m : CoreIx} (h : m ∈ coresOf s p) : ((stopPart s p).cores[m]).stopped = true := by
  have core := tickless_stopPart s p m
  rw [if_pos h] at core
  exact show (tickless (stopPart s p).cores[m]).stopped = true by rw [core]; rfl

theorem parts_stopOne (s : State) (p : PartIx) (n : CoreIx) : (stopOne s p n).parts = s.parts := by
  unfold stopOne
  split
  · exact (parts_of_unobserved (unobserved_flowPc ..) :)
  · rfl

theorem parts_stopPart (s : State) (p : PartIx) : (stopPart s p).parts = s.parts := each_keeps State.parts (fun _ _ => parts_stopOne ..) ..

/-- A core that a stop is on its way to, if it has not stopped. -/
def heedStop (c : Core) : Core := if c.stopped then c else { c with stopping := true }

theorem heedStop_heedStop (c : Core) : heedStop (heedStop c) = heedStop c := by cases h : c.stopped <;> simp [heedStop, h]

/-- A change that repeating leaves alone, made to each core of a list. -/
theorem cores_eachMod {f : Core → Core} (hf : ∀ c, f (f c) = f c) (l : List CoreIx) (s : State) (m : CoreIx) :
    (each l s (fun s n => modCore s n f)).cores[m] = if m ∈ l then f s.cores[m] else s.cores[m] := by
  induction l generalizing s with
  | nil => rfl
  | cons k l ih =>
    refine (ih (modCore s k f)).trans ?_
    by_cases hm : m = k
    · subst hm
      rw [modCore_self, hf, if_pos (List.mem_cons_self ..), ite_self]
    · rw [modCore_ne _ _ _ _ hm]
      simp only [List.mem_cons, hm, false_or]

/-- A stop that begins is on its way to every core of the partition that has not stopped. -/
theorem cores_beginStop (s : State) (p : PartIx) (m : CoreIx) :
    (beginStop s p).cores[m] = if m ∈ coresOf s p then heedStop s.cores[m] else s.cores[m] := cores_eachMod heedStop_heedStop ..

theorem parts_beginStop (s : State) (p : PartIx) : (beginStop s p).parts = s.parts := each_keeps State.parts (fun _ _ => by rfl) ..

theorem parts_modPart_congr (h : t.parts = s.parts) (p : PartIx) (f : Machine.Part → Machine.Part) : (modPart t p f).parts = (modPart s p f).parts := by
  unfold modPart
  rw [h]

/-- Two changes of one partition are one. -/
theorem modPart_modPart (s : State) (p : PartIx) (f g : Machine.Part → Machine.Part) : modPart (modPart s p f) p g = modPart s p (fun q => g (f q)) := by
  have self := modPart_self s p f
  unfold modPart at self ⊢
  dsimp only at self ⊢
  rw [self, Vector.set_set]

theorem parts_modPart_self (s : State) (p : PartIx) {f : Machine.Part → Machine.Part} (h : f s.parts[p] = s.parts[p]) : (modPart s p f).parts = s.parts := by
  unfold modPart
  rw [h]
  simp

/-! ### Exceptions (R97 to R100) -/

/-- The failure of a step as it stands in the partition's record (R98, R308). -/
def failedStep (classH : Bool) (cause : Nat) (q : Machine.Part) : Machine.Part :=
  if q.step = .run then { q with step := .stopped, failClassP := q.failClassP || !classH, failCause := cause } else q

/-- A step that fails changes the partition's record; else only messages leave. -/
theorem quiet_failStep (s : State) (p : PartIx) (classH : Bool) (cause : Nat) :
    quiet (failStep s p classH cause) = quiet (modPart s p (failedStep classH cause)) := by
  unfold failStep
  dsimp only
  split
  · next h =>
    refine (quiet_partReport ..).trans ((quiet_sendStep ..).trans (congrArg quiet ?_))
    unfold modPart failedStep
    rw [if_pos h]
  · next h =>
    have same : modPart s p (failedStep classH cause) = s := by
      unfold modPart failedStep
      rw [if_neg h]
      simp
    rw [same]

theorem cores_haltWave (s : State) (cause : Nat) : (haltWave s cause).cores = s.cores :=
  ite_keeps State.cores rfl ((cores_of_quiet (quiet_traceEvent ..)).trans rfl)

theorem parts_haltWave (s : State) (cause : Nat) : (haltWave s cause).parts = s.parts :=
  ite_keeps State.parts rfl ((parts_of_quiet (quiet_traceEvent ..)).trans rfl)

/-- The context that takes an exception, with its record. -/
def faultedCtx (e : Exc) (secondary : Bool) (pc : BitVec 40) (info : Word) (x : Ctx) : Ctx :=
  { x with st := .faulted, waits := [], exc := ⟨excCode e, excClass e, secondary, true, pc, info⟩ }

/-- An exception up to its report: the context is FAULTED, and the stop of its partition is on its way (R97, R100). -/
def announce (s : State) (n : CoreIx) (i : CtxIx) (e : Exc) (pc : BitVec 40) (info : Word) (p : PartIx) : State :=
  let secondary := !(s.parts[p]).excFirst.isNone
  let s := flowPc (modCtx s n i (faultedCtx e secondary pc info)) n i 4 pc
  let s := traceEvent s 0x05 (excCode e + 256 * n.val + 65536 * i.val)
  let s := modPart s p (fun q => { q with excFirst := some (q.excFirst.getD (n.val, i.val)) })
  partReport (beginStop s p) p 0x02 [excCode e, excClass e, n.val, i.val, info.toNat, b2n secondary]

/-- Under a pending halt request the stop reaches all cores at once and the discard begins (R99). -/
def haltAtOnce (s : State) (p : PartIx) : State :=
  if (s.parts[p]).haltReq then modPart (stopPart s p) p (fun q => { q with discarding := true, haltCause := 1 }) else s

theorem raise_eq {b : Bound} (hb : boundOf s.cores[n] i = some b) (hf : (ctxOf s n i).st ≠ .faulted) (e : Exc) (pc : BitVec 40) (info : Word) :
    raise s n i e pc info
      = let u := haltAtOnce (failStep (announce s n i e pc info b.part) b.part (decide (excClass e = 1)) (excCode e)) b.part
        if u.dbg.haltOnExc then haltWave u 3 else u := by
  unfold raise announce haltAtOnce faultedCtx
  rw [if_neg hf, hb]

/-- The partition's record after an exception. -/
def faultedPart (e : Exc) (who : Nat × Nat) (q : Machine.Part) : Machine.Part :=
  let q := failedStep (decide (excClass e = 1)) (excCode e) { q with excFirst := some (q.excFirst.getD who) }
  if q.haltReq then { q with discarding := true, haltCause := 1 } else q

theorem parts_announce (s : State) (n : CoreIx) (i : CtxIx) (e : Exc) (pc : BitVec 40) (info : Word) (p : PartIx) :
    (announce s n i e pc info p).parts = (modPart s p (fun q => { q with excFirst := some (q.excFirst.getD (n.val, i.val)) })).parts := by
  unfold announce
  extract_lets secondary v1 v2 v3
  have seen : v1.parts = s.parts := (parts_of_unobserved (unobserved_flowPc n ..)).trans rfl
  have traced : v2.parts = s.parts := (parts_of_quiet (quiet_traceEvent ..)).trans seen
  exact (parts_of_quiet (quiet_partReport ..)).trans ((parts_beginStop ..).trans (parts_modPart_congr traced ..))

theorem parts_haltAtOnce (s : State) (p : PartIx) :
    (haltAtOnce s p).parts = (modPart s p (fun q => if q.haltReq then { q with discarding := true, haltCause := 1 } else q)).parts := by
  unfold haltAtOnce
  split
  · next h =>
    refine (parts_modPart_congr (parts_stopPart s p) ..).trans ?_
    exact congrArg (s.parts.set p.val · p.isLt) (if_pos h).symm
  · next h => exact (parts_modPart_self s p (if_neg h)).symm

/-- An exception changes the record of its partition alone. -/
theorem parts_raise {b : Bound} (hb : boundOf s.cores[n] i = some b) (hf : (ctxOf s n i).st ≠ .faulted) (e : Exc) (pc : BitVec 40) (info : Word) :
    (raise s n i e pc info).parts = (modPart s b.part (faultedPart e (n.val, i.val))).parts := by
  have told : ∀ v : State, (if v.dbg.haltOnExc then haltWave v 3 else v).parts = v.parts := fun v => optional_keeps State.parts (parts_haltWave ..) rfl
  have failed := parts_of_quiet (quiet_failStep (announce s n i e pc info b.part) b.part (decide (excClass e = 1)) (excCode e))
  rw [raise_eq hb hf]
  refine (told _).trans ((parts_haltAtOnce ..).trans ((parts_modPart_congr (failed.trans (parts_modPart_congr (parts_announce ..) ..)) ..).trans ?_))
  rw [modPart_modPart, modPart_modPart]
  rfl

/-! The cores -/

theorem coresOf_of_allot {p : PartIx} (h : (t.parts[p]).allot = (s.parts[p]).allot) : coresOf t p = coresOf s p := by
  unfold coresOf
  rw [h]

/-- The state in which the stop begins: the context has its record, and the flow trace has shown it. -/
def faultSeen (s : State) (n : CoreIx) (i : CtxIx) (e : Exc) (pc : BitVec 40) (info : Word) (p : PartIx) : State :=
  flowPc (modCtx s n i (faultedCtx e (!(s.parts[p]).excFirst.isNone) pc info)) n i 4 pc

theorem parts_faultSeen (s : State) (n : CoreIx) (i : CtxIx) (e : Exc) (pc : BitVec 40) (info : Word) (p : PartIx) :
    (faultSeen s n i e pc info p).parts = s.parts := (parts_of_unobserved (unobserved_flowPc n ..)).trans rfl

/-- With its report, an exception has sent a stop to the cores of its partition. -/
theorem cores_announce (s : State) (n : CoreIx) (i : CtxIx) (e : Exc) (pc : BitVec 40) (info : Word) (p : PartIx) (m : CoreIx) :
    (announce s n i e pc info p).cores[m]
      = if m ∈ coresOf s p then heedStop (faultSeen s n i e pc info p).cores[m] else (faultSeen s n i e pc info p).cores[m] := by
  have traced : ∀ code detail, (traceEvent (faultSeen s n i e pc info p) code detail).cores = (faultSeen s n i e pc info p).cores :=
    fun _ _ => cores_of_quiet (quiet_traceEvent ..)
  have listed : ∀ code detail f, (∀ q, (f q).allot = q.allot) → coresOf (modPart (traceEvent (faultSeen s n i e pc info p) code detail) p f) p = coresOf s p := by
    intro code detail f hf
    refine coresOf_of_allot ?_
    rw [modPart_self, hf, parts_of_quiet (quiet_traceEvent ..), parts_faultSeen]
  show (partReport (beginStop (modPart (traceEvent (faultSeen s n i e pc info p) _ _) p _) p) p _ _).cores[m] = _
  rw [cores_of_quiet (quiet_partReport ..), cores_beginStop, listed, modPart_cores, traced]
  exact fun _ => rfl

/-- The cores beside the one with the exception. -/
theorem cores_announce_ne (s : State) (i : CtxIx) (e : Exc) (pc : BitVec 40) (info : Word) (p : PartIx) {m : CoreIx} (hm : m ≠ n) :
    (announce s n i e pc info p).cores[m] = if m ∈ coresOf s p then heedStop s.cores[m] else s.cores[m] := by
  have same : (faultSeen s n i e pc info p).cores[m] = s.cores[m] :=
    ((OnlyCore.of_unobserved (unobserved_flowPc n ..)).others m hm).trans (modCore_ne _ _ _ _ hm)
  rw [cores_announce, same]

/-- The core with the exception. -/
theorem tickless_announce (s : State) (n : CoreIx) (i : CtxIx) (e : Exc) (pc : BitVec 40) (info : Word) (p : PartIx) :
    tickless (announce s n i e pc info p).cores[n]
      = let c := tickless (modCtx s n i (faultedCtx e (!(s.parts[p]).excFirst.isNone) pc info)).cores[n]
        if n ∈ coresOf s p then heedStop c else c := by
  have seen : tickless (faultSeen s n i e pc info p).cores[n] = tickless (modCtx s n i (faultedCtx e (!(s.parts[p]).excFirst.isNone) pc info)).cores[n] :=
    tickless_of_unobserved (unobserved_flowPc n ..) n
  have heed : ∀ c, tickless (heedStop c) = heedStop (tickless c) := fun c => by
    cases h : c.stopped <;> simp [heedStop, tickless, h]
  rw [cores_announce, ← seen]
  split
  · exact heed _
  · rfl

/-- The contexts of a core are the same whether or not a stop is on its way to it. -/
theorem ctx_heedStop (c : Core) : (heedStop c).ctx = c.ctx := by unfold heedStop; split <;> rfl

theorem ctxOf_announce (s : State) (n : CoreIx) (i : CtxIx) (e : Exc) (pc : BitVec 40) (info : Word) (p : PartIx) (j : CtxIx) :
    ctxOf (announce s n i e pc info p) n j = ctxOf (modCtx s n i (faultedCtx e (!(s.parts[p]).excFirst.isNone) pc info)) n j := by
  have seen : ctxOf (faultSeen s n i e pc info p) n j = ctxOf (modCtx s n i (faultedCtx e (!(s.parts[p]).excFirst.isNone) pc info)) n j :=
    ctxOf_of_unobserved (unobserved_flowPc n ..) j
  have same : ((announce s n i e pc info p).cores[n]).ctx = ((faultSeen s n i e pc info p).cores[n]).ctx := by
    rw [cores_announce]
    split
    · exact ctx_heedStop _
    · rfl
  rw [← seen]
  unfold ctxOf
  rw [same]

/-- The state in which the step has failed. -/
def failedHere (s : State) (n : CoreIx) (i : CtxIx) (e : Exc) (pc : BitVec 40) (info : Word) (p : PartIx) : State :=
  failStep (announce s n i e pc info p) p (decide (excClass e = 1)) (excCode e)

/-- What the failure of a step leaves of a partition's record. -/
theorem failedStep_keeps (classH : Bool) (cause : Nat) (q : Machine.Part) :
    (failedStep classH cause q).haltReq = q.haltReq ∧ (failedStep classH cause q).allot = q.allot := by
  unfold failedStep
  split
  · exact ⟨rfl, rfl⟩
  · exact ⟨rfl, rfl⟩

theorem part_failedHere (s : State) (n : CoreIx) (i : CtxIx) (e : Exc) (pc : BitVec 40) (info : Word) (p : PartIx) :
    ((failedHere s n i e pc info p).parts[p]).haltReq = (s.parts[p]).haltReq ∧ ((failedHere s n i e pc info p).parts[p]).allot = (s.parts[p]).allot := by
  rw [failedHere, parts_of_quiet (quiet_failStep ..), modPart_self, parts_announce, modPart_self]
  exact failedStep_keeps ..

theorem cores_failedHere (s : State) (n : CoreIx) (i : CtxIx) (e : Exc) (pc : BitVec 40) (info : Word) (p : PartIx) :
    (failedHere s n i e pc info p).cores = (announce s n i e pc info p).cores :=
  (cores_of_quiet (quiet_failStep ..)).trans (modPart_cores ..)

/-- The end of an exception: a pending halt, then the halt of the device. -/
theorem cores_raise {b : Bound} (hb : boundOf s.cores[n] i = some b) (hf : (ctxOf s n i).st ≠ .faulted) (e : Exc) (pc : BitVec 40) (info : Word) :
    (raise s n i e pc info).cores = (haltAtOnce (failedHere s n i e pc info b.part) b.part).cores := by
  rw [raise_eq hb hf]
  exact optional_keeps State.cores (cores_haltWave ..) rfl

/-- Without a halt request an exception stops no core at once. -/
theorem cores_raise_calm {b : Bound} (hb : boundOf s.cores[n] i = some b) (hf : (ctxOf s n i).st ≠ .faulted) (hq : (s.parts[b.part]).haltReq = false)
    (e : Exc) (pc : BitVec 40) (info : Word) : (raise s n i e pc info).cores = (announce s n i e pc info b.part).cores := by
  have off : ¬ ((failedHere s n i e pc info b.part).parts[b.part]).haltReq = true := by
    rw [(part_failedHere ..).1, hq]; decide
  rw [cores_raise hb hf, haltAtOnce, if_neg off, cores_failedHere]

/-- Under a halt request an exception stops every core of the partition at once. -/
theorem tickless_raise_halt {b : Bound} (hb : boundOf s.cores[n] i = some b) (hf : (ctxOf s n i).st ≠ .faulted) (hq : (s.parts[b.part]).haltReq = true)
    (e : Exc) (pc : BitVec 40) (info : Word) (m : CoreIx) : tickless (raise s n i e pc info).cores[m]
      = if m ∈ coresOf s b.part then tickless (stopCore b.part (announce s n i e pc info b.part).cores[m])
        else tickless (announce s n i e pc info b.part).cores[m] := by
  obtain ⟨req, share⟩ := part_failedHere s n i e pc info b.part
  rw [cores_raise hb hf, haltAtOnce, if_pos (req.trans hq), modPart_cores, tickless_stopPart, coresOf_of_allot share, cores_failedHere]
  rfl

/-- The contexts of the core with the exception: the one is FAULTED, the others are as before or STOPPED. -/
theorem ctxOf_raise {b : Bound} (hb : boundOf s.cores[n] i = some b) (hf : (ctxOf s n i).st ≠ .faulted) (e : Exc) (pc : BitVec 40) (info : Word)
    (j : CtxIx) :
    let c := (announce s n i e pc info b.part).cores[n]
    ctxOf (raise s n i e pc info) n j = c.ctx[j] ∨ ctxOf (raise s n i e pc info) n j = (stopCore b.part c).ctx[j] := by
  intro c
  cases hq : (s.parts[b.part]).haltReq with
  | false =>
    left
    unfold ctxOf
    rw [cores_raise_calm hb hf hq]
  | true =>
    have core := tickless_raise_halt hb hf hq e pc info n
    split at core
    · right
      unfold ctxOf
      rw [ctx_of_tickless core]
    · left
      unfold ctxOf
      rw [ctx_of_tickless core]

/-- The context with the exception is FAULTED, with its record. -/
theorem ctxOf_raise_self {b : Bound} (hb : boundOf s.cores[n] i = some b) (hf : (ctxOf s n i).st ≠ .faulted) (e : Exc) (pc : BitVec 40) (info : Word) :
    ctxOf (raise s n i e pc info) n i = faultedCtx e (s.parts[b.part]).excFirst.isSome pc info (ctxOf s n i) := by
  have own : ((announce s n i e pc info b.part).cores[n]).ctx[i] = faultedCtx e (s.parts[b.part]).excFirst.isSome pc info (ctxOf s n i) := by
    have announced := ctxOf_announce s n i e pc info b.part i
    rw [ctxOf_modCtx] at announced
    rw [Option.not_isNone] at announced
    exact announced
  have rests : (stopCore b.part (announce s n i e pc info b.part).cores[n]).ctx[i] = ((announce s n i e pc info b.part).cores[n]).ctx[i] := by
    rw [stopCore_ctx, if_neg]
    rw [stopMoves_iff, own]
    rintro ⟨-, h | h | h⟩ <;> exact nomatch h
  rcases ctxOf_raise hb hf e pc info i with h | h
  · exact h.trans own
  · exact h.trans (rests.trans own)

/-- Each other context of the core is as before, or STOPPED where it ran or waited to run. -/
theorem ctxOf_raise_ne {b : Bound} (hb : boundOf s.cores[n] i = some b) (hf : (ctxOf s n i).st ≠ .faulted) (e : Exc) (pc : BitVec 40) (info : Word)
    {j : CtxIx} (hj : j ≠ i) : ctxOf (raise s n i e pc info) n j = ctxOf s n j
      ∨ (((ctxOf s n j).st = .run ∨ (ctxOf s n j).st = .ready ∨ (ctxOf s n j).st = .blocked)
          ∧ (ctxOf (raise s n i e pc info) n j).st = .stopped) := by
  have other : ((announce s n i e pc info b.part).cores[n]).ctx[j] = ctxOf s n j := by
    have announced := ctxOf_announce s n i e pc info b.part j
    rw [ctxOf_modCtx_ne _ _ _ _ _ hj] at announced
    exact announced
  rcases ctxOf_raise hb hf e pc info j with h | h
  · exact .inl (h.trans other)
  · rw [stopCore_ctx, other] at h
    split at h
    · next stops =>
      right
      rw [h]
      obtain ⟨-, runs⟩ := (stopMoves_iff ..).mp stops
      rw [other] at runs
      exact ⟨runs, rfl⟩
    · exact .inl h

/-! Memory -/

/-- What a stop leaves of a core: its store and its bindings. -/
def boundStore (c : Core) : Tbl Byte × List Bound := (c.store, c.bound)

/-- What an exception leaves of the memories: HBM3 with its tags, the hall buffers and the core stores, with the cores' bindings. -/
def memories (s : State) : Tbl Byte × Tbl Word × Vector (Tbl Byte) 2 × Vector (Tbl Byte × List Bound) 40 :=
  (s.hbm, s.tags, s.hall, s.cores.map boundStore)

theorem memories_of_quiet (h : quiet t = quiet s) : memories t = memories s := show memories (quiet t) = memories (quiet s) from congrArg memories h

theorem memories_modPart (s : State) (p : PartIx) (f : Machine.Part → Machine.Part) : memories (modPart s p f) = memories s := rfl

/-- A change of a core that keeps its store and its bindings. -/
theorem memories_modCore {f : Core → Core} (hf : ∀ c, boundStore (f c) = boundStore c) (s : State) (n : CoreIx) : memories (modCore s n f) = memories s := by
  have cores : (modCore s n f).cores.map boundStore = s.cores.map boundStore := by
    refine Vector.ext fun m hm => ?_
    rw [Vector.getElem_map, Vector.getElem_map]
    by_cases h : (⟨m, hm⟩ : CoreIx) = n
    · subst h
      exact (congrArg boundStore (modCore_self s ⟨m, hm⟩ f)).trans (hf _)
    · exact congrArg boundStore (modCore_ne s n f ⟨m, hm⟩ h)
  exact congrArg (fun x => (s.hbm, s.tags, s.hall, x)) cores

theorem memories_of_unobserved (h : unobserved n t = unobserved n s) : memories t = memories s := by
  have core : ∀ u : State, memories (unobserved n u) = memories u := fun u => memories_modCore (f := fun c => { c with cycles := 0 }) (fun _ => rfl) u n
  rw [← core t, h, core s]

theorem memories_stopOne (s : State) (p : PartIx) (n : CoreIx) : memories (stopOne s p n) = memories s := by
  refine (memories_modCore (fun _ => by rfl) ..).trans ?_
  split
  · exact memories_of_unobserved (unobserved_flowPc n ..)
  · rfl

theorem memories_stopPart (s : State) (p : PartIx) : memories (stopPart s p) = memories s := each_keeps memories (fun _ _ => memories_stopOne ..) ..

theorem memories_beginStop (s : State) (p : PartIx) : memories (beginStop s p) = memories s :=
  each_keeps memories (fun _ _ => memories_modCore (fun c => by split <;> rfl) ..) ..

theorem memories_haltWave (s : State) (cause : Nat) : memories (haltWave s cause) = memories s :=
  ite_keeps memories rfl ((memories_of_quiet (quiet_traceEvent ..)).trans rfl)

theorem memories_announce (s : State) (n : CoreIx) (i : CtxIx) (e : Exc) (pc : BitVec 40) (info : Word) (p : PartIx) :
    memories (announce s n i e pc info p) = memories s := by
  unfold announce
  extract_lets secondary v1 v2 v3
  have seen : memories v1 = memories s := (memories_of_unobserved (unobserved_flowPc n ..)).trans (memories_modCore (fun _ => by rfl) ..)
  have marked : memories v3 = memories s := (memories_modPart ..).trans ((memories_of_quiet (quiet_traceEvent ..)).trans seen)
  exact (memories_of_quiet (quiet_partReport ..)).trans ((memories_beginStop ..).trans marked)

theorem memories_haltAtOnce (s : State) (p : PartIx) : memories (haltAtOnce s p) = memories s :=
  optional_keeps memories ((memories_modPart ..).trans (memories_stopPart ..)) rfl

/-- An exception changes no memory. -/
theorem memories_raise {b : Bound} (hb : boundOf s.cores[n] i = some b) (hf : (ctxOf s n i).st ≠ .faulted) (e : Exc) (pc : BitVec 40) (info : Word) :
    memories (raise s n i e pc info) = memories s := by
  have failed : memories (failedHere s n i e pc info b.part) = memories s :=
    (memories_of_quiet (quiet_failStep ..)).trans ((memories_modPart ..).trans (memories_announce ..))
  have told : ∀ v : State, memories (if v.dbg.haltOnExc then haltWave v 3 else v) = memories v := fun v =>
    optional_keeps memories (memories_haltWave ..) rfl
  rw [raise_eq hb hf]
  exact (told _).trans ((memories_haltAtOnce ..).trans failed)

theorem boundStore_raise {b : Bound} (hb : boundOf s.cores[n] i = some b) (hf : (ctxOf s n i).st ≠ .faulted) (e : Exc) (pc : BitVec 40) (info : Word)
    (m : CoreIx) : boundStore (raise s n i e pc info).cores[m] = boundStore s.cores[m] := by
  have all := congrArg (fun x => x.2.2.2[m]) (memories_raise hb hf e pc info)
  simpa [memories] using all

/-! ### What an exception comes to -/

/-- The context that takes an exception has its record (R97, R100, R103). -/
theorem faultedPart_step (e : Exc) (who : Nat × Nat) (q : Machine.Part) :
    (faultedPart e who q).excFirst = some (q.excFirst.getD who)
      ∧ (q.step = .run → (faultedPart e who q).step = .stopped ∧ (faultedPart e who q).failCause = excCode e
          ∧ (faultedPart e who q).failClassP = (q.failClassP || !decide (excClass e = 1)))
      ∧ (q.step ≠ .run → (faultedPart e who q).step = q.step)
      ∧ (q.haltReq = true → (faultedPart e who q).discarding = true) := by
  unfold faultedPart failedStep
  by_cases hs : q.step = .run <;> by_cases hq : q.haltReq = true <;> simp [hs, hq]

/-- The contexts of a core after a stop has reached it. -/
theorem ctxOf_stopOne (t : State) (p : PartIx) (n : CoreIx) (j : CtxIx) : ctxOf (stopOne t p n) n j
    = if stopMoves p t.cores[n] j = true then { ctxOf t n j with st := .stopped, waits := [] } else ctxOf t n j := by
  have core := tickless_stopOne t p n n
  rw [if_pos rfl, ← tickless_stopCore] at core
  unfold ctxOf
  rw [ctx_of_tickless core]
  exact stopCore_ctx ..

/-- The contexts of a core after a stop has reached it: one that runs or waits to run is STOPPED, a PARKED one stays. -/
theorem st_stopOne {p : PartIx} {j : CtxIx} {d : Bound} (hd : boundOf t.cores[n] j = some d) (hp : d.part = p) :
    ((ctxOf t n j).st = .run ∨ (ctxOf t n j).st = .ready ∨ (ctxOf t n j).st = .blocked → (ctxOf (stopOne t p n) n j).st = .stopped)
      ∧ ((ctxOf t n j).st = .parked ∨ (ctxOf t n j).st = .stopped → (ctxOf (stopOne t p n) n j).st = (ctxOf t n j).st) := by
  have moves := stopMoves_iff p t.cores[n] j
  have st : ((t.cores[n]).ctx[j]).st = (ctxOf t n j).st := rfl
  rw [st] at moves
  rw [ctxOf_stopOne]
  refine ⟨fun runs => ?_, fun rests => ?_⟩
  · rw [if_pos (moves.mpr ⟨⟨d, hd, hp⟩, runs⟩)]
  · have still : ¬ stopMoves p t.cores[n] j = true := by
      rw [moves]
      rcases rests with h | h <;> simp [h]
    rw [if_neg still]

/-- Where the stop then arrives, the contexts that ran or waited to run are STOPPED and a PARKED one stays. -/
theorem ctxOf_stopOne_raise {b : Bound} (hb : boundOf s.cores[n] i = some b) (hf : (ctxOf s n i).st ≠ .faulted) (e : Exc) (pc : BitVec 40) (info : Word)
    {j : CtxIx} {d : Bound} (hd : boundOf s.cores[n] j = some d) (hp : d.part = b.part) (hj : j ≠ i) :
    let v := stopOne (raise s n i e pc info) b.part n
    ((ctxOf s n j).st = .run ∨ (ctxOf s n j).st = .ready ∨ (ctxOf s n j).st = .blocked → (ctxOf v n j).st = .stopped)
      ∧ ((ctxOf s n j).st = .parked → (ctxOf v n j).st = .parked) := by
  have bound : boundOf (raise s n i e pc info).cores[n] j = some d := by
    have same : ((raise s n i e pc info).cores[n]).bound = (s.cores[n]).bound := (congrArg Prod.snd (boundStore_raise hb hf e pc info n) :)
    unfold boundOf at hd ⊢
    rw [same]
    exact hd
  obtain ⟨stops, rests⟩ := st_stopOne bound hp
  rcases ctxOf_raise_ne hb hf e pc info hj with same | ⟨runs, stopped⟩
  · rw [same] at stops rests
    exact ⟨stops, fun parked => (rests (.inl parked)).trans parked⟩
  · refine ⟨fun _ => (rests (.inr stopped)).trans stopped, fun parked => ?_⟩
    simp [parked] at runs

/-- A context that is FAULTED is so after the stop. -/
theorem faulted_stopOne {p : PartIx} (h : (ctxOf t n i).st = .faulted) : (ctxOf (stopOne t p n) n i).st = .faulted := by
  have still : ¬ stopMoves p t.cores[n] i = true := by
    rw [stopMoves_iff]
    rintro ⟨-, runs⟩
    rw [show ((t.cores[n]).ctx[i]).st = _ from h] at runs
    simp at runs
  rw [ctxOf_stopOne, if_neg still]
  exact h

/-- The core that a stop reaches has stopped, and no stop is on its way to it. -/
theorem stopped_stopOne (s : State) (p : PartIx) (n : CoreIx) :
    ((stopOne s p n).cores[n]).stopped = true ∧ ((stopOne s p n).cores[n]).stopping = false := by
  have core := tickless_stopOne s p n n
  rw [if_pos rfl, ← tickless_stopCore] at core
  exact ⟨(congrArg Core.stopped core :), (congrArg Core.stopping core :)⟩

/-- Without a halt request the stop of an exception is on its way, and the core's other contexts go on. -/
theorem raise_calm {b : Bound} (hb : boundOf s.cores[n] i = some b) (hf : (ctxOf s n i).st ≠ .faulted) (hq : (s.parts[b.part]).haltReq = false)
    (e : Exc) (pc : BitVec 40) (info : Word) :
    let t := raise s n i e pc info
    (∀ m, m ≠ n → t.cores[m] = if m ∈ coresOf s b.part ∧ (s.cores[m]).stopped = false then { s.cores[m] with stopping := true } else s.cores[m])
      ∧ (t.cores[n]).stopped = (s.cores[n]).stopped ∧ (n ∈ coresOf s b.part → (s.cores[n]).stopped = false → (t.cores[n]).stopping = true)
      ∧ ∀ j : CtxIx, j ≠ i → ctxOf t n j = ctxOf s n j := by
  intro t
  have cores : t.cores = (announce s n i e pc info b.part).cores := cores_raise_calm hb hf hq e pc info
  have stopped : ∀ c, (heedStop c).stopped = c.stopped := fun c => by unfold heedStop; split <;> rfl
  have own := tickless_announce s n i e pc info b.part
  rw [← cores] at own
  let c := tickless (modCtx s n i (faultedCtx e (!(s.parts[b.part]).excFirst.isNone) pc info)).cores[n]
  have kept : c.stopped = (s.cores[n]).stopped := by
    show (modCtx s n i _).cores[n].stopped = _
    rw [modCtx, modCore_self]
  refine ⟨fun m hm => ?_, ?_, fun hn hs => ?_, fun j hj => ?_⟩
  · rw [cores, cores_announce_ne s i e pc info b.part hm]
    unfold heedStop
    by_cases member : m ∈ coresOf s b.part <;> cases halted : (s.cores[m]).stopped <;> simp [member, halted, -Fin.getElem_fin]
  · refine (congrArg Core.stopped own :).trans ?_
    refine Eq.trans ?_ kept
    dsimp only
    split
    · exact stopped c
    · rfl
  · have moved : tickless t.cores[n] = heedStop c := own.trans (if_pos hn)
    refine (congrArg Core.stopping moved :).trans ?_
    unfold heedStop
    rw [if_neg (by rw [kept, hs]; decide)]
  · have same : ctxOf t n j = ctxOf (announce s n i e pc info b.part) n j := by unfold ctxOf; rw [cores]
    rw [same, ctxOf_announce, ctxOf_modCtx_ne _ _ _ _ _ hj]

/-- Settles O13: the record of the partition is `faultedPart`; the cores are those of `announce`, or stopped at once under a halt request. -/
theorem exceptionTaken : Obligations.ExceptionTaken := by
  unfold Obligations.ExceptionTaken
  intro s n i e pc info b hb hf t q
  have part : t.parts[b.part] = faultedPart e (n.val, i.val) q := by
    show (raise s n i e pc info).parts[b.part] = _
    rw [parts_raise hb hf, modPart_self]
  obtain ⟨first, runs, rests, discards⟩ := faultedPart_step e (n.val, i.val) q
  have own : ctxOf t n i = faultedCtx e q.excFirst.isSome pc info (ctxOf s n i) := ctxOf_raise_self hb hf e pc info
  have memory := memories_raise hb hf e pc info
  obtain ⟨stopped, stopping⟩ := stopped_stopOne t b.part n
  refine ⟨own, ?_, ?_, ?_, fun hq => raise_calm hb hf hq e pc info, ⟨stopped, stopping, ?_, ?_⟩, fun hq => ⟨?_, fun m hm => ?_⟩, ?_⟩
  · rw [part]; exact first
  · rw [part]; exact runs
  · rw [part]; exact rests
  · exact faulted_stopOne (congrArg Ctx.st own)
  · exact fun j d hd hp hj => ctxOf_stopOne_raise hb hf e pc info hd hp hj
  · rw [part]; exact discards hq
  · have core := tickless_raise_halt hb hf hq e pc info m
    rw [if_pos hm] at core
    exact (congrArg Core.stopped core :)
  · exact ⟨(congrArg Prod.fst memory :), (congrArg (fun x => x.2.1) memory :), (congrArg (fun x => x.2.2.1) memory :),
      fun m => (congrArg Prod.fst (boundStore_raise hb hf e pc info m) :)⟩

end Sys2Proof.Machine
end

section
/-! Scalar loads and stores: their data and bytes, their exceptions, and how the outstanding ones take effect (O10, O11, O12, O14). -/

namespace Sys2Proof.Machine

variable {s t u : State} {n : CoreIx} {i : CtxIx}

/-! ### Bytes of tables and of numbers -/

/-- Reading a run, place by place. -/
theorem tgetMany_eq_map {α : Type} (d : α) (t : Tbl α) (a k : Nat) : tgetMany d t a k = (List.range k).map (fun j => tget d t (a + j)) := by
  induction k generalizing a with
  | zero => rfl
  | succ k ih =>
    rw [tgetMany, ih, List.range_succ_eq_map, List.map_cons, List.map_map]
    congr 2
    funext j
    exact congrArg (tget d t) (by simp only [Nat.succ_eq_add_one]; omega)

/-- Byte `j` of a number. -/
theorem getD_leBytes {k j : Nat} (h : j < k) (v : Nat) : (leBytes k v).getD j 0 = BitVec.ofNat 8 (v / 256 ^ j) := by
  induction k generalizing v j with
  | zero => omega
  | succ k ih =>
    rw [leBytes]
    cases j with
    | zero => simp
    | succ j =>
      rw [List.getD_cons_succ, ih (by omega), Nat.div_div_eq_div_mul, Nat.pow_succ', ]

/-- Byte `j` of a word. -/
theorem extractLsb'_eq_ofNat (w : Word) (j : Nat) : w.extractLsb' (8 * j) 8 = BitVec.ofNat 8 (w.toNat / 256 ^ j) := by
  refine BitVec.eq_of_toNat_eq ?_
  rw [BitVec.extractLsb'_toNat, BitVec.toNat_ofNat, Nat.shiftRight_eq_div_pow, Nat.pow_mul]

/-- A table after the bytes of a number have been written. -/
theorem tget_tsetMany_leBytes (m : Tbl Byte) (a k v o : Nat) : tget 0 (tsetMany 0 m a (leBytes k v)) o
    = if a ≤ o ∧ o < a + k then BitVec.ofNat 8 (v / 256 ^ (o - a)) else tget 0 m o := by
  split
  · next h =>
    obtain ⟨j, rfl⟩ := Nat.exists_eq_add_of_le h.1
    rw [Nat.add_sub_cancel_left, tget_tsetMany_in _ _ _ _ _ (by rw [length_leBytes]; omega), getD_leBytes (by omega)]
  · next h => exact tget_tsetMany_out _ _ _ _ _ (by rw [length_leBytes]; omega)

/-- What CC_EXC_ADDR shows of a memory exception (table CC-14). -/
theorem memInfo_eq (sp : Space) (a : Nat) : memInfo sp a = BitVec.ofNat 64 (2 ^ 62 * (match sp with | .store => 0 | .hall => 1 | .hbm => 2) + a % 2 ^ 62) := by
  cases sp <;> simp [memInfo, word, place, spaceCode, Nat.shiftLeft_eq]

/-! ### The checks of an access (R86) -/

section
variable {b : Bound} {lc : LCoreE} {sp : Space} {store : Bool} {a k : Nat}

theorem accessFault_misaligned (h : a % k ≠ 0) : accessFault s n b lc sp store a k = some .misaligned := if_pos h

theorem accessFault_outOfRange (h : a % k = 0) (hv : viewSize s n b lc sp < a + k) : accessFault s n b lc sp store a k = some .outOfRange := by
  rw [accessFault, if_neg (not_not.mpr h), if_pos hv]

theorem accessFault_codeWrite (h : a % k = 0) (hv : a + k ≤ viewSize s n b lc .store) (hc : a < lc.codeLen) :
    accessFault s n b lc .store true a k = some .codeWrite := by
  rw [accessFault, if_neg (not_not.mpr h), if_neg (Nat.not_lt.mpr hv)]
  simp [hc]

theorem accessFault_none (h : a % k = 0) (hv : a + k ≤ viewSize s n b lc sp) (hc : store = true → sp = .store → lc.codeLen ≤ a) :
    accessFault s n b lc sp store a k = none := by
  rw [accessFault, if_neg (not_not.mpr h), if_neg (Nat.not_lt.mpr hv), if_neg]
  simp only [Bool.and_eq_true, decide_eq_true_eq]
  exact fun ⟨hs, hsp, hlt⟩ => Nat.not_lt.mpr (hc hs hsp) hlt

end

/-- A register that a load has not yet delivered is awaited (R87). -/
theorem awaits_of_acc {r : Reg} (h0 : r ≠ 0) {a : Acc} (ha : a ∈ (ctxOf s n i).accs) (hl : a.store = false) (hr : a.rd = r) :
    condHolds s n i (.regs [r]) = false := by
  simp only [condHolds, List.all_cons, List.all_nil, Bool.and_true, h0, decide_false, Bool.false_or, Bool.not_eq_false']
  simp only [Bool.or_eq_true, List.any_eq_true]
  exact .inl ⟨a, ha, by simp [hl, hr]⟩

/-! ### Loads and stores that issue -/

section
variable {g : Guard} {r sa : Reg} {size : Fin 4} {off : BitVec 28} {b : Bound} {lc : LCoreE}

/-- The address of an access. -/
def accessAddr (s : State) (n : CoreIx) (i : CtxIx) (sa : Reg) (off : BitVec 28) : Nat := (rd (ctxOf s n i) sa + off.signExtend 64).toNat

/-- A load or a store of the given address and size raises an exception. -/
theorem load_raises (h : Issues s n g [r, sa] i b lc) {sp : Space} {e : Exc} (signed bad : Bool)
    (hf : accessFault s n b lc sp false (accessAddr s n i sa off) (2 ^ size.val) = some e) :
    exec (.load n g r sa sp size signed off bad) s = .next (raise s n i e (ctxOf s n i).pc (memInfo sp (accessAddr s n i sa off))) := by
  show Host.Outcome.next (issue ..) = _
  rw [issue_ok h]
  unfold accessAddr at hf ⊢
  simp only [hf, raiseHere]

theorem store_raises (h : Issues s n g [r, sa] i b lc) {sp : Space} {e : Exc}
    (hf : accessFault s n b lc sp true (accessAddr s n i sa off) (2 ^ size.val) = some e) :
    exec (.store n g r sa sp size off) s = .next (raise s n i e (ctxOf s n i).pc (memInfo sp (accessAddr s n i sa off))) := by
  show Host.Outcome.next (issue ..) = _
  rw [issue_ok h]
  unfold accessAddr at hf ⊢
  simp only [hf, raiseHere]

/-- A load of the core store that no check turns away. -/
theorem load_store (h : Issues s n g [r, sa] i b lc) (signed bad : Bool)
    (hf : accessFault s n b lc .store false (accessAddr s n i sa off) (2 ^ size.val) = none) :
    exec (.load n g r sa .store size signed off bad) s
      = .next (if bad then raise s n i .storeUncorrectable (ctxOf s n i).pc (word (accessAddr s n i sa off))
        else result s n i r (datum (readStore s.cores[n] (b.base + accessAddr s n i sa off) (2 ^ size.val)) signed) 1) := by
  show Host.Outcome.next (issue ..) = _
  rw [issue_ok h]
  unfold accessAddr at hf ⊢
  simp only [hf, raiseHere]

/-- A load or a store of another space joins the context's outstanding accesses. -/
theorem load_queues (h : Issues s n g [r, sa] i b lc) {sp : Space} (hsp : sp ≠ .store) (signed bad : Bool)
    (hf : accessFault s n b lc sp false (accessAddr s n i sa off) (2 ^ size.val) = none) :
    exec (.load n g r sa sp size signed off bad) s
      = .next (advance (queueAccess s n i b ⟨sp, false, accessAddr s n i sa off, 2 ^ size.val, signed, r, 0, (ctxOf s n i).pc⟩) n i 1) := by
  show Host.Outcome.next (issue ..) = _
  rw [issue_ok h]
  unfold accessAddr at hf ⊢
  cases sp <;> simp_all only [ne_eq, not_true_eq_false]

theorem store_queues (h : Issues s n g [r, sa] i b lc) {sp : Space} (hsp : sp ≠ .store)
    (hf : accessFault s n b lc sp true (accessAddr s n i sa off) (2 ^ size.val) = none) :
    exec (.store n g r sa sp size off) s = .next (advance (queueAccess s n i b
      ⟨sp, true, accessAddr s n i sa off, 2 ^ size.val, false, r, (rd (ctxOf s n i) r).toNat, (ctxOf s n i).pc⟩) n i 1) := by
  show Host.Outcome.next (issue ..) = _
  rw [issue_ok h]
  unfold accessAddr at hf ⊢
  cases sp <;> simp_all only [ne_eq, not_true_eq_false]

/-- A store of the core store that no check turns away. -/
theorem store_store (h : Issues s n g [r, sa] i b lc)
    (hf : accessFault s n b lc .store true (accessAddr s n i sa off) (2 ^ size.val) = none) :
    exec (.store n g r sa .store size off) s = .next (advance (modCore s n (fun c =>
      writeStore c (b.base + accessAddr s n i sa off) (leBytes (2 ^ size.val) (rd (ctxOf s n i) r).toNat))) n i 1) := by
  show Host.Outcome.next (issue ..) = _
  rw [issue_ok h]
  unfold accessAddr at hf ⊢
  simp only [hf]

/-- An access that is queued: only the requests and the context differ; only one to HBM3 makes a request. -/
theorem queueAccess_eq (s : State) (n : CoreIx) (i : CtxIx) (b : Bound) (a : Acc) :
    ∃ reqs nextReq, queueAccess s n i b a = { modCtx s n i (fun x => { x with accs := x.accs ++ [a] }) with reqs := reqs, nextReq := nextReq }
      ∧ (a.space ≠ .hbm → reqs = s.reqs) := by
  unfold queueAccess
  cases h : a.space with
  | hbm => exact ⟨_, _, rfl, nofun⟩
  | hall => exact ⟨s.reqs, s.nextReq, rfl, fun _ => rfl⟩
  | store => exact ⟨s.reqs, s.nextReq, rfl, fun _ => rfl⟩

/-- A context that goes on after its access is queued. -/
theorem queueAccess_advances (s : State) (n : CoreIx) (i : CtxIx) (b : Bound) (a : Acc) :
    let t := advance (queueAccess s n i b a) n i 1
    OnlyCtx { s with reqs := t.reqs, nextReq := t.nextReq } t n i ∧ (a.space ≠ .hbm → t.reqs = s.reqs)
      ∧ ctxOf t n i = { ctxOf s n i with pc := (ctxOf s n i).pc + 8, accs := (ctxOf s n i).accs ++ [a] } ∧ a ∈ (ctxOf t n i).accs := by
  obtain ⟨reqs, nextReq, queued, same⟩ := queueAccess_eq s n i b a
  intro t
  let v : State := { s with reqs := reqs, nextReq := nextReq }
  have shape : t = advance (modCtx v n i (fun x => { x with accs := x.accs ++ [a] })) n i 1 := congrArg (advance · n i 1) queued
  rw [shape]
  have own : ctxOf (advance (modCtx v n i (fun x => { x with accs := x.accs ++ [a] })) n i 1) n i
      = { ctxOf s n i with pc := (ctxOf s n i).pc + 8, accs := (ctxOf s n i).accs ++ [a] } := by
    rw [ctxOf_advance, ctxOf_modCtx]
    rfl
  refine ⟨(onlyCtx_modCtx v n i _).trans (onlyCtx_advance ..), same, own, ?_⟩
  rw [own]
  exact List.mem_append_right _ (List.mem_singleton_self _)

/-- A core whose store is written, and whose context then goes on. -/
theorem advance_written (s : State) (n : CoreIx) (i : CtxIx) (a : Nat) (bs : List Byte) :
    let t := advance (modCore s n (fun c => writeStore c a bs)) n i 1
    (∀ m, m ≠ n → t.cores[m] = s.cores[m]) ∧ (∀ j, j ≠ i → ctxOf t n j = ctxOf s n j)
      ∧ ctxOf t n i = { ctxOf s n i with pc := (ctxOf s n i).pc + 8 } ∧ (t.cores[n]).store = tsetMany 0 (s.cores[n]).store a bs := by
  intro t
  have written : ∀ j, ctxOf (modCore s n (fun c => writeStore c a bs)) n j = ctxOf s n j := fun j => by unfold ctxOf; rw [modCore_self]; rfl
  have goes := onlyCtx_advance (modCore s n (fun c => writeStore c a bs)) n i 1
  refine ⟨fun m hm => (goes.others m hm).trans (modCore_ne _ _ _ _ hm), fun j hj => (goes.ctxs j hj).trans (written j), ?_, ?_⟩
  · rw [ctxOf_advance, written]
    rfl
  · rw [show t.cores[n] = _ from goes.core, modCore_self]
    rfl

end

/-- Settles O12: `accessFault` makes the checks in their order. -/
theorem accessExceptions : Obligations.AccessExceptions := by
  unfold Obligations.AccessExceptions
  intro s n g r sa sp size signed bad off i b lc x a k info h
  have shown : memInfo sp a = info := memInfo_eq sp a
  rw [← shown]
  refine ⟨fun hm => ⟨?_, ?_⟩, fun hk hv => ⟨?_, ?_⟩, fun hk hv hsp hc => ?_, fun hk hv hsp => ?_⟩
  · exact load_raises h signed bad (accessFault_misaligned hm)
  · exact store_raises h (accessFault_misaligned hm)
  · exact load_raises h signed bad (accessFault_outOfRange hk hv)
  · exact store_raises h (accessFault_outOfRange hk hv)
  · subst hsp
    exact store_raises h (accessFault_codeWrite hk hv hc)
  · subst hsp
    exact (load_store h signed true (accessFault_none hk hv nofun)).trans (congrArg Host.Outcome.next (if_pos rfl))

/-- Settles O10: a core store load is a scalar result; a load of another space is queued. -/
theorem loadResults : Obligations.LoadResults := by
  unfold Obligations.LoadResults
  intro s n g r sa sp size signed off i b lc x a k h hk hv
  have pass : accessFault s n b lc sp false a k = none := accessFault_none hk hv nofun
  have queued : ∀ bad, sp ≠ .store → ∃ t, exec (.load n g r sa sp size signed off bad) s = .next t
      ∧ OnlyCtx { s with reqs := t.reqs, nextReq := t.nextReq } t n i ∧ (sp = .hall → t.reqs = s.reqs)
      ∧ ctxOf t n i = { x with pc := x.pc + 8, accs := x.accs ++ [⟨sp, false, a, k, signed, r, 0, x.pc⟩] }
      ∧ (r ≠ 0 → condHolds t n i (.regs [r]) = false) := by
    intro bad hsp
    obtain ⟨frame, reqs, own, mem⟩ := queueAccess_advances s n i b ⟨sp, false, a, k, signed, r, 0, x.pc⟩
    refine ⟨_, load_queues h hsp signed bad pass, frame, fun hall => reqs (by rw [hall]; nofun), own, fun hr => ?_⟩
    exact awaits_of_acc hr mem rfl rfl
  cases sp with
  | store =>
    have run := load_store h signed false pass
    dsimp only
    rw [run, ← tgetMany_eq_map]
    exact result_writes ..
  | hall => exact fun bad => queued bad nofun
  | hbm => exact fun bad => queued bad nofun

/-- Settles O11: a core store store is a write of bytes; a store of another space is queued. -/
theorem storeResults : Obligations.StoreResults := by
  unfold Obligations.StoreResults
  intro s n g r sa sp size off i b lc x a k h hk hv hc
  have pass : accessFault s n b lc sp true a k = none := accessFault_none hk hv (fun _ => hc)
  obtain ⟨frame, -, own, -⟩ := queueAccess_advances s n i b ⟨sp, true, a, k, false, r, (rd x r).toNat, x.pc⟩
  cases sp with
  | store =>
    obtain ⟨cores, ctxs, self, bytes⟩ := advance_written s n i (b.base + a) (leBytes k (rd x r).toNat)
    refine ⟨_, store_store h pass, rfl, rfl, rfl, cores, ctxs, rfl, self, fun o => ?_⟩
    rw [extractLsb'_eq_ofNat]
    exact (congrArg (tget 0 · o) bytes).trans (tget_tsetMany_leBytes ..)
  | hall => exact ⟨_, store_queues h nofun pass, rfl, rfl, rfl, frame.others, frame.ctxs, frame, own⟩
  | hbm => exact ⟨_, store_queues h nofun pass, rfl, rfl, rfl, frame.others, frame.ctxs, frame, own⟩

/-! ### Outstanding accesses that take effect (R87, R88) -/

/-- What waking leaves of a context: all but its state and what it waits for. -/
def unwoken (x : Ctx) : Ctx := { x with st := .run, waits := [] }

theorem keeps_of_unwoken {x y : Ctx} (h : unwoken x = unwoken y) : x.accs = y.accs ∧ x.s = y.s :=
  ⟨show (unwoken x).accs = (unwoken y).accs by rw [h], show (unwoken x).s = (unwoken y).s by rw [h]⟩

theorem unwoken_wakeCtx (s : State) (n : CoreIx) (i j : CtxIx) : unwoken (ctxOf (wakeCtx s n i) n j) = unwoken (ctxOf s n j) := by
  refine ite_keeps (fun s => unwoken (ctxOf s n j)) ?_ rfl
  by_cases h : j = i
  · subst h
    show unwoken (ctxOf (modCtx s n j _) n j) = _
    rw [ctxOf_modCtx]
    rfl
  · exact congrArg unwoken (ctxOf_modCtx_ne _ _ _ _ _ h)

theorem onlyCore_wakeCtx (s : State) (n : CoreIx) (i : CtxIx) : OnlyCore s (wakeCtx s n i) n := by
  unfold wakeCtx
  dsimp only
  split
  · exact (onlyCtx_modCtx ..).onlyCore
  · exact OnlyCore.refl ..

theorem onlyCore_wakeEach (l : List CtxIx) (s : State) (n : CoreIx) : OnlyCore s (each l s (fun s i => wakeCtx s n i)) n := by
  induction l generalizing s with
  | nil => exact OnlyCore.refl ..
  | cons i l ih => exact (onlyCore_wakeCtx s n i).trans (ih ..)

theorem pickIfIdle_frame (c : Core) :
    pickIfIdle c = { c with ctx := (pickIfIdle c).ctx, issued := (pickIfIdle c).issued, current := (pickIfIdle c).current } := by
  unfold pickIfIdle
  split
  · rfl
  · exact pick_frame c

theorem unwoken_pickIfIdle (c : Core) (j : CtxIx) : unwoken (pickIfIdle c).ctx[j] = unwoken c.ctx[j] := by
  unfold pickIfIdle
  split
  · rfl
  · rw [pick_ctx]
    split <;> rfl

/-- Waking changes the contexts of one core, and of each only its state and what it waits for. -/
theorem wake_keeps (s : State) (n : CoreIx) : OnlyCore s (wake s n) n ∧ ∀ j, unwoken (ctxOf (wake s n) n j) = unwoken (ctxOf s n j) := by
  have shown := unobserved_flowSwitch n (modCore (each (ixs 4) s (fun s i => wakeCtx s n i)) n pickIfIdle) (runCtx s.cores[n])
  refine ⟨((onlyCore_wakeEach ..).trans (OnlyCore.of_modCore (pickIfIdle_frame _))).trans (OnlyCore.of_unobserved shown), fun j => ?_⟩
  have woken : unwoken (ctxOf (each (ixs 4) s (fun s i => wakeCtx s n i)) n j) = unwoken (ctxOf s n j) :=
    each_keeps (fun s => unwoken (ctxOf s n j)) (fun _ _ => unwoken_wakeCtx ..) ..
  unfold wake
  rw [ctxOf_of_unobserved shown, ← woken]
  unfold ctxOf
  rw [modCore_self]
  exact unwoken_pickIfIdle ..

/-- A change of a context after which the core's contexts may wake. -/
theorem wake_modCtx (s : State) (n : CoreIx) (i : CtxIx) (f : Ctx → Ctx) :
    let t := wake (modCtx s n i f) n
    OnlyCore s t n ∧ (ctxOf t n i).accs = (f (ctxOf s n i)).accs ∧ (ctxOf t n i).s = (f (ctxOf s n i)).s := by
  obtain ⟨frame, ctxs⟩ := wake_keeps (modCtx s n i f) n
  have own := ctxs i
  rw [ctxOf_modCtx] at own
  exact ⟨(onlyCtx_modCtx ..).onlyCore.trans frame, keeps_of_unwoken own⟩

theorem rd_congr {x y : Ctx} (h : x.s = y.s) (r : Reg) : rd x r = rd y r := by
  unfold rd
  rw [h]

/-- A load whose data arrive leaves the list, and its register has them. -/
theorem wake_popped (s : State) (n : CoreIx) (i : CtxIx) (sp : Space) (r : Reg) (v : Word) :
    let t := wake (modCtx s n i (fun x => wr (popAcc x sp) r v)) n
    OnlyCore s t n ∧ (ctxOf t n i).accs = (ctxOf s n i).accs.eraseP (fun y => y.space == sp)
      ∧ rd (ctxOf t n i) r = (if r = 0 then 0 else v) ∧ ∀ q, q ≠ r → rd (ctxOf t n i) q = rd (ctxOf s n i) q := by
  obtain ⟨frame, accs, regs⟩ := wake_modCtx s n i (fun x => wr (popAcc x sp) r v)
  refine ⟨frame, ?_, ?_, fun q hq => ?_⟩
  · rw [accs, wr_frame]
    rfl
  · rw [rd_congr regs]
    exact rd_wr ..
  · rw [rd_congr regs, rd_wr_ne _ _ _ _ hq]
    rfl

/-- Two changes of one context are one. -/
theorem modCtx_modCtx (s : State) (n : CoreIx) (i : CtxIx) (f g : Ctx → Ctx) : modCtx (modCtx s n i f) n i g = modCtx s n i (fun x => g (f x)) := by
  unfold modCtx modCore
  simp

section
variable {a : Acc} {b : Bound}

/-- The data of a hall buffer load arrive. -/
theorem loadData_hall (ha : asleep s (coreDom n) = false) (hd : headAcc (ctxOf s n i) .hall = some a) (hb : boundOf s.cores[n] i = some b)
    (hs : a.store = false) : exec (.loadData n i .hall) s
      = .next (wake (modCtx s n i (fun x => wr (popAcc x .hall) a.rd
          (datum (readHall s (dieOfCore n) (hallAddr s n b.part a.addr) a.size) a.signed))) n) := by
  show execLoadData n i .hall s = _
  unfold execLoadData
  simp only [ha, hd, hb, hs, Bool.false_eq_true, if_false]

/-- A hall buffer store changes its bytes. -/
theorem storeComplete_hall (ha : asleep s (coreDom n) = false) (hd : headAcc (ctxOf s n i) .hall = some a) (hb : boundOf s.cores[n] i = some b)
    (hs : a.store = true) : exec (.storeComplete n i .hall) s
      = .next (wake (modCtx (writeHall s (dieOfCore n) (hallAddr s n b.part a.addr) (leBytes a.size a.data)) n i (fun x => popAcc x .hall)) n) := by
  show execStoreComplete n i .hall s = _
  unfold execStoreComplete
  simp only [ha, hd, hb, hs, Bool.false_eq_true, if_false, Bool.not_true]

variable {r : Req}

/-- The request of an HBM3 store is done. -/
theorem storeComplete_hbm (ha : asleep s (coreDom n) = false) (hd : headAcc (ctxOf s n i) .hbm = some a) (hb : boundOf s.cores[n] i = some b)
    (hs : a.store = true) (hr : headReq s n i = some r) (done : reqDone s r = true) : exec (.storeComplete n i .hbm) s
      = .next (wake (modCtx (dropReq s r.id) n i (fun x => popAcc x .hbm)) n) := by
  show execStoreComplete n i .hbm s = _
  unfold execStoreComplete
  simp only [ha, hd, hb, hs, hr, done, Bool.false_eq_true, if_false, Bool.not_true, if_true]

/-- The request of an HBM3 load is done. -/
theorem loadData_hbm (ha : asleep s (coreDom n) = false) (hd : headAcc (ctxOf s n i) .hbm = some a) (hb : boundOf s.cores[n] i = some b)
    (hs : a.store = false) (hr : headReq s n i = some r) (done : reqDone s r = true) : exec (.loadData n i .hbm) s
      = .next (if r.failed then raise (modCtx (dropReq s r.id) n i (fun x => popAcc x .hbm)) n i .tagMismatch a.pc (memInfo .hbm a.addr)
          else wake (modCtx (dropReq s r.id) n i (fun x => wr (popAcc x .hbm) a.rd (datum (tgetMany 0 r.got 0 a.size) a.signed))) n) := by
  show execLoadData n i .hbm s = _
  unfold execLoadData
  simp only [ha, hd, hb, hs, hr, done, Bool.false_eq_true, if_false, Bool.not_true, modCtx_modCtx]
  split <;> rfl

end

/-- The hall buffer of the other die stays. -/
theorem writeHall_ne (s : State) {d e : DieIx} (h : e ≠ d) (a : Nat) (bs : List Byte) : (writeHall s d a bs).hall[e] = s.hall[e] := getElem_set_ne' _ _ _ _ h

theorem writeHall_self (s : State) (d : DieIx) (a : Nat) (bs : List Byte) : (writeHall s d a bs).hall[d] = tsetMany 0 s.hall[d] a bs := getElem_set_self' ..

/-- After a write to a hall buffer a core goes on: besides it only hall buffers differ. -/
theorem onlyCore_of_writeHall {d : DieIx} {a : Nat} {bs : List Byte} (h : OnlyCore (writeHall s d a bs) t n) : OnlyCore { s with hall := t.hall } t n := by
  have hall : t.hall = (writeHall s d a bs).hall := (congrArg State.hall h.rest :)
  rw [hall]
  exact h

/-- Settles O14: `wake` after a change of the context that has the access. -/
theorem outstandingAccessesComplete : Obligations.OutstandingAccessesComplete := by
  unfold Obligations.OutstandingAccessesComplete
  intro s n i sp a b ha hd hb x popped base
  refine ⟨fun hsp hs => ?_, fun hsp hs => ?_, fun hsp r hr done => ⟨fun hs => ?_, fun hs hf => ?_, fun hs hf hx => ?_⟩⟩
  · subst hsp
    rw [← tgetMany_eq_map]
    exact ⟨_, loadData_hall ha hd hb hs, wake_popped ..⟩
  · subst hsp
    let v := writeHall s (dieOfCore n) base (leBytes a.size a.data)
    obtain ⟨frame, accs, regs⟩ := wake_modCtx v n i (fun x => popAcc x .hall)
    have hall : (wake (modCtx v n i (fun x => popAcc x .hall)) n).hall = v.hall := (congrArg State.hall frame.rest :)
    refine ⟨_, storeComplete_hall ha hd hb hs, ?_, accs, regs, fun d hd => ?_, fun o => ?_⟩
    · exact onlyCore_of_writeHall frame
    · exact (congrArg (fun h : Vector (Tbl Byte) 2 => h[d]) hall).trans (writeHall_ne s hd ..)
    · exact (congrArg (fun h : Vector (Tbl Byte) 2 => tget 0 h[dieOfCore n] o) hall).trans (by rw [writeHall_self]; exact tget_tsetMany_leBytes ..)
  · subst hsp
    exact ⟨_, storeComplete_hbm ha hd hb hs hr done, wake_modCtx (dropReq s r.id) n i (fun x => popAcc x .hbm)⟩
  · subst hsp
    have run := loadData_hbm ha hd hb hs hr done
    rw [if_neg (by rw [hf]; decide)] at run
    exact ⟨_, run, wake_popped (dropReq s r.id) n i .hbm a.rd _⟩
  · subst hsp
    have run := loadData_hbm ha hd hb hs hr done
    rw [if_pos hf] at run
    have own : ctxOf (modCtx (dropReq s r.id) n i (fun x => popAcc x .hbm)) n i = popAcc x .hbm := ctxOf_modCtx ..
    have bound : boundOf (modCtx (dropReq s r.id) n i (fun x => popAcc x .hbm)).cores[n] i = some b := by
      rw [(onlyCtx_modCtx ..).core]
      exact hb
    have faulted := ctxOf_raise_self bound (by rw [own]; exact hx) .tagMismatch a.pc (memInfo .hbm a.addr)
    exact ⟨_, run, (congrArg Ctx.st faulted :), (congrArg (fun x => x.exc.code) faulted :), (congrArg (fun x => x.exc.pc) faulted :)⟩

end Sys2Proof.Machine
end

section
/-! Guards that fail, cores that issue nothing, stops on their way and registers that are awaited (O9). -/

namespace Sys2Proof.Machine

variable {s t u : State} {n : CoreIx} {i : CtxIx} {g : Guard} {b : Bound} {lc : LCoreE}

/-! ### Every instruction of a control core goes through `issue` -/

/-- The RUN context of a core fetches an instruction, whatever its guard and its registers. -/
structure Fetches (s : State) (n : CoreIx) (i : CtxIx) (b : Bound) (lc : LCoreE) : Prop where
  awake : asleep s (coreDom n) = false
  calm : (s.cores[n]).stopping = false
  run : runCtx s.cores[n] = some i
  bound : boundOf s.cores[n] i = some b
  plan : lcoreE s b.part b.lcore = some lc
  code : (ctxOf s n i).pc.toNat < lc.codeLen

/-- Observation does not change what is fetched. -/
theorem Fetches.observed (h : Fetches s n i b lc) (k : unobserved n u = unobserved n s) : Fetches u n i b lc := by
  have core := core_of_unobserved k
  exact {
    awake := by
      rw [show asleep u (coreDom n) = asleep (unobserved n u) (coreDom n) from rfl, k]
      exact h.awake
    calm := by rw [core]; exact h.calm
    run := by rw [core]; exact h.run
    bound := by rw [core]; exact h.bound
    plan := by
      rw [show lcoreE u b.part b.lcore = lcoreE (unobserved n u) b.part b.lcore from rfl, k]
      exact h.plan
    code := by rw [ctxOf_of_unobserved k]; exact h.code }

/-- An instruction that is fetched and whose guard fails costs the issue (R75). -/
theorem Fetches.issue_guard_fails (h : Fetches s n i b lc) (hg : guardOk (ctxOf s n i) g = false) (w : Nat) (uses : List Reg)
    (eff : State → CtxIx → Bound → LCoreE → State) : issue s n g w uses eff = goOn s n i w 1 := by
  simp only [issue, issueRun, h.awake, h.calm, h.run, h.bound, h.plan, hg, Bool.false_eq_true, if_false, if_neg (Nat.not_le.mpr h.code), Bool.not_false,
    if_true]

/-- One that is fetched, whose guard holds and one of whose registers is awaited, blocks its context (table CC-2). -/
theorem Fetches.issue_awaits (h : Fetches s n i b lc) (hg : guardOk (ctxOf s n i) g = true) {uses : List Reg}
    (hr : condHolds s n i (.regs uses) = false) (w : Nat) (eff : State → CtxIx → Bound → LCoreE → State) :
    issue s n g w uses eff = leave s n i .blocked [.regs uses] := by
  simp only [issue, issueRun, h.awake, h.calm, h.run, h.bound, h.plan, hg, hr, Bool.false_eq_true, if_false, if_neg (Nat.not_le.mpr h.code),
    Bool.not_true, Bool.not_false, if_true]

/-- A core without a context in RUN issues nothing (R70). -/
theorem issue_without_run (hs : (s.cores[n]).stopping = false) (hr : runCtx s.cores[n] = none) (g : Guard) (w : Nat) (uses : List Reg)
    (eff : State → CtxIx → Bound → LCoreE → State) : issue s n g w uses eff = s := by
  simp only [issue, issueRun, hs, hr, Bool.false_eq_true, if_false, ite_self]

/-- Every instruction of a control core is an issue, a branch after its outcome bit. -/
theorem exec_coreInstr {c : Instr} {w : Nat} (h : coreInstr c = some (n, g, w)) (s : State) :
    ∃ u uses eff, (u = s ∨ u = guardBit s n g) ∧ exec c s = .next (issue u n g w uses eff) := by
  cases c with
  | br | bri =>
    obtain ⟨rfl, rfl, rfl⟩ := h
    exact ⟨_, _, _, .inr rfl, rfl⟩
  | add | sub | and | or | xor | shl | shr | sar | min | max | minu | maxu | sel | clz | popc | mul | mulhu | mulh | madd | divu | div | remu | rem
  | fadd | fsub | fmul | ffma | fmin | fmax | fcvtif | fcvtfi | eq | ne | lt | ge | ltu | geu | flt | feq | pand | por | pxor | pnot
  | load | store | nop | yield | stepend | fence | trap | waitb | sigb | waitc | setc | rdsr | qshape | bcast | trd | li64 | mma | wpre | vrun
  | mrelease | vpop | vchdef | sstart | srelease =>
    obtain ⟨rfl, rfl, rfl⟩ := h
    exact ⟨_, _, _, .inl rfl, rfl⟩
  | _ => exact nomatch h

/-- A guard that fails leaves the context at the next instruction, and nothing else. -/
theorem guard_fails {c : Instr} {w : Nat} (hc : coreInstr c = some (n, g, w)) (h : Fetches s n i b lc) (hg : guardOk (ctxOf s n i) g = false) :
    ∃ t, exec c s = .next t ∧ OnlyCore s t n ∧ (∀ j, j ≠ i → ctxOf t n j = ctxOf s n j)
      ∧ ctxOf t n i = { ctxOf s n i with pc := (ctxOf s n i).pc + BitVec.ofNat 40 (8 * w) } := by
  obtain ⟨u, uses, eff, before, run⟩ := exec_coreInstr hc s
  have seen : unobserved n u = unobserved n s := by
    rcases before with rfl | rfl
    · rfl
    · exact unobserved_guardBit ..
  have same := ctxOf_of_unobserved seen
  rw [(h.observed seen).issue_guard_fails (by rw [same]; exact hg)] at run
  have goes := onlyCtx_goOn u n i w 1
  refine ⟨_, run, (OnlyCore.of_unobserved seen).trans goes.onlyCore, fun j hj => (goes.ctxs j hj).trans (same j), ?_⟩
  rw [ctxOf_goOn, same]

/-- Without a context in RUN no instruction of the core has an effect. -/
theorem idle_core {c : Instr} {w : Nat} (hc : coreInstr c = some (n, g, w)) (hs : (s.cores[n]).stopping = false) (hr : runCtx s.cores[n] = none) :
    exec c s = .next s := by
  obtain ⟨u, uses, eff, before, run⟩ := exec_coreInstr hc s
  have same : u = s := by
    rcases before with rfl | rfl
    · rfl
    · unfold guardBit
      rw [hr]
  rw [run, same, issue_without_run hs hr]

/-! ### A stop on its way (R97) -/

/-- The partition that owns a core, if a stop is on its way to it; else the core has stopped. -/
def StopsOrStopped (p : PartIx) (n : CoreIx) (t : State) : Prop :=
  ((t.cores[n]).stopping = true ∧ ownerOf t n = some p) ∨ ((t.cores[n]).stopping = false ∧ (t.cores[n]).stopped = true)

theorem ownerOf_congr (h : ∀ p : PartIx, (t.parts[p]).allot = (s.parts[p]).allot) (n : CoreIx) : ownerOf t n = ownerOf s n := by
  unfold ownerOf
  simp only [h]

/-- A change of contexts leaves the stop on its way. -/
theorem stopsOrStopped_of_onlyCore {p : PartIx} (hs : (s.cores[n]).stopping = true) (ho : ownerOf s n = some p) (h : OnlyCore s t n) : StopsOrStopped p n t := by
  refine .inl ⟨?_, ?_⟩
  · rw [h.core]
    exact hs
  · have parts : t.parts = s.parts := (congrArg State.parts h.rest :)
    exact (ownerOf_congr (fun q => by rw [parts]) n).trans ho

theorem faultedPart_allot (e : Exc) (who : Nat × Nat) (q : Machine.Part) : (faultedPart e who q).allot = q.allot := by
  unfold faultedPart
  dsimp only
  split
  · exact (failedStep_keeps ..).2
  · exact (failedStep_keeps ..).2

/-- An exception does so too, or has stopped the core (R99). -/
theorem stopsOrStopped_raise {p : PartIx} (hs : (s.cores[n]).stopping = true) (ho : ownerOf s n = some p) (hb : boundOf s.cores[n] i = some b)
    (hf : (ctxOf s n i).st ≠ .faulted) (e : Exc) (pc : BitVec 40) (info : Word) : StopsOrStopped p n (raise s n i e pc info) := by
  have owner : ownerOf (raise s n i e pc info) n = some p := by
    refine (ownerOf_congr (fun q => ?_) n).trans ho
    rw [parts_raise hb hf]
    by_cases hq : q = b.part
    · subst hq
      rw [modPart_self]
      exact faultedPart_allot ..
    · rw [modPart_ne _ _ _ _ hq]
  have own := tickless_announce s n i e pc info b.part
  let c := tickless (modCtx s n i (faultedCtx e (!(s.parts[b.part]).excFirst.isNone) pc info)).cores[n]
  have kept : c.stopping = true := by
    show (modCtx s n i _).cores[n].stopping = _
    rw [modCtx, modCore_self]
    exact hs
  have heeds : ∀ c : Core, c.stopping = true → (heedStop c).stopping = true := by
    intro c hc
    unfold heedStop
    split
    · exact hc
    · rfl
  have announced : ((announce s n i e pc info b.part).cores[n]).stopping = true := by
    refine (congrArg Core.stopping own :).trans ?_
    dsimp only
    split
    · exact heeds c kept
    · exact kept
  cases hq : (s.parts[b.part]).haltReq with
  | false =>
    refine .inl ⟨?_, owner⟩
    rw [cores_raise_calm hb hf hq]
    exact announced
  | true =>
    have core := tickless_raise_halt hb hf hq e pc info n
    split at core
    · exact .inr ⟨(congrArg Core.stopping core :), (congrArg Core.stopped core :)⟩
    · exact .inl ⟨(congrArg Core.stopping core :).trans announced, owner⟩

/-- Where the stop settles, the core has stopped. -/
theorem stopped_settleStop {p : PartIx} (h : StopsOrStopped p n t) : ((settleStop t n).cores[n]).stopped = true ∧ ((settleStop t n).cores[n]).stopping = false := by
  unfold settleStop
  rcases h with ⟨stopping, owner⟩ | ⟨stopping, stopped⟩
  · rw [if_pos stopping, owner]
    exact stopped_stopOne ..
  · rw [if_neg (by rw [stopping]; decide)]
    exact ⟨stopped, stopping⟩

/-- A NOP, whatever becomes of it, leaves the stop on its way or has stopped the core. -/
theorem stopsOrStopped_nop {p : PartIx} (hs : (s.cores[n]).stopping = true) (ho : ownerOf s n = some p) (g : Guard) :
    StopsOrStopped p n (issueRun s n g 1 [] (fun s i _ _ => advance s n i 1)) := by
  have keeps := fun {t} => stopsOrStopped_of_onlyCore (t := t) hs ho
  unfold issueRun
  split
  · exact keeps (OnlyCore.refl ..)
  · next i hr =>
    split
    · exact keeps (OnlyCore.refl ..)
    · next b hb =>
      split
      · exact keeps (OnlyCore.refl ..)
      · have runs : (ctxOf s n i).st = .run := eq_of_beq (List.find?_some hr :)
        dsimp only
        split
        · exact stopsOrStopped_raise hs ho hb (by rw [runs]; decide) ..
        · split
          · exact keeps (onlyCtx_goOn ..).onlyCore
          · split
            · exact keeps (leaves_leave ..).only
            · exact keeps (onlyCtx_advance ..).onlyCore

/-- Settles O9: what `issue` does before an instruction's effect. -/
theorem guardAndAwaitedRegisters : Obligations.GuardAndAwaitedRegisters := by
  unfold Obligations.GuardAndAwaitedRegisters
  refine ⟨⟨fun c s n g w i b lc hc ha hs hr hb hl hp hg => ?_, fun c s n g w hc hs hr => idle_core hc hs hr⟩,
    fun s n g p ha hs ho => ?_, fun s n g sd sa op i b lc ha hs hr hb hl hp hg hw => ?_⟩
  · exact guard_fails hc ⟨ha, hs, hr, hb, hl, hp⟩ hg
  · have run : exec (.nop n g) s = .next (settleStop (issueRun s n g 1 [] (fun s i _ _ => advance s n i 1)) n) := by
      show Host.Outcome.next (issue ..) = _
      rw [issue, if_neg (by rw [ha]; decide), if_pos hs]
    exact ⟨_, run, stopped_settleStop (stopsOrStopped_nop hs ho g)⟩
  · have run : exec (.add n g sd sa op) s = .next (leave s n i .blocked [.regs (sd :: sa :: op2Uses op)]) :=
      congrArg Host.Outcome.next (Fetches.issue_awaits ⟨ha, hs, hr, hb, hl, hp⟩ hg hw ..)
    have left := leaves_leave s n i .blocked [.regs (sd :: sa :: op2Uses op)]
    refine ⟨_, run, left.only, blocked_leave .., fun j hj => ?_⟩
    rw [left.others j hj]
    split
    · next h => exact .inr ⟨nextReady_ready h, rfl⟩
    · exact .inl rfl

end Sys2Proof.Machine
end

section
/-! The coordinator of a group: READY, FAIL, ABORT and DISCARDED (O34). -/

namespace Sys2Proof.Machine

variable {s t u v : State} {p : PartIx}

theorem vmap_of_quiet (h : quiet t = quiet s) : t.vmap = s.vmap := show (quiet t).vmap = (quiet s).vmap from congrArg State.vmap h

theorem vmap_stopPart (s : State) (p : PartIx) : (stopPart s p).vmap = s.vmap := by
  refine each_keeps State.vmap (fun s n => ?_) ..
  unfold stopOne
  dsimp only
  split
  · exact show (unobserved n (flowPc ..)).vmap = _ by rw [unobserved_flowPc]; rfl
  · rfl

theorem sameGroup_self (q : Machine.Part) : sameGroup q q.group q.epoch = true := by simp [sameGroup]

theorem mem_addOnce {a b : Nat} {l : List Nat} : a ∈ addOnce b l ↔ a = b ∨ a ∈ l := by
  unfold addOnce
  split
  · next h => exact ⟨.inr, fun e => e.elim (· ▸ h) id⟩
  · rw [List.mem_append, List.mem_singleton, or_comm]

/-- Do all ranks of a group stand in a list, once one more has joined it? -/
theorem all_ranks_iff (l : List Nat) (a k : Nat) : (List.range k).all (addOnce a l).contains = true ↔ ∀ r, r < k → r = a ∨ r ∈ l := by
  simp [List.all_eq_true, mem_addOnce]

/-! ### Messages and tokens of a coordinator -/

theorem quiet_broadcast (s : State) (p : PartIx) (m : StepMsg) : quiet (broadcast s p m) = quiet s := each_keeps quiet (fun _ _ => quiet_sendStep ..) ..

theorem quiet_makeToken (s : State) (p : PartIx) (kind : Nat) (version : Word) : quiet (makeToken s p kind version).1 = quiet s := rfl

/-- A token is for the step and the attempt of the partition (table SP-3). -/
theorem makeToken_fields (s : State) (p : PartIx) (kind : Nat) (version : Word) : let t := (makeToken s p kind version).2
    t.kind = kind ∧ t.version = version ∧ t.step = (s.parts[p]).stepNo ∧ t.attempt = (s.parts[p]).attempt := ⟨rfl, rfl, rfl, rfl⟩

/-- A partition after a change of its record, and messages. -/
theorem part_of_quiet {f : Machine.Part → Machine.Part} (h : quiet t = quiet (modPart s p f)) : t.parts[p] = f s.parts[p] := by
  rw [parts_of_quiet h, modPart_self]

/-! ### ABORT -/

/-- What becomes of the record of a partition that takes an ABORT. -/
def abortedPart (t : Token) (q : Machine.Part) : Machine.Part := { q with applied := q.applied ++ [t], discarding := true, abortPending := true }

/-- An ABORT that is taken stops the partition and begins the discard; HBM3 and the versions stay (R310, R312). -/
theorem applyAbort_discards (s : State) (p : PartIx) (t : Token) : let v := applyAbort s p t
    v.parts[p] = abortedPart t s.parts[p] ∧ (∀ n ∈ coresOf s p, (v.cores[n]).stopped = true) ∧ v.hbm = s.hbm ∧ v.vmap = s.vmap := by
  intro v
  let w := modPart s p (fun q => { q with applied := q.applied ++ [t] })
  have share : (w.parts[p]).allot = (s.parts[p]).allot := by rw [modPart_self]
  refine ⟨?_, fun n hn => ?_, ?_, ?_⟩
  · show (modPart (stopPart w p) p _).parts[p] = _
    rw [modPart_self, parts_stopPart, modPart_self]
    rfl
  · show ((stopPart w p).cores[n]).stopped = true
    exact stopped_stopPart (by rw [coresOf_of_allot share]; exact hn)
  · exact (congrArg Prod.fst (memories_stopPart w p) :)
  · exact vmap_stopPart w p

/-! ### The coordinator's commands -/

/-- The coordinator's record with one more rank READY. -/
def readied (sender : Nat) (q : Machine.Part) : Machine.Part := { q with readySet := addOnce sender q.readySet }

/-- A READY that the coordinator takes. -/
theorem coordReady_taken {h : Arrival} {sender : Nat} {b : Bool} (ha : arrive s h
      (.step sender (u.parts[h.dpart]).group (u.parts[h.dpart]).epoch (.ready (u.parts[h.dpart]).stepNo (u.parts[h.dpart]).attempt b)) true = .ok u)
    (hc : isCoord u.parts[h.dpart] = true) :
    exec (.coordReady h (u.parts[h.dpart]).group (u.parts[h.dpart]).epoch sender (u.parts[h.dpart]).stepNo (u.parts[h.dpart]).attempt b) s
      = .next (tryCommit (modPart u h.dpart (readied sender)) h.dpart) := by
  show execCoordReady .. = _
  unfold execCoordReady
  rw [ha]
  simp only [sameGroup_self, hc, Bool.not_true, Bool.false_eq_true, if_false, and_self, if_true]
  rfl

/-- With a rank missing no COMMIT is made. -/
theorem tryCommit_waits (h : ¬ (List.range (s.parts[p]).ranks).all (s.parts[p]).readySet.contains = true) : tryCommit s p = s := by
  unfold tryCommit
  dsimp only
  rw [if_pos]
  rw [Bool.or_eq_true, Bool.or_eq_true, Bool.not_eq_true']
  exact .inl (.inr (eq_false_of_ne_true h))

/-- The record of a coordinator that a FAIL has reached. -/
def failNoted (classH : Bool) (cause : Nat) (q : Machine.Part) : Machine.Part := { q with failClassP := q.failClassP || !classH, failCause := cause }

/-- The coordinator notes a FAIL; one of class P is reported (R308). -/
def noteFail (s : State) (p : PartIx) (classH : Bool) (cause : Nat) : State :=
  if classH then modPart s p (failNoted classH cause) else partReport (modPart s p (failNoted classH cause)) p 0x03 [0, cause]

theorem quiet_noteFail (s : State) (p : PartIx) (classH : Bool) (cause : Nat) :
    quiet (noteFail s p classH cause) = quiet (modPart s p (failNoted classH cause)) := ite_keeps quiet rfl (quiet_partReport ..)

/-- The coordinator has made a token and sent it to the other ranks. -/
def announceToken (s : State) (p : PartIx) (t : Token) (m : StepMsg) : State := broadcast (modPart s p (fun q => { q with made := some t })) p m

/-- A FAIL before a COMMIT makes an ABORT, which the coordinator takes itself (R308). -/
theorem fail_aborts {h : Arrival} {sender : Nat} {classH : Bool} {cause : Nat} (ha : arrive s h
      (.step sender (u.parts[h.dpart]).group (u.parts[h.dpart]).epoch (.fail (u.parts[h.dpart]).stepNo (u.parts[h.dpart]).attempt classH cause)) true = .ok u)
    (hc : isCoord u.parts[h.dpart] = true) (hm : tokenMade u.parts[h.dpart] = false)
    (hs : (u.parts[h.dpart]).step = .run ∨ (u.parts[h.dpart]).step = .stopped ∨ (u.parts[h.dpart]).step = .prepared) :
    exec (.fail h (u.parts[h.dpart]).group (u.parts[h.dpart]).epoch sender (u.parts[h.dpart]).stepNo (u.parts[h.dpart]).attempt classH cause) s
      = let r := makeToken (noteFail u h.dpart classH cause) h.dpart 3 (u.parts[h.dpart]).version
        .next (applyAbort (announceToken r.1 h.dpart r.2 (.abort r.2)) h.dpart r.2) := by
  show execFail .. = _
  unfold execFail
  rw [ha]
  simp only [sameGroup_self, hc, hm, hs, Bool.not_true, Bool.false_eq_true, if_false, and_self, if_true]
  rfl

/-- START for the attempt that follows is made and sent to every rank; the coordinator's record begins anew. -/
def startMade (t : Token) (q : Machine.Part) : Machine.Part := { q with made := some t, readySet := [], discardedSet := [], failClassP := false }

theorem sendStart_part (s : State) (p : PartIx) :
    (sendStart s p).parts[p] = startMade (makeToken s p 1 (s.parts[p]).version).2 s.parts[p] :=
  part_of_quiet (s := (makeToken s p 1 (s.parts[p]).version).1) (each_keeps quiet (fun _ _ => quiet_sendStep ..) ..)

/-- The last DISCARDED of a class H failure makes START for the next attempt (R308). -/
theorem discarded_restarts {h : Arrival} {sender : Nat} {t : Token} (ha : arrive s h
      (.step sender (u.parts[h.dpart]).group (u.parts[h.dpart]).epoch (.discarded (u.parts[h.dpart]).stepNo t.attempt)) true = .ok u)
    (hc : isCoord u.parts[h.dpart] = true) (hm : (u.parts[h.dpart]).made = some t) (hk : t.kind = 3) (ht : t.step = (u.parts[h.dpart]).stepNo)
    (all : ∀ r, r < (u.parts[h.dpart]).ranks → r = sender ∨ r ∈ (u.parts[h.dpart]).discardedSet) (hs : (u.parts[h.dpart]).step = .waitStart)
    (hf : (u.parts[h.dpart]).failClassP = false) (hx : t.attempt + 1 < (u.parts[h.dpart]).maxAttempts) :
    exec (.discarded h (u.parts[h.dpart]).group (u.parts[h.dpart]).epoch sender (u.parts[h.dpart]).stepNo t.attempt) s
      = .next (sendStart (modPart u h.dpart (fun q => { q with discardedSet := addOnce sender q.discardedSet })) h.dpart) := by
  show execDiscarded .. = _
  unfold execDiscarded
  rw [ha]
  simp only [sameGroup_self, hc, hm, hk, ht, modPart_self, (all_ranks_iff ..).mpr all, hs, hf, if_neg (Nat.not_le.mpr hx), Bool.not_true, Bool.false_eq_true,
    if_false, and_self, ne_eq, not_true_eq_false, decide_true, decide_false, Bool.or_self]

/-! ### ABORT on arrival -/

/-- A token of the group that has not been applied, with a good MAC and the kind of its message, takes effect where it fits (R310). -/
theorem takeToken_fits {t : Token} {kind : Nat} {fits : Machine.Part → Bool} (hn : (u.parts[p]).applied.contains t = false) (hk : t.kind = kind)
    (hg : t.group = (u.parts[p]).group) (he : t.epoch = (u.parts[p]).epoch) (hf : fits u.parts[p] = true) (sender : Nat) (effect : State → State) :
    takeToken u p (u.parts[p]).group (u.parts[p]).epoch sender t kind true fits effect = effect u := by
  unfold takeToken
  simp only [sameGroup_self, hn, hk, hg, he, hf, Bool.not_true, Bool.false_eq_true, if_false, and_self, if_true]

/-- Settles O34: what the coordinator and its ranks do with each message is one of the lemmas above. -/
theorem coordinatorAndAbort : Obligations.CoordinatorAndAbort := by
  unfold Obligations.CoordinatorAndAbort
  intro s u h sender p q
  refine ⟨fun ha hc ⟨r, hr, hne, hr'⟩ => ?_, fun classH cause ha hc hm hs => ?_, fun t ha hn hk hg he hs ht hat => ?_, fun t ha hc hm hk ht all hs hf hx => ?_⟩
  · refine (coordReady_taken ha hc).trans (congrArg Host.Outcome.next ((tryCommit_waits ?_).trans rfl))
    rw [modPart_self]
    intro all
    rcases (all_ranks_iff ..).mp all r hr with e | e
    · exact hne e
    · exact hr' e
  · have run := fail_aborts ha hc hm hs
    let w := noteFail u p classH cause
    let t := (makeToken w p 3 q.version).2
    have noted : w.parts[p] = failNoted classH cause q := part_of_quiet (quiet_noteFail ..)
    have sent : quiet (announceToken (makeToken w p 3 q.version).1 p t (.abort t)) = quiet (modPart w p (fun q => { q with made := some t })) :=
      quiet_broadcast ..
    obtain ⟨part, -, hbm, vmap⟩ := applyAbort_discards (announceToken (makeToken w p 3 q.version).1 p t (.abort t)) p t
    have told : (announceToken (makeToken w p 3 q.version).1 p t (.abort t)).parts[p] = { failNoted classH cause q with made := some t } := by
      rw [part_of_quiet sent, noted]
    rw [told] at part
    have hbm' : w.hbm = u.hbm := (hbm_of_quiet (quiet_noteFail ..)).trans (modPart_hbm ..)
    have vmap' : w.vmap = u.vmap := (vmap_of_quiet (quiet_noteFail ..)).trans (modPart_vmap ..)
    refine ⟨_, t, run, ?_, rfl, ?_, ?_, ?_, ?_, ?_, ?_, hbm.trans ((hbm_of_quiet sent).trans hbm'), vmap.trans ((vmap_of_quiet sent).trans vmap')⟩
    · rw [part]; rfl
    · show (w.parts[p]).stepNo = _
      rw [noted]; rfl
    · show (w.parts[p]).attempt = _
      rw [noted]; rfl
    · rw [part]; rfl
    · rw [part]; rfl
    · rw [part]; rfl
    · rw [part]; rfl
  · have run : exec (.abort h q.group q.epoch sender t true) s = .next (applyAbort u p t) := by
      show execAbort .. = _
      unfold execAbort
      rw [ha]
      exact congrArg Host.Outcome.next (takeToken_fits hn hk hg he (decide_eq_true ⟨hs, ht, hat⟩) ..)
    obtain ⟨part, stopped, hbm, vmap⟩ := applyAbort_discards u p t
    refine ⟨_, run, ?_, ?_, ?_, stopped, hbm, vmap⟩
    · rw [part]; rfl
    · rw [part]; rfl
    · rw [part]; rfl
  · have run := discarded_restarts ha hc hm hk ht all hs hf hx
    have part := sendStart_part (modPart u p (fun q => { q with discardedSet := addOnce sender q.discardedSet })) p
    have joined : (modPart u p (fun q => { q with discardedSet := addOnce sender q.discardedSet })).parts[p]
        = { q with discardedSet := addOnce sender q.discardedSet } := modPart_self ..
    refine ⟨_, _, run, (congrArg Part.made part :), rfl, (congrArg Part.stepNo joined :), (congrArg Part.attempt joined :), (congrArg Part.version joined :),
      (congrArg Part.readySet part :), (congrArg Part.discardedSet part :)⟩

end Sys2Proof.Machine
end

section
/-! What a chain changes as tiles run through it, and what the head of a vector queue leaves when it completes (O23). -/

namespace Sys2Proof.Machine

variable {s t u v : State} {n : CoreIx}

/-! ### A chain changes the store, the tile registers, lines and pins of its core -/

/-- A vector bank without its tile registers. -/
def unregistered (b : VBank) : VBank := { b with treg := [] }

/-- What a chain leaves of its core. -/
def unchained (c : Core) : Core := { c with store := [], lines := [], pins := [], banks := c.banks.map unregistered }

theorem unchained_store (c : Core) (x : Tbl Byte) : unchained { c with store := x } = unchained c := rfl

theorem unchained_pinLines (c : Core) (lo hi : Nat) : unchained (pinLines c lo hi) = unchained c := rfl

theorem unchained_writeElem (c : Core) (base : Nat) (w : Word) (f : Fmt) (m k cols x : Nat) : unchained (writeElem c base w f m k cols x) = unchained c := rfl

theorem unchained_setTreg (c : Core) (bk : Fin 2) (k : Nat) (x : W32) : unchained (setTreg c bk k x) = unchained c := by
  have banks : (setTreg c bk k x).banks.map unregistered = c.banks.map unregistered := by
    refine Vector.ext fun j hj => ?_
    rw [Vector.getElem_map, Vector.getElem_map]
    by_cases h : (⟨j, hj⟩ : Fin 2) = bk
    · subst h
      exact (congrArg unregistered (getElem_set_self' c.banks ⟨j, hj⟩ _)).trans rfl
    · exact congrArg unregistered (getElem_set_ne' c.banks bk ⟨j, hj⟩ _ h)
  exact congrArg (fun x => ({ c with store := [], lines := [], pins := [], banks := x } : Core)) banks

theorem unchained_putElem (e : ChEnv) (q : ChSt) (w : Word) (f : Fmt) (tensor : Nat) (sr : Option Nat) (m k : Nat) (x : W32) :
    unchained (putElem e q w f tensor sr m k x).c = unchained q.c := unchained_writeElem ..

theorem unchained_storeBlocks (e : ChEnv) (q : ChSt) (st : Stage) (w : Word) (m : Nat) (els : List El) :
    unchained (storeBlocks e q st w m els).c = unchained q.c := by
  refine foldl_keeps (fun q : ChSt => unchained q.c) (fun q blk => ?_) ..
  rw [unchained_store]
  refine foldl_keeps (fun q : ChSt => unchained q.c) (fun q kc => ?_) ..
  dsimp only
  split
  · exact unchained_writeElem ..
  · rfl

theorem unchained_storeRow (e : ChEnv) (q : ChSt) (st : Stage) (m : Nat) (els : List El) : unchained (storeRow e q st m els).c = unchained q.c := by
  unfold storeRow
  dsimp only
  split
  · exact foldl_keeps (fun q : ChSt => unchained q.c) (fun q y => unchained_setTreg ..) ..
  · split
    · exact unchained_storeBlocks ..
    · exact foldl_keeps (fun q : ChSt => unchained q.c) (fun q y => unchained_putElem ..) ..

theorem unchained_keepRow (e : ChEnv) (q : ChSt) (st : Stage) (m : Nat) (els : List El) : unchained (keepRow e q st m els).c = unchained q.c := by
  refine foldl_keeps (fun q : ChSt => unchained q.c) (fun q y => ?_) ..
  split
  · exact unchained_writeElem ..
  · exact unchained_putElem ..

theorem unchained_runStage (e : ChEnv) (pack : Bool) (k m : Nat) (st : Stage) (q : ChSt) (els : List El) :
    unchained (runStage e pack k m st q els).1.c = unchained q.c := by
  unfold runStage
  split
  · exact unchained_keepRow ..
  · rfl
  · rfl
  · exact unchained_storeRow ..
  · rfl

theorem unchained_runTile (e : ChEnv) (ch : Chain) (q : ChSt) (rows : List (Nat × List (Nat × W32))) : unchained (runTile e ch q rows).c = unchained q.c := by
  refine foldl_keeps (fun q : ChSt => unchained q.c) (fun q r => ?_) ..
  split
  · rfl
  · exact foldl_keeps (fun a : ChSt × List El => unchained a.1.c) (fun a x => unchained_runStage ..) ..

theorem unchained_finishReds (bk : Fin 2) (ch : Chain) (reds : List RedEl) (c : Core) : unchained (finishReds bk ch reds c) = unchained c := by
  refine foldl_keeps unchained (fun c x => ?_) ..
  dsimp only
  split
  · rfl
  · refine foldl_keeps unchained (fun c en => ?_) ..
    split
    · rfl
    · exact unchained_setTreg ..

/-! ### What a chain leaves of the state -/

/-- The memories and the cores, one of them without what a chain changes. -/
def besideChain (n : CoreIx) (s : State) : Tbl Byte × Tbl Word × Vector (Tbl Byte) 2 × Vector Core 40 :=
  (s.hbm, s.tags, s.hall, s.cores.set n.val (unchained s.cores[n]) n.isLt)

theorem besideChain_of_quiet (h : quiet t = quiet s) : besideChain n t = besideChain n s :=
  show besideChain n (quiet t) = besideChain n (quiet s) from congrArg (besideChain n) h

theorem besideChain_modPart (n : CoreIx) (s : State) (p : PartIx) (f : Machine.Part → Machine.Part) : besideChain n (modPart s p f) = besideChain n s := rfl

theorem besideChain_modCore {f : Core → Core} (hf : unchained (f s.cores[n]) = unchained s.cores[n]) : besideChain n (modCore s n f) = besideChain n s := by
  have cores : (modCore s n f).cores.set n.val (unchained (modCore s n f).cores[n]) n.isLt = s.cores.set n.val (unchained s.cores[n]) n.isLt := by
    rw [modCore_self, hf]
    exact Vector.set_set ..
  exact congrArg (fun x => (s.hbm, s.tags, s.hall, x)) cores

/-- What two states have in common that differ by what a chain changes. -/
structure Chained (s t : State) (n : CoreIx) : Prop where
  others : ∀ m, m ≠ n → t.cores[m] = s.cores[m]
  core : unchained t.cores[n] = unchained s.cores[n]
  hbm : t.hbm = s.hbm
  tags : t.tags = s.tags
  hall : t.hall = s.hall

theorem Chained.of_besideChain (h : besideChain n t = besideChain n s) : Chained s t n := by
  have cores : ∀ m : CoreIx, (t.cores.set n.val (unchained t.cores[n]) n.isLt)[m] = (s.cores.set n.val (unchained s.cores[n]) n.isLt)[m] :=
    fun m => congrArg (fun x : Vector Core 40 => x[m]) (congrArg (fun x => x.2.2.2) h)
  refine ⟨fun m hm => ?_, ?_, (congrArg Prod.fst h :), (congrArg (fun x => x.2.1) h :), (congrArg (fun x => x.2.2.1) h :)⟩
  · have core := cores m
    rwa [getElem_set_ne' _ _ _ _ hm, getElem_set_ne' _ _ _ _ hm] at core
  · have core := cores n
    rwa [getElem_set_self', getElem_set_self'] at core

theorem quiet_addItem (s : State) (i : SedItem) : quiet (addItem s i) = quiet s := rfl

theorem quiet_ineligible (s : State) (p : PartIx) : quiet (ineligible s p) = quiet s := rfl

theorem besideChain_sampleTile (n : CoreIx) (s : State) (p : PartIx) (halves pins : List (Nat × Nat)) (work : Work) :
    besideChain n (sampleTile s n p halves pins work).1 = besideChain n s := by
  unfold sampleTile
  dsimp only
  split
  · exact besideChain_of_quiet ((quiet_ineligible ..).trans (quiet_modSed ..))
  · split
    · refine (besideChain_of_quiet (quiet_addItem ..)).trans ((besideChain_modCore ?_).trans (besideChain_of_quiet (quiet_modSed ..)))
      exact foldl_keeps unchained (fun c l => unchained_pinLines ..) ..
    · exact besideChain_of_quiet (quiet_modSed ..)

theorem besideChain_chainDone {q : ChSt} (h : unchained q.c = unchained s.cores[n]) (p : PartIx) : besideChain n (chainDone s n p q) = besideChain n s := by
  refine (each_keeps (besideChain n) (fun s t => ?_) ..).trans (besideChain_modCore h)
  split
  · rfl
  · exact ite_keeps (besideChain n) (besideChain_modPart ..) rfl

theorem besideChain_oneTile (n : CoreIx) (s : State) (env : State → ChEnv) (ch : Chain) (src : List (Nat × Nat)) (nb : Nat) (reds : List RedEl)
    (rows : List (Nat × List (Nat × W32))) : besideChain n (oneTile s n env ch src nb reds rows).1 = besideChain n s := by
  unfold oneTile
  dsimp only
  exact (besideChain_chainDone (unchained_runTile ..) _).trans (besideChain_sampleTile ..)

theorem besideChain_runVrun (n : CoreIx) (s : State) (e : VEntry) (b : Bound) (f : VrunF) (src out : Word) (ch : Chain) :
    besideChain n (runVrun s n e b f src out ch) = besideChain n s := by
  unfold runVrun
  dsimp only
  refine (besideChain_modCore (unchained_finishReds ..)).trans ?_
  exact foldl_keeps (fun a : State × List RedEl => besideChain n a.1) (fun a x => besideChain_oneTile ..) _ (s, [])

/-- One slot of a VPOP through its chain; the reductions of each chain entry come and go with it. -/
def popTile (n : CoreIx) (e : VEntry) (b : Bound) (lc : LCoreE) (acc : State × List (Nat × List RedEl)) (w : (FSlot × Chain) × Nat) :
    State × List (Nat × List RedEl) :=
  let f := w.1.1
  let r := oneTile acc.1 n (fun s => ⟨s, b.part, e.bank, b.base, e.slots, f.out, f.m, f.n, w.2⟩) w.1.2 (slotLines b.base lc.flumeOffset f) f.j
    ((tfind acc.2 f.chain).getD []) (slotElems acc.1.cores[n] (b.base + lc.flumeOffset + 65536 * f.slot) f)
  (r.1, tput acc.2 f.chain r.2)

/-- The slots of a VPOP through their chains, and then their reductions. -/
def popTiles (s : State) (n : CoreIx) (e : VEntry) (b : Bound) (lc : LCoreE) (count : Nat) (chs : List Chain) : State :=
  let slots := ((s.cores[n]).banks[e.bank]).flume.take count
  let work := slots.zip chs
  let r := work.zipIdx.foldl (popTile n e b lc) (s, [])
  each (slots.map (·.chain)).eraseDups r.1 (fun s id =>
    match work.find? (fun w => w.1.chain == id) with
    | none => s
    | some (_, ch) => modCore s n (finishReds e.bank ch ((tfind r.2 id).getD [])))

/-- The slots then leave the flume (R195). -/
theorem runVpop_eq (s : State) (n : CoreIx) (e : VEntry) (b : Bound) (lc : LCoreE) (count : Nat) (chs : List Chain) :
    runVpop s n e b lc count chs
      = modBank (popTiles s n e b lc count chs) n e.bank (fun q => { q with flume := q.flume.drop count, claimed := q.claimed - count }) := by
  rfl

theorem besideChain_popTile (n : CoreIx) (e : VEntry) (b : Bound) (lc : LCoreE) (a : State × List (Nat × List RedEl)) (w : (FSlot × Chain) × Nat) :
    besideChain n (popTile n e b lc a w).1 = besideChain n a.1 := by
  dsimp only [popTile]
  exact besideChain_oneTile ..

theorem besideChain_popTiles (s : State) (n : CoreIx) (e : VEntry) (b : Bound) (lc : LCoreE) (count : Nat) (chs : List Chain) :
    besideChain n (popTiles s n e b lc count chs) = besideChain n s := by
  refine (each_keeps (besideChain n) (fun s id => ?_) ..).trans ?_
  · split
    · rfl
    · exact besideChain_modCore (unchained_finishReds ..)
  · exact foldl_keeps (fun a : State × List (Nat × List RedEl) => besideChain n a.1) (besideChain_popTile n e b lc) _ (s, [])

/-! ### The head of the queue leaves (R90, R93, R195) -/

theorem unpinLine_frame (c : Core) (l : Nat) (rel : Bool) :
    unpinLine c l rel = { c with lines := (unpinLine c l rel).lines, pins := (unpinLine c l rel).pins } := by
  unfold unpinLine
  dsimp only
  split
  · split <;> rfl
  · rfl

/-- What the pins of a core do not touch. -/
def unpinned (c : Core) : Core := { c with lines := [], pins := [] }

theorem unpinned_unpinLines (c : Core) (lo hi : Nat) (rel : Bool) : unpinned (unpinLines c lo hi rel) = unpinned c :=
  foldl_keeps unpinned (fun c j => by rw [unpinLine_frame]; rfl) ..

/-- The core once the head has left its queue, and the pins of the head have ended. -/
def headGone (e : VEntry) (base : Nat) (rel : Bool) (c : Core) : Core :=
  match e.kind with
  | .run f src out ch =>
    ((runLines base f src out ch e.slots).zipIdx).foldl (fun c (l, k) => unpinLines c l.1 l.2 (rel && f.rel && !f.srck && k == 0)) { c with vq := c.vq.tail }
  | .pop ls _ _ => ls.foldl (fun c l => unpinLines c l.1 l.2 false) { c with vq := c.vq.tail }
  | .chdef .. => { c with vq := c.vq.tail }

theorem unpinned_headGone (e : VEntry) (base : Nat) (rel : Bool) (c : Core) : unpinned (headGone e base rel c) = unpinned { c with vq := c.vq.tail } := by
  unfold headGone
  split
  · exact foldl_keeps unpinned (fun c x => unpinned_unpinLines ..) ..
  · exact foldl_keeps unpinned (fun c l => unpinned_unpinLines ..) ..
  · rfl

theorem popVec_eq (s : State) (n : CoreIx) (e : VEntry) (base : Nat) (rel : Bool) :
    popVec s n e base rel true = wake (incCnt (deliverTrds (modCtx (modCore s n (headGone e base rel)) n e.ctx
      (fun x => { x with trds := x.trds.map (fun t => { t with after := t.after - 1 }) })) n e.ctx) n e.ctx e.cnt) n := by
  rfl

theorem onlyCtx_incCnt (s : State) (n : CoreIx) (i : CtxIx) (k : Option Cnt) : OnlyCtx s (incCnt s n i k) n i := by
  cases k with
  | none => exact OnlyCtx.refl ..
  | some k => exact onlyCtx_modCtx s n i (fun c => wrc c k (c.c[k] + 1))

/-- The counters of a context after one of them has grown. -/
theorem counters_incCnt (s : State) (n : CoreIx) (i : CtxIx) (k : Cnt) : (ctxOf (incCnt s n i (some k)) n i).c[k] = (ctxOf s n i).c[k] + 1 := by
  show (ctxOf (modCtx s n i _) n i).c[k] = _
  rw [ctxOf_modCtx]
  exact getElem_set_self' ..

theorem counters_of_unwoken {x y : Ctx} (h : unwoken x = unwoken y) : x.c = y.c := show (unwoken x).c = (unwoken y).c by rw [h]

/-- What a core has once the head of its vector queue has left. -/
structure HeadLeaves (s : State) (n : CoreIx) (e : VEntry) (t : State) : Prop where
  queue : (t.cores[n]).vq = (s.cores[n]).vq.tail
  counter : ∀ k, e.cnt = some k → (ctxOf t n e.ctx).c[k] = (ctxOf s n e.ctx).c[k] + 1
  others : ∀ m, m ≠ n → t.cores[m] = s.cores[m]
  store : (t.cores[n]).store = (s.cores[n]).store
  banks : (t.cores[n]).banks = (s.cores[n]).banks
  hbm : t.hbm = s.hbm
  tags : t.tags = s.tags
  hall : t.hall = s.hall

theorem popVec_leaves (s : State) (n : CoreIx) (e : VEntry) (base : Nat) (rel : Bool) : HeadLeaves s n e (popVec s n e base rel true) := by
  rw [popVec_eq]
  let u := modCore s n (headGone e base rel)
  let w := modCtx u n e.ctx (fun x => { x with trds := x.trds.map (fun t => { t with after := t.after - 1 }) })
  let d := deliverTrds w n e.ctx
  let i := incCnt d n e.ctx e.cnt
  obtain ⟨woken, ctxs⟩ := wake_keeps i n
  have frame : OnlyCore u (wake i n) n :=
    (onlyCtx_modCtx ..).onlyCore.trans ((onlyCtx_deliverTrds w n e.ctx).onlyCore.trans ((onlyCtx_incCnt d n e.ctx e.cnt).onlyCore.trans woken))
  have core : unpinned u.cores[n] = unpinned { s.cores[n] with vq := (s.cores[n]).vq.tail } := by
    rw [modCore_self]
    exact unpinned_headGone ..
  exact {
    queue := by rw [frame.core]; exact (congrArg Core.vq core :)
    counter := fun k hk => by
      have counted : (ctxOf i n e.ctx).c[k] = (ctxOf d n e.ctx).c[k] + 1 := by
        show (ctxOf (incCnt d n e.ctx e.cnt) n e.ctx).c[k] = _
        rw [hk]
        exact counters_incCnt ..
      have delivered : (ctxOf d n e.ctx).c = (ctxOf w n e.ctx).c := by
        show (ctxOf (deliverTrds w n e.ctx) n e.ctx).c = _
        rw [ctxOf_deliverTrds, landTrds_frame]
      have same : (ctxOf w n e.ctx).c = (ctxOf s n e.ctx).c := by
        show (ctxOf (modCtx u n e.ctx _) n e.ctx).c = _
        rw [ctxOf_modCtx]
        exact (congrArg (fun c : Core => (c.ctx[e.ctx]).c) core :)
      rw [counters_of_unwoken (ctxs e.ctx), counted, delivered, same]
    others := fun m hm => (frame.others m hm).trans (modCore_ne _ _ _ _ hm)
    store := by rw [frame.core]; exact (congrArg Core.store core :)
    banks := by rw [frame.core]; exact (congrArg Core.banks core :)
    hbm := (congrArg State.hbm frame.rest :)
    tags := (congrArg State.tags frame.rest :)
    hall := (congrArg State.hall frame.rest :) }

/-! ### VECTOR_COMPLETE -/

/-- What the head of a vector queue does before it leaves. -/
def headRun (s : State) (n : CoreIx) (e : VEntry) (b : Bound) (lc : LCoreE) : State :=
  match e.kind with
  | .run f src out ch => runVrun s n e b f src out ch
  | .pop _ count chs => runVpop s n e b lc count chs
  | .chdef k ch => modBank s n e.bank (fun q => { q with chains := tput q.chains k ch })

theorem vectorComplete_runs {e : VEntry} {rest : List VEntry} {b : Bound} {lc : LCoreE} (ha : asleep s (coreDom n) = false)
    (hq : (s.cores[n]).vq = e :: rest) (hb : boundOf s.cores[n] e.ctx = some b) (hl : lcoreE s b.part b.lcore = some lc) :
    exec (.vectorComplete n none false) s = .next (popVec (headRun s n e b lc) n e b.base true true) := by
  show execVectorComplete n none false s = _
  unfold execVectorComplete headRun
  cases hk : e.kind <;> simp only [ha, hq, hb, hl, hk, Bool.false_eq_true, if_false, Option.filter_none]

/-- What the head leaves as it was: the queue and the contexts of its core, the other cores, the other memories. -/
structure HeadRuns (s : State) (n : CoreIx) (v : State) : Prop where
  queue : (v.cores[n]).vq = (s.cores[n]).vq
  contexts : (v.cores[n]).ctx = (s.cores[n]).ctx
  others : ∀ m, m ≠ n → v.cores[m] = s.cores[m]
  hbm : v.hbm = s.hbm
  tags : v.tags = s.tags
  hall : v.hall = s.hall

theorem Chained.headRuns (h : Chained s v n) : HeadRuns s n v :=
  ⟨(congrArg Core.vq h.core :), (congrArg Core.ctx h.core :), h.others, h.hbm, h.tags, h.hall⟩

theorem HeadRuns.modBank (h : HeadRuns s n v) (bk : Fin 2) (f : VBank → VBank) : HeadRuns s n (Machine.modBank v n bk f) where
  queue := by rw [← h.queue, Machine.modBank, modCore_self]
  contexts := by rw [← h.contexts, Machine.modBank, modCore_self]
  others m hm := (modCore_ne _ _ _ _ hm).trans (h.others m hm)
  hbm := h.hbm
  tags := h.tags
  hall := h.hall

theorem headRun_runs (s : State) (n : CoreIx) (e : VEntry) (b : Bound) (lc : LCoreE) : HeadRuns s n (headRun s n e b lc) := by
  unfold headRun
  split
  · exact (Chained.of_besideChain (besideChain_runVrun ..)).headRuns
  · next count chs _ =>
    rw [runVpop_eq]
    exact (Chained.of_besideChain (besideChain_popTiles ..)).headRuns.modBank ..
  · exact HeadRuns.modBank ⟨rfl, rfl, fun _ _ => rfl, rfl, rfl, rfl⟩ ..

/-- A bank of the core after a change of it. -/
theorem modBank_self (s : State) (n : CoreIx) (bk : Fin 2) (f : VBank → VBank) :
    ((modBank s n bk f).cores[n]).banks[bk] = f (s.cores[n]).banks[bk] ∧ ((modBank s n bk f).cores[n]).store = (s.cores[n]).store := by
  rw [modBank, modCore_self]
  exact ⟨getElem_set_self' .., rfl⟩

/-- The slots that a VPOP has run leave the flume. -/
theorem flume_runVpop (s : State) (n : CoreIx) (e : VEntry) (b : Bound) (lc : LCoreE) (count : Nat) (chs : List Chain) :
    (((runVpop s n e b lc count chs).cores[n]).banks[e.bank]).flume = (((s.cores[n]).banks[e.bank]).flume).drop count := by
  have tiles := (Chained.of_besideChain (besideChain_popTiles s n e b lc count chs)).core
  have bank : unregistered ((popTiles s n e b lc count chs).cores[n]).banks[e.bank] = unregistered (s.cores[n]).banks[e.bank] := by
    have banks := congrArg (fun c : Core => c.banks[e.bank]) tiles
    exact (Vector.getElem_map ..).symm.trans (banks.trans (Vector.getElem_map ..))
  rw [runVpop_eq, (modBank_self ..).1]
  exact congrArg (List.drop count) (show (unregistered _).flume = (unregistered _).flume from congrArg VBank.flume bank)

/-- Settles O23: the head's run changes what a chain may change (`Chained`), and its leave the queue, the pins and the contexts (`HeadLeaves`). The clause on
entry 0 stands in the case of a VPOP, whose head is no VRUN. -/
theorem vectorHeadCompletes : Obligations.VectorHeadCompletes := by
  unfold Obligations.VectorHeadCompletes
  intro s n e rest b lc ha c hq hb hl
  have runs := headRun_runs s n e b lc
  have leaves := popVec_leaves (headRun s n e b lc) n e b.base true
  refine ⟨_, vectorComplete_runs ha hq hb hl, ?_, fun k hk => ?_, fun m hm => ?_, leaves.hbm.trans runs.hbm, leaves.tags.trans runs.tags,
    leaves.hall.trans runs.hall, ?_⟩
  · rw [leaves.queue, runs.queue]
    exact congrArg List.tail hq
  · rw [leaves.counter k hk]
    unfold ctxOf
    rw [runs.contexts]
  · exact (leaves.others m hm).trans (runs.others m hm)
  · rw [leaves.store, leaves.banks]
    cases hk : e.kind with
    | run f src out ch =>
      have run : headRun s n e b lc = runVrun s n e b f src out ch := by rw [headRun, hk]
      rw [run]
    | pop ls count chs =>
      have run : headRun s n e b lc = runVpop s n e b lc count chs := by rw [headRun, hk]
      rw [run]
      exact ⟨rfl, rfl, flume_runVpop .., fun f src out other => nomatch other⟩
    | chdef k ch =>
      have run : headRun s n e b lc = modBank s n e.bank (fun q => { q with chains := tput q.chains k ch }) := by rw [headRun, hk]
      obtain ⟨bank, store⟩ := modBank_self s n e.bank (fun q => { q with chains := tput q.chains k ch })
      rw [run]
      exact ⟨(congrArg (fun q : VBank => tfind q.chains k) bank).trans (tfind_tput_self ..), store⟩

end Sys2Proof.Machine
end

section
/-! What a tile that drains leaves behind on its three paths: as raw records, in the flume, through its chain (O22). -/

namespace Sys2Proof.Machine

variable {s t : State} {n : CoreIx}

/-! ### All but one core -/

/-- The memories and the cores but one. -/
def besideCore (n : CoreIx) (s : State) : Tbl Byte × Vector (Tbl Byte) 2 × Vector Core 40 := (s.hbm, s.hall, s.cores.set n.val Core.reset n.isLt)

theorem besideCore_modCore (s : State) (n : CoreIx) (f : Core → Core) : besideCore n (modCore s n f) = besideCore n s :=
  congrArg (fun x => (s.hbm, s.hall, x)) (Vector.set_set ..)

theorem besideCore_of_quiet (h : quiet t = quiet s) : besideCore n t = besideCore n s :=
  show besideCore n (quiet t) = besideCore n (quiet s) from congrArg (besideCore n) h

theorem besideCore_of_cores (hbm : t.hbm = s.hbm) (hall : t.hall = s.hall) (others : ∀ m, m ≠ n → t.cores[m] = s.cores[m]) :
    besideCore n t = besideCore n s := by
  have cores : t.cores.set n.val Core.reset n.isLt = s.cores.set n.val Core.reset n.isLt := by
    refine Vector.ext fun m hm => ?_
    by_cases h : (⟨m, hm⟩ : CoreIx) = n
    · subst h
      exact (getElem_set_self' t.cores ⟨m, hm⟩ _).trans (getElem_set_self' s.cores ⟨m, hm⟩ _).symm
    · exact (getElem_set_ne' t.cores n ⟨m, hm⟩ _ h).trans ((others _ h).trans (getElem_set_ne' s.cores n ⟨m, hm⟩ _ h).symm)
  unfold besideCore
  rw [hbm, hall, cores]

theorem Chained.besideCore (h : Chained s t n) : Machine.besideCore n t = Machine.besideCore n s := besideCore_of_cores h.hbm h.hall h.others

theorem OnlyCore.besideCore (h : OnlyCore s t n) : Machine.besideCore n t = Machine.besideCore n s :=
  besideCore_of_cores (congrArg State.hbm h.rest :) (congrArg State.hall h.rest :) h.others

theorem frame_of_besideCore (h : besideCore n t = besideCore n s) : t.hbm = s.hbm ∧ t.hall = s.hall ∧ ∀ m, m ≠ n → t.cores[m] = s.cores[m] := by
  refine ⟨(congrArg Prod.fst h :), (congrArg (fun x => x.2.1) h :), fun m hm => ?_⟩
  have core : (t.cores.set n.val Core.reset n.isLt)[m] = (s.cores.set n.val Core.reset n.isLt)[m] := congrArg (fun x => x.2.2[m]) h
  rwa [getElem_set_ne' _ _ _ _ hm, getElem_set_ne' _ _ _ _ hm] at core

/-! ### Changes of the arrays change nothing else of a core -/

/-- A core without its arrays. -/
def unarrayed (c : Core) : Core := { c with arrays := Vector.replicate 4 Arr.reset }

theorem unarrayed_modHalf (c : Core) (arr h : Nat) (g : Half → Half) : unarrayed (modHalf c arr h g) = unarrayed c := by
  unfold modHalf
  split <;> rfl

theorem unarrayed_modArrs (c : Core) (l : List (Nat × Nat)) (g : Nat → Arr → Arr) : unarrayed (modArrs c l g) = unarrayed c := by
  refine foldl_keeps unarrayed (fun c x => ?_) ..
  dsimp only
  split <;> rfl

/-- What a chain works on: the store and the vector banks of its core. -/
def chainData (c : Core) : Tbl Byte × Vector VBank 2 := (c.store, c.banks)

theorem chainData_of_unarrayed {c d : Core} (h : unarrayed c = unarrayed d) : chainData c = chainData d :=
  show chainData (unarrayed c) = chainData (unarrayed d) from congrArg chainData h

theorem of_chainData {c d : Core} (h : chainData c = chainData d) : c.store = d.store ∧ c.banks = d.banks := Prod.mk.inj h

theorem mq_of_unarrayed {c d : Core} (h : unarrayed c = unarrayed d) : c.mq = d.mq :=
  show (unarrayed c).mq = (unarrayed d).mq from congrArg Core.mq h

/-! ### The matrix queue goes on (R71, R152) -/

/-- What the matrix queue leaves alone as it goes on. -/
def besideQueue (n : CoreIx) (s : State) : (Tbl Byte × Vector (Tbl Byte) 2 × Vector Core 40) × Tbl Byte × Vector VBank 2 :=
  (besideCore n s, chainData s.cores[n])

theorem besideQueue_modCore {f : Core → Core} (hf : chainData (f s.cores[n]) = chainData s.cores[n]) : besideQueue n (modCore s n f) = besideQueue n s := by
  unfold besideQueue
  rw [besideCore_modCore, modCore_self, hf]

theorem besideQueue_of_quiet (h : quiet t = quiet s) : besideQueue n t = besideQueue n s := by
  unfold besideQueue
  rw [besideCore_of_quiet h, cores_of_quiet h]

theorem OnlyCore.besideQueue (h : OnlyCore s t n) : Machine.besideQueue n t = Machine.besideQueue n s := by
  have data : chainData t.cores[n] = chainData s.cores[n] := by rw [h.core]; rfl
  unfold Machine.besideQueue
  rw [h.besideCore, data]

/-- What an MMA without a pass does at its turn: nothing, or it opens its tile on half 1 (R151, R154). -/
theorem openOnly_cases (c : Core) :
    openOnly c = c ∨ ∃ k e j j2 arr g, passTurn c = some (k, e) ∧ e.kind = .mma j ∧ opensOnly j = true
      ∧ openOnly c = setJob (modHalf c arr 1 g) k j2 := by
  unfold openOnly
  split
  · exact .inl rfl
  · next k e turn =>
    split
    · next j kind =>
      by_cases opens : (opensOnly j && (match toFin 4 (j.arrays.headD 0) with | some a => (c.arrays[a]).half1.st == .free | none => false)) = true
      · exact .inr ⟨k, e, j, _, _, _, turn, kind, (Bool.and_eq_true_iff.mp opens).1, if_pos opens⟩
      · exact .inl (if_neg opens)
    · exact .inl rfl

theorem chainData_openOnly (c : Core) : chainData (openOnly c) = chainData c := by
  obtain same | ⟨k, e, j, j2, arr, g, -, -, -, opened⟩ := openOnly_cases c
  · rw [same]
  · have same : chainData (modHalf c arr 1 g) = chainData c := chainData_of_unarrayed (unarrayed_modHalf ..)
    rw [opened, ← same]
    rfl

theorem besideQueue_completeHead (n : CoreIx) (s : State) : besideQueue n (completeHead s n) = besideQueue n s := by
  have counted : ∀ (s : State) (i : CtxIx) (k : Option Cnt), besideQueue n (incCnt s n i k) = besideQueue n s :=
    fun s i k => (onlyCtx_incCnt s n i k).onlyCore.besideQueue
  have freed : ∀ s : State, besideQueue n (modCore s n freeKeptHalf) = besideQueue n s := fun s => besideQueue_modCore rfl
  unfold completeHead
  split
  · rfl
  · next e rest _ =>
    have left : besideQueue n (modCore s n (fun c => if dupsLeft e then completeHead.markCounted c else { c with mq := rest })) = besideQueue n s :=
      besideQueue_modCore (by split <;> rfl)
    dsimp only
    split
    · refine ite_keeps (besideQueue n) left ((counted ..).trans ?_)
      split
      · refine optional_keeps (besideQueue n) (each_keeps (besideQueue n) (fun u _ => besideQueue_of_quiet (quiet_ineligible ..)) ..) ?_
        exact optional_keeps (besideQueue n) (freed _) left
      · exact optional_keeps (besideQueue n) (freed _) left
    · exact (counted ..).trans left
    · exact (counted ..).trans (optional_keeps (besideQueue n) (freed _) left)

theorem besideQueue_completeHeads (k : Nat) (n : CoreIx) (s : State) : besideQueue n (completeHeads k n s) = besideQueue n s := by
  induction k generalizing s with
  | zero => rfl
  | succ k ih =>
    have opened : besideQueue n (modCore s n openOnly) = besideQueue n s := besideQueue_modCore (chainData_openOnly _)
    unfold completeHeads
    dsimp only
    split
    · exact opened
    · refine ite_keeps (besideQueue n) opened (ite_keeps (besideQueue n) ?_ ((ih _).trans ?_))
      · exact (besideQueue_completeHead ..).trans opened
      · exact (besideQueue_completeHead ..).trans opened

theorem besideQueue_settleMq (s : State) (n : CoreIx) : besideQueue n (settleMq s n) = besideQueue n s :=
  (wake_keeps _ n).1.besideQueue.trans (besideQueue_completeHeads ..)

theorem keeps_of_opensOnly {j : MmaJob} (h : opensOnly j = true) : j.f.drain = .keep := by
  simp only [opensOnly, Bool.and_eq_true, beq_iff_eq] at h
  exact h.1.1.1

/-- The entry whose turn it is stands at its place in the queue. -/
theorem getElem?_of_passTurn {c : Core} {k : Nat} {e : MEntry} (h : passTurn c = some (k, e)) : c.mq[k]? = some e := by
  unfold passTurn at h
  split at h
  · nomatch h
  · obtain ⟨x, hx, eq⟩ := Option.map_eq_some_iff.mp h
    cases eq
    exact hx

/-- Only an MMA that keeps its tile opens one without a pass: a head that drains stays as it is. -/
theorem openOnly_head {c : Core} {e : MEntry} {j : MmaJob} (hq : c.mq.head? = some e) (hk : e.kind = .mma j) (hd : j.f.drain ≠ .keep) :
    (openOnly c).mq.head? = some e := by
  obtain same | ⟨k, e', j', j2, arr, g, turn, kind, opens, opened⟩ := openOnly_cases c
  · rw [same, hq]
  · have later : k ≠ 0 := by
      rintro rfl
      have own := getElem?_of_passTurn turn
      rw [← List.head?_eq_getElem?, hq] at own
      cases own
      rw [hk] at kind
      cases kind
      exact hd (keeps_of_opensOnly opens)
    rw [opened]
    show (List.modify _ k _).head? = _
    rw [List.head?_eq_getElem?, List.getElem?_modify_ne _ _ later, ← List.head?_eq_getElem?, mq_of_unarrayed (unarrayed_modHalf ..), hq]

/-- An MMA with a drain left stays the head of the queue. -/
theorem settleMq_head {e : MEntry} {j : MmaJob} (hq : (s.cores[n]).mq.head? = some e) (hk : e.kind = .mma j) (hd : j.f.drain ≠ .keep)
    (left : j.dIx < j.plan.length) : ((settleMq s n).cores[n]).mq.head? = some e := by
  have head : ((modCore s n openOnly).cores[n]).mq.head? = some e := by
    rw [modCore_self]
    exact openOnly_head hq hk hd
  have undone : entryDone e = false := by
    unfold entryDone
    simp only [hk, decide_eq_false (Nat.not_le.mpr left), Bool.false_and]
  have stands : completeHeads 8 n s = modCore s n openOnly := by
    simp only [completeHeads, head, undone, Bool.not_false, if_true]
  unfold settleMq
  rw [(wake_keeps _ n).1.core, stands]
  exact head

/-! ### The tile has drained (R151, R164, R165, R186) -/

/-- The array of a tile that has drained is idle no longer, and its half is free, or waits for a comparison. -/
def tileFreed (c : Core) (j : MmaJob) (h : Option (Nat × Nat)) : Core :=
  let c := modArrs c [(0, match h with | some (arr, _) => arr | none => j.arrays.getD j.tIx 0)] (fun _ a => { a with idle := false })
  match h with
  | none => c
  | some (arr, half) => modHalf c arr half (fun x => if x.hold = 0 then Half.reset else { x with idle := true })

theorem unarrayed_tileFreed (c : Core) (j : MmaJob) (h : Option (Nat × Nat)) : unarrayed (tileFreed c j h) = unarrayed c := by
  unfold tileFreed
  dsimp only
  split
  · exact unarrayed_modArrs ..
  · exact (unarrayed_modHalf ..).trans (unarrayed_modArrs ..)

/-- The job stands at the next tile of its drain, or at its next drain. -/
def nextTile (j : MmaJob) (h : Option (Nat × Nat)) (nt : Nat) : MmaJob :=
  let gone := fun (t : Tile) => some (t.arr, t.half) == h
  let again := fun (t : Tile) => (j.plan.drop j.pIx).any (fun st => match st with | .dup g _ bs _ => g == t.mg && bs.contains t.nb | _ => false)
  { j with
    placed := j.placed.filter (fun t => !gone t), held := j.held ++ j.placed.filter (fun t => gone t && again t), tiles := j.tiles + 1
    tIx := if decide (j.tIx + 1 = nt) then 0 else j.tIx + 1, dIx := if decide (j.tIx + 1 = nt) then nextDrain j.plan (j.dIx + 1) else j.dIx }

/-- After the last tile of a DIRECT MMA its reductions are written. -/
def redsFinished (bk : Fin 2) (j : MmaJob) (c : Core) : Core :=
  if j.dIx = j.plan.length ∧ j.f.drain = .direct then finishReds bk j.chain j.reds c else c

theorem tileDrained_eq (s : State) (n : CoreIx) (p : PartIx) (bk : Fin 2) (base : Nat) (j : MmaJob) (h : Option (Nat × Nat)) (nt : Nat) :
    tileDrained s n p bk base j h nt
      = modCore (sampleClear s n p j base) n (fun c => setJob (redsFinished bk (nextTile j h nt) (tileFreed c j h)) 0 (nextTile j h nt)) := by
  cases h <;> rfl

theorem nextTile_within {j : MmaJob} {nt : Nat} (h : Option (Nat × Nat)) (more : j.tIx + 1 < nt) :
    (nextTile j h nt).tIx = j.tIx + 1 ∧ (nextTile j h nt).dIx = j.dIx := by
  have notLast : decide (j.tIx + 1 = nt) = false := decide_eq_false (Nat.ne_of_lt more)
  simp only [nextTile, notLast, Bool.false_eq_true, if_false, and_self]

/-- A core without its tile registers, chains and flumes. -/
def unbanked (c : Core) : Core := { c with banks := Vector.replicate 2 VBank.reset }

theorem of_unbanked {c d : Core} (h : unbanked c = unbanked d) : c.store = d.store ∧ c.mq = d.mq :=
  ⟨show (unbanked c).store = (unbanked d).store from congrArg Core.store h, show (unbanked c).mq = (unbanked d).mq from congrArg Core.mq h⟩

theorem unbanked_finishReds (bk : Fin 2) (ch : Chain) (reds : List RedEl) (c : Core) : unbanked (finishReds bk ch reds c) = unbanked c := by
  refine foldl_keeps unbanked (fun c x => ?_) ..
  dsimp only
  split
  · rfl
  · refine foldl_keeps unbanked (fun c en => ?_) ..
    split <;> rfl

theorem unbanked_redsFinished (bk : Fin 2) (j : MmaJob) (c : Core) : unbanked (redsFinished bk j c) = unbanked c := by
  unfold redsFinished
  split
  · exact unbanked_finishReds ..
  · rfl

theorem quiet_sampleClear (s : State) (n : CoreIx) (p : PartIx) (j : MmaJob) (base : Nat) : quiet (sampleClear s n p j base) = quiet s := by
  have sampled : ∀ blocks, quiet (sampleGroup s n p j j.dIx blocks).1 = quiet s := fun blocks => by
    unfold sampleGroup
    dsimp only
    split
    · exact quiet_ineligible ..
    · rfl
  unfold sampleClear
  split
  · refine ite_keeps quiet ?_ rfl
    exact optional_keeps quiet (quiet_addItem ..) (sampled _)
  · rfl

/-- What a tile that has drained leaves: the other cores, the memories and the store; the vector banks, unless reductions are written; the job at
its next tile, if the drain has one. -/
structure TileGone (s : State) (n : CoreIx) (e : MEntry) (j : MmaJob) (nt : Nat) (t : State) : Prop where
  beside : besideCore n t = besideCore n s
  store : (t.cores[n]).store = (s.cores[n]).store
  banks : j.f.drain ≠ .direct → (t.cores[n]).banks = (s.cores[n]).banks
  next : j.tIx + 1 < nt → ∃ j2, (t.cores[n]).mq.head? = some { e with kind := .mma j2 } ∧ j2.tIx = j.tIx + 1 ∧ j2.dIx = j.dIx ∧ j2.tiles = j.tiles + 1

theorem tileGone_settled {e : MEntry} {j : MmaJob} (p : PartIx) (bk : Fin 2) (base : Nat) (h : Option (Nat × Nat)) (nt : Nat)
    (hq : (s.cores[n]).mq.head? = some e) (hd : j.f.drain ≠ .keep) (left : j.dIx < j.plan.length) :
    TileGone s n e j nt (settleMq (tileDrained s n p bk base j h nt) n) := by
  let j2 := nextTile j h nt
  let c := tileFreed s.cores[n] j h
  have core : (tileDrained s n p bk base j h nt).cores[n] = setJob (redsFinished bk j2 c) 0 j2 := by
    rw [tileDrained_eq, modCore_self, cores_of_quiet (quiet_sampleClear ..)]
  have freed : unarrayed c = unarrayed s.cores[n] := unarrayed_tileFreed ..
  obtain ⟨redsStore, redsQueue⟩ := of_unbanked (unbanked_redsFinished bk j2 c)
  have settled := besideQueue_settleMq (tileDrained s n p bk base j h nt) n
  have data : chainData ((settleMq (tileDrained s n p bk base j h nt) n).cores[n]) = chainData (redsFinished bk j2 c) := by
    have kept := (Prod.mk.inj settled).2
    rwa [core] at kept
  obtain ⟨storeKept, banksKept⟩ := of_chainData data
  obtain ⟨storeFreed, banksFreed⟩ := of_chainData (chainData_of_unarrayed freed)
  exact {
    beside := by
      rw [(Prod.mk.inj settled).1, tileDrained_eq, besideCore_modCore]
      exact besideCore_of_quiet (quiet_sampleClear ..)
    store := storeKept.trans (redsStore.trans storeFreed)
    banks := fun indirect => by
      have same : redsFinished bk j2 c = c := if_neg (fun last => indirect last.2)
      rw [banksKept, same, banksFreed]
    next := fun more => by
      obtain ⟨tile, drain⟩ := nextTile_within h more
      have queue : (redsFinished bk j2 c).mq = (s.cores[n]).mq := redsQueue.trans (mq_of_unarrayed freed)
      have head : ((tileDrained s n p bk base j h nt).cores[n]).mq.head? = some { e with kind := .mma j2 } := by
        rw [core]
        show (List.modify _ 0 _).head? = _
        rw [List.head?_eq_getElem?, List.getElem?_modify_eq, ← List.head?_eq_getElem?, queue, hq]
        rfl
      exact ⟨j2, settleMq_head head rfl hd (drain.symm ▸ left), tile, drain, rfl⟩ }

/-- The head whose drain the queue stands at. -/
theorem head_of_drainHead {c : Core} {e : MEntry} {j : MmaJob} {mg nb nt : Nat} (h : drainHead c = some (e, j, mg, nb, nt)) :
    c.mq.head? = some e ∧ e.kind = .mma j ∧ j.dIx < j.plan.length := by
  unfold drainHead at h
  split at h
  · nomatch h
  · next e' rest queue =>
    split at h
    · next j' kind =>
      split at h
      · nomatch h
      · split at h
        · next mg' blocks drain =>
          cases h
          exact ⟨by rw [queue]; rfl, kind, (List.getElem?_eq_some_iff.mp drain).1⟩
        · nomatch h
    · nomatch h

/-! ### Raw records and the flume (R122, R123, R193) -/

/-- Bytes written for each place of a tile, rows first. -/
theorem writeTile_frame (ms ns : List Nat) (dest : Nat → Nat → Nat) (bytes : Nat → Nat → List Byte) (c : Core) :
    ms.foldl (fun c m => ns.foldl (fun c k => writeStore c (dest m k) (bytes m k)) c) c
      = { c with store := ms.foldl (fun st m => ns.foldl (fun st k => tsetMany 0 st (dest m k) (bytes m k)) st) c.store } := by
  refine List.foldl_hom (fun st => { c with store := st }) (init := c.store) (fun st m => ?_)
  refine List.foldl_hom (fun st => { c with store := st }) (init := st) (fun st k => ?_)
  rfl

section
variable {e : MEntry} {j : MmaJob} {mg nb nt : Nat} {b : Bound} {lc : LCoreE}

theorem matrixDrain_raw (ha : asleep s (coreDom n) = false) (hd : drainHead s.cores[n] = some (e, j, mg, nb, nt))
    (hb : boundOf s.cores[n] e.ctx = some b) (hl : lcoreE s b.part b.lcore = some lc) (hp : j.f.drain = .raw) :
    exec (.matrixDrain n none none) s
      = .next (settleMq (tileDrained (modCore s n (fun c => rawTile c b.base j (tileAcc s.cores[n] (tileHalf j mg nb)) (drainRows j mg) (drainCols j nb)))
          n b.part (bankOf s.cores[n] e.ctx) b.base j (tileHalf j mg nb) nt) n) := by
  show execMatrixDrain n none none s = _
  simp only [execMatrixDrain, matrixCorr, ha, hd, hb, hl, hp, Bool.false_eq_true, if_false, Option.filter_none]

theorem matrixDrain_flume (ha : asleep s (coreDom n) = false) (hd : drainHead s.cores[n] = some (e, j, mg, nb, nt))
    (hb : boundOf s.cores[n] e.ctx = some b) (hl : lcoreE s b.part b.lcore = some lc) (hp : j.f.drain = .flume) :
    exec (.matrixDrain n none none) s = .next (settleMq (flumeDrain s n b lc e j mg nb nt) n) := by
  show execMatrixDrain n none none s = _
  simp only [execMatrixDrain, matrixCorr, ha, hd, hb, hl, hp, Bool.false_eq_true, if_false, Option.filter_none]

theorem flumeTileWrite_writes (ha : asleep s (coreDom n) = false) (hd : drainHead s.cores[n] = some (e, j, mg, nb, nt))
    (hb : boundOf s.cores[n] e.ctx = some b) (hl : lcoreE s b.part b.lcore = some lc)
    (hw : ((s.cores[n]).banks[bankOf s.cores[n] e.ctx]).waiting ≠ []) (room : flumeRoom s n (bankOf s.cores[n] e.ctx) b lc = true) :
    exec (.flumeTileWrite n (bankOf s.cores[n] e.ctx)) s = .next (settleMq (flumeDrain s n b lc e j mg nb nt) n) := by
  show execFlumeTileWrite n _ s = _
  simp only [execFlumeTileWrite, ha, hd, hb, hl, room, List.isEmpty_iff, hw, ne_eq, not_true, Bool.false_eq_true, Bool.not_true, or_false, if_false]

theorem flumeTileWrite_waits (ha : asleep s (coreDom n) = false) (hd : drainHead s.cores[n] = some (e, j, mg, nb, nt))
    (hb : boundOf s.cores[n] e.ctx = some b) (hl : lcoreE s b.part b.lcore = some lc) (room : flumeRoom s n (bankOf s.cores[n] e.ctx) b lc = false) :
    exec (.flumeTileWrite n (bankOf s.cores[n] e.ctx)) s = .next s := by
  show execFlumeTileWrite n _ s = _
  simp only [execFlumeTileWrite, ha, hd, hb, hl, room, Bool.false_eq_true, Bool.not_false, or_true, if_false, if_true]

/-- The slot that a tile takes in the flume. -/
def tileSlot (q : VBank) (lc : LCoreE) (e : MEntry) (j : MmaJob) (mg nb : Nat) : FSlot :=
  ⟨q.next % max 1 lc.flumeDepth, j.f.m, j.f.n, mg, nb, drainRows j mg, j.f.chain.val, j.out, e.ctx⟩

/-- A tile in the flume: its values stand in the tail slot, the bank has the slot, and nothing else of the core has changed. -/
theorem flumeTile_frame (c : Core) (bk : Fin 2) (b : Bound) (lc : LCoreE) (e : MEntry) (j : MmaJob) (mg nb : Nat) (acc : Tbl AccE) :
    flumeTile c bk b lc e j mg nb acc =
      { c with
        store := (drainRows j mg).foldl (fun st m => (drainCols j nb).foldl (fun st k =>
          tsetMany 0 st (b.base + lc.flumeOffset + 65536 * ((c.banks[bk]).next % max 1 lc.flumeDepth) + 512 * (m % 128) + 4 * (k % 128))
            (leBytes 4 (drainVal (entryAt acc m k)).toNat)) st) c.store
        banks := c.banks.set bk.val { c.banks[bk] with
          flume := (c.banks[bk]).flume ++ [tileSlot c.banks[bk] lc e j mg nb], next := (c.banks[bk]).next + 1, waiting := [] } bk.isLt } := by
  unfold flumeTile
  dsimp only
  rw [writeTile_frame]
  rfl

theorem mq_flumeTile (c : Core) (bk : Fin 2) (b : Bound) (lc : LCoreE) (e : MEntry) (j : MmaJob) (mg nb : Nat) (acc : Tbl AccE) :
    (flumeTile c bk b lc e j mg nb acc).mq = c.mq := by
  rw [flumeTile_frame]

/-- A tile in the flume, and what that leaves. -/
theorem flumeDrain_writes (hd : drainHead s.cores[n] = some (e, j, mg, nb, nt)) (hp : j.f.drain = .flume)
    (room : flumeRoom s n (bankOf s.cores[n] e.ctx) b lc = true) :
    TileGone (modCore s n (fun c => flumeTile c (bankOf s.cores[n] e.ctx) b lc e j mg nb (tileAcc c (tileHalf j mg nb)))) n e j nt
      (settleMq (flumeDrain s n b lc e j mg nb nt) n) := by
  obtain ⟨queue, -, left⟩ := head_of_drainHead hd
  unfold flumeDrain
  dsimp only
  rw [room, if_pos rfl]
  refine tileGone_settled _ _ _ _ _ ?_ (by rw [hp]; exact nofun) left
  rw [modCore_self, mq_flumeTile]
  exact queue

/-- A tile without a slot waits in its bank. -/
def tileWaits (e : MEntry) (j : MmaJob) (mg nb : Nat) (q : VBank) : VBank :=
  { q with waiting := [(⟨0, j.f.m, j.f.n, mg, nb, drainRows j mg, j.f.chain.val, j.out, e.ctx⟩, [])] }

theorem flumeDrain_full (room : flumeRoom s n (bankOf s.cores[n] e.ctx) b lc = false) :
    flumeDrain s n b lc e j mg nb nt = modBank s n (bankOf s.cores[n] e.ctx) (tileWaits e j mg nb) := by
  unfold flumeDrain
  dsimp only
  rw [room, if_neg Bool.false_ne_true]
  rfl

/-- While it waits, the store and the head of the queue stay as they are. -/
theorem flumeDrain_waits (hd : drainHead s.cores[n] = some (e, j, mg, nb, nt)) (hp : j.f.drain = .flume)
    (room : flumeRoom s n (bankOf s.cores[n] e.ctx) b lc = false) :
    let t := settleMq (flumeDrain s n b lc e j mg nb nt) n
    (t.cores[n]).store = (s.cores[n]).store ∧ ((t.cores[n]).banks[bankOf s.cores[n] e.ctx]).waiting ≠ []
      ∧ (t.cores[n]).mq.head? = (s.cores[n]).mq.head? := by
  obtain ⟨queue, kind, left⟩ := head_of_drainHead hd
  obtain ⟨bank, store⟩ := modBank_self s n (bankOf s.cores[n] e.ctx) (tileWaits e j mg nb)
  dsimp only
  rw [flumeDrain_full room]
  obtain ⟨storeKept, banksKept⟩ := of_chainData (Prod.mk.inj (besideQueue_settleMq (modBank s n (bankOf s.cores[n] e.ctx) (tileWaits e j mg nb)) n)).2
  refine ⟨storeKept.trans store, ?_, ?_⟩
  · rw [banksKept, bank]
    exact List.cons_ne_nil _ _
  · rw [queue]
    refine settleMq_head ?_ kind (by rw [hp]; exact nofun) left
    rw [modBank, modCore_self]
    exact queue

/-! ### Through the chain (R150, R192, R333) -/

/-- A tile that goes through its chain has been sampled or not: a sampled one pins its lines and holds its half. -/
def tileSampled (s : State) (n : CoreIx) (p : PartIx) (h : Option (Nat × Nat)) (pins : List (Nat × Nat)) (work : Work) : State :=
  let r := sampleTile s n p h.toList pins work
  modCore r.1 n (fun c =>
    match h with
    | some (arr, half) => if r.2 then modHalf c arr half (fun x => { x with hold := x.hold + 1 }) else c
    | none => c)

/-- A core without its arrays and pins. -/
def unheld (c : Core) : Core := { c with arrays := Vector.replicate 4 Arr.reset, pins := [] }

theorem unheld_modHalf (c : Core) (arr h : Nat) (g : Half → Half) : unheld (modHalf c arr h g) = unheld c := by
  unfold modHalf
  split <;> rfl

theorem unheld_sampleTile (s : State) (n : CoreIx) (p : PartIx) (halves pins : List (Nat × Nat)) (work : Work) :
    unheld ((sampleTile s n p halves pins work).1.cores[n]) = unheld s.cores[n] := by
  unfold sampleTile
  dsimp only
  split
  · rfl
  · split
    · show unheld ((modCore _ n (fun c => pins.foldl (fun c l => pinLines c l.1 l.2) c)).cores[n]) = _
      rw [modCore_self]
      exact foldl_keeps unheld (fun c (l : Nat × Nat) => show unheld (pinLines c l.1 l.2) = unheld c from rfl) ..
    · rfl

theorem unheld_tileSampled (s : State) (n : CoreIx) (p : PartIx) (h : Option (Nat × Nat)) (pins : List (Nat × Nat)) (work : Work) :
    unheld ((tileSampled s n p h pins work).cores[n]) = unheld s.cores[n] := by
  unfold tileSampled
  dsimp only
  rw [modCore_self]
  split
  · split
    · exact (unheld_modHalf ..).trans (unheld_sampleTile ..)
    · exact unheld_sampleTile ..
  · exact unheld_sampleTile ..

theorem besideCore_tileSampled (s : State) (n : CoreIx) (p : PartIx) (h : Option (Nat × Nat)) (pins : List (Nat × Nat)) (work : Work) :
    besideCore n (tileSampled s n p h pins work) = besideCore n s :=
  (besideCore_modCore ..).trans (Chained.of_besideChain (besideChain_sampleTile ..)).besideCore

/-- A chain in another core, with the store and the vector banks of its own. -/
def reseat (d : Core) (q : ChSt) : ChSt := { q with c := { d with store := q.c.store, banks := q.c.banks } }

/-- A byte of the store, written by a chain. -/
def putByte (a : Nat) (v : Byte) (q : ChSt) : ChSt := { q with c := { q.c with store := tset 0 q.c.store a v } }

theorem reseat_storeBlocks (d : Core) (e : ChEnv) (q : ChSt) (st : Stage) (w : Word) (m : Nat) (els : List El) :
    storeBlocks e (reseat d q) st w m els = reseat d (storeBlocks e q st w m els) := by
  refine List.foldl_hom (reseat d) (fun q blk => ?_)
  refine congrArg (putByte _ _) (List.foldl_hom (reseat d) (fun q kc => ?_))
  dsimp only
  split <;> rfl

theorem reseat_storeRow (d : Core) (e : ChEnv) (q : ChSt) (st : Stage) (m : Nat) (els : List El) :
    storeRow e (reseat d q) st m els = reseat d (storeRow e q st m els) := by
  unfold storeRow
  dsimp only
  split
  · exact List.foldl_hom (reseat d) (fun q y => rfl)
  · split
    · exact reseat_storeBlocks ..
    · exact List.foldl_hom (reseat d) (fun q y => rfl)

theorem reseat_keepRow (d : Core) (e : ChEnv) (q : ChSt) (st : Stage) (m : Nat) (els : List El) :
    keepRow e (reseat d q) st m els = reseat d (keepRow e q st m els) := by
  refine List.foldl_hom (reseat d) (fun q y => ?_)
  split <;> rfl

/-- A stage reads and writes no more of its core than the store and the vector banks. -/
theorem reseat_runStage (d : Core) (e : ChEnv) (pack : Bool) (k m : Nat) (st : Stage) (q : ChSt) (els : List El) :
    runStage e pack k m st (reseat d q) els = (reseat d (runStage e pack k m st q els).1, (runStage e pack k m st q els).2) := by
  unfold runStage
  split
  · rw [reseat_keepRow]
  · rfl
  · rfl
  · rw [reseat_storeRow]
  · rfl

theorem reseat_runRow (d : Core) (e : ChEnv) (ch : Chain) (q : ChSt) (m : Nat) (els : List (Nat × W32)) :
    runRow e ch (reseat d q) m els = reseat d (runRow e ch q m els) := by
  unfold runRow
  refine congrArg Prod.fst (List.foldl_hom (fun a : ChSt × List El => (reseat d a.1, a.2)) (init := (q, els.map (fun y => ⟨y.1, y.2, false⟩)))
    (fun a x => ?_))
  exact reseat_runStage ..

theorem reseat_runTile (d : Core) (e : ChEnv) (ch : Chain) (q : ChSt) (rows : List (Nat × List (Nat × W32))) :
    runTile e ch (reseat d q) rows = reseat d (runTile e ch q rows) := by
  refine List.foldl_hom (reseat d) (fun q r => ?_)
  split
  · rfl
  · exact reseat_runRow ..

/-- The pins and holds of a sampled tile are nothing to its chain. -/
theorem runTile_unheld {c d : Core} (h : unheld d = unheld c) (e : ChEnv) (ch : Chain) (reds : List RedEl) (rows : List (Nat × List (Nat × W32))) :
    runTile e ch ⟨d, [], reds⟩ rows = reseat d (runTile e ch ⟨c, [], reds⟩ rows) := by
  have data : chainData d = chainData c := show chainData (unheld d) = chainData (unheld c) from congrArg chainData h
  have seat : (⟨d, [], reds⟩ : ChSt) = reseat d ⟨c, [], reds⟩ :=
    congrArg (fun x : Tbl Byte × Vector VBank 2 => (⟨{ d with store := x.1, banks := x.2 }, [], reds⟩ : ChSt)) data
  rw [seat, reseat_runTile]

theorem chainDone_core (s : State) (n : CoreIx) (p : PartIx) (q : ChSt) : (chainDone s n p q).cores[n] = q.c := by
  refine (each_keeps (fun s => s.cores[n]) (fun s t => ?_) ..).trans (modCore_self ..)
  split
  · rfl
  · exact ite_keeps (fun s => s.cores[n]) rfl rfl

theorem besideCore_chainDone (s : State) (n : CoreIx) (p : PartIx) (q : ChSt) : besideCore n (chainDone s n p q) = besideCore n s := by
  refine (each_keeps (besideCore n) (fun s t => ?_) ..).trans (besideCore_modCore ..)
  split
  · rfl
  · exact ite_keeps (besideCore n) rfl rfl

theorem matrixDrain_chains (ha : asleep s (coreDom n) = false) (hd : drainHead s.cores[n] = some (e, j, mg, nb, nt))
    (hb : boundOf s.cores[n] e.ctx = some b) (hl : lcoreE s b.part b.lcore = some lc) (hp : j.f.drain = .direct)
    (present : tileLines s.cores[n] b.base j.chain j.slots j.out j.f.m j.f.n (drainRows j mg) nb = true) :
    let bk := bankOf s.cores[n] e.ctx
    let h := tileHalf j mg nb
    let env : ChEnv := ⟨s, b.part, bk, b.base, j.slots, j.out, j.f.m, j.f.n, j.tiles⟩
    let rows := (drainRows j mg).map (fun m => (m, (drainCols j nb).map (fun k => (k, drainVal (entryAt (tileAcc s.cores[n] h) m k)))))
    let u := tileSampled s n b.part h (tileRanges b.base j.chain j.slots j.out j.f.m j.f.n (drainRows j mg) nb) (tileWork env s.cores[n] j.chain rows)
    let q := runTile env j.chain ⟨u.cores[n], [], j.reds⟩ rows
    exec (.matrixDrain n none none) s = .next (settleMq (tileDrained (chainDone u n b.part q) n b.part bk b.base { j with reds := q.reds } h nt) n) := by
  show execMatrixDrain n none none s = _
  simp only [execMatrixDrain, matrixCorr, ha, hd, hb, hl, hp, present, Bool.not_true, Bool.false_eq_true, if_false, Option.filter_none]
  rfl

theorem matrixDrain_direct (ha : asleep s (coreDom n) = false) (hd : drainHead s.cores[n] = some (e, j, mg, nb, nt))
    (hb : boundOf s.cores[n] e.ctx = some b) (hl : lcoreE s b.part b.lcore = some lc) (hp : j.f.drain = .direct)
    (present : tileLines s.cores[n] b.base j.chain j.slots j.out j.f.m j.f.n (drainRows j mg) nb = true) :
    let bk := bankOf s.cores[n] e.ctx
    let h := tileHalf j mg nb
    let q := runTile ⟨s, b.part, bk, b.base, j.slots, j.out, j.f.m, j.f.n, j.tiles⟩ j.chain ⟨s.cores[n], [], j.reds⟩
      ((drainRows j mg).map (fun m => (m, (drainCols j nb).map (fun k => (k, drainVal (entryAt (tileAcc s.cores[n] h) m k))))))
    ∃ pins work, let u := tileSampled s n b.part h pins work
      exec (.matrixDrain n none none) s
        = .next (settleMq (tileDrained (chainDone u n b.part (reseat u.cores[n] q)) n b.part bk b.base { j with reds := q.reds } h nt) n) := by
  have run := matrixDrain_chains ha hd hb hl hp present
  dsimp only at run
  rw [runTile_unheld (unheld_tileSampled ..)] at run
  exact ⟨_, _, run⟩

end

/-! ### The obligation -/

/-- Settles O22: each path changes the core as its frame says (`writeTile_frame`, `flumeTile_frame`, `runTile_unheld`), and then the tile has drained
(`tileGone_settled`). -/
theorem matrixDrainsLeave : Obligations.MatrixDrainsLeave := by
  unfold Obligations.MatrixDrainsLeave
  intro s n e j mg nb nt b lc ha c bk h ms ns goesOn hd hb hl
  obtain ⟨queue, -, left⟩ := head_of_drainHead hd
  refine ⟨fun hp => ?_, fun hp room => ?_, fun hp room => ?_, fun hp present => ?_⟩
  · have gone := tileGone_settled (s := modCore s n (fun c' => rawTile c' b.base j (tileAcc c h) ms ns)) (n := n) (j := j) b.part bk b.base h nt
      (e := e) (by rw [modCore_self, rawTile, writeTile_frame]; exact queue) (by rw [hp]; exact nofun) left
    obtain ⟨hbm, hall, others⟩ := frame_of_besideCore (gone.beside.trans (besideCore_modCore ..))
    refine ⟨_, matrixDrain_raw ha hd hb hl hp, ?_, hbm, hall, others, gone.next⟩
    rw [gone.store, modCore_self, rawTile, writeTile_frame]
  · have gone := flumeDrain_writes hd hp room
    obtain ⟨hbm, hall, others⟩ := frame_of_besideCore (gone.beside.trans (besideCore_modCore ..))
    have stored := gone.store
    have slot := congrArg (fun v : Vector VBank 2 => (v[bk]).flume) (gone.banks (by rw [hp]; exact nofun))
    rw [modCore_self, flumeTile_frame] at stored slot
    have joined := slot.trans (congrArg VBank.flume (getElem_set_self' ..))
    exact ⟨⟨_, matrixDrain_flume ha hd hb hl hp, stored, joined, hbm, hall, others, gone.next⟩,
      fun hw => ⟨_, flumeTileWrite_writes ha hd hb hl hw room, stored, joined, hbm, hall, others, gone.next⟩⟩
  · obtain ⟨store, waiting, head⟩ := flumeDrain_waits hd hp room
    exact ⟨_, matrixDrain_flume ha hd hb hl hp, store, waiting, head, flumeTileWrite_waits ha hd hb hl room⟩
  · intro q
    obtain ⟨pins, work, run⟩ := matrixDrain_direct ha hd hb hl hp present
    let u := tileSampled s n b.part h pins work
    have held : unheld u.cores[n] = unheld s.cores[n] := unheld_tileSampled ..
    have core : (chainDone u n b.part (reseat u.cores[n] q)).cores[n] = (reseat u.cores[n] q).c := chainDone_core ..
    have gone := tileGone_settled (s := chainDone u n b.part (reseat u.cores[n] q)) (e := e) (j := { j with reds := q.reds }) b.part bk b.base h nt
      (by rw [core]; exact (congrArg (fun x : Core => x.mq.head?) held).trans queue) (by rw [hp]; exact nofun) left
    obtain ⟨hbm, hall, others⟩ := frame_of_besideCore (gone.beside.trans ((besideCore_chainDone ..).trans (besideCore_tileSampled ..)))
    exact ⟨_, run, gone.store.trans (congrArg Core.store core :), hbm, hall, others, gone.next⟩

end Sys2Proof.Machine
end

section
/-! Engine instructions of the matrix queue as they issue: the checks that turn an operand away and the headgate (O20), the entries that join the queue
(O17). -/

namespace Sys2Proof.Machine

variable {s t u : State} {n : CoreIx} {i : CtxIx} {g : Guard} {b : Bound} {lc : LCoreE}

/-! ### Flow packets count nothing (R454, R456) -/

theorem cnt_emit (s : State) (o : Out) : (emit s o).cnt = s.cnt := by rw [emit_frame]

theorem cnt_leadPackets (s : State) : (leadPackets s).cnt = s.cnt := by
  have first : (if s.trc.first then { rawPacket s 0x01 0x7E 1 [s.rtime] with trc := { s.trc with first := false } } else s).cnt = s.cnt :=
    ite_keeps State.cnt (cnt_emit ..) rfl
  exact ite_keeps State.cnt first ((cnt_emit ..).trans first)

theorem cnt_packetNow (s : State) (type source aux : Nat) (words : List Nat) : (packetNow s type source aux words).cnt = s.cnt :=
  ite_keeps State.cnt ((cnt_emit ..).trans (cnt_leadPackets s)) rfl

theorem cnt_lossyPacket (s : State) (k : Lossy) (type source aux : Nat) (words : List Nat) : (lossyPacket s k type source aux words).cnt = s.cnt :=
  ite_keeps State.cnt rfl (ite_keeps State.cnt rfl (ite_keeps State.cnt (cnt_packetNow ..) rfl))

theorem cnt_flowFlush (s : State) (n : CoreIx) : (flowFlush s n).cnt = s.cnt := by
  unfold flowFlush
  split
  · rfl
  · exact ite_keeps State.cnt rfl (cnt_lossyPacket ..)

theorem cnt_flowSwitch (s : State) (n : CoreIx) (before : Option CtxIx) : (flowSwitch s n before).cnt = s.cnt := by
  unfold flowSwitch
  split
  · exact ite_keeps State.cnt rfl (ite_keeps State.cnt rfl ((cnt_lossyPacket ..).trans (cnt_flowFlush s n)))
  · rfl

/-- A switch counts in the counter of switches alone (table DB-11). -/
theorem counter_countSwitch (s : State) (n : CoreIx) (p : PartIx) {k : Nat} (h : k ≠ 7) : tget 0 (countSwitch s n).cnt.p[p] k = tget 0 s.cnt.p[p] k := by
  unfold countSwitch
  split
  · next b _ =>
    by_cases hp : p = b.part
    · subst hp
      exact (congrArg (tget 0 · k) (getElem_set_self' ..)).trans (tget_tset_ne _ _ _ _ _ h)
    · exact congrArg (tget 0 · k) (getElem_set_ne' _ _ _ _ hp)
  · rfl

theorem counter_leave (s : State) (n : CoreIx) (i : CtxIx) (st : CtxSt) (waits : List Cond) (p : PartIx) {k : Nat} (h : k ≠ 7) :
    tget 0 (leave s n i st waits).cnt.p[p] k = tget 0 s.cnt.p[p] k := by
  have kept : ∀ f, (flowSwitch (modCore (flowFlush s n) n f) n none).cnt = s.cnt := fun f => (cnt_flowSwitch ..).trans (cnt_flowFlush ..)
  refine (counter_countSwitch _ n p h).trans ?_
  rw [kept]

/-- A counter of one unit grows by one until it is full. -/
theorem counter_countP (s : State) (p : PartIx) {k : Nat} (unit : pUnit k = 1) (room : tget 0 s.cnt.p[p] k < cntTop) :
    tget 0 (countP s p k 1).cnt.p[p] k = tget 0 s.cnt.p[p] k + 1 := by
  have grown : (countP s p k 1).cnt.p[p] = tset 0 s.cnt.p[p] k (satAdd (tget 0 s.cnt.p[p] k) 1 (cntTop * pUnit k)) := getElem_set_self' ..
  rw [grown, tget_tset_self, unit, satAdd]
  omega

/-! ### The headgate (R161) -/

theorem headgate_goes {ks : List Cond} (h : ks.all (condHolds s n i) = true) (go : State → State) : headgate s n i b ks go = go s := if_pos h

/-- A failed attempt counts, and blocks its context. -/
theorem headgate_blocks {ks : List Cond} (h : ks.all (condHolds s n i) = false) (go : State → State) :
    Blocks s n i ks (.next (headgate s n i b ks go))
      ∧ (tget 0 s.cnt.p[b.part] 6 < cntTop → tget 0 (headgate s n i b ks go).cnt.p[b.part] 6 = tget 0 s.cnt.p[b.part] 6 + 1) := by
  have counted : unobserved n (countP s b.part 6 1) = unobserved n s := unobserved_countP ..
  have gate : headgate s n i b ks go = leave (countP s b.part 6 1) n i .blocked ks := if_neg (by rw [h]; exact Bool.false_ne_true)
  rw [gate]
  refine ⟨⟨_, rfl, (OnlyCore.of_unobserved counted).trans (leaves_leave ..).only, ?_⟩, fun room => ?_⟩
  · rw [blocked_leave, ctxOf_of_unobserved counted]
  · rw [counter_leave _ _ _ _ _ _ (by decide), counter_countP _ _ rfl room]

theorem condHolds_matrixQueue : condHolds s n i (.queue .matrix) = true ↔ (s.cores[n]).mq.length < 8 := by
  show decide ((s.cores[n]).mq.length < 8) = true ↔ _
  exact decide_eq_true_iff

/-! ### Checks that fail (R141, R162, R200) -/

theorem mma_turnedAway {f : MmaF} (h : Issues s n g (mmaUses f) i b lc) {x : IssueFault}
    (fails : mmaCheck s.cores[n] i lc f (rd (ctxOf s n i) f.saA) (rd (ctxOf s n i) f.saW) (rd (ctxOf s n i) f.saMask) (rd (ctxOf s n i) f.saOut) = some x) :
    exec (.mma n g f) s = .next (raiseIssue s n i x) := by
  show Host.Outcome.next (issue ..) = _
  rw [issue_ok h]
  dsimp only
  rw [fails]

/-- The first check of an MMA: the word of A (table MA-7). -/
theorem mmaCheck_badA {c : Core} {f : MmaF} {a : Word} (bad : wordBad a = true) (w mask out : Word) :
    mmaCheck c i lc f a w mask out = some (maFault 5 f.saA.val) := by
  unfold mmaCheck
  dsimp only
  rw [if_pos bad, Option.some_or]

section
variable {f : WpreF}

theorem wpre_badWord (h : Issues s n g [f.saW] i b lc) (bad : wordBad (rd (ctxOf s n i) f.saW) = true) :
    exec (.wpre n g f) s = .next (raiseIssue s n i (maFault 5 f.saW.val)) := by
  show Host.Outcome.next (issue ..) = _
  rw [issue_ok h]
  dsimp only
  rw [if_pos bad]

theorem wpre_badExtent (h : Issues s n g [f.saW] i b lc) (good : wordBad (rd (ctxOf s n i) f.saW) = false)
    (bad : extentBad lc (rd (ctxOf s n i) f.saW) (wShape f.df f.n f.k).1 (rowBytes f.fmtW f.bxw (wShape f.df f.n f.k).2) = true) :
    exec (.wpre n g f) s = .next (raiseIssue s n i (maFault 2 (opOff (rd (ctxOf s n i) f.saW)))) := by
  show Host.Outcome.next (issue ..) = _
  rw [issue_ok h]
  dsimp only
  rw [if_neg (by rw [good]; exact Bool.false_ne_true), if_pos bad]

end

theorem srelease_turnedAway {saOff : Reg} {lines : Nat} (h : Issues s n g [saOff] i b lc) (cnt : Option Cnt)
    (bad : (rd (ctxOf s n i) saOff).toNat % 1024 ≠ 0 ∨ lc.footprint < (rd (ctxOf s n i) saOff).toNat + 1024 * lines) :
    exec (.srelease n g saOff lines cnt) s = .next (operandRange s n i 3 8 (rd (ctxOf s n i) saOff).toNat) := by
  show Host.Outcome.next (issue ..) = _
  rw [issue_ok h]
  dsimp only
  rw [if_pos bad]

theorem mrelease_gated (h : Issues s n g [] i b lc) (cnt : Option Cnt) :
    exec (.mrelease n g cnt) s = .next (headgate s n i b [.queue .matrix] (fun s => advance (modCore s n (queueRelease i cnt)) n i 2)) := by
  show Host.Outcome.next (issue ..) = _
  rw [issue_ok h]

/-- Settles O20: an operand that fails a check is turned away by `raiseIssue`, a full queue blocks at the headgate (`headgate_blocks`). -/
theorem engineChecksAndHeadgate : Obligations.EngineChecksAndHeadgate := by
  unfold Obligations.EngineChecksAndHeadgate
  intro s n g i b lc x info
  refine ⟨fun f h bad => mma_turnedAway h (mmaCheck_badA bad ..), fun f h => ⟨wpre_badWord h, wpre_badExtent h⟩,
    fun saOff lines cnt h bad => srelease_turnedAway h cnt bad, fun cnt h full => ?_⟩
  have shut : [Cond.queue .matrix].all (condHolds s n i) = false := by
    rw [List.all_cons, List.all_nil, Bool.and_true]
    exact Bool.eq_false_iff.mpr (mt condHolds_matrixQueue.mp (Nat.not_lt.mpr full))
  obtain ⟨⟨t, ht, only, own⟩, counted⟩ := headgate_blocks (b := b) shut (fun s => advance (modCore s n (queueRelease i cnt)) n i 2)
  injection ht with ht
  exact ⟨t, (mrelease_gated h cnt).trans (congrArg _ ht), only, own, ht ▸ counted⟩

/-! ### An entry joins the matrix queue (R152) -/

/-- An entry has joined the matrix queue of a core: the context that issued it goes on by two words; beside that core only the record of sampled groups and
the counters may differ. -/
def Joins (s : State) (n : CoreIx) (i : CtxIx) (r : Res) (good : MEntry → Prop) (kept : Option Kept) : Prop :=
  ∃ t e, r = .next t ∧ good e ∧ (t.cores[n]).mq = (s.cores[n]).mq ++ [e] ∧ e.ctx = i
    ∧ ctxOf t n i = { ctxOf s n i with pc := (ctxOf s n i).pc + 16 } ∧ (∀ j, j ≠ i → ctxOf t n j = ctxOf s n j) ∧ (∀ m, m ≠ n → t.cores[m] = s.cores[m])
    ∧ t = { s with cores := t.cores, sed := t.sed, cnt := t.cnt } ∧ (t.cores[n]).store = (s.cores[n]).store ∧ (t.cores[n]).kept = kept

/-- A core that has taken an entry into its matrix queue, up to its arrays, lines, pins and preloaded block. -/
structure Takes (c d : Core) (e : MEntry) (kept : Option Kept) : Prop where
  queue : d.mq = c.mq ++ [e]
  kept : d.kept = kept
  ctxs : d.ctx = c.ctx
  store : d.store = c.store

/-- The pins of lines do not matter to that. -/
theorem Takes.of_unpinned {c d d' : Core} {e : MEntry} {kept : Option Kept} (h : Takes c d e kept) (k : unpinned d' = unpinned d) : Takes c d' e kept where
  queue := (congrArg Core.mq k :).trans h.queue
  kept := (congrArg Core.kept k :).trans h.kept
  ctxs := (congrArg Core.ctx k :).trans h.ctxs
  store := (congrArg Core.store k :).trans h.store

/-- A core takes an entry, and the context goes on. -/
theorem joins_advance {v : State} {f : Core → Core} {e : MEntry} {kept : Option Kept} {good : MEntry → Prop} (hv : v = { s with sed := v.sed, cnt := v.cnt })
    (takes : Takes s.cores[n] (f s.cores[n]) e kept) (own : e.ctx = i) (hg : good e) :
    Joins s n i (.next (advance (modCore v n f) n i 2)) good kept := by
  have cores : v.cores = s.cores := (congrArg State.cores hv :)
  have core : (modCore v n f).cores[n] = f s.cores[n] := by rw [modCore_self, cores]
  have ctx : ∀ j, ctxOf (modCore v n f) n j = ctxOf s n j := fun j => by unfold ctxOf; rw [core, takes.ctxs]
  have goes := onlyCtx_advance (modCore v n f) n i 2
  refine ⟨_, e, rfl, hg, ?_, own, ?_, fun j hj => (goes.ctxs j hj).trans (ctx j), fun m hm => ?_, ?_, ?_, ?_⟩
  · rw [show (advance _ n i 2).cores[n] = _ from goes.core, core]; exact takes.queue
  · rw [ctxOf_advance, ctx]; rfl
  · rw [goes.others m hm, modCore_ne _ _ _ _ hm, cores]
  · have fields := congrArg (fun w : State => { w with cores := (advance (modCore v n f) n i 2).cores }) hv
    exact fields
  · rw [show (advance _ n i 2).cores[n] = _ from goes.core, core]; exact takes.store
  · rw [show (advance _ n i 2).cores[n] = _ from goes.core, core]; exact takes.kept

/-! ### MMA (R142, R152, R154 to R157, R163) -/

/-- Lines of A that an MMA reads. -/
def mmaLinesA (b : Bound) (f : MmaF) (a : Word) : Nat × Nat := opLines b.base a (aRows f) (rowBytes f.fmtA f.bxa (aCols f))

/-- Lines of W that an MMA reads. -/
def mmaLinesW (b : Bound) (f : MmaF) (w : Word) : Nat × Nat := opLines b.base w (wShape f.df f.n f.k).1 (rowBytes f.fmtW f.bxw (wShape f.df f.n f.k).2)

/-- The kept output of a core once an MMA has been issued. -/
def keptAfter (i : CtxIx) (f : MmaF) (kept : Option Kept) : Option Kept := if f.drain = .keep then some ⟨i, f.m, f.n⟩ else if f.accIn then none else kept

/-- The job of an MMA joins the matrix queue, and its operand lines are pinned; without a pass they are free again. -/
def mmaJoins (i : CtxIx) (f : MmaF) (la lw : Nat × Nat) (j : MmaJob) (c : Core) : Core :=
  let c := pinLines (pinLines c la.1 la.2) lw.1 lw.2
  let c : Core := { c with mq := c.mq ++ [⟨i, (c.ctx[i]).pc, .mma j⟩], preload := none, kept := keptAfter i f c.kept }
  if j.pIx = j.plan.length then unpinLines (unpinLines c la.1 la.2 f.relA) lw.1 lw.2 f.relW else c

theorem takes_mmaJoins (i : CtxIx) (f : MmaF) (la lw : Nat × Nat) (j : MmaJob) (c : Core) :
    Takes c (mmaJoins i f la lw j c) ⟨i, (c.ctx[i]).pc, .mma j⟩ (keptAfter i f c.kept) := by
  let d : Core := { pinLines (pinLines c la.1 la.2) lw.1 lw.2 with mq := c.mq ++ [⟨i, (c.ctx[i]).pc, .mma j⟩], preload := none, kept := keptAfter i f c.kept }
  have taken : Takes c d ⟨i, (c.ctx[i]).pc, .mma j⟩ (keptAfter i f c.kept) := ⟨rfl, rfl, rfl, rfl⟩
  unfold mmaJoins
  dsimp only
  split
  · exact taken.of_unpinned ((unpinned_unpinLines ..).trans (unpinned_unpinLines ..))
  · exact taken

/-- What a job takes over from its MMA as it is issued: the fields, the operand words, the slots, the chain and the fold over the arrays in service. -/
structure JobOf (s : State) (n : CoreIx) (i : CtxIx) (b : Bound) (f : MmaF) (a w mask out : Word) (ch : Chain) (j : MmaJob) : Prop where
  fields : j.f = f
  wordA : j.a = a
  wordW : j.w = w
  wordOut : j.out = out
  slots : j.slots = (ctxOf s n i).b
  chain : j.chain = ch
  arrays : j.arrays = arraysOf s.cores[n]
  plan : j.plan = foldPlan f (liveRows f s.cores[n] b.base mask) (arraysOf s.cores[n]).length

theorem queueMma_eq (s : State) (n : CoreIx) (i : CtxIx) (b : Bound) (f : MmaF) (a w mask out : Word) (ch : Chain) :
    ∃ j ord, JobOf s n i b f a w mask out ch j
      ∧ queueMma s n i b f a w mask out ch
        = modCore (countP (modSed s (fun x => { x with matOrd := ord })) b.part 2 1) n (mmaJoins i f (mmaLinesA b f a) (mmaLinesW b f w) j) :=
  ⟨_, _, ⟨rfl, rfl, rfl, rfl, rfl, rfl, rfl, rfl⟩, rfl⟩

/-- What the headgate of an MMA waits for (R161). -/
def mmaGate (b : Bound) (f : MmaF) (a w mask : Word) : List Cond :=
  let lm := extentLines b.base mask.toNat (mask.toNat + ceilDiv (aRows f) 8)
  [.queue .matrix, .lines (mmaLinesW b f w).1 (mmaLinesW b f w).2, .lines (mmaLinesA b f a).1 (mmaLinesA b f a).2]
    ++ (if f.mask = .bitmap then [.lines lm.1 lm.2] else []) ++ (if f.drain = .keep ∧ !f.accIn then [.keptFree] else [])

section
variable {f : MmaF} {ch : Chain} {a w mask out : Word}

/-- The chain that an MMA takes along, by its drain path (R142, R179, R193). -/
def TakesChain (s : State) (n : CoreIx) (i : CtxIx) (b : Bound) (lc : LCoreE) (f : MmaF) (out : Word) (ch : Chain) : Prop :=
  match f.drain with
  | .direct => ∀ im, (s.parts[b.part]).image = some im →
      chainChecks im lc (chainNow s.cores[n] (bankOf s.cores[n] i) f.chain.val) f.chain.val (ctxOf s n i).b out f.m f.n none false = .ok ch
  | .flume => lc.flumeDepth ≠ 0 ∧ ch = (chainNow s.cores[n] (bankOf s.cores[n] i) f.chain.val).getD chainZero
  | _ => ch = chainZero

/-- The chain of an MMA at its issue, or the check that it fails (R142, R193). -/
def mmaChain (s : State) (n : CoreIx) (i : CtxIx) (lc : LCoreE) (im : Image) (f : MmaF) (out : Word) : Except IssueFault Chain :=
  let ch := chainNow s.cores[n] (bankOf s.cores[n] i) f.chain.val
  match f.drain with
  | .direct => chainChecks im lc ch f.chain.val (ctxOf s n i).b out f.m f.n none false
  | .flume => if lc.flumeDepth = 0 then .error (veFault 6 0 0) else .ok (ch.getD chainZero)
  | _ => .ok chainZero

theorem mmaChain_ok {im : Image} (image : (s.parts[b.part]).image = some im) (takes : TakesChain s n i b lc f out ch) : mmaChain s n i lc im f out = .ok ch := by
  unfold TakesChain at takes
  unfold mmaChain
  cases hd : f.drain with
  | direct => rw [hd] at takes; exact takes im image
  | flume =>
    rw [hd] at takes
    obtain ⟨deep, rfl⟩ := takes
    exact if_neg deep
  | keep => rw [hd] at takes; exact congrArg _ takes.symm
  | raw => rw [hd] at takes; exact congrArg _ takes.symm

/-- An MMA that passes its checks and the headgate is queued. -/
theorem mma_queued (h : Issues s n g (mmaUses f) i b lc) (ha : rd (ctxOf s n i) f.saA = a) (hw : rd (ctxOf s n i) f.saW = w)
    (hm : rd (ctxOf s n i) f.saMask = mask) (ho : rd (ctxOf s n i) f.saOut = out) (pass : mmaCheck s.cores[n] i lc f a w mask out = none)
    (takes : TakesChain s n i b lc f out ch) (holds : (mmaGate b f a w mask).all (condHolds s n i) = true) :
    exec (.mma n g f) s = .next (advance (queueMma s n i b f a w mask out ch) n i 2) := by
  obtain ⟨im, image⟩ := image_of_lcoreE h.plan
  subst ha hw hm ho
  show Host.Outcome.next (issue ..) = _
  rw [issue_ok h]
  dsimp only
  rw [pass, image]
  show Host.Outcome.next (match mmaChain s n i lc im f (rd (ctxOf s n i) f.saOut) with
    | .error e => raiseIssue s n i e
    | .ok ch => headgate s n i b (mmaGate b f _ _ _) (fun s => advance (queueMma s n i b f _ _ _ _ ch) n i 2)) = _
  rw [mmaChain_ok image takes]
  exact congrArg _ (headgate_goes holds _)

theorem mmaGate_open (room : (s.cores[n]).mq.length < 8) (linesW : condHolds s n i (.lines (mmaLinesW b f w).1 (mmaLinesW b f w).2) = true)
    (linesA : condHolds s n i (.lines (mmaLinesA b f a).1 (mmaLinesA b f a).2) = true)
    (bitmap : f.mask = .bitmap → let lm := extentLines b.base mask.toNat (mask.toNat + ceilDiv (aRows f) 8); condHolds s n i (.lines lm.1 lm.2) = true)
    (free : f.drain = .keep → f.accIn = false → condHolds s n i .keptFree = true) : (mmaGate b f a w mask).all (condHolds s n i) = true := by
  unfold mmaGate
  rw [List.all_append, List.all_append, Bool.and_eq_true, Bool.and_eq_true]
  refine ⟨⟨?_, ?_⟩, ?_⟩
  · simp only [List.all_cons, List.all_nil, condHolds_matrixQueue.mpr room, linesW, linesA, Bool.and_self]
  · split
    · next hm => simpa using bitmap hm
    · rfl
  · split
    · next hk => simpa using free hk.1 (by simpa using hk.2)
    · rfl

end

/-! ### WPRE and MRELEASE (R157, R159) -/

section
variable {f : WpreF}

/-- The weights of a WPRE are pinned, and noted as preloaded for the next MMA. -/
def wpreJoins (i : CtxIx) (b : Bound) (f : WpreF) (w : Word) (c : Core) : Core :=
  let l := opLines b.base w (wShape f.df f.n f.k).1 (rowBytes f.fmtW f.bxw (wShape f.df f.n f.k).2)
  { pinLines c l.1 l.2 with mq := c.mq ++ [⟨i, (c.ctx[i]).pc, .wpre f w false⟩], preload := some ⟨b.part, b.lcore, w, f.df, f.fmtW, f.bxw, f.n, f.k⟩ }

theorem wpre_queued (h : Issues s n g [f.saW] i b lc) (good : wordBad (rd (ctxOf s n i) f.saW) = false)
    (short : extentBad lc (rd (ctxOf s n i) f.saW) (wShape f.df f.n f.k).1 (rowBytes f.fmtW f.bxw (wShape f.df f.n f.k).2) = false)
    (room : (s.cores[n]).mq.length < 8)
    (present : let l := opLines b.base (rd (ctxOf s n i) f.saW) (wShape f.df f.n f.k).1 (rowBytes f.fmtW f.bxw (wShape f.df f.n f.k).2)
      condHolds s n i (.lines l.1 l.2) = true) :
    exec (.wpre n g f) s = .next (advance (modCore s n (wpreJoins i b f (rd (ctxOf s n i) f.saW))) n i 2) := by
  show Host.Outcome.next (issue ..) = _
  rw [issue_ok h]
  dsimp only at present ⊢
  rw [if_neg (by rw [good]; exact Bool.false_ne_true), if_neg (by rw [short]; exact Bool.false_ne_true), headgate_goes]
  · rfl
  · simp only [List.all_cons, List.all_nil, condHolds_matrixQueue.mpr room, present, Bool.and_self]

end

/-- Settles O17: once an instruction passes, its core takes the entry (`Takes`) and its context goes on (`joins_advance`). -/
theorem matrixInstructionsQueue : Obligations.MatrixInstructionsQueue := by
  unfold Obligations.MatrixInstructionsQueue
  intro s n g i b lc x c lines queued
  refine ⟨fun f h ch pass chain room linesW linesA bitmap free => ?_, fun f h good short room present => ?_, fun cnt h room => ?_⟩
  · obtain ⟨j, ord, job, joined⟩ := queueMma_eq s n i b f (rd x f.saA) (rd x f.saW) (rd x f.saMask) (rd x f.saOut) ch
    show Joins s n i _ _ _
    rw [mma_queued h rfl rfl rfl rfl pass chain (mmaGate_open room linesW linesA bitmap free), joined]
    exact joins_advance rfl (takes_mmaJoins ..) rfl ⟨j, rfl, job.fields, job.wordA, job.wordW, job.wordOut, job.slots, job.chain, job.arrays, job.plan⟩
  · show Joins s n i _ _ _
    rw [wpre_queued h good short room present]
    exact joins_advance rfl ⟨rfl, rfl, rfl, rfl⟩ rfl rfl
  · show Joins s n i _ _ _
    rw [mrelease_gated h, headgate_goes (by simpa using condHolds_matrixQueue.mpr room)]
    exact joins_advance rfl ⟨rfl, rfl, rfl, rfl⟩ rfl rfl

end Sys2Proof.Machine
end

section
/-! What a pass of the arrays, a weight preload and an idle array leave behind (O21). -/

namespace Sys2Proof.Machine

variable {s t u : State} {n : CoreIx}

/-! ### What a view shows of the arrays -/

/-- What a view shows of each array of a core. -/
def arrView {β : Type} (view : Arr → β) (c : Core) : Vector β 4 := c.arrays.map view

/-- The two halves of an array. -/
def halvesOf (a : Arr) : Half × Half := (a.half0, a.half1)

/-- The terms in the two halves of an array. -/
def accsOf (a : Arr) : Tbl AccE × Tbl AccE := (a.half0.acc, a.half1.acc)

theorem modArr_self (c : Core) (a : Fin 4) (g : Arr → Arr) : (modArr c a g).arrays[a] = g c.arrays[a] := getElem_set_self' ..

theorem modArr_ne (c : Core) {a k : Fin 4} (h : a ≠ k) (g : Arr → Arr) : (modArr c k g).arrays[a] = c.arrays[a] := getElem_set_ne' _ _ _ _ h

section
variable {β : Type} {view : Arr → β} {c d : Core}

theorem arrView_iff : arrView view c = arrView view d ↔ ∀ a : Fin 4, view c.arrays[a] = view d.arrays[a] := by
  have entry : ∀ (c : Core) (a : Fin 4), (arrView view c)[a] = view c.arrays[a] := fun c a => Vector.getElem_map ..
  refine ⟨fun h a => ?_, fun h => Vector.ext fun a ha => ?_⟩
  · rw [← entry, ← entry, h]
  · exact (entry c ⟨a, ha⟩).trans ((h ⟨a, ha⟩).trans (entry d ⟨a, ha⟩).symm)

theorem arrView_modArr {g : Arr → Arr} (hg : ∀ a, view (g a) = view a) (c : Core) (k : Fin 4) : arrView view (modArr c k g) = arrView view c := by
  refine arrView_iff.mpr fun a => ?_
  by_cases h : a = k
  · rw [h, modArr_self, hg]
  · rw [modArr_ne c h]

theorem arrView_modArrs {g : Nat → Arr → Arr} (hg : ∀ nb a, view (g nb a) = view a) (c : Core) (l : List (Nat × Nat)) :
    arrView view (modArrs c l g) = arrView view c := by
  refine foldl_keeps (arrView view) (fun c x => ?_) ..
  dsimp only
  split
  · rfl
  · exact arrView_modArr (hg x.1) ..

theorem arrView_modHalf {g : Half → Half} (h0 : ∀ a, view { a with half0 := g a.half0 } = view a) (h1 : ∀ a, view { a with half1 := g a.half1 } = view a)
    (c : Core) (arr h : Nat) : arrView view (modHalf c arr h g) = arrView view c := by
  unfold modHalf
  split
  · rfl
  · refine arrView_modArr (fun a => ?_) ..
    split
    · exact h0 a
    · exact h1 a

end

theorem keptHeld_congr {c d : Core} (h : arrView halvesOf c = arrView halvesOf d) : keptHeld c = keptHeld d := by
  have same : ∀ k : Fin 4, (c.arrays[k]).half1 = (d.arrays[k]).half1 := fun k => congrArg Prod.snd (arrView_iff.mp h k)
  unfold keptHeld
  simp only [same]

/-! ### What feeding leaves of a core (R134, R151, R163) -/

/-- A core without its arrays, lines and pins. -/
def unfed (c : Core) : Core := unpinned (unarrayed c)

theorem unfed_of_unarrayed {c d : Core} (h : unarrayed c = unarrayed d) : unfed c = unfed d := congrArg unpinned h

theorem unfed_of_unpinned {c d : Core} (h : unpinned c = unpinned d) : unfed c = unfed d :=
  show unarrayed (unpinned c) = unarrayed (unpinned d) from congrArg unarrayed h

theorem chainData_of_unfed {c d : Core} (h : unfed c = unfed d) : chainData c = chainData d :=
  show chainData (unfed c) = chainData (unfed d) from congrArg chainData h

theorem queue_of_unfed {c d : Core} (h : unfed c = unfed d) : c.mq = d.mq ∧ c.kept = d.kept :=
  ⟨show (unfed c).mq = (unfed d).mq from congrArg Core.mq h, show (unfed c).kept = (unfed d).kept from congrArg Core.kept h⟩

theorem arrView_of_unpinned {β : Type} {c d : Core} (h : unpinned c = unpinned d) (view : Arr → β) : arrView view c = arrView view d :=
  show arrView view (unpinned c) = arrView view (unpinned d) from congrArg (arrView view) h

theorem unpinned_unpinW (c : Core) (base : Nat) (j : MmaJob) (rw : Bool) : unpinned (unpinW c base j rw) = unpinned c := by
  unfold unpinW
  split
  · exact unpinned_unpinLines ..
  · rfl

theorem unpinned_unpinJob (c : Core) (base : Nat) (j : MmaJob) (ra rw : Bool) : unpinned (unpinJob c base j ra rw) = unpinned c :=
  (unpinned_unpinW ..).trans (unpinned_unpinLines ..)

/-- A load writes shadow registers only. -/
theorem loadPass_frame (c : Core) (base : Nat) (j : MmaJob) (ix : Nat) :
    unarrayed (loadPass c base j ix) = unarrayed c ∧ arrView halvesOf (loadPass c base j ix) = arrView halvesOf c := by
  unfold loadPass
  split
  · refine ⟨unarrayed_modArrs .., arrView_modArrs ?_ ..⟩
    exact fun _ _ => rfl
  · exact ⟨rfl, rfl⟩

theorem unarrayed_startPass (c : Core) (j : MmaJob) : unarrayed (startPass c j) = unarrayed c := by
  unfold startPass
  split
  · exact unarrayed_modArrs ..
  · rfl

theorem unarrayed_feed (c : Core) (base : Nat) (j : MmaJob) (kb : Nat) (first : Bool) (ts : List Tile) : unarrayed (feed c base j kb first ts) = unarrayed c :=
  foldl_keeps unarrayed (fun _ _ => unarrayed_modHalf ..) ..

/-- A job with the fields, the arrays, the plan and the places in it of another. -/
structure SameFold (j j2 : MmaJob) : Prop where
  fields : j2.f = j.f
  arrays : j2.arrays = j.arrays
  plan : j2.plan = j.plan
  pass : j2.pIx = j.pIx
  drain : j2.dIx = j.dIx

theorem SameFold.refl (j : MmaJob) : SameFold j j := ⟨rfl, rfl, rfl, rfl, rfl⟩

theorem SameFold.trans {j j2 j3 : MmaJob} (h : SameFold j j2) (k : SameFold j2 j3) : SameFold j j3 :=
  ⟨k.fields.trans h.fields, k.arrays.trans h.arrays, k.plan.trans h.plan, k.pass.trans h.pass, k.drain.trans h.drain⟩

/-- A tile that opens changes a half of an array; its job goes on with its fold. -/
theorem openTile_frame {c c' : Core} {j j' : MmaJob} {tiles : List Tile} {mg nb arr hold : Nat} {idle : Bool} {x : Tile}
    (h : openTile c j tiles mg nb arr hold idle = some (c', j', x)) : unarrayed c' = unarrayed c ∧ SameFold j j' := by
  unfold openTile at h
  split at h
  · cases h; exact ⟨rfl, .refl j⟩
  · split at h
    · split at h
      · nomatch h
      · dsimp only at h
        split at h
        · cases h; exact ⟨unarrayed_modHalf .., .refl j⟩
        · split at h
          · cases h; exact ⟨unarrayed_modHalf .., .refl j⟩
          · nomatch h
    · split at h
      · nomatch h
      · cases h; exact ⟨unarrayed_modHalf .., rfl, rfl, rfl, rfl, rfl⟩

/-- So it is when all tiles of a pass open. -/
theorem openTiles_frame {mg hold : Nat} {l : List (Nat × Nat)} {c c' : Core} {j j' : MmaJob} {ts : List Tile}
    (h : openTiles c j false mg hold l = some (c', j', ts)) :
    unarrayed c' = unarrayed c ∧ SameFold j j' := by
  induction l generalizing c j ts with
  | nil => cases h; exact ⟨rfl, .refl _⟩
  | cons x rest ih =>
    unfold openTiles at h
    simp only [Bool.false_eq_true, if_false] at h
    split at h
    · nomatch h
    · next c1 j1 x1 opened =>
      split at h
      · nomatch h
      · next c2 j2 ts2 others =>
        cases h
        obtain ⟨core1, fold1⟩ := openTile_frame opened
        obtain ⟨core2, fold2⟩ := ih others
        refine ⟨core2.trans core1, fold1.trans (SameFold.trans ?_ fold2)⟩
        split
        · exact .refl _
        · exact ⟨rfl, rfl, rfl, rfl, rfl⟩

/-! ### The job of an entry of the queue -/

theorem setJob_setJob (c : Core) (k : Nat) (j j2 : MmaJob) : setJob (setJob c k j) k j2 = setJob c k j2 :=
  congrArg (fun q => { c with mq := q }) (List.modify_modify_eq ..)

theorem setJob_self {c : Core} {k : Nat} {e : MEntry} {j : MmaJob} (he : c.mq[k]? = some e) (hk : e.kind = .mma j) : setJob c k j = c := by
  have queue : c.mq.modify k (fun e => { e with kind := .mma j }) = c.mq := by
    refine List.ext_getElem? fun m => ?_
    by_cases h : k = m
    · subst h
      rw [List.getElem?_modify_eq, he, ← hk]
      rfl
    · rw [List.getElem?_modify_ne _ _ h]
  unfold setJob
  rw [queue]

theorem unfed_setJob {c d : Core} (h : unfed c = unfed d) (k : Nat) (j : MmaJob) : unfed (setJob c k j) = unfed (setJob d k j) :=
  show setJob (unfed c) k j = setJob (unfed d) k j from congrArg (setJob · k j) h

/-- What a load leaves behind: the job of the entry notes it, the halves of the arrays stay. -/
structure Loaded (s : State) (n : CoreIx) (k : Nat) (j : MmaJob) (t : State) (j2 : MmaJob) : Prop where
  beside : besideQueue n t = besideQueue n s
  core : unfed t.cores[n] = unfed (setJob s.cores[n] k j2)
  halves : arrView halvesOf t.cores[n] = arrView halvesOf s.cores[n]
  fold : SameFold j j2
  placed : j2.placed = j.placed

/-- A changed core with a changed job, as `Loaded` has them. -/
theorem loaded_modCore {k : Nat} {j j2 : MmaJob} {c : Core} (core : unfed c = unfed s.cores[n]) (halves : arrView halvesOf c = arrView halvesOf s.cores[n])
    (fold : SameFold j j2) (placed : j2.placed = j.placed) : Loaded s n k j (modCore s n (fun _ => setJob c k j2)) j2 where
  beside := besideQueue_modCore (show chainData c = _ from chainData_of_unfed core)
  core := by rw [modCore_self]; exact unfed_setJob core ..
  halves := by rw [modCore_self]; exact halves
  fold := fold
  placed := placed

theorem loaded_loadNext {k : Nat} {j : MmaJob} (holds : setJob s.cores[n] k j = s.cores[n]) (p : PartIx) (base : Nat) :
    Loaded s n k j (loadNext s n k p base j).1 (loadNext s n k p base j).2 := by
  let c := if preloaded s.cores[n] base j then s.cores[n] else loadPass s.cores[n] base j j.pIx
  have loads : unarrayed c = unarrayed s.cores[n] ∧ arrView halvesOf c = arrView halvesOf s.cores[n] := by
    show unarrayed (if _ then _ else _) = _ ∧ arrView halvesOf (if _ then _ else _) = _
    split
    · exact ⟨rfl, rfl⟩
    · exact loadPass_frame ..
  unfold loadNext
  split
  · exact ⟨rfl, congrArg unfed holds.symm, rfl, .refl j, rfl⟩
  · refine loaded_modCore ?_ ?_ ⟨rfl, rfl, rfl, rfl, rfl⟩ rfl
    · split
      · exact (unfed_of_unpinned (unpinned_unpinW ..)).trans (unfed_of_unarrayed loads.1)
      · exact unfed_of_unarrayed loads.1
    · split
      · exact (arrView_of_unpinned (unpinned_unpinW ..) _).trans loads.2
      · exact loads.2

/-- The job goes to its next pass, and its blocks load. -/
theorem loaded_finish (k : Nat) (p : PartIx) (j : MmaJob) (base : Nat) :
    ∃ j2, Loaded s n k j (onePass.finish n k p s j base) j2 := by
  let j' : MmaJob := { j with ahead := false }
  unfold onePass.finish
  dsimp only
  split
  · have stands : Loaded s n k j (modCore s n (fun c => setJob c k j')) j' := loaded_modCore (c := s.cores[n]) rfl rfl ⟨rfl, rfl, rfl, rfl, rfl⟩ rfl
    have loads := loaded_loadNext (s := modCore s n (fun c => setJob c k j')) (n := n) (k := k) (j := j') (by rw [modCore_self, setJob_setJob]) p base
    refine ⟨_, loads.beside.trans stands.beside, ?_, loads.halves.trans stands.halves, stands.fold.trans loads.fold, loads.placed.trans stands.placed⟩
    rw [loads.core, modCore_self, setJob_setJob]
  · exact ⟨_, loaded_modCore (unfed_of_unpinned (unpinned_unpinJob ..)) (arrView_of_unpinned (unpinned_unpinJob ..) _)
      ⟨rfl, rfl, rfl, rfl, rfl⟩ rfl⟩

/-! ### One pass (R149, R151, R154) -/

theorem keepsTile_congr {c d : Core} {k : Nat} (queue : c.mq.drop (k + 1) = d.mq.drop (k + 1)) (kept : c.kept = d.kept) (i : CtxIx) :
    keepsTile c k i = keepsTile d k i := by
  unfold keepsTile keptBy
  rw [queue, kept]

theorem keepsTile_of_unarrayed {c d : Core} (h : unarrayed c = unarrayed d) (k : Nat) (i : CtxIx) : keepsTile c k i = keepsTile d k i :=
  keepsTile_congr (by rw [mq_of_unarrayed h]) (queue_of_unfed (unfed_of_unarrayed h)).2 i

/-- The tiles of an output group once its last pass has been fed: they drain, or stay as the kept output (R154, R157). -/
def tilesFed (k : Nat) (i : CtxIx) (f : MmaF) (c : Core) (ts : List Tile) : Core :=
  ts.foldl (fun c t => modHalf c t.arr t.half (fun h => if f.drain = .keep then keptTile (keepsTile c k i) i h else { h with st := .draining })) c

/-- They keep their terms, unless a kept output is discarded. -/
theorem tilesFed_frame {k : Nat} {i : CtxIx} {f : MmaF} {c : Core} (keeps : f.drain = .keep → keepsTile c k i = true) (ts : List Tile) :
    unarrayed (tilesFed k i f c ts) = unarrayed c ∧ arrView accsOf (tilesFed k i f c ts) = arrView accsOf c := by
  induction ts generalizing c with
  | nil => exact ⟨rfl, rfl⟩
  | cons t ts ih =>
    let g : Half → Half := fun h => if f.drain = .keep then keptTile (keepsTile c k i) i h else { h with st := .draining }
    have terms : ∀ h, (g h).acc = h.acc := fun h => by
      show (if _ then _ else _ : Half).acc = _
      split
      · next hd => rw [keeps hd]; rfl
      · rfl
    have rest : unarrayed (modHalf c t.arr t.half g) = unarrayed c := unarrayed_modHalf ..
    obtain ⟨core, accs⟩ := ih (c := modHalf c t.arr t.half g) (fun hd => (keepsTile_of_unarrayed rest k i).trans (keeps hd))
    refine ⟨core.trans rest, accs.trans (arrView_modHalf (fun a => ?_) (fun a => ?_) ..)⟩
    · show ((g a.half0).acc, _) = _
      rw [terms]; rfl
    · show (_, (g a.half1).acc) = _
      rw [terms]; rfl

/-- The state as a pass begins, once its output group has been drawn for sampling where it is the first of the group (R330), and whether it is
sampled. -/
def drawn (s : State) (n : CoreIx) (p : PartIx) (j : MmaJob) (kb mg : Nat) (blocks : List Nat) : State × Bool :=
  if decide ((groupPasses j.plan mg blocks).head? = some kb) then sampleGroup s n p j j.pIx blocks else (s, false)

/-- A group on the kept output, of a core that keeps an output, of one array, or after its first pass, is not sampled (R331). -/
theorem drawn_unsampled {j : MmaJob} {mg kb : Nat} {blocks : List Nat}
    (h : onKept j.f = true ∨ keptHeld s.cores[n] = true ∨ j.arrays.length < 2 ∨ (groupPasses j.plan mg blocks).head? ≠ some kb) (p : PartIx) :
    ∃ s1, drawn s n p j kb mg blocks = (s1, false) ∧ quiet s1 = quiet s := by
  unfold drawn
  split
  · next first =>
    have unfit : (onKept j.f || keptHeld s.cores[n] || decide (j.arrays.length < 2)) = true := by
      simp only [Bool.or_eq_true, decide_eq_true_eq]
      rcases h with kept | held | few | later
      · exact .inl (.inl kept)
      · exact .inl (.inr held)
      · exact .inr few
      · exact absurd (of_decide_eq_true first) later
    exact ⟨_, if_pos unfit, quiet_ineligible ..⟩
  · exact ⟨_, rfl, rfl⟩

/-- The core once a pass has been fed: after the last pass of its output group the tiles are complete. -/
def fedCore (c : Core) (base k : Nat) (i : CtxIx) (j : MmaJob) (mg kb : Nat) (blocks : List Nat) (ts : List Tile) : Core :=
  let fed := feed c base j kb (decide ((groupPasses j.plan mg blocks).head? = some kb)) ts
  if decide ((groupPasses j.plan mg blocks).getLast? = some kb) then tilesFed k i j.f fed ts else fed

theorem fedCore_frame {c : Core} {k : Nat} {i : CtxIx} {j : MmaJob} (keeps : j.f.drain = .keep → keepsTile c k i = true) (base mg kb : Nat)
    (blocks : List Nat) (ts : List Tile) :
    unarrayed (fedCore c base k i j mg kb blocks ts) = unarrayed c
      ∧ arrView accsOf (fedCore c base k i j mg kb blocks ts)
        = arrView accsOf (feed c base j kb (decide ((groupPasses j.plan mg blocks).head? = some kb)) ts) := by
  have rest := unarrayed_feed c base j kb (decide ((groupPasses j.plan mg blocks).head? = some kb)) ts
  unfold fedCore
  dsimp only
  split
  · obtain ⟨core, accs⟩ := tilesFed_frame (fun hd => (keepsTile_of_unarrayed rest k i).trans (keeps hd)) ts
    exact ⟨core.trans rest, accs⟩
  · exact ⟨rest, rfl⟩

/-- A pass of a group that is not sampled, whose tiles open: they are fed, and the job goes to its next pass. -/
theorem onePass_feeds {k : Nat} {e : MEntry} {j lj j' : MmaJob} {p : PartIx} {b : Bound} {ls s1 : State} {mg kb : Nat} {blocks : List Nat} {c' : Core} {ts : List Tile}
    (hb : boundOf s.cores[n] e.ctx = some b) (hl : loadNext s n k p b.base j = (ls, lj)) (hp : lj.plan[lj.pIx]? = some (.pass mg kb blocks))
    (hd : drawn ls n p lj kb mg blocks = (s1, false)) (opens : openTiles (startPass ls.cores[n] lj) lj false mg 0 blocks.zipIdx = some (c', j', ts))
    (same : lj.plan = j'.plan) :
    onePass s n k e j p = onePass.finish n k p
      (modCore (countG (countP s1 p 3 (passMacs j' mg kb blocks)) 2 (passMacs j' mg kb blocks)) n (fun _ => fedCore c' b.base k e.ctx j' mg kb blocks ts))
      { j' with pIx := nextPass j'.plan (j'.pIx + 1) } b.base := by
  have base : baseOf s.cores[n] e.ctx = b.base := by unfold baseOf; rw [hb]
  unfold drawn at hd
  unfold onePass
  rw [base]
  dsimp only
  rw [hl]
  dsimp only
  rw [hp]
  dsimp only
  rw [hd]
  dsimp only
  rw [if_neg Bool.false_ne_true, opens, same]
  rfl

/-- What a pass leaves of the arrays and the queue of a core: its terms have entered the tiles, and its job stands at the next pass of its plan. -/
def PassDone (c : Core) (k : Nat) (j j' : MmaJob) (fed : Core) (d : Core) : Prop :=
  (∀ a : Fin 4, d.arrays[a].half0.acc = fed.arrays[a].half0.acc ∧ d.arrays[a].half1.acc = fed.arrays[a].half1.acc)
  ∧ ∃ j2, d.mq = c.mq.modify k (fun e => { e with kind := .mma j2 }) ∧ j2.plan = j.plan ∧ j2.pIx = nextPass j.plan (j.pIx + 1)
      ∧ j2.f = j.f ∧ j2.dIx = j.dIx ∧ j2.placed = j'.placed

/-- Waking the contexts of a core leaves its arrays and its queue. -/
theorem PassDone.of_onlyCore {c fed : Core} {k : Nat} {j j' : MmaJob} (h : PassDone c k j j' fed u.cores[n]) (only : OnlyCore u t n) :
    PassDone c k j j' fed t.cores[n] := by
  rw [only.core]
  exact h

/-- The entry whose turn it is, with a pass left. -/
theorem of_passEntry {c : Core} {k : Nat} {e : MEntry} {j : MmaJob} (h : passEntry c = some (k, e, j)) : c.mq[k]? = some e ∧ e.kind = .mma j := by
  unfold passEntry at h
  split at h
  · next k' e' turn =>
    split at h
    · next j' kind =>
      split at h
      · cases h; exact ⟨getElem?_of_passTurn turn, kind⟩
      · nomatch h
    · nomatch h
  · nomatch h

section
variable {k : Nat} {e : MEntry} {j j' : MmaJob} {b : Bound} {mg kb : Nat} {blocks : List Nat} {c' : Core} {ts : List Tile}

/-- The terms of a pass of a group that is not sampled have entered its tiles, the job stands at its next pass, and nothing beside the queue of the core
has changed. -/
theorem onePass_passes (he : (s.cores[n]).mq[k]? = some e) (hk : e.kind = .mma j) (hb : boundOf s.cores[n] e.ctx = some b)
    (hp : j.plan[j.pIx]? = some (.pass mg kb blocks))
    (unsampled : onKept j.f = true ∨ keptHeld s.cores[n] = true ∨ j.arrays.length < 2 ∨ (groupPasses j.plan mg blocks).head? ≠ some kb)
    (keeps : j.f.drain = .keep → keepsTile s.cores[n] k e.ctx = true)
    (opens : let l := loadNext s n k b.part b.base j
      openTiles (startPass l.1.cores[n] l.2) l.2 false mg 0 blocks.zipIdx = some (c', j', ts)) :
    besideQueue n (onePass s n k e j b.part) = besideQueue n s
      ∧ PassDone s.cores[n] k j j' (feed c' b.base j' kb (decide ((groupPasses j.plan mg blocks).head? = some kb)) ts) (onePass s n k e j b.part).cores[n] := by
  have loads := loaded_loadNext (setJob_self he hk) b.part b.base
  generalize hl : loadNext s n k b.part b.base j = l at loads opens
  obtain ⟨ls, lj⟩ := l
  obtain ⟨opened, folds⟩ := openTiles_frame opens
  have fold : SameFold j j' := loads.fold.trans folds
  have stands : lj.plan[lj.pIx]? = some (.pass mg kb blocks) := by rw [loads.fold.plan, loads.fold.pass]; exact hp
  obtain ⟨s1, drew, still⟩ := drawn_unsampled (s := ls) (n := n) (j := lj) (mg := mg) (kb := kb) (blocks := blocks)
    (by rw [loads.fold.fields, loads.fold.arrays, loads.fold.plan, keptHeld_congr loads.halves]; exact unsampled) b.part
  rw [onePass_feeds hb hl stands drew opens folds.plan.symm, ← fold.plan]
  let c2 := fedCore c' b.base k e.ctx j' mg kb blocks ts
  let v := countG (countP s1 b.part 3 (passMacs j' mg kb blocks)) 2 (passMacs j' mg kb blocks)
  have counted : quiet v = quiet ls := (quiet_countG ..).trans ((quiet_countP ..).trans still)
  have fresh : unarrayed c' = unarrayed ls.cores[n] := opened.trans (unarrayed_startPass ..)
  obtain ⟨queue, kept⟩ := queue_of_unfed loads.core
  have keptOn : j'.f.drain = .keep → keepsTile c' k e.ctx = true := fun hd => by
    rw [keepsTile_of_unarrayed fresh, ← keeps (fold.fields ▸ hd)]
    exact keepsTile_congr (d := s.cores[n]) (by rw [queue]; exact List.drop_modify_of_lt _ _ _ _ (Nat.lt_succ_self k)) kept _
  obtain ⟨rest, accs⟩ := fedCore_frame keptOn b.base mg kb blocks ts
  have besideFed : besideQueue n (modCore v n (fun _ => c2)) = besideQueue n s := by
    refine (besideQueue_modCore ?_).trans ((besideQueue_of_quiet counted).trans loads.beside)
    rw [cores_of_quiet counted]
    exact chainData_of_unarrayed (rest.trans fresh)
  obtain ⟨j2, done⟩ := loaded_finish (s := modCore v n (fun _ => c2)) (n := n) k b.part { j' with pIx := nextPass j'.plan (j'.pIx + 1) } b.base
  have finished := (queue_of_unfed done.core).1
  have terms := done.halves
  rw [modCore_self] at finished terms
  refine ⟨done.beside.trans besideFed, fun a => ?_, j2, ?_, done.fold.plan.trans fold.plan, ?_, done.fold.fields.trans fold.fields,
    done.fold.drain.trans fold.drain, done.placed⟩
  · have same := arrView_iff.mp terms a
    obtain ⟨terms0, terms1⟩ := Prod.mk.inj (arrView_iff.mp accs a)
    exact ⟨(congrArg (fun h : Half × Half => h.1.acc) same).trans terms0, (congrArg (fun h : Half × Half => h.2.acc) same).trans terms1⟩
  · have fedQueue : c2.mq = (setJob s.cores[n] k lj).mq := (mq_of_unarrayed (rest.trans fresh)).trans queue
    refine finished.trans ?_
    show List.modify c2.mq k _ = _
    rw [fedQueue]
    exact List.modify_modify_eq ..
  · rw [done.fold.pass, fold.plan, fold.pass]

end

/-! ### A pass left keeps its MMA at the head of the queue (R152, R165) -/

section
variable {e : MEntry} {j : MmaJob} {mg kb : Nat} {blocks : List Nat}

theorem nextPass_lt {plan : List FoldStep} {x : Nat} (h : plan[x]? = some (.pass mg kb blocks)) : nextPass plan 0 < plan.length := by
  obtain ⟨inside, step⟩ := List.getElem?_eq_some_iff.mp h
  unfold nextPass
  rw [List.drop_zero]
  split
  · next y found =>
    rw [Nat.zero_add]
    exact (List.findIdx?_eq_some_iff_findIdx_eq.mp found).1
  · next none =>
    have never := List.findIdx?_eq_none_iff.mp none _ (List.mem_of_getElem? h)
    nomatch never

theorem openOnly_passes {c : Core} (hq : c.mq.head? = some e) (hk : e.kind = .mma j) (hp : j.plan[j.pIx]? = some (.pass mg kb blocks)) : openOnly c = c := by
  obtain same | ⟨k, e', j', j2, arr, g, turn, kind, opens, -⟩ := openOnly_cases c
  · exact same
  · have first : c.mq.findIdx? loadsLeft = some 0 := by
      obtain ⟨rest, queue⟩ : ∃ rest, c.mq = e :: rest := ⟨_, List.eq_cons_of_mem_head? hq⟩
      have left : loadsLeft e = true := by
        unfold loadsLeft
        simp only [hk, Bool.or_eq_true, decide_eq_true_eq]
        exact .inl (List.getElem?_eq_some_iff.mp hp).1
      rw [queue, List.findIdx?_cons, if_pos left]
    have head : k = 0 ∧ e' = e := by
      unfold passTurn at turn
      rw [first] at turn
      dsimp only at turn
      rw [← List.head?_eq_getElem?, hq] at turn
      cases turn
      exact ⟨rfl, rfl⟩
    rw [head.2, hk] at kind
    cases kind
    simp only [opensOnly, Bool.and_eq_true, decide_eq_true_eq] at opens
    exact absurd opens.1.2 (Nat.ne_of_lt (nextPass_lt hp))

theorem modCore_of_same {f : Core → Core} (h : f s.cores[n] = s.cores[n]) : modCore s n f = s := by
  have cores : s.cores.set n.val (f s.cores[n]) n.isLt = s.cores := by
    rw [h]
    exact Vector.set_getElem_self ..
  unfold modCore
  rw [cores]

/-- Settling the queue then only wakes contexts. -/
theorem onlyCore_settleMq (hq : (s.cores[n]).mq.head? = some e) (hk : e.kind = .mma j) (hp : j.plan[j.pIx]? = some (.pass mg kb blocks)) :
    OnlyCore s (settleMq s n) n := by
  have same : openOnly s.cores[n] = s.cores[n] := openOnly_passes hq hk hp
  have undone : entryDone e = false := by
    have next : FoldStep.pass mg kb blocks ∈ j.plan.drop j.pIx := List.mem_of_getElem? (i := 0) (by rw [List.getElem?_drop, Nat.add_zero, hp])
    unfold entryDone
    simp only [hk]
    exact Bool.and_eq_false_iff.mpr (.inr (congrArg Bool.not (List.any_eq_true.mpr ⟨_, next, rfl⟩)))
  have stands : completeHeads 8 n s = s := by
    simp only [completeHeads, modCore_of_same same, hq, undone, Bool.not_false, if_true]
  unfold settleMq
  rw [stands]
  exact (wake_keeps ..).1

end

theorem matrixPass_settles {k : Nat} {e : MEntry} {j : MmaJob} {b : Bound} (ha : asleep s (coreDom n) = false) (hp : passEntry s.cores[n] = some (k, e, j))
    (hb : boundOf s.cores[n] e.ctx = some b) : exec (.matrixPass n none none) s = .next (settleMq (onePass s n k e j b.part) n) := by
  show execMatrixPass n none none s = _
  simp only [execMatrixPass, matrixCorr, ha, hp, hb, Bool.false_eq_true, if_false, Option.filter_none]

/-- A pass feeds its tiles, and the queue settles; where a pass is left, the head stays as the pass has left it. -/
theorem matrixPass_advances {k : Nat} {e : MEntry} {j j' : MmaJob} {b : Bound} {mg kb : Nat} {blocks : List Nat} {c' : Core} {ts : List Tile}
    (ha : asleep s (coreDom n) = false) (turn : passEntry s.cores[n] = some (k, e, j)) (hb : boundOf s.cores[n] e.ctx = some b)
    (hp : j.plan[j.pIx]? = some (.pass mg kb blocks))
    (unsampled : onKept j.f = true ∨ keptHeld s.cores[n] = true ∨ j.arrays.length < 2 ∨ (groupPasses j.plan mg blocks).head? ≠ some kb)
    (keeps : j.f.drain = .keep → keepsTile s.cores[n] k e.ctx = true)
    (opens : let l := loadNext s n k b.part b.base j
      openTiles (startPass l.1.cores[n] l.2) l.2 false mg 0 blocks.zipIdx = some (c', j', ts)) :
    let fed := feed c' b.base j' kb (decide ((groupPasses j.plan mg blocks).head? = some kb)) ts
    ∃ t u, exec (.matrixPass n none none) s = .next t ∧ t = settleMq u n ∧ besideQueue n t = besideQueue n s ∧ PassDone s.cores[n] k j j' fed u.cores[n]
      ∧ (k = 0 → (∃ g q bs, j.plan[nextPass j.plan (j.pIx + 1)]? = some (.pass g q bs)) → PassDone s.cores[n] k j j' fed t.cores[n]) := by
  intro fed
  obtain ⟨entry, kind⟩ := of_passEntry turn
  obtain ⟨beside, done⟩ := onePass_passes entry kind hb hp unsampled keeps opens
  refine ⟨_, _, matrixPass_settles ha turn hb, rfl, (besideQueue_settleMq ..).trans beside, done, fun first ⟨g, q, bs, next⟩ => ?_⟩
  have ⟨_, j2, queue, plan, pass, _⟩ := done
  have head : ((onePass s n k e j b.part).cores[n]).mq.head? = some { e with kind := .mma j2 } := by
    rw [queue, List.head?_eq_getElem?, ← first, List.getElem?_modify_eq, entry]
    rfl
  exact done.of_onlyCore (onlyCore_settleMq head rfl (by rw [plan, pass]; exact next))

/-! ### A weight preload (R134, R159) -/

theorem val_of_toFin {m x : Nat} {k : Fin m} (h : toFin m x = some k) : k.val = x := by
  unfold toFin at h
  split at h
  · cases h; rfl
  · nomatch h

section
variable {l : List (Nat × Nat)} {f : Nat → Arr → Arr}

theorem modArrs_unnamed {a : Fin 4} (h : ∀ x ∈ l, x.2 ≠ a.val) (c : Core) : (modArrs c l f).arrays[a] = c.arrays[a] := by
  induction l generalizing c with
  | nil => rfl
  | cons x l ih =>
    obtain ⟨other, rest⟩ := List.forall_mem_cons.mp h
    refine (ih rest _).trans ?_
    dsimp only
    split
    · rfl
    · next k hk => exact modArr_ne c (fun same => other (by rw [same, val_of_toFin hk])) _

/-- An array that a list names once takes the change for its N-block. -/
theorem modArrs_named {a : Fin 4} {nb : Nat} (once : (l.map Prod.snd).Nodup) (named : (nb, a.val) ∈ l) (c : Core) :
    (modArrs c l f).arrays[a] = f nb c.arrays[a] := by
  induction l generalizing c with
  | nil => nomatch named
  | cons x l ih =>
    rw [List.map_cons, List.nodup_cons] at once
    rcases List.mem_cons.mp named with rfl | later
    · refine (modArrs_unnamed (fun y hy same => once.1 (List.mem_map.mpr ⟨y, hy, same⟩)) _).trans ?_
      dsimp only
      rw [toFin_of_eq rfl]
      exact modArr_self ..
    · have other : x.2 ≠ a.val := fun same => once.1 (List.mem_map.mpr ⟨_, later, same.symm⟩)
      refine (ih once.2 later _).trans (congrArg (f nb) ?_)
      exact modArrs_unnamed (l := [x]) (fun y hy => by rw [List.mem_singleton.mp hy]; exact other) c

end

theorem arraysOf_nodup (c : Core) : (arraysOf c).Nodup :=
  ((List.nodup_finRange 4).filter _).map Fin.val_injective

/-- The first N-blocks of a WPRE, with the arrays that take them. -/
def wpreBlocks (c : Core) (f : WpreF) : List (Nat × Nat) := (wpreArrays c f).zipIdx.map (fun (a, nb) => (nb, a))

theorem wpreBlocks_once (c : Core) (f : WpreF) : ((wpreBlocks c f).map Prod.snd).Nodup := by
  have arrays : (wpreBlocks c f).map Prod.snd = wpreArrays c f := by
    rw [wpreBlocks, List.map_map]
    exact List.zipIdx_map_fst ..
  rw [arrays]
  exact (arraysOf_nodup c).sublist (List.take_sublist ..)

theorem mem_wpreBlocks {c : Core} {f : WpreF} {a : Fin 4} {nb : Nat} (ha : (arraysOf c)[nb]? = some a.val) (hn : nb < ceilDiv f.n 128) :
    (nb, a.val) ∈ wpreBlocks c f := by
  refine List.mem_map.mpr ⟨(a.val, nb), List.mem_zipIdx_iff_getElem?.mpr ?_, rfl⟩
  rw [wpreArrays, List.getElem?_take_of_lt hn, ha]

/-- A core whose shadow registers hold the blocks of a WPRE, the pins of which have ended. -/
def wpreLoaded (k base : Nat) (f : WpreF) (w : Word) (c : Core) : Core :=
  let l := opLines base w (wShape f.df f.n f.k).1 (rowBytes f.fmtW f.bxw (wShape f.df f.n f.k).2)
  let c := unpinLines (loadShadow c base w f.df f.fmtW f.bxw f.n f.k 0 (wpreBlocks c f)) l.1 l.2 false
  { c with mq := c.mq.modify k (fun e => { e with kind := .wpre f w true }) }

theorem wpreLoaded_frame (k base : Nat) (f : WpreF) (w : Word) (c : Core) :
    chainData (wpreLoaded k base f w c) = chainData c ∧ (wpreLoaded k base f w c).ctx = c.ctx
      ∧ (wpreLoaded k base f w c).mq = c.mq.modify k (fun e => { e with kind := .wpre f w true }) := by
  have core : ∀ lo hi, unfed (unpinLines (loadShadow c base w f.df f.fmtW f.bxw f.n f.k 0 (wpreBlocks c f)) lo hi false) = unfed c :=
    fun lo hi => (unfed_of_unpinned (unpinned_unpinLines ..)).trans (unfed_of_unarrayed (unarrayed_modArrs ..))
  exact ⟨(congrArg chainData (core _ _) :), (congrArg Core.ctx (core _ _) :),
    congrArg (List.modify · k _) (queue_of_unfed (core _ _)).1⟩

theorem wpreLoaded_shadow {c : Core} {f : WpreF} {a : Fin 4} {nb : Nat} (ha : (arraysOf c)[nb]? = some a.val) (hn : nb < ceilDiv f.n 128) (k base : Nat)
    (w : Word) : ((wpreLoaded k base f w c).arrays[a]).shadow = stationary c base w f.df f.fmtW f.bxw f.n f.k 0 nb := by
  have arrays : (wpreLoaded k base f w c).arrays = (loadShadow c base w f.df f.fmtW f.bxw f.n f.k 0 (wpreBlocks c f)).arrays :=
    (congrArg Core.arrays (unpinned_unpinLines ..) :)
  rw [arrays]
  exact congrArg Arr.shadow (modArrs_named (wpreBlocks_once c f) (mem_wpreBlocks ha hn) c)

/-- The entry whose turn it is comes first also among those entries alone that have work of one kind left. -/
theorem findIdx?_of_passTurn {c : Core} {k : Nat} {e : MEntry} {p : MEntry → Bool} (turn : passTurn c = some (k, e)) (own : p e = true)
    (left : ∀ x, p x = true → loadsLeft x = true) : c.mq.findIdx? p = some k := by
  have entry := getElem?_of_passTurn turn
  have first : c.mq.findIdx? loadsLeft = some k := by
    unfold passTurn at turn
    split at turn
    · nomatch turn
    · obtain ⟨e', -, same⟩ := Option.map_eq_some_iff.mp turn
      cases same
      assumption
  obtain ⟨inside, -, before⟩ := List.findIdx?_eq_some_iff_getElem.mp first
  refine List.findIdx?_eq_some_iff_getElem.mpr ⟨inside, ?_, fun x hx => mt (left _) (before x hx)⟩
  rw [(List.getElem?_eq_some_iff.mp entry).2]
  exact own

/-- The WPRE whose turn it is loads its blocks. -/
theorem wpreComplete_settles {k : Nat} {i : CtxIx} {pc : BitVec 40} {f : WpreF} {w : Word} (ha : asleep s (coreDom n) = false)
    (turn : passTurn s.cores[n] = some (k, ⟨i, pc, .wpre f w false⟩)) :
    exec (.wpreComplete n) s = .next (settleMq (modCore s n (wpreLoaded k (baseOf s.cores[n] i) f w)) n) := by
  show execWpreComplete n s = _
  unfold execWpreComplete
  rw [if_neg (by rw [ha]; exact Bool.false_ne_true)]
  dsimp only
  rw [findIdx?_of_passTurn turn rfl (fun x hx => ?_)]
  · dsimp only
    rw [getElem?_of_passTurn turn, turn]
    simp only [Option.map_some, decide_true]
    rfl
  · unfold loadsLeft
    split at hx
    · next kind => rw [kind]; exact hx
    · nomatch hx

/-! ### What the queue keeps as it goes on (R71, R152) -/

section
variable {β : Type} {view : State → β}

/-- What a shorter queue, a freed kept output, a grown counter and notes for sampling keep, a completed head keeps. -/
theorem completeHead_keeps (queued : ∀ s (f : Core → List MEntry), view (modCore s n (fun c => { c with mq := f c })) = view s)
    (freed : ∀ s, view (modCore s n freeKeptHalf) = view s) (counted : ∀ s i k, view (incCnt s n i k) = view s)
    (noted : ∀ s p, view (ineligible s p) = view s) (s : State) : view (completeHead s n) = view s := by
  unfold completeHead
  split
  · rfl
  · next e rest _ =>
    have left : view (modCore s n (fun c => if dupsLeft e then completeHead.markCounted c else { c with mq := rest })) = view s := by
      split
      · exact queued ..
      · exact queued ..
    dsimp only
    split
    · refine ite_keeps view left ((counted ..).trans ?_)
      split
      · exact optional_keeps view (each_keeps view (fun u _ => noted ..) ..) (optional_keeps view (freed _) left)
      · exact optional_keeps view (freed _) left
    · exact (counted ..).trans left
    · exact (counted ..).trans (optional_keeps view (freed _) left)

theorem completeHeads_keeps (opened : ∀ s, view (modCore s n openOnly) = view s) (completed : ∀ s, view (completeHead s n) = view s) (k : Nat) (s : State) :
    view (completeHeads k n s) = view s := by
  induction k generalizing s with
  | zero => rfl
  | succ k ih =>
    unfold completeHeads
    dsimp only
    split
    · exact opened s
    · exact ite_keeps view (opened s) (ite_keeps view ((completed _).trans (opened s)) ((ih _).trans ((completed _).trans (opened s))))

end

/-- The shadow registers of a core. -/
def shadows (n : CoreIx) (s : State) : Vector WBlock 4 := arrView Arr.shadow s.cores[n]

theorem shadows_modCore {f : Core → Core} (hf : arrView Arr.shadow (f s.cores[n]) = arrView Arr.shadow s.cores[n]) : shadows n (modCore s n f) = shadows n s := by
  unfold shadows
  rw [modCore_self, hf]

theorem shadows_of_onlyCore (h : OnlyCore s t n) : shadows n t = shadows n s := by
  unfold shadows
  rw [h.core]
  rfl

theorem shadow_openOnly (c : Core) : arrView Arr.shadow (openOnly c) = arrView Arr.shadow c := by
  obtain same | ⟨k, e, j, j2, arr, g, -, -, -, opened⟩ := openOnly_cases c
  · rw [same]
  · rw [opened]
    show arrView Arr.shadow (modHalf c arr 1 g) = _
    exact arrView_modHalf (fun _ => rfl) (fun _ => rfl) ..

theorem shadow_freeKeptHalf (c : Core) : arrView Arr.shadow (freeKeptHalf c) = arrView Arr.shadow c := by
  refine arrView_iff.mpr fun a => ?_
  have freed : (freeKeptHalf c).arrays[a] = if (c.arrays[a]).half1.st = .kept then { c.arrays[a] with half1 := Half.reset } else c.arrays[a] :=
    Vector.getElem_map ..
  rw [freed]
  split <;> rfl

/-- The queue goes on without a load. -/
theorem shadows_settleMq (s : State) (n : CoreIx) : shadows n (settleMq s n) = shadows n s := by
  have completed : ∀ s, shadows n (completeHead s n) = shadows n s :=
    completeHead_keeps (fun _ _ => shadows_modCore rfl) (fun _ => shadows_modCore (shadow_freeKeptHalf _))
      (fun s i k => shadows_of_onlyCore (onlyCtx_incCnt s n i k).onlyCore) (fun _ _ => rfl)
  exact (shadows_of_onlyCore (wake_keeps _ n).1).trans (completeHeads_keeps (fun _ => shadows_modCore (shadow_openOnly _)) completed 8 s)

/-- Where no entry has a load or feed left, no tile opens. -/
theorem openOnly_idle {c : Core} (h : ∀ e ∈ c.mq, loadsLeft e = false) : openOnly c = c := by
  have none : passTurn c = none := by
    unfold passTurn
    rw [List.findIdx?_eq_none_iff.mpr h]
  unfold openOnly
  rw [none]

theorem completeHeads_empty (h : (s.cores[n]).mq = []) (k : Nat) : completeHeads k n s = s := by
  have idle : modCore s n openOnly = s := modCore_of_same (openOnly_idle (fun e he => absurd (h ▸ he) List.not_mem_nil))
  cases k with
  | zero => rfl
  | succ k => simp only [completeHeads, idle, h, List.head?_nil]

/-- A WPRE that is alone in the queue and has loaded its blocks leaves it, and counts. -/
theorem settleMq_lastWpre {i : CtxIx} {pc : BitVec 40} {f : WpreF} {w : Word} (hq : (s.cores[n]).mq = [⟨i, pc, .wpre f w true⟩]) :
    ((settleMq s n).cores[n]).mq = [] ∧ ∀ q, f.cnt = some q → (ctxOf (settleMq s n) n i).c[q] = (ctxOf s n i).c[q] + 1 := by
  let u := modCore s n (fun c => { c with mq := [] })
  let v := incCnt u n i f.cnt
  have empty : (v.cores[n]).mq = [] := by
    rw [(onlyCtx_incCnt u n i f.cnt).core]
    exact congrArg Core.mq (modCore_self ..)
  have idle : modCore s n openOnly = s := modCore_of_same (openOnly_idle (fun e he => by
    rw [hq, List.mem_singleton] at he
    rw [he]
    rfl))
  have leaves : completeHead s n = v := by
    unfold completeHead
    rw [hq]
    rfl
  have done : entryDone ⟨i, pc, .wpre f w true⟩ = true ∧ dupsLeft ⟨i, pc, .wpre f w true⟩ = false := ⟨rfl, rfl⟩
  have settled : completeHeads 8 n s = v := by
    rw [completeHeads]
    simp only [idle, hq, List.head?_cons, done, Bool.not_true, Bool.false_eq_true, if_false, leaves]
    exact completeHeads_empty empty 7
  obtain ⟨woken, ctxs⟩ := wake_keeps v n
  unfold settleMq
  rw [settled]
  refine ⟨by rw [woken.core]; exact empty, fun q hc => ?_⟩
  rw [counters_of_unwoken (ctxs i)]
  show (ctxOf (incCnt u n i f.cnt) n i).c[q] = _
  rw [hc, counters_incCnt]
  unfold ctxOf
  rw [modCore_self]

/-! ### The obligation -/

theorem arrayIdle_marks (ha : asleep s (coreDom n) = false) (a : Fin 4) :
    exec (.arrayIdle n a) s = .next (modCore s n (fun c => modArr c a (fun x => { x with idle := true }))) := by
  show execArrayIdle n a s = _
  rw [execArrayIdle, if_neg (by rw [ha]; exact Bool.false_ne_true)]

/-- Settles O21: a pass feeds its tiles and settles the queue (`onePass_passes`), where a pass is left the head stays (`onlyCore_settleMq`); a WPRE fills
the shadow registers (`wpreLoaded_shadow`), which the queue keeps as it goes on. -/
theorem matrixArraysAdvance : Obligations.MatrixArraysAdvance := by
  unfold Obligations.MatrixArraysAdvance
  intro s n ha c
  refine ⟨?_, fun k i pc f w turn => ?_, fun a => ?_⟩
  · intro k e j b mg kb blocks c' j' ts turn hb hp unsampled keeps loaded opens fed passed
    obtain ⟨t, u, run, settles, settled, done, next⟩ := matrixPass_advances ha turn hb hp unsampled keeps opens
    obtain ⟨hbm, hall, others⟩ := frame_of_besideCore (Prod.mk.inj settled).1
    exact ⟨t, run, hbm, hall, (of_chainData (Prod.mk.inj settled).2).1, others, ⟨u, settles, done⟩, next⟩
  · let u := modCore s n (wpreLoaded k (baseOf c i) f w)
    obtain ⟨data, ctx, queue⟩ := wpreLoaded_frame k (baseOf c i) f w c
    have settled : besideQueue n (settleMq u n) = besideQueue n s := (besideQueue_settleMq ..).trans (besideQueue_modCore data)
    obtain ⟨hbm, -, -⟩ := frame_of_besideCore (Prod.mk.inj settled).1
    refine ⟨_, wpreComplete_settles ha turn, fun a nb hnb hlt => ?_, fun alone => ?_, (of_chainData (Prod.mk.inj settled).2).1, hbm⟩
    · rw [arrView_iff.mp (shadows_settleMq u n) a, modCore_self]
      exact wpreLoaded_shadow hnb hlt k (baseOf c i) w
    · have entry := getElem?_of_passTurn turn
      have first : k = 0 := by
        have inside := (List.getElem?_eq_some_iff.mp entry).1
        rw [show (s.cores[n]).mq = _ from alone, List.length_singleton] at inside
        omega
      subst first
      have last : (u.cores[n]).mq = [⟨i, pc, .wpre f w true⟩] := by
        rw [modCore_self, queue, alone]
        rfl
      obtain ⟨gone, counts⟩ := settleMq_lastWpre last
      refine ⟨gone, fun q hc => (counts q hc).trans ?_⟩
      unfold ctxOf
      rw [modCore_self, ctx]
  · refine ⟨_, arrayIdle_marks ha a, rfl, fun m hm => modCore_ne _ _ _ _ hm, ?_⟩
    rw [modCore_self]
    rfl

end Sys2Proof.Machine
end
